-- ==== Sys2Proof/Word.lean ====
section
/-!
DEFINITION. The plain widths of the machine (R3, R7 of spec/00_scope.md).
-/

namespace Sys2Proof

/-- R7: a byte is 8 bits. -/
abbrev Byte := BitVec 8

/-- R7: a word is 32 bits. -/
abbrev Word := BitVec 32

/-- R36: a global virtual address has 57 bits. -/
abbrev VAddr := BitVec 57

end Sys2Proof
end

