-- ==== Sys2Proof/Syntax.lean ====
section
/-!
DEFINITION. The instructions and events of the device: one constructor of `Instr` for each row of
spec/opcode_table.json. An encoded row's arguments are the fields of its word, each with its own
width (R105, R118 of spec/04_encoding.md; R353 of spec/11_access_processors.md). A row without an
encoding is a step of an engine, of the host layer or of the package itself: the unit or the waiting
request it acts on stands in the state, as what the present step is about (`Issuer.event`), just as the
gang that issues an instruction word does; a row that brings something in from outside carries it.
Rows with arguments stand first.
-/

namespace Sys2Proof

/-- A message of the Cralia link (R412 of spec/13_links_and_collectives.md): the fields of its
32-byte header, its byte mask and its data. -/
structure Message where
  kind : Nat
  vc : Nat
  dst : Nat
  src : Nat
  ctx : Nat
  line : Nat
  code : Nat
  tag : Nat
  desc : Nat
  epoch : Nat
  arg : Nat
  mask : BitVec 128
  data : List Byte
  deriving DecidableEq, Repr, Inhabited

/-- The report of one storage error (R448 to R451 of spec/14_host_power_bringup.md): the structure,
die, reticle field, unit, location and syndrome that an error record carries, and the number of the
operation or warp it touches. -/
structure ErrorReport where
  struct : Nat
  die : Nat
  field : Nat
  unit : Nat
  loc : Nat
  syndrome : Nat
  target : Nat
  deriving DecidableEq, Repr, Inhabited

/-- One constructor for each row of spec/opcode_table.json. -/
inductive Instr where
  /-- BRA, R140. Sets each slice's program counter to the relative target. -/
  | bra (o : BitVec 24)
  /-- BRC, R141. Branches the lanes whose guard is true and pushes a pending entry when a slice's lanes diverge. -/
  | brc (o : BitVec 24)
  /-- BRI, R142. Branches to a per-lane register target, sending the lanes that agree with the lowest active lane first and stacking the rest. -/
  | bri (h : BitVec 2) (a : BitVec 7)
  /-- CALL, R140. Pushes a call entry with the return address and branches to the relative target. -/
  | call (o : BitVec 24)
  /-- CALLI, R142. Calls a per-lane register target, stacking lanes with other targets and a call entry. -/
  | calli (h : BitVec 2) (a : BitVec 7)
  /-- MARK, R140. Pushes a mark entry with the reconvergence address and the current active mask. -/
  | mark (o : BitVec 24)
  /-- MODE, R146. Sets bits 22 to 0 of each slice's mode register from its slice operand. -/
  | mode (h : BitVec 2) (a : BitVec 7)
  /-- MODEI, R146. Writes one named mode field with an immediate value. -/
  | modei (s : BitVec 12) (f : BitVec 3)
  /-- WIN, R147. Sets the warp's window base from the warp operand, trapping if it is unaligned or not below the ceiling. -/
  | win (h : BitVec 2) (a : BitVec 7)
  /-- WINI, R147. Adds a signed immediate to the warp's window base, trapping on an invalid result. -/
  | wini (i : BitVec 15)
  /-- RDS, R148. Writes the selected special register's value into each active lane's destination with latency 2. -/
  | rds (d : BitVec 7) (s : BitVec 12)
  /-- RDS_CLOCK_LO, R149. Reads the low half of the core's cycle count and latches its high half for the slice. -/
  | rdsClockLo (d : BitVec 7)
  /-- WRS, R148. Writes a writable special register from a lane, slice or warp operand. -/
  | wrs (d : BitVec 7) (s : BitVec 12)
  /-- WRS_WIN, R148. Writes s.win and acts exactly as WIN. -/
  | wrsWin (d : BitVec 7)
  /-- WRS_FLAGS, R104. Writes all six sticky flag bits of the warp. -/
  | wrsFlags (d : BitVec 7)
  /-- WRS_SRSEED, R98. Seeds each active lane's stochastic-rounding generator from its source value mixed with the lane number. -/
  | wrsSrseed (d : BitVec 7)
  /-- FREEZE, R152. Drains and waits for the counters, then performs a root or nested freeze of the template image, or takes the template trap. -/
  | freeze (l : BitVec 3)
  /-- GROW, R160. Raises the warp's ceiling by an immediate count once the granules are granted, zeroing the new registers. -/
  | grow (i : BitVec 15)
  /-- SHRINK, R160. Lowers the warp's ceiling by an immediate count once no pending destination lies above it, freeing its granules. -/
  | shrink (i : BitVec 15)
  /-- GROW_REG, R160. Raises the warp's ceiling by the warp operand's register count. -/
  | growReg (h : BitVec 2) (a : BitVec 7)
  /-- SHRINK_REG, R160. Lowers the warp's ceiling by the warp operand's register count. -/
  | shrinkReg (h : BitVec 2) (a : BitVec 7)
  /-- DONATE, R161. Records a pending donation of granules to a recipient warp of the workgroup, to be applied at the next rendezvous. -/
  | donate (h : BitVec 2) (a : BitVec 7) (n : BitVec 8)
  /-- REND, R161. Arrives at a workgroup rendezvous and waits until all warps arrive and the pending donations can be applied. -/
  | rend (k : BitVec 4)
  /-- BAR, R164. Arrives at a workgroup or cohort barrier with an immediate count and waits for the phase to end. -/
  | bar (c : BitVec 1) (n : BitVec 4) (i : BitVec 15)
  /-- BARA, R164. Arrives at a barrier with an immediate count without waiting. -/
  | bara (c : BitVec 1) (n : BitVec 4) (i : BitVec 15)
  /-- BAR_REG, R164. Arrives at a barrier with the count taken from the warp operand and waits. -/
  | barReg (h : BitVec 2) (a : BitVec 7) (c : BitVec 1) (n : BitVec 4)
  /-- BARA_REG, R164. Arrives at a barrier with a register count without waiting. -/
  | baraReg (h : BitVec 2) (a : BitVec 7) (c : BitVec 1) (n : BitVec 4)
  /-- WAITC, R165. Waits until the named in-flight counter is at most the threshold. -/
  | waitc (h : BitVec 2) (a : BitVec 7) (p : BitVec 3)
  /-- WAITP, R165. Waits until a barrier object's phase bit equals the stated phase, then acts as an acquire. -/
  | waitp (h : BitVec 2) (a : BitVec 7) (p : BitVec 1)
  /-- SLEEP, R165. Waits a stated number of 16-mc units of elapsed time. -/
  | sleep (i : BitVec 15)
  /-- TRAP, R167. Enters the user trap with the immediate code as s.tval. -/
  | trap (i : BitVec 15)
  /-- IADD, R178. Adds two integers at the type's width, wrapping or saturating. -/
  | iadd (h : BitVec 2) (d : BitVec 7) (a : BitVec 7) (b : BitVec 7)
  /-- IADDI, R178. Adds a signed immediate to an integer. -/
  | iaddi (h : BitVec 2) (d : BitVec 7) (a : BitVec 7) (i : BitVec 8)
  /-- ISUB, R178. Subtracts two integers at the type's width. -/
  | isub (h : BitVec 2) (d : BitVec 7) (a : BitVec 7) (b : BitVec 7)
  /-- IMUL, R178. Multiplies two integers, keeping the low part brought into range. -/
  | imul (h : BitVec 2) (d : BitVec 7) (a : BitVec 7) (b : BitVec 7)
  /-- IMUL_IMM, R178. Multiplies an integer by an immediate extended by type. -/
  | imulImm (h : BitVec 2) (d : BitVec 7) (a : BitVec 7) (i : BitVec 8)
  /-- IMULH, R178. Writes the high half of the integer product. -/
  | imulh (h : BitVec 2) (d : BitVec 7) (a : BitVec 7) (b : BitVec 7)
  /-- IMAD, R178. Adds the product of two integers to the destination with one bringing into range. -/
  | imad (h : BitVec 2) (d : BitVec 7) (a : BitVec 7) (b : BitVec 7)
  /-- IMIN, R178. Writes the smaller of two integers. -/
  | imin (h : BitVec 2) (d : BitVec 7) (a : BitVec 7) (b : BitVec 7)
  /-- IMIN_IMM, R178. Writes the smaller of an integer and an immediate. -/
  | iminImm (h : BitVec 2) (d : BitVec 7) (a : BitVec 7) (i : BitVec 8)
  /-- IMAX, R178. Writes the larger of two integers. -/
  | imax (h : BitVec 2) (d : BitVec 7) (a : BitVec 7) (b : BitVec 7)
  /-- IMAX_IMM, R178. Writes the larger of an integer and an immediate. -/
  | imaxImm (h : BitVec 2) (d : BitVec 7) (a : BitVec 7) (i : BitVec 8)
  /-- IABS, R178. Writes the absolute value of a signed integer. -/
  | iabs (h : BitVec 2) (d : BitVec 7) (a : BitVec 7)
  /-- AND, R179. Bitwise AND of two registers. -/
  | and (h : BitVec 2) (d : BitVec 7) (a : BitVec 7) (b : BitVec 7)
  /-- AND_IMM, R179. Bitwise AND with an unsigned immediate. -/
  | andImm (h : BitVec 2) (d : BitVec 7) (a : BitVec 7) (i : BitVec 8)
  /-- OR, R179. Bitwise OR of two registers. -/
  | or (h : BitVec 2) (d : BitVec 7) (a : BitVec 7) (b : BitVec 7)
  /-- OR_IMM, R179. Bitwise OR with an unsigned immediate. -/
  | orImm (h : BitVec 2) (d : BitVec 7) (a : BitVec 7) (i : BitVec 8)
  /-- XOR, R179. Bitwise XOR of two registers. -/
  | xor (h : BitVec 2) (d : BitVec 7) (a : BitVec 7) (b : BitVec 7)
  /-- XOR_IMM, R179. Bitwise XOR with an unsigned immediate. -/
  | xorImm (h : BitVec 2) (d : BitVec 7) (a : BitVec 7) (i : BitVec 8)
  /-- ANDN, R179. Bitwise a AND NOT b. -/
  | andn (h : BitVec 2) (d : BitVec 7) (a : BitVec 7) (b : BitVec 7)
  /-- NOT, R179. Bitwise NOT of a register. -/
  | not (h : BitVec 2) (d : BitVec 7) (a : BitVec 7)
  /-- SHL, R180. Shifts left by a register amount. -/
  | shl (h : BitVec 2) (d : BitVec 7) (a : BitVec 7) (b : BitVec 7)
  /-- SHL_IMM, R180. Shifts left by an immediate amount. -/
  | shlImm (h : BitVec 2) (d : BitVec 7) (a : BitVec 7) (n : BitVec 5)
  /-- SHR, R180. Shifts right logically by a register amount. -/
  | shr (h : BitVec 2) (d : BitVec 7) (a : BitVec 7) (b : BitVec 7)
  /-- SHR_IMM, R180. Shifts right logically by an immediate amount. -/
  | shrImm (h : BitVec 2) (d : BitVec 7) (a : BitVec 7) (n : BitVec 5)
  /-- SAR, R180. Shifts right arithmetically by a register amount. -/
  | sar (h : BitVec 2) (d : BitVec 7) (a : BitVec 7) (b : BitVec 7)
  /-- SAR_IMM, R180. Shifts right arithmetically by an immediate amount. -/
  | sarImm (h : BitVec 2) (d : BitVec 7) (a : BitVec 7) (n : BitVec 5)
  /-- ROT, R180. Rotates left by a register amount modulo the width. -/
  | rot (h : BitVec 2) (d : BitVec 7) (a : BitVec 7) (b : BitVec 7)
  /-- ROT_IMM, R180. Rotates left by an immediate amount. -/
  | rotImm (h : BitVec 2) (d : BitVec 7) (a : BitVec 7) (n : BitVec 5)
  /-- POPC, R181. Counts the one bits of the source. -/
  | popc (h : BitVec 2) (d : BitVec 7) (a : BitVec 7)
  /-- CLZ, R181. Counts the leading zero bits of the source. -/
  | clz (h : BitVec 2) (d : BitVec 7) (a : BitVec 7)
  /-- BREV, R181. Reverses the bits of the source within the width. -/
  | brev (h : BitVec 2) (d : BitVec 7) (a : BitVec 7)
  /-- BFE, R182. Extracts a bit field at a position and length, sign- or zero-extended. -/
  | bfe (h : BitVec 2) (d : BitVec 7) (a : BitVec 7) (b : BitVec 7)
  /-- BFI, R182. Inserts a bit field into the destination. -/
  | bfi (h : BitVec 2) (d : BitVec 7) (a : BitVec 7) (b : BitVec 7)
  /-- ICMP, R183. Compares two integers under a condition and writes a predicate. -/
  | icmp (h : BitVec 2) (c : BitVec 4) (p : BitVec 3) (a : BitVec 7) (b : BitVec 7)
  /-- ICMP_IMM, R183. Compares an integer with an immediate and writes a predicate. -/
  | icmpImm (h : BitVec 2) (c : BitVec 4) (p : BitVec 3) (a : BitVec 7) (i : BitVec 8)
  /-- SEL, R184. Selects a or b per lane by the guard in every lane of the active mask. -/
  | sel (h : BitVec 2) (d : BitVec 7) (a : BitVec 7) (b : BitVec 7)
  /-- MOV, R184. Copies a register. -/
  | mov (h : BitVec 2) (d : BitVec 7) (a : BitVec 7)
  /-- MOVI, R184. Writes a sign-extended 15-bit immediate. -/
  | movi (d : BitVec 7) (i : BitVec 15)
  /-- MOVH, R184. Writes a 17-bit immediate into bits 31 to 15, keeping bits 14 to 0. -/
  | movh (j : BitVec 2) (d : BitVec 7) (i : BitVec 15)
  /-- LEA, R185. Forms a plus b times the type's element size. -/
  | lea (h : BitVec 2) (d : BitVec 7) (a : BitVec 7) (b : BitVec 7)
  /-- PAND, R186. Writes pa AND pb, optionally negated. -/
  | pand (d : BitVec 3) (a : BitVec 3) (b : BitVec 3) (x : BitVec 1)
  /-- POR, R186. Writes pa OR pb, optionally negated. -/
  | por (d : BitVec 3) (a : BitVec 3) (b : BitVec 3) (x : BitVec 1)
  /-- PNOT, R186. Writes NOT pa. -/
  | pnot (d : BitVec 3) (a : BitVec 3)
  /-- PMOV, R186. Copies a predicate. -/
  | pmov (d : BitVec 3) (a : BitVec 3)
  /-- PMOV_REG, R186. Writes a predicate true where a register is non-zero. -/
  | pmovReg (h : BitVec 2) (d : BitVec 3) (a : BitVec 7)
  /-- FADD, R188. Adds two floats with one rounding. -/
  | fadd (h : BitVec 2) (d : BitVec 7) (a : BitVec 7) (b : BitVec 7)
  /-- FADD_ABS, R188. Adds two floats and writes the magnitude. -/
  | faddAbs (h : BitVec 2) (d : BitVec 7) (a : BitVec 7) (b : BitVec 7)
  /-- FSUB, R188. Subtracts two floats with one rounding. -/
  | fsub (h : BitVec 2) (d : BitVec 7) (a : BitVec 7) (b : BitVec 7)
  /-- FSUB_ABS, R188. Subtracts two floats and writes the magnitude. -/
  | fsubAbs (h : BitVec 2) (d : BitVec 7) (a : BitVec 7) (b : BitVec 7)
  /-- FMUL, R188. Multiplies two floats with one rounding. -/
  | fmul (h : BitVec 2) (d : BitVec 7) (a : BitVec 7) (b : BitVec 7)
  /-- FMUL_ABS, R188. Multiplies two floats and writes the magnitude. -/
  | fmulAbs (h : BitVec 2) (d : BitVec 7) (a : BitVec 7) (b : BitVec 7)
  /-- FFMA, R189. Fused multiply-add a*b + d. -/
  | ffma (h : BitVec 2) (d : BitVec 7) (a : BitVec 7) (b : BitVec 7)
  /-- FFMA_NP, R189. Fused -(a*b) + d. -/
  | ffmaNp (h : BitVec 2) (d : BitVec 7) (a : BitVec 7) (b : BitVec 7)
  /-- FFMA_ND, R189. Fused a*b - d. -/
  | ffmaNd (h : BitVec 2) (d : BitVec 7) (a : BitVec 7) (b : BitVec 7)
  /-- FFMA_NN, R189. Fused -(a*b) - d. -/
  | ffmaNn (h : BitVec 2) (d : BitVec 7) (a : BitVec 7) (b : BitVec 7)
  /-- FMIN, R190. Writes the smaller float, preferring a non-NaN operand. -/
  | fmin (h : BitVec 2) (d : BitVec 7) (a : BitVec 7) (b : BitVec 7)
  /-- FMIN_NAN, R190. Writes the smaller float, or the canonical NaN if either is NaN. -/
  | fminNan (h : BitVec 2) (d : BitVec 7) (a : BitVec 7) (b : BitVec 7)
  /-- FMIN_ABS, R190. Writes the operand of smaller magnitude. -/
  | fminAbs (h : BitVec 2) (d : BitVec 7) (a : BitVec 7) (b : BitVec 7)
  /-- FMAX, R190. Writes the larger float, preferring a non-NaN operand. -/
  | fmax (h : BitVec 2) (d : BitVec 7) (a : BitVec 7) (b : BitVec 7)
  /-- FMAX_NAN, R190. Writes the larger float, or the canonical NaN if either is NaN. -/
  | fmaxNan (h : BitVec 2) (d : BitVec 7) (a : BitVec 7) (b : BitVec 7)
  /-- FMAX_ABS, R190. Writes the operand of larger magnitude. -/
  | fmaxAbs (h : BitVec 2) (d : BitVec 7) (a : BitVec 7) (b : BitVec 7)
  /-- FCMP, R191. Compares two floats under a condition and writes a predicate. -/
  | fcmp (h : BitVec 2) (c : BitVec 4) (p : BitVec 3) (a : BitVec 7) (b : BitVec 7)
  /-- FCMP_Z, R191. Compares a float with +0 and writes a predicate. -/
  | fcmpZ (h : BitVec 2) (c : BitVec 4) (p : BitVec 3) (a : BitVec 7)
  /-- FRCP, R192. Computes a faithful reciprocal. -/
  | frcp (h : BitVec 2) (d : BitVec 7) (a : BitVec 7)
  /-- FRSQ, R192. Computes a reciprocal square root. -/
  | frsq (h : BitVec 2) (d : BitVec 7) (a : BitVec 7)
  /-- FSQRT, R192. Computes a correctly rounded square root. -/
  | fsqrt (h : BitVec 2) (d : BitVec 7) (a : BitVec 7)
  /-- FEXP2, R192. Computes 2 to the power a. -/
  | fexp2 (h : BitVec 2) (d : BitVec 7) (a : BitVec 7)
  /-- FLOG2, R192. Computes the base-2 logarithm. -/
  | flog2 (h : BitVec 2) (d : BitVec 7) (a : BitVec 7)
  /-- FSIN, R192. Computes the sine. -/
  | fsin (h : BitVec 2) (d : BitVec 7) (a : BitVec 7)
  /-- FSIN_PI, R192. Computes sin(pi a). -/
  | fsinPi (h : BitVec 2) (d : BitVec 7) (a : BitVec 7)
  /-- FCOS, R192. Computes the cosine. -/
  | fcos (h : BitVec 2) (d : BitVec 7) (a : BitVec 7)
  /-- FCOS_PI, R192. Computes cos(pi a). -/
  | fcosPi (h : BitVec 2) (d : BitVec 7) (a : BitVec 7)
  /-- FTANH, R192. Computes the hyperbolic tangent. -/
  | ftanh (h : BitVec 2) (d : BitVec 7) (a : BitVec 7)
  /-- FFLOOR, R195. Writes the largest integral value not above a. -/
  | ffloor (h : BitVec 2) (d : BitVec 7) (a : BitVec 7)
  /-- FFRAC, R195. Writes a minus its floor, kept below 1. -/
  | ffrac (h : BitVec 2) (d : BitVec 7) (a : BitVec 7)
  /-- CVT, R197. Converts a float to another float type under the rounding mode. -/
  | cvt (h : BitVec 2) (d : BitVec 7) (a : BitVec 7) (t : BitVec 4)
  /-- CVT_FI, R198. Converts a float to an integer type, clamping out-of-range values with invalid. -/
  | cvtFi (h : BitVec 2) (d : BitVec 7) (a : BitVec 7) (t : BitVec 4)
  /-- CVT_IF, R199. Converts an integer to a float type. -/
  | cvtIf (h : BitVec 2) (d : BitVec 7) (a : BitVec 7) (t : BitVec 4)
  /-- CVT_II, R199. Converts between integer types, bringing the value into range. -/
  | cvtIi (h : BitVec 2) (d : BitVec 7) (a : BitVec 7) (t : BitVec 4)
  /-- CVTB, R200. Packs two values into a BF16 pair, rounding from f32 or copying bf16 bits. -/
  | cvtb (h : BitVec 2) (d : BitVec 7) (a : BitVec 7) (b : BitVec 7)
  /-- CVTB_D, R200. Unpacks one BF16 half selected by b. -/
  | cvtbD (h : BitVec 2) (d : BitVec 7) (a : BitVec 7) (b : BitVec 7)
  /-- CVTS, R201. Rounds an f32 stochastically with random bits from b to bf16 or i8. -/
  | cvts (h : BitVec 2) (d : BitVec 7) (a : BitVec 7) (b : BitVec 7) (x : BitVec 1)
  /-- CBENC, R202. Encodes each element as the index of the nearest codebook entry. -/
  | cbenc (h : BitVec 2) (d : BitVec 7) (a : BitVec 7)
  /-- VPERM, R204. Gathers each lane's value from the lane named by b. -/
  | vperm (h : BitVec 2) (d : BitVec 7) (a : BitVec 7) (b : BitVec 7)
  /-- VSHFL, R205. Moves values between lanes by an up, down, rotate or xor pattern within segments. -/
  | vshfl (h : BitVec 2) (d : BitVec 7) (a : BitVec 7) (b : BitVec 7)
  /-- VBFX, R206. Exchanges values with lane l XOR m. -/
  | vbfx (h : BitVec 2) (d : BitVec 7) (a : BitVec 7) (m : BitVec 5)
  /-- VBCAST, R207. Broadcasts one lane's value to every participating lane. -/
  | vbcast (h : BitVec 2) (d : BitVec 7) (a : BitVec 7) (j : BitVec 5)
  /-- VRED, R208. Reduces over the warp's lanes in a fixed pairwise tree and writes the result to participating lanes. -/
  | vred (h : BitVec 2) (d : BitVec 7) (a : BitVec 7) (o : BitVec 3)
  /-- VSCAN, R208. Scans over the warp's lanes in lane order, inclusive or exclusive. -/
  | vscan (h : BitVec 2) (d : BitVec 7) (a : BitVec 7) (e : BitVec 1) (o : BitVec 3)
  /-- VRDI, R209. Reads a register chosen per lane by index relative to the window. -/
  | vrdi (h : BitVec 2) (d : BitVec 7) (a : BitVec 7)
  /-- VWRI, R210. Writes a register chosen per lane through the scoreboard 6 mc after the read cycle. -/
  | vwri (h : BitVec 2) (d : BitVec 7) (a : BitVec 7)
  /-- VBAL, R211. Writes to every participating lane the mask of participating lanes whose predicate is true. -/
  | vbal (d : BitVec 7) (p : BitVec 3)
  /-- VVOTE, R212. Writes an any, all or uniform vote of a predicate over participating lanes. -/
  | vvote (v : BitVec 4) (d : BitVec 3) (p : BitVec 3)
  /-- BREC, R215. Sets a buffer record from a register quad's warp operands with latency 2. -/
  | brec (h : BitVec 2) (r : BitVec 4) (a : BitVec 7)
  /-- LD, R233. Loads one element per lane through a buffer record at a register index, through the scoreboard. -/
  | ld (h : BitVec 2) (d : BitVec 7) (a : BitVec 7) (r : BitVec 4)
  /-- LD_IMM, R233. Loads through a buffer record at an immediate index. -/
  | ldImm (d : BitVec 7) (r : BitVec 4) (i : BitVec 8)
  /-- LDX, R233. Loads a pair or quad of scalars per lane at a register index. -/
  | ldx (h : BitVec 2) (d : BitVec 7) (a : BitVec 7) (r : BitVec 4) (w : BitVec 1)
  /-- LDX_IMM, R233. Loads a pair or quad of scalars per lane at an immediate index. -/
  | ldxImm (d : BitVec 7) (r : BitVec 4) (w : BitVec 1) (i : BitVec 7)
  /-- ST, R234. Stores one element per lane through a buffer record at a register index. -/
  | st (h : BitVec 2) (d : BitVec 7) (a : BitVec 7) (r : BitVec 4)
  /-- ST_IMM, R234. Stores through a buffer record at an immediate index. -/
  | stImm (d : BitVec 7) (r : BitVec 4) (i : BitVec 8)
  /-- STX, R234. Stores a pair or quad per lane at a register index. -/
  | stx (h : BitVec 2) (d : BitVec 7) (a : BitVec 7) (r : BitVec 4) (w : BitVec 1)
  /-- STX_IMM, R234. Stores a pair or quad per lane at an immediate index. -/
  | stxImm (d : BitVec 7) (r : BitVec 4) (w : BitVec 1) (i : BitVec 7)
  /-- LDA, R235. Acquire load at the home slice followed by the scope's visibility step. -/
  | lda (h : BitVec 2) (d : BitVec 7) (a : BitVec 7) (r : BitVec 4)
  /-- LDA_IMM, R235. Acquire load at an immediate index. -/
  | ldaImm (d : BitVec 7) (r : BitVec 4) (i : BitVec 8)
  /-- STL, R235. Release store: waits for the counters, then stores. -/
  | stl (h : BitVec 2) (d : BitVec 7) (a : BitVec 7) (r : BitVec 4)
  /-- STL_IMM, R235. Release store at an immediate index. -/
  | stlImm (d : BitVec 7) (r : BitVec 4) (i : BitVec 8)
  /-- LDC, R236. Loads from a cluster-space address per lane through the scoreboard. -/
  | ldc (h : BitVec 2) (d : BitVec 7) (a : BitVec 7) (i : BitVec 8)
  /-- STC, R236. Stores to a cluster-space address per lane. -/
  | stc (h : BitVec 2) (d : BitVec 7) (a : BitVec 7) (i : BitVec 8)
  /-- LDA_CLUSTER, R235. Acquire load from cluster space, at cohort scope at most. -/
  | ldaCluster (h : BitVec 2) (d : BitVec 7) (a : BitVec 7) (i : BitVec 8)
  /-- STL_CLUSTER, R235. Release store to cluster space. -/
  | stlCluster (h : BitVec 2) (d : BitVec 7) (a : BitVec 7) (i : BitVec 8)
  /-- ACPY, R246. Starts an asynchronous copy between global memory and the cluster store, adding its bytes to a barrier object. -/
  | acpy (d : BitVec 7) (r : BitVec 4) (t : BitVec 1) (c : BitVec 1)
  /-- APLN, R247. Starts a copy that writes bit planes of a tile into the cluster store. -/
  | apln (d : BitVec 7) (r : BitVec 4) (t : BitVec 1) (c : BitVec 1)
  /-- ARRIVE, R244. Releases and subtracts a count from a barrier object's awaited arrivals, posting a record on overrun. -/
  | arrive (h : BitVec 2) (a : BitVec 7) (n : BitVec 8)
  /-- FENCE, R249. Orders accesses at a scope, waiting in counter or speculative style. -/
  | fence (m : BitVec 1) (s : BitVec 3)
  /-- PUBLISH, R250. Sends a publish of a record's publish entry to its home slice as a system-scope release. -/
  | publish (r : BitVec 4)
  /-- PUBLISH_VF, R250. Arms or disarms the version fence of a publish entry with a target count. -/
  | publishVf (h : BitVec 2) (a : BitVec 7) (r : BitVec 4)
  /-- PREF, R237. Prefetches lines at a register index, never faulting. -/
  | pref (h : BitVec 2) (a : BitVec 7) (r : BitVec 4)
  /-- PREF_IMM, R237. Prefetches a line at an immediate index. -/
  | prefImm (r : BitVec 4) (i : BitVec 8)
  /-- CBLD, R242. Loads sixteen BF16 codebook entries into a workgroup slot when its data return. -/
  | cbld (k : BitVec 3) (r : BitVec 4) (i : BitVec 8)
  /-- ATOM_GLOBAL, R263. Sends a fixed atomic on global elements to their home slices, returning old values. -/
  | atomGlobal (h : BitVec 2) (d : BitVec 7) (a : BitVec 7) (o : BitVec 3) (r : BitVec 4)
  /-- ATOM_CLUSTER, R263. Performs a fixed atomic on cluster-space elements. -/
  | atomCluster (h : BitVec 2) (d : BitVec 7) (a : BitVec 7) (o : BitVec 3)
  /-- RED_GLOBAL, R263. Sends a fixed reduction on global elements without a return value. -/
  | redGlobal (h : BitVec 2) (d : BitVec 7) (a : BitVec 7) (o : BitVec 3) (r : BitVec 4)
  /-- RED_CLUSTER, R263. Performs a fixed reduction on cluster-space elements. -/
  | redCluster (h : BitVec 2) (d : BitVec 7) (a : BitVec 7) (o : BitVec 3)
  /-- ATOMF_GLOBAL, R263. Sends a floating atomic add, min or max on global elements. -/
  | atomfGlobal (h : BitVec 2) (d : BitVec 7) (a : BitVec 7) (o : BitVec 3) (r : BitVec 4)
  /-- ATOMF_CLUSTER, R263. Performs a floating atomic on cluster-space elements. -/
  | atomfCluster (h : BitVec 2) (d : BitVec 7) (a : BitVec 7) (o : BitVec 3)
  /-- ACAS_GLOBAL, R263. Sends a 32-bit compare-and-swap on global elements. -/
  | acasGlobal (h : BitVec 2) (d : BitVec 7) (a : BitVec 7) (r : BitVec 4)
  /-- ACAS_CLUSTER, R263. Performs a compare-and-swap on cluster-space elements. -/
  | acasCluster (h : BitVec 2) (d : BitVec 7) (a : BitVec 7)
  /-- ATOMP, R264. Invokes a programmable atomic routine on each lane's element at its home slice. -/
  | atomp (d : BitVec 7) (r : BitVec 4) (k : BitVec 6)
  /-- WAITM_GLOBAL, R268. Waits until every lane's global element meets a condition, arming monitors at the homes. -/
  | waitmGlobal (h : BitVec 2) (d : BitVec 7) (a : BitVec 7) (c : BitVec 3) (r : BitVec 4)
  /-- WAITM_CLUSTER, R268. Waits until every lane's cluster-space element meets a condition. -/
  | waitmCluster (h : BitVec 2) (d : BitVec 7) (a : BitVec 7) (c : BitVec 3)
  /-- ATOM_D, R263. Sends a 64-bit fixed atomic on global elements. -/
  | atomD (h : BitVec 2) (d : BitVec 7) (a : BitVec 7) (o : BitVec 3) (r : BitVec 4)
  /-- RED_D, R263. Sends a 64-bit fixed reduction on global elements. -/
  | redD (h : BitVec 2) (d : BitVec 7) (a : BitVec 7) (o : BitVec 3) (r : BitVec 4)
  /-- ACAS_D, R263. Sends a 64-bit compare-and-swap on global elements. -/
  | acasD (h : BitVec 2) (d : BitVec 7) (a : BitVec 7) (r : BitVec 4)
  /-- CACHEOP_ARM, R274. Sets a reduction line's target and clears its counter, optionally zeroing the line. -/
  | cacheopArm (d : BitVec 7) (r : BitVec 4)
  /-- CACHEOP_DISARM, R274. Sets a reduction line's target to 0, keeping its counter. -/
  | cacheopDisarm (d : BitVec 7) (r : BitVec 4)
  /-- CACHEOP_FLUSH, R274. Writes an element's line back to HBM if it holds unwritten data. -/
  | cacheopFlush (d : BitVec 7) (r : BitVec 4)
  /-- CACHEOP_EVICT, R274. Flushes an element's line and removes it and its copies from the shared cache. -/
  | cacheopEvict (d : BitVec 7) (r : BitVec 4)
  /-- CACHEOP_PACK_ON, R274. Allows the line's compression block to be stored compressed. -/
  | cacheopPackOn (d : BitVec 7) (r : BitVec 4)
  /-- CACHEOP_PACK_OFF, R274. Stores the line's compression block uncompressed from its next write-back. -/
  | cacheopPackOff (d : BitVec 7) (r : BitVec 4)
  /-- CACHEOP_RANGE_FLUSH, R274. Flushes every line of a virtual range, skipping lines that would fault. -/
  | cacheopRangeFlush (h : BitVec 2) (a : BitVec 7) (b : BitVec 7)
  /-- CACHEOP_RANGE_EVICT, R274. Evicts every line of a virtual range, skipping lines that would fault. -/
  | cacheopRangeEvict (h : BitVec 2) (a : BitVec 7) (b : BitVec 7)
  /-- HCFG, R289. Issues a configuration of a hash slot with level descriptors, records and replica base. -/
  | hcfg (d : BitVec 7) (t : BitVec 4) (g : BitVec 4) (s : BitVec 2)
  /-- HLOOK_ROWS, R291. Issues a hash-grid look-up writing FP32 feature rows. -/
  | hlookRows (d : BitVec 7) (s : BitVec 2) (f : BitVec 4) (c : BitVec 4)
  /-- HLOOK_PLANES, R291. Issues a hash-grid look-up writing BF16 bit planes. -/
  | hlookPlanes (d : BitVec 7) (s : BitVec 2) (f : BitVec 4) (c : BitVec 4)
  /-- HGRAD, R293. Issues a gradient scatter that translates the gradient lines and sends weighted fadds to each corner entry. -/
  | hgrad (d : BitVec 7) (s : BitVec 2) (f : BitVec 4) (c : BitVec 4)
  /-- BSTR, R309. Writes a stride register from a warp operand. -/
  | bstr (d : BitVec 7) (k : BitVec 3)
  /-- BSTR_IMM, R309. Writes a stride register from an immediate. -/
  | bstrImm (i : BitVec 11) (k : BitVec 3)
  /-- BSTG, R317. Issues one butterfly stage to the matrix engine. -/
  | bstg (d : BitVec 7) (e : BitVec 1) (t : BitVec 4) (s : BitVec 3) (m : BitVec 3)
  /-- BCHN, R317. Issues a chain of up to ten butterfly stages. -/
  | bchn (d : BitVec 7) (e : BitVec 1) (t : BitVec 4) (n : BitVec 4) (m : BitVec 3)
  /-- BTRN, R317. Issues the transposed stages of a chain in reverse order. -/
  | btrn (d : BitVec 7) (e : BitVec 1) (t : BitVec 4) (n : BitVec 4) (m : BitVec 3)
  /-- BTRN_W, R320. Issues an accumulation of one stage's weight-block gradients. -/
  | btrnW (d : BitVec 7) (e : BitVec 1) (t : BitVec 4) (s : BitVec 3) (m : BitVec 3)
  /-- BDNS, R322. Issues a dense 32x32x32 tile pass into an accumulator. -/
  | bdns (d : BitVec 7) (e : BitVec 1) (t : BitVec 4) (a : BitVec 1) (b : BitVec 1) (f : BitVec 2) (c : BitVec 3) (m : BitVec 3)
  /-- BDRN, R325. Issues a drain or four-tile merge of accumulator tiles to global memory, optionally merging a maximum. -/
  | bdrn (d : BitVec 7) (e : BitVec 1) (t : BitVec 4) (n : BitVec 4) (c : BitVec 3) (o : BitVec 3)
  /-- BTPS, R309. Writes all sixteen tile predicates from a warp operand. -/
  | btps (d : BitVec 7)
  /-- BTPS_ONE, R309. Writes one tile predicate from a warp operand. -/
  | btpsOne (d : BitVec 7) (k : BitVec 4)
  /-- QPUSH, R348. Pushes one entry of every lane's register into q2 or q3 when room exists. -/
  | qpush (d : BitVec 7) (q : BitVec 2)
  /-- QPUSH_N, R348. Pushes 2 to 16 entries into q2 or q3. -/
  | qpushN (d : BitVec 7) (z : BitVec 2) (q : BitVec 2)
  /-- QPUSH_RT, R367. Delivers routed responses from each lane to suspended access-processor contexts. -/
  | qpushRt (d : BitVec 7)
  /-- QPOP, R349. Pops one entry from q0 or q1 into a register through the scoreboard. -/
  | qpop (d : BitVec 7) (q : BitVec 2)
  /-- QPOP_N, R349. Pops 2 to 16 entries from q0 or q1. -/
  | qpopN (d : BitVec 7) (z : BitVec 2) (q : BitVec 2)
  /-- QSTAT, R350. Writes a snapshot of queue levels or access-processor context states. -/
  | qstat (d : BitVec 7) (k : BitVec 3)
  /-- APGO, R344. Starts an idle access-processor context at an address with an argument and spill area. -/
  | apgo (d : BitVec 7) (u : BitVec 1) (c : BitVec 3)
  /-- APSTOP, R344. Stops an access-processor context at an instruction boundary and makes it idle. -/
  | apstop (u : BitVec 1) (c : BitVec 3)
  /-- AP_BASE_INSTRUCTION, R338. An access-processor context executes one RV32IM instruction on its registers and its own memory. -/
  | apBaseInstruction (w : BitVec 32)
  /-- AP_ENVIRONMENT_CALL, R338. ECALL or EBREAK ends the context with the environment exception. -/
  | apEnvironmentCall (w : BitVec 32)
  /-- Q_PUSH, R354. Writes entries from data memory into q0 or q1. -/
  | qPush (b : BitVec 5) (a : BitVec 5)
  /-- Q_POP, R354. Takes entries from q2 or q3 into data memory. -/
  | qPop (b : BitVec 5) (a : BitVec 5)
  /-- RT_SUSPEND, R366. Places a candidate record in an open group and suspends the context. -/
  | rtSuspend (a : BitVec 5)
  /-- RT_RESUME, R367. Applies a held response, recording a hit when its distance lies within the interval. -/
  | rtResume (d : BitVec 5)
  /-- G_WAIT, R357. Holds the context until its outstanding count is at most the threshold, fencing at die scope for zero. -/
  | gWait (a : BitVec 5)
  /-- G_ISSUE, R355. Gathers elements of global memory into reserved queue entries. -/
  | gIssue (b : BitVec 5) (a : BitVec 5)
  /-- S_ISSUE, R356. Scatters queue entries to global memory as stores. -/
  | sIssue (b : BitVec 5) (a : BitVec 5)
  /-- BAG_SUM, R358. Pools embedding rows by summation into one queue entry. -/
  | bagSum (a : BitVec 5)
  /-- BAG_MEAN, R358. Pools embedding rows by mean into one queue entry. -/
  | bagMean (a : BitVec 5)
  /-- RT_BOX, R362. Fetches a hierarchy node and box-tests its children, or pops the traversal stack. -/
  | rtBox (a : BitVec 5) (d : BitVec 5)
  /-- RT_TRI, R364. Fetches and intersects one triangle, recording a closer hit. -/
  | rtTri (a : BitVec 5) (d : BitVec 5)
  /-- EMIT, R395. Places one record per active lane into a consumer node's input queue, waiting for pool room. -/
  | emit (d : BitVec 7) (k : BitVec 3)
  /-- EMIT_REG, R395. Emits records to the successor slot named by a warp operand. -/
  | emitReg (h : BitVec 2) (d : BitVec 7) (a : BitVec 7)
  /-- POST, R392. Sends a warp operand value to the task-graph machine for the node. -/
  | post (h : BitVec 2) (a : BitVec 7)
  /-- POST_IMM, R392. Sends an immediate value to the task-graph machine for the node. -/
  | postImm (i : BitVec 15)
  /-- SYSC, R393. Posts a system-call record with an immediate call number after a release wait. -/
  | sysc (s : BitVec 12)
  /-- SYSC_REG, R393. Posts a system-call record with a register call number. -/
  | syscReg (h : BitVec 2) (a : BitVec 7)
  /-- DATA_FLIT_RECEIVE, R411. A receiver accepts an in-order data flit with good CRC, or sends a retry request. -/
  | dataFlitReceive (port : Nat) (flit : List (BitVec 8))
  /-- READ_MESSAGE, R416. A read request from another device is performed at the line's home slice and answered. -/
  | readMessage (m : Message)
  /-- READ_RESPONSE, R416. A read response from another device returns data to its requester. -/
  | readResponse (m : Message)
  /-- WRITE_MESSAGE, R416. A write from another device is performed at the home slice and acknowledged. -/
  | writeMessage (m : Message)
  /-- ATOMIC_MESSAGE, R416. An atomic request from another device is performed at the home slice and answered. -/
  | atomicMessage (m : Message)
  /-- CONTRIBUTION_MESSAGE, R421. A contribution from another die or device is performed, overflowed or dropped by its descriptor and epoch. -/
  | contributionMessage (m : Message)
  /-- ACKNOWLEDGEMENT, R416. An acknowledgement from another device lowers the counter of the request it answers. -/
  | acknowledgement (m : Message)
  /-- RESULT_LINE, R422. A received result line is written to the result region, completing the epoch when all have arrived. -/
  | resultLine (m : Message)
  /-- CORRECTED_ERROR, R448. A correctable storage error is corrected in place and an error record posted. -/
  | correctedError (e : ErrorReport)
  /-- UNCORRECTABLE_ERROR, R449. An uncorrectable or parity error holds, refetches or stops the affected operation by structure and posts a record. -/
  | uncorrectableError (e : ErrorReport)
  /-- NOP, R139. Does nothing for the issuing gang. -/
  | nop
  /-- EXIT, R143. Ends the active lanes of each slice of the gang, popping stack entries until a slice has active lanes or ends. -/
  | exit
  /-- RET, R140. Pops a call entry and restores its mask and program counter, trapping on an empty stack or a non-call entry. -/
  | ret
  /-- JOIN, R140. Pops the top stack entry, restoring its mask and continuing at a pending entry's address or falling through. -/
  | join
  /-- REGANG, R144. Rejoins into gangs the slices of a warp whose program counters all stand at REGANG, or repeats if any slice does not. -/
  | regang
  /-- YIELD, R165. Offers the warp for pre-emption in favour of a held warp of equal or higher priority. -/
  | yield
  /-- SLEEP_EXPIRY, R165. The sleep time of a waiting slice runs out and the slice becomes ready, or a saved one restorable. Acts on: warp, slice. -/
  | sleepExpiry
  /-- ERET, R167. Returns from a trap handler, restoring program counter, mode and active mask. -/
  | eret
  /-- RESULT_QUEUE_WRITE, R133. A fixed-latency result whose issue-cycle count runs out is written into its register or predicate. Acts on: warp, slice. -/
  | resultQueueWrite
  /-- LATCH_EXPIRY, R112. An operand-latch entry's two-instruction lifetime ends and its value becomes undefined. Acts on: warp, slice. -/
  | latchExpiry
  /-- FORMAT_TRAP_ENTRY, R241. A pending asynchronous format or hash configuration trap is entered by each slice of the gang before its next issue, after the drain. -/
  | formatTrapEntry
  /-- REGISTER_STARVATION, R162. When every resident warp of a core is blocked for register space, posts a record and enters the oldest blocked warp's slices into STARVE. Acts on: core. -/
  | registerStarvation
  /-- INSTRUCTION_FETCH, R240. Fetches an instruction word; a translation fault posts a fetch record and the slice waits for resume. -/
  | instructionFetch
  /-- CLUSTER_SPACE_ACCESS, R230. A cluster-space access to a register is performed at the owning core, waiting for a pending mark or a pre-empted sibling. Acts on: op. -/
  | clusterSpaceAccess
  /-- COPY_DATA_LANDING, R246. Data of a copy lands in ascending order and the landed prefix is added to the barrier object's bytes. Acts on: op. -/
  | copyDataLanding
  /-- PUBLISH_PERFORM, R64. At the entry's home slice, waits for the writer count to be zero, then increments the version and clears counter and target. Acts on: entry. -/
  | publishPerform
  /-- VERSION_FENCE_ARM, R66. At the home slice, sets the entry's contribution target, publishing at once if the counter already meets it. Acts on: entry. -/
  | versionFenceArm
  /-- LINE_TRANSLATION, R225. Translates a line through the page tables, setting accessed and dirty bits or raising a translation fault that posts a record and holds the access for replay. Acts on: op. -/
  | lineTranslation
  /-- LOAD_RETURN, R233. When every lane of a load has returned, writes all destinations together, raises flags and lowers the counter. Acts on: op. -/
  | loadReturn
  /-- STORE_ACKNOWLEDGEMENT, R231. A store line is acknowledged at its home slice and the st counter falls in order. Acts on: op. -/
  | storeAcknowledgement
  /-- HOME_LOAD, R256. A home slice serves a load request to a line in arrival order. Acts on: req, or 0 and the
  address of a byte that a host processor reads (R436, notes/assumptions/38.md). -/
  | homeLoad
  /-- HOME_STORE, R256. A home slice performs a store request to a line as one step in coherence order and invalidates copies. Acts on:
  req, or 0, the address and the bytes that a host processor writes (R436, notes/assumptions/38.md). -/
  | homeStore
  /-- COPY_INVALIDATION, R53. A home slice's asynchronous invalidation removes a first-level or other-die copy of a line. Acts on: n. -/
  | copyInvalidation
  /-- CACHED_COPY_EXPIRY, R416. A copy of a line homed on another device is discarded 65,536 mc after its fill. Acts on: holder, line. -/
  | cachedCopyExpiry
  /-- LINE_WRITE_BACK, R278. A line holding unwritten data is written back to HBM, compressed or not, when it leaves the shared cache. Acts on: line. -/
  | lineWriteBack
  /-- HOME_ATOMIC, R263. A home slice performs one atomic request lane by lane in ascending order as one step. Acts on: req. -/
  | homeAtomic
  /-- ATOMIC_RETURN, R259. When every lane of an atomic has returned, its destinations are written together and the at counter falls. Acts on: op. -/
  | atomicReturn
  /-- ROUTINE_RUN, R267. A home slice's microcore locks a line, runs the routine for one lane, commits or drops its writes and returns x10. Acts on: req. -/
  | routineRun
  /-- MONITOR_CHECK, R268. A home slice checks a WAITM lane's condition and either satisfies it or arms a monitor. Acts on: req. -/
  | monitorCheck
  /-- MONITOR_RETRY, R269. A lane that found no free monitor is checked again every 1,024 mc. Acts on: op. -/
  | monitorRetry
  /-- CONTRIBUTION, R273. A contribution to a reduction-page line is added at the home and counted, completing the line when the target is reached. Acts on: req. -/
  | contribution
  /-- UPDATE_STEP_COMPLETION, R276. When every write of an update step is performed, the entry's contribution counter increments and the line unlocks. Acts on: line. -/
  | updateStepCompletion
  /-- HCFG_PERFORM, R289. The hash engine checks the descriptors and records after earlier commands and makes the slot valid or takes the configuration trap. Acts on: cluster. -/
  | hcfgPerform
  /-- HLOOK_ACCEPT, R291. The engine accepts an HLOOK, samples its table version and serves it from the replica by trilinear interpolation. Acts on: cluster. -/
  | hlookAccept
  /-- REPLICA_REFILL, R294. Refills a slot's replica from the front backing of the sampled version and sets the tag. Acts on: cluster. -/
  | replicaRefill
  /-- HGRAD_SCATTER, R293. After translation, sends every weighted gradient add in level, lane, corner and feature order. Acts on: cluster. -/
  | hgradScatter
  /-- HASH_COMMAND_COMPLETION, R286. A hash command completes, raising its flags and adding its byte total to its barrier object. Acts on: cluster. -/
  | hashCommandCompletion
  /-- CELL_ARRAY_GRANT, R305. When the cell array falls idle, the regulator grants it to the eligible command of highest effective priority. Acts on: cluster. -/
  | cellArrayGrant
  /-- DRAIN_PATH_GRANT, R305. The regulator grants the drain path to an eligible BDRN. Acts on: cluster. -/
  | drainPathGrant
  /-- MATRIX_COMMAND_COMPLETION, R313. A matrix command completes, frees its reservation entry, raises flags and adds 128 bytes to its barrier object. Acts on: cluster, entry. -/
  | matrixCommandCompletion
  /-- CTX_YIELD, R359. Lets other ready contexts of the access processor issue first. -/
  | ctxYield
  /-- CTX_END, R359. Ends the context, making it idle. -/
  | ctxEnd
  /-- AP_OPERATION_COMPLETION, R357. A gather, scatter or pool completes and the context's outstanding count falls. Acts on: op. -/
  | apOperationCompletion
  /-- CONTEXT_PARK, R369. A faulted node or triangle fetch writes the context's save record and parks it with a fault record. Acts on: core, unit, ctx. -/
  | contextPark
  /-- GROUP_CLOSE_TIMEOUT, R365. A candidate group closes 256 mc after its first record, filling empty lanes. Acts on: core, queue. -/
  | groupCloseTimeout
  /-- POST_ARRIVAL, R392. The machine combines an arriving POST value into the die's partial result under nr.comb. Acts on: die. -/
  | postArrival
  /-- ESCAPEMENT_PLACEMENT, R384. The dispatcher places the head of the ready pool on clusters and cores that meet its needs. Acts on: die. -/
  | escapementPlacement
  /-- BATCH_TIMEOUT, R396. A partial batch becomes launchable when its time-out has passed since its first record. Acts on: die, graph, node. -/
  | batchTimeout
  /-- PREEMPTION, R387. When the ready pool's head cannot be placed, the machine chooses lower-priority victims to pre-empt. Acts on: die. -/
  | preemption
  /-- WARP_SAVE, R169. Stops a warp, waits for its outstanding accesses, writes its save area and frees its granules. Acts on: warp. -/
  | warpSave
  /-- NODE_COMPLETION, R382. Writes a node's result and status and resolves its successors' edges, completing the graph when all nodes have. Acts on: graph, node. -/
  | nodeCompletion
  /-- CHUNK_REQUEST, R400. A die asks the leader for a chunk of a node's indices. Acts on: die, graph, node. -/
  | chunkRequest
  /-- CHUNK_HANDOUT, R400. The leader hands out 64 indices after its mirrored counter write is acknowledged. Acts on: graph, node. -/
  | chunkHandout
  /-- HEARTBEAT, R401. A task-graph machine's heartbeat reaches the other die. Acts on: die. -/
  | heartbeat
  /-- DIE_FAILURE, R401. On link down or 65,536 mc without heartbeat, the surviving die becomes leader and handles lost chunks. Acts on: die. -/
  | dieFailure
  /-- BUDGET_WINDOW_END, R399. At the end of a 1,024-mc window of field B's clock with a resident warp of the graph, the die's budget falls by one. Acts on: die, graph. -/
  | budgetWindowEnd
  /-- HEADROOM_READING, R385. Every 256 mc the machine reads each field's headroom and holds or resumes placement. Acts on: die. -/
  | headroomReading
  /-- RETRY_REQUEST, R411. A sender resends every flit from the requested sequence number. Acts on: port, seq. -/
  | retryRequest
  /-- PORT_DOWN, R411. A port goes down after 16 retransmissions or 4,096 mc without acceptance, losing unanswered requests. Acts on: port. -/
  | portDown
  /-- PORT_UP, R429. A retrained port comes up and a kind 0x71 record is posted. Acts on: port. -/
  | portUp
  /-- DIE_TO_DIE_LINK_DOWN, R407. The die-to-die link goes down, posting records, losing requests and failing the other die. -/
  | dieToDieLinkDown
  /-- WRITE_CONTEXT_DESCRIPTOR, R375. Host command 0x01 writes a context descriptor. Acts on: ring. -/
  | writeContextDescriptor
  /-- SUBMIT_LAUNCH, R378. Host command 0x02 submits a plain launch as a graph of one index node. Acts on: ring. -/
  | submitLaunch
  /-- SUBMIT_GRAPH, R378. Host command 0x03 reads a graph descriptor and node table and readies its root nodes. Acts on: ring. -/
  | submitGraph
  /-- FRAME_EVENT, R399. Host command 0x04 resets background graphs' budgets and releases held nodes. Acts on: ring. -/
  | frameEvent
  /-- INVALIDATE_TRANSLATIONS, R437. Host command 0x05 invalidates cached translations of a range and completes once old uses are performed. Acts on: ring. -/
  | invalidateTranslations
  /-- RESUME_RECORD_REPLAY, R239. Host command 0x06 replays the operation of a waiting fault record. Acts on: ring. -/
  | resumeRecordReplay
  /-- RESUME_RECORD_ABORT, R239. Host command 0x06 aborts the operation of a waiting fault record. Acts on: ring. -/
  | resumeRecordAbort
  /-- FAULT_QUEUE_HEAD, R376. Host command 0x07 reports a fault queue's head count, letting waiting records be written. Acts on: ring. -/
  | faultQueueHead
  /-- WRITE_ROUTINE_SLOT, R265. Host command 0x08 checks and loads a programmable atomic routine into a slot. Acts on: ring. -/
  | writeRoutineSlot
  /-- WRITE_UPDATE_DESCRIPTOR, R275. Host command 0x09 writes an update descriptor. Acts on: ring. -/
  | writeUpdateDescriptor
  /-- WRITE_ACCESS_PROCESSOR_IMAGE, R341. Host command 0x0A gives a context's access-processor instruction image. Acts on: ring. -/
  | writeAccessProcessorImage
  /-- WRITE_PUBLISH_ENTRY, R62. Host command 0x0B writes a publish-table entry's backings, version and enable bit. Acts on: ring. -/
  | writePublishEntry
  /-- WRITE_COLLECTIVE_DESCRIPTOR, R418. Host command 0x0C writes a collective descriptor, resets its epoch and frees its overflow entries. Acts on: ring. -/
  | writeCollectiveDescriptor
  /-- SET_ROUTE_TABLE, R414. Host command 0x0D area 0 sets the route table's base. Acts on: ring. -/
  | setRouteTable
  /-- SET_APERTURE_TABLE, R415. Host command 0x0D area 1 sets the aperture table's base. Acts on: ring. -/
  | setApertureTable
  /-- SET_OVERFLOW_AREA, R423. Host command 0x0D area 2 reserves the collective overflow area. Acts on: ring. -/
  | setOverflowArea
  /-- SET_COMPRESSION_METADATA, R278. Host command 0x0D area 3 reserves the compression metadata region. Acts on: ring. -/
  | setCompressionMetadata
  /-- PARTITION_RESERVE, R425. Host command 0x0E reserves the highest clusters of a die for one context. Acts on: ring. -/
  | partitionReserve
  /-- PARTITION_RELEASE, R427. Host command 0x0E releases a partition when no warp of it is resident, or is refused. Acts on: ring. -/
  | partitionRelease
  /-- PERSISTENT_LAUNCH, R426. Host command 0x0F places every cohort of a persistent launch on the partition at once or rejects it. Acts on: ring. -/
  | persistentLaunch
  /-- FIELD_CONTROL, R445. Host command 0x10 sets a field's operating point and dispatch threshold. Acts on: ring. -/
  | fieldControl
  /-- RETRAIN_PORT, R429. Host command 0x11 starts retraining a system port. Acts on: ring. -/
  | retrainPort
  /-- READ_STATUS, R444. Host command 0x12 writes the ready maps and field status words to host memory. Acts on: ring. -/
  | readStatus
  /-- SCRUB_REPLAY, R450. Host command 0x13 writes given data into a poisoned line, clears the poison and replays held operations. Acts on: ring. -/
  | scrubReplay
  /-- SCRUB_ABORT, R450. Host command 0x13 aborts one operation held on a storage error, leaving the line poisoned. Acts on: ring. -/
  | scrubAbort
  /-- ATTESTATION_REPORT, R454. Host command 0x14 writes a signed report of identity, measurements and nonce. Acts on: ring. -/
  | attestationReport
  /-- BRING_UP_PACKAGE, R442. Host command 0x15 writes its completion and restarts bring-up from step 1, losing all volatile state. Acts on: ring. -/
  | bringUpPackage
  /-- RING_DOORBELL, R438. A write of hc.tail lets the device perform the ring's commands up to that count. Acts on: ring, tail. -/
  | ringDoorbell
  /-- RING_ENABLE, R439. A write of hc.ren enables or disables a command ring, ignored with a bad base or size. Acts on: ring, value. -/
  | ringEnable
  /-- ERROR_LOG_HEAD, R439. A write of hc.ehead frees error-log space for waiting error records. Acts on: count. -/
  | errorLogHead
  /-- HOST_REGISTER_WRITE, R439. A register-write message to a host control page field with no behaviour of its own stores it. Acts on: offset, value. -/
  | hostRegisterWrite
  /-- POWER_ON, R442. Power-on starts bring-up at step 1 with HBM rails and islands B powered. -/
  | powerOn
  /-- HOST_ATTACH_TRAINED, R435. A UCIe module finishes training and the host attach becomes ready. Acts on: modules. -/
  | hostAttachTrained
  /-- FIRMWARE_VERIFY, R452. The boot ROM verifies the fetched firmware image, setting rd.fwbad on failure. Acts on: die. -/
  | firmwareVerify
  /-- CONFIGURATION_LOAD, R442. A die loads its verified configuration and sets rd.mgmt. Acts on: die. -/
  | configurationLoad
  /-- DIE_TO_DIE_LINK_TRAINED, R442. The die-to-die link trains and die 1 receives the image. -/
  | dieToDieLinkTrained
  /-- TGM_START, R442. A die's task-graph machine starts and rd.tgm is set. Acts on: die. -/
  | tgmStart
  /-- FIELD_POWER_UP, R442. Islands A and C are powered and their clusters and home slices initialised. Acts on: die, field. -/
  | fieldPowerUp
  /-- HBM_STACK_TRAINED, R442. An HBM4 stack is trained and initialised and its ready bit set. Acts on: die, stack. -/
  | hbmStackTrained
  /-- SYSTEM_PORT_TRAINED, R442. A system port trains at bring-up and a port-up record is posted. Acts on: port. -/
  | systemPortTrained
  /-- CURRENT_THROTTLE, R446. An island above 1,450 A for 64 consecutive cycles halves its clock. Acts on: island, amps. -/
  | currentThrottle
  /-- CURRENT_THROTTLE_END, R446. An island's mean current over 256 mc falls below 1,400 A and its clock returns to full. Acts on: island, amps. -/
  | currentThrottleEnd
  /-- THERMAL_THROTTLE, R446. An island reaching 105 degrees C halves its clock. Acts on: island, temp. -/
  | thermalThrottle
  /-- THERMAL_THROTTLE_END, R446. An island falling below 100 degrees C returns to full clock. Acts on: island, temp. -/
  | thermalThrottleEnd
  /-- THERMAL_TRIP, R446. An island reaching 120 degrees C loses its rail and its state, posting records for its warps. Acts on: island, temp. -/
  | thermalTrip
  /-- VWRI_WRITE, R210. The scoreboarded register writes of a VWRI are performed 6 mc after its read cycle and the pending marks clear. Acts on: op. -/
  | vwriWrite
  /-- QUEUE_RETURN, R349. The entries taken by a QPOP or QPOP.n, or the snapshot of a QSTAT, arrive and are written into the pending destinations, and q is lowered for a pop. Acts on: op. -/
  | queueReturn
  /-- NODE_FETCH_RETURN, R362. The 64-byte node or 48-byte triangle fetched by rt.box or rt.tri returns, and the instruction's box or triangle test takes effect in its context. Acts on: op. -/
  | nodeFetchReturn
  /-- MIRROR_WRITE, R400. The leader's write of its index counter and chunk table arrives at the other die, which updates its copy and acknowledges it. Acts on: die. -/
  | mirrorWrite
  deriving DecidableEq, Repr, Inhabited

end Sys2Proof
end

