-- ==== Sys2Proof/WellFormed.lean ====
section
/-!
DEFINITION. Which instructions a word can name: checks 1 and 2 of R120 (spec/04_encoding.md), as far
as the fields of a row can break them. A field that the row's own description calls reserved for some
of its values, a destination outside 0 to 124 and a misaligned group are refused, each as R110 or the
rule cited beside it states.
-/

namespace Sys2Proof.WellFormed

/-- R110: a destination register field. -/
def dest (d : BitVec 7) : Bool := decide (d.toNat ≤ 124)

/-- R110: a group of `n` registers that is written: aligned, and all within v0 to v124. A written group at 124,
which would run over v124, is refused as an undefined opcode (DESIGN CHOICE, notes/assumptions/66.md). -/
def group (d : BitVec 7) (n : Nat) : Bool := decide (d.toNat % n = 0 ∧ d.toNat + n ≤ 125)

/-- R110: a group of `n` registers that is only read: aligned; 125 to 127 read latch entries, in a group at 124
too (DESIGN CHOICE, notes/assumptions/66.md). -/
def readGroup (d : BitVec 7) (n : Nat) : Bool := decide (d.toNat % n = 0)

/-- R146: the width of the mode field that MODEI's sub3 names. -/
def modeWidth (f : BitVec 3) : Nat :=
  match f.toNat with
  | 0 => 4
  | 1 => 4
  | 2 => 3
  | 3 => 1
  | 4 => 1
  | 5 => 3
  | 6 => 4
  | _ => 3

/-- R149, R310: the assigned selectors. -/
def selectors : List Nat :=
  [0x000, 0x001, 0x002, 0x003, 0x004, 0x005, 0x006, 0x007, 0x008, 0x009, 0x010, 0x011, 0x012, 0x013,
   0x014, 0x015, 0x020, 0x021, 0x030, 0x031, 0x032, 0x040, 0x041, 0x050, 0x051, 0x052, 0x053, 0x054,
   0x055, 0x056, 0x057, 0x800, 0x801, 0x808, 0x809, 0x80A, 0x80B, 0x80C, 0x80D, 0x80E, 0x80F]

/-- R149: the selectors that WRS may name and that no row of their own covers. -/
def writable : List Nat := [0x014, 0x052, 0x053, 0x054, 0x055]

/-- R163: a barrier count. -/
def barCount (c : BitVec 1) (i : BitVec 15) : Bool :=
  decide (1 ≤ i.toNat ∧ i.toNat ≤ if c = 1 then 128 else 32)

/-- R311: without its enable bit the tile-predicate field is reserved. -/
def tile (e : BitVec 1) (t : BitVec 4) : Bool := decide (e = 1 ∨ t = 0)

/-- R115, R118: an atomic operation code below `n`. -/
def op (o : BitVec 3) (n : Nat) : Bool := decide (o.toNat < n)

/-- R347: the registers of a multi-entry queue form with size code `z`. -/
def queueGroup (d : BitVec 7) (z : BitVec 2) : Bool := group d (2 ^ (z.toNat + 1))

/-- The fields of an integer-register RV32IM word (R338), by major opcode. -/
def rvBase (w : BitVec 32) : Bool :=
  let op := w.toNat % 128
  let f3 := w.toNat / 2 ^ 12 % 8
  let f7 := w.toNat / 2 ^ 25
  decide (op = 0x37 ∨ op = 0x17 ∨ op = 0x6F ∨ (op = 0x67 ∧ f3 = 0) ∨
    (op = 0x63 ∧ f3 ≠ 2 ∧ f3 ≠ 3) ∨ (op = 0x03 ∧ (f3 ≤ 2 ∨ f3 = 4 ∨ f3 = 5)) ∨
    (op = 0x23 ∧ f3 ≤ 2) ∨
    (op = 0x13 ∧ (f3 = 1 → f7 = 0) ∧ (f3 = 5 → f7 = 0 ∨ f7 = 32)) ∨
    (op = 0x33 ∧ (f7 = 0 ∨ f7 = 1 ∨ (f7 = 32 ∧ (f3 = 0 ∨ f3 = 5)))) ∨
    (op = 0x0F ∧ f3 = 0))

end Sys2Proof.WellFormed

namespace Sys2Proof

open WellFormed in
/-- Checks 1 and 2 of R120 on the fields of an instruction. A row without an encoding has no word to
check. -/
def Instr.wellFormed : Instr → Bool
  | .modei s f => decide (s.toNat < 2 ^ modeWidth f)
  | .rds d s => dest d && decide (s.toNat ∈ selectors ∧ s.toNat ≠ 0x030)
  | .rdsClockLo d => dest d
  | .wrs _ s => decide (s.toNat ∈ writable)
  | .freeze l => decide (2 ≤ l.toNat ∧ l.toNat ≤ 6)
  | .grow i => decide (i.toNat ≠ 0 ∧ i.toNat % 8 = 0)
  | .shrink i => decide (i.toNat ≠ 0 ∧ i.toNat % 8 = 0)
  | .donate _ _ n => decide (1 ≤ n.toNat ∧ n.toNat ≤ 128)
  | .bar c _ i => barCount c i
  | .bara c _ i => barCount c i
  | .waitc _ _ p => decide (p.toNat ≤ 4)
  | .iadd _ d _ _ => dest d
  | .iaddi _ d _ _ => dest d
  | .isub _ d _ _ => dest d
  | .imul _ d _ _ => dest d
  | .imulImm _ d _ _ => dest d
  | .imulh _ d _ _ => dest d
  | .imad _ d _ _ => dest d
  | .imin _ d _ _ => dest d
  | .iminImm _ d _ _ => dest d
  | .imax _ d _ _ => dest d
  | .imaxImm _ d _ _ => dest d
  | .iabs _ d _ => dest d
  | .and _ d _ _ => dest d
  | .andImm _ d _ _ => dest d
  | .or _ d _ _ => dest d
  | .orImm _ d _ _ => dest d
  | .xor _ d _ _ => dest d
  | .xorImm _ d _ _ => dest d
  | .andn _ d _ _ => dest d
  | .not _ d _ => dest d
  | .shl _ d _ _ => dest d
  | .shlImm _ d _ _ => dest d
  | .shr _ d _ _ => dest d
  | .shrImm _ d _ _ => dest d
  | .sar _ d _ _ => dest d
  | .sarImm _ d _ _ => dest d
  | .rot _ d _ _ => dest d
  | .rotImm _ d _ _ => dest d
  | .popc _ d _ => dest d
  | .clz _ d _ => dest d
  | .brev _ d _ => dest d
  | .bfe _ d _ _ => dest d
  | .bfi _ d _ _ => dest d
  | .icmp _ c _ _ _ => decide (c.toNat ≤ 5)
  | .icmpImm _ c _ _ _ => decide (c.toNat ≤ 5)
  | .sel _ d _ _ => dest d
  | .mov _ d _ => dest d
  | .movi d _ => dest d
  | .movh _ d _ => dest d
  | .lea _ d _ _ => dest d
  | .fadd _ d _ _ => dest d
  | .faddAbs _ d _ _ => dest d
  | .fsub _ d _ _ => dest d
  | .fsubAbs _ d _ _ => dest d
  | .fmul _ d _ _ => dest d
  | .fmulAbs _ d _ _ => dest d
  | .ffma _ d _ _ => dest d
  | .ffmaNp _ d _ _ => dest d
  | .ffmaNd _ d _ _ => dest d
  | .ffmaNn _ d _ _ => dest d
  | .fmin _ d _ _ => dest d
  | .fminNan _ d _ _ => dest d
  | .fminAbs _ d _ _ => dest d
  | .fmax _ d _ _ => dest d
  | .fmaxNan _ d _ _ => dest d
  | .fmaxAbs _ d _ _ => dest d
  | .fcmp _ c _ _ _ => decide (c.toNat ≤ 7)
  | .fcmpZ _ c _ _ => decide (c.toNat ≤ 7)
  | .frcp _ d _ => dest d
  | .frsq _ d _ => dest d
  | .fsqrt _ d _ => dest d
  | .fexp2 _ d _ => dest d
  | .flog2 _ d _ => dest d
  | .fsin _ d _ => dest d
  | .fsinPi _ d _ => dest d
  | .fcos _ d _ => dest d
  | .fcosPi _ d _ => dest d
  | .ftanh _ d _ => dest d
  | .ffloor _ d _ => dest d
  | .ffrac _ d _ => dest d
  | .cvt _ d _ t => dest d && decide (t.toNat = 6 ∨ t.toNat = 7)
  | .cvtFi _ d _ t => dest d && decide (t.toNat ≤ 5)
  | .cvtIf _ d _ t => dest d && decide (t.toNat = 6 ∨ t.toNat = 7)
  | .cvtIi _ d _ t => dest d && decide (t.toNat ≤ 5)
  | .cvtb _ d _ _ => dest d
  | .cvtbD _ d _ _ => dest d
  | .cvts _ d _ _ _ => dest d
  | .cbenc _ d _ => dest d
  | .vperm _ d _ _ => dest d
  | .vshfl _ d _ _ => dest d
  | .vbfx _ d _ _ => dest d
  | .vbcast _ d _ _ => dest d
  | .vred _ d _ o => dest d && op o 6
  | .vscan _ d _ _ o => dest d && op o 6
  | .vrdi _ d _ => dest d
  | .vbal d _ => dest d
  | .vvote v _ _ => decide (v.toNat ≤ 2)
  | .brec _ _ a => group a 4
  | .ld _ d _ _ => dest d
  | .ldImm d _ _ => dest d
  | .ldx _ d _ _ w => group d (if w = 1 then 4 else 2)
  | .ldxImm d _ w _ => group d (if w = 1 then 4 else 2)
  | .stx _ d _ _ w => readGroup d (if w = 1 then 4 else 2)
  | .stxImm d _ w _ => readGroup d (if w = 1 then 4 else 2)
  | .lda _ d _ _ => dest d
  | .ldaImm d _ _ => dest d
  | .ldc _ d _ _ => dest d
  | .ldaCluster _ d _ _ => dest d
  | .acpy d _ _ _ => group d 4
  | .apln d _ _ _ => group d 4
  | .arrive _ _ n => decide (n.toNat ≠ 0)
  | .fence m s => decide (if m = 1 then s.toNat ≤ 5 else s = 0)
  | .atomGlobal _ d _ o _ => dest d && op o 7
  | .atomCluster _ d _ o => dest d && op o 7
  | .redGlobal _ _ _ o _ => op o 6
  | .redCluster _ _ _ o => op o 6
  | .atomfGlobal _ d _ o _ => dest d && op o 3
  | .atomfCluster _ d _ o => dest d && op o 3
  | .acasGlobal _ d _ _ => dest d && readGroup d 2
  | .acasCluster _ d _ => dest d && readGroup d 2
  | .atomp d _ _ => group d 4
  | .waitmGlobal _ _ _ c _ => op c 6
  | .waitmCluster _ _ _ c => op c 6
  | .atomD _ d _ o _ => group d 2 && op o 7
  | .redD _ d _ o _ => readGroup d 2 && op o 6
  | .acasD _ d _ _ => group d 4
  | .cacheopArm d _ => readGroup d 2
  | .cacheopDisarm d _ => readGroup d 2
  | .cacheopFlush d _ => readGroup d 2
  | .cacheopEvict d _ => readGroup d 2
  | .cacheopPackOn d _ => readGroup d 2
  | .cacheopPackOff d _ => readGroup d 2
  | .cacheopRangeFlush _ a _ => readGroup a 2
  | .cacheopRangeEvict _ a _ => readGroup a 2
  | .hcfg d _ _ _ => group d 4
  | .hlookRows d _ _ _ => group d 4
  | .hlookPlanes d _ _ _ => group d 4
  | .hgrad d _ _ _ => group d 4
  | .bstg d e t _ m => group d 4 && tile e t && decide (m ≠ 0)
  | .bchn d e t n m => group d 4 && tile e t && decide (m ≠ 0 ∧ n.toNat ≤ 9)
  | .btrn d e t n m => group d 4 && tile e t && decide (m ≠ 0 ∧ n.toNat ≤ 9)
  | .btrnW d e t _ m => group d 4 && tile e t && decide (m ≠ 0)
  | .bdns d e t _ _ f c m => group d 4 && tile e t && decide (f ≠ 3 ∧ (if f = 0 then m ≠ 0 else m = 0) ∧ (f ≠ 2 → c = 0))
  | .bdrn d e t _ _ o => group d 4 && tile e t && decide (d.toNat ≤ 116 ∧ o.toNat ≤ 3)
  | .qpush _ q => decide (2 ≤ q.toNat)
  | .qpushN d z q => decide (2 ≤ q.toNat) && queueGroup d z
  | .qpushRt d => group d 4
  | .qpop d q => dest d && decide (q.toNat ≤ 1)
  | .qpopN d z q => decide (q.toNat ≤ 1) && queueGroup d z
  | .qstat d k => dest d && decide (k.toNat ≤ 2)
  | .apgo d _ _ => group d 4
  | .emit d _ => group d 4
  | .emitReg _ d _ => group d 4
  | .apBaseInstruction w => rvBase w
  | .apEnvironmentCall w => decide (w = 0x00000073 ∨ w = 0x00100073)
  | _ => true

end Sys2Proof
end

