-- ==== Sys2Proof/Decode.lean ====
section
/-!
DEFINITION. From words to instructions and back (R105 to R120 of spec/04_encoding.md; R338, R353 of
spec/11_access_processors.md). A core word and an access-processor word are both 32 bits; which of the
two a word is follows from who fetches it.
-/

namespace Sys2Proof

/-- Why a word is no instruction (R120, checks 1 and 2). -/
inductive Reject where
  /-- Its opcode is unassigned. -/
  | unassignedOpcode
  /-- A reserved field is not zero. -/
  | reservedField
  /-- A field holds a reserved code, or a register field breaks R110. -/
  | illFormed
  deriving DecidableEq, Repr, Inhabited

/-- The `n` bits of `w` from bit `lo` on. -/
def fld (n w lo : Nat) : BitVec n := BitVec.ofNat n (w / 2 ^ lo)

/-- Every listed range of `w` (lowest bit, width, value) holds its value. -/
def fixed (w : Nat) : List (Nat × Nat × Nat) → Bool
  | [] => true
  | (lo, n, v) :: r => decide (w / 2 ^ lo % 2 ^ n = v) && fixed w r

/-- Accepts `i` if the fixed bits of its row and its own fields allow it. -/
def row (w : Nat) (f : List (Nat × Nat × Nat)) (i : Instr) : Except Reject Instr :=
  if fixed w f then if i.wellFormed then .ok i else .error .illFormed else .error .reservedField

/-- As `row`, but a word whose fixed bits differ belongs to another row of the opcode. -/
def rowOr (w : Nat) (f : List (Nat × Nat × Nat)) (i : Instr) (e : Except Reject Instr) :
    Except Reject Instr :=
  if fixed w f then if i.wellFormed then .ok i else .error .illFormed else e

/-- The words whose opcode is 0x00 to 0x0F (R118). -/
def ops0 (w : Nat) : Except Reject Instr :=
  match w / 16777216 % 16 with
  | 0 => row w [(0, 24, 0)] (.nop)
  | 1 => row w [(0, 24, 0)] (.exit)
  | 2 => row w [] (.bra (fld 24 w 0))
  | 3 => row w [] (.brc (fld 24 w 0))
  | 4 => row w [(0, 8, 0), (15, 7, 0)] (.bri (fld 2 w 22) (fld 7 w 8))
  | 5 => row w [] (.call (fld 24 w 0))
  | 6 => row w [(0, 8, 0), (15, 7, 0)] (.calli (fld 2 w 22) (fld 7 w 8))
  | 7 => row w [(0, 24, 0)] (.ret)
  | 8 => row w [] (.mark (fld 24 w 0))
  | 9 => row w [(0, 24, 0)] (.join)
  | 10 => row w [(0, 24, 0)] (.regang)
  | 11 => row w [(0, 8, 0), (15, 7, 0)] (.mode (fld 2 w 22) (fld 7 w 8))
  | 12 => row w [(15, 9, 0)] (.modei (fld 12 w 3) (fld 3 w 0))
  | 13 => row w [(0, 8, 0), (15, 7, 0)] (.win (fld 2 w 22) (fld 7 w 8))
  | 14 => row w [(15, 9, 0)] (.wini (fld 15 w 0))
  | 15 => rowOr w [(0, 15, 384), (22, 2, 0)] (.rdsClockLo (fld 7 w 15))
      (row w [(0, 3, 0), (22, 2, 0)] (.rds (fld 7 w 15) (fld 12 w 3)))
  | _ => .error .unassignedOpcode

/-- The words whose opcode is 0x10 to 0x1F (R118). -/
def ops1 (w : Nat) : Except Reject Instr :=
  match w / 16777216 % 16 with
  | 0 => rowOr w [(0, 15, 128), (22, 2, 0)] (.wrsWin (fld 7 w 15))
      (rowOr w [(0, 15, 256), (22, 2, 0)] (.wrsFlags (fld 7 w 15))
      (rowOr w [(0, 15, 264), (22, 2, 0)] (.wrsSrseed (fld 7 w 15))
      (row w [(0, 3, 0), (22, 2, 0)] (.wrs (fld 7 w 15) (fld 12 w 3)))))
  | 1 => row w [(3, 21, 0)] (.freeze (fld 3 w 0))
  | 2 => row w [(15, 9, 0)] (.grow (fld 15 w 0))
  | 3 => row w [(15, 9, 0)] (.shrink (fld 15 w 0))
  | 4 => row w [(15, 7, 0)] (.donate (fld 2 w 22) (fld 7 w 8) (fld 8 w 0))
  | 5 => row w [(4, 20, 0)] (.rend (fld 4 w 0))
  | 6 => row w [(19, 2, 0), (22, 2, 0)] (.bar (fld 1 w 21) (fld 4 w 15) (fld 15 w 0))
  | 7 => row w [(19, 2, 0), (22, 2, 0)] (.bara (fld 1 w 21) (fld 4 w 15) (fld 15 w 0))
  | 8 => row w [(3, 5, 0), (15, 7, 0)] (.waitc (fld 2 w 22) (fld 7 w 8) (fld 3 w 0))
  | 9 => row w [(1, 7, 0), (15, 7, 0)] (.waitp (fld 2 w 22) (fld 7 w 8) (fld 1 w 0))
  | 10 => row w [(0, 24, 0)] (.yield)
  | 11 => row w [(15, 9, 0)] (.sleep (fld 15 w 0))
  | 12 => row w [(15, 9, 0)] (.trap (fld 15 w 0))
  | 13 => row w [(0, 24, 0)] (.eret)
  | 14 => row w [(0, 8, 0), (15, 7, 0)] (.growReg (fld 2 w 22) (fld 7 w 8))
  | 15 => row w [(0, 8, 0), (15, 7, 0)] (.shrinkReg (fld 2 w 22) (fld 7 w 8))
  | _ => .error .unassignedOpcode

/-- The words whose opcode is 0x20 to 0x2F (R118). -/
def ops2 (w : Nat) : Except Reject Instr :=
  match w / 16777216 % 16 with
  | 0 => row w [(4, 3, 0), (15, 7, 0)] (.barReg (fld 2 w 22) (fld 7 w 8) (fld 1 w 7) (fld 4 w 0))
  | 1 => row w [(4, 3, 0), (15, 7, 0)] (.baraReg (fld 2 w 22) (fld 7 w 8) (fld 1 w 7) (fld 4 w 0))
  | _ => .error .unassignedOpcode

/-- The words whose opcode is 0x30 to 0x3F (R118). -/
def ops3 (w : Nat) : Except Reject Instr :=
  match w / 16777216 % 16 with
  | 0 => row w [(0, 1, 0)] (.iadd (fld 2 w 22) (fld 7 w 15) (fld 7 w 8) (fld 7 w 1))
  | 1 => row w [] (.iaddi (fld 2 w 22) (fld 7 w 15) (fld 7 w 8) (fld 8 w 0))
  | 2 => row w [(0, 1, 0)] (.isub (fld 2 w 22) (fld 7 w 15) (fld 7 w 8) (fld 7 w 1))
  | 3 => row w [(0, 1, 0)] (.imul (fld 2 w 22) (fld 7 w 15) (fld 7 w 8) (fld 7 w 1))
  | 4 => row w [] (.imulImm (fld 2 w 22) (fld 7 w 15) (fld 7 w 8) (fld 8 w 0))
  | 5 => row w [(0, 1, 0)] (.imulh (fld 2 w 22) (fld 7 w 15) (fld 7 w 8) (fld 7 w 1))
  | 6 => row w [(0, 1, 0)] (.imad (fld 2 w 22) (fld 7 w 15) (fld 7 w 8) (fld 7 w 1))
  | 7 => row w [(0, 1, 0)] (.imin (fld 2 w 22) (fld 7 w 15) (fld 7 w 8) (fld 7 w 1))
  | 8 => row w [] (.iminImm (fld 2 w 22) (fld 7 w 15) (fld 7 w 8) (fld 8 w 0))
  | 9 => row w [(0, 1, 0)] (.imax (fld 2 w 22) (fld 7 w 15) (fld 7 w 8) (fld 7 w 1))
  | 10 => row w [] (.imaxImm (fld 2 w 22) (fld 7 w 15) (fld 7 w 8) (fld 8 w 0))
  | 11 => row w [(0, 8, 0)] (.iabs (fld 2 w 22) (fld 7 w 15) (fld 7 w 8))
  | 12 => row w [(0, 1, 0)] (.and (fld 2 w 22) (fld 7 w 15) (fld 7 w 8) (fld 7 w 1))
  | 13 => row w [] (.andImm (fld 2 w 22) (fld 7 w 15) (fld 7 w 8) (fld 8 w 0))
  | 14 => row w [(0, 1, 0)] (.or (fld 2 w 22) (fld 7 w 15) (fld 7 w 8) (fld 7 w 1))
  | 15 => row w [] (.orImm (fld 2 w 22) (fld 7 w 15) (fld 7 w 8) (fld 8 w 0))
  | _ => .error .unassignedOpcode

/-- The words whose opcode is 0x40 to 0x4F (R118). -/
def ops4 (w : Nat) : Except Reject Instr :=
  match w / 16777216 % 16 with
  | 0 => row w [(0, 1, 0)] (.xor (fld 2 w 22) (fld 7 w 15) (fld 7 w 8) (fld 7 w 1))
  | 1 => row w [] (.xorImm (fld 2 w 22) (fld 7 w 15) (fld 7 w 8) (fld 8 w 0))
  | 2 => row w [(0, 1, 0)] (.andn (fld 2 w 22) (fld 7 w 15) (fld 7 w 8) (fld 7 w 1))
  | 3 => row w [(0, 8, 0)] (.not (fld 2 w 22) (fld 7 w 15) (fld 7 w 8))
  | 4 => row w [(0, 1, 0)] (.shl (fld 2 w 22) (fld 7 w 15) (fld 7 w 8) (fld 7 w 1))
  | 5 => row w [(5, 3, 0)] (.shlImm (fld 2 w 22) (fld 7 w 15) (fld 7 w 8) (fld 5 w 0))
  | 6 => row w [(0, 1, 0)] (.shr (fld 2 w 22) (fld 7 w 15) (fld 7 w 8) (fld 7 w 1))
  | 7 => row w [(5, 3, 0)] (.shrImm (fld 2 w 22) (fld 7 w 15) (fld 7 w 8) (fld 5 w 0))
  | 8 => row w [(0, 1, 0)] (.sar (fld 2 w 22) (fld 7 w 15) (fld 7 w 8) (fld 7 w 1))
  | 9 => row w [(5, 3, 0)] (.sarImm (fld 2 w 22) (fld 7 w 15) (fld 7 w 8) (fld 5 w 0))
  | 10 => row w [(0, 1, 0)] (.rot (fld 2 w 22) (fld 7 w 15) (fld 7 w 8) (fld 7 w 1))
  | 11 => row w [(5, 3, 0)] (.rotImm (fld 2 w 22) (fld 7 w 15) (fld 7 w 8) (fld 5 w 0))
  | 12 => row w [(0, 8, 0)] (.popc (fld 2 w 22) (fld 7 w 15) (fld 7 w 8))
  | 13 => row w [(0, 8, 0)] (.clz (fld 2 w 22) (fld 7 w 15) (fld 7 w 8))
  | 14 => row w [(0, 8, 0)] (.brev (fld 2 w 22) (fld 7 w 15) (fld 7 w 8))
  | 15 => row w [(0, 1, 0)] (.bfe (fld 2 w 22) (fld 7 w 15) (fld 7 w 8) (fld 7 w 1))
  | _ => .error .unassignedOpcode

/-- The words whose opcode is 0x50 to 0x5F (R118). -/
def ops5 (w : Nat) : Except Reject Instr :=
  match w / 16777216 % 16 with
  | 0 => row w [(0, 1, 0)] (.bfi (fld 2 w 22) (fld 7 w 15) (fld 7 w 8) (fld 7 w 1))
  | 1 => row w [(0, 1, 0)] (.icmp (fld 2 w 22) (fld 4 w 18) (fld 3 w 15) (fld 7 w 8) (fld 7 w 1))
  | 2 => row w [] (.icmpImm (fld 2 w 22) (fld 4 w 18) (fld 3 w 15) (fld 7 w 8) (fld 8 w 0))
  | 3 => row w [(0, 1, 0)] (.sel (fld 2 w 22) (fld 7 w 15) (fld 7 w 8) (fld 7 w 1))
  | 4 => row w [(0, 8, 0)] (.mov (fld 2 w 22) (fld 7 w 15) (fld 7 w 8))
  | 5 => row w [(22, 2, 0)] (.movi (fld 7 w 15) (fld 15 w 0))
  | 6 => row w [] (.movh (fld 2 w 22) (fld 7 w 15) (fld 15 w 0))
  | 7 => row w [(0, 1, 0)] (.lea (fld 2 w 22) (fld 7 w 15) (fld 7 w 8) (fld 7 w 1))
  | 8 => row w [(4, 4, 0), (11, 4, 0), (18, 6, 0)] (.pand (fld 3 w 15) (fld 3 w 8) (fld 3 w 1) (fld 1 w 0))
  | 9 => row w [(4, 4, 0), (11, 4, 0), (18, 6, 0)] (.por (fld 3 w 15) (fld 3 w 8) (fld 3 w 1) (fld 1 w 0))
  | 10 => row w [(0, 8, 0), (11, 4, 0), (18, 6, 0)] (.pnot (fld 3 w 15) (fld 3 w 8))
  | 11 => rowOr w [(0, 8, 0), (11, 4, 0), (18, 6, 0)] (.pmov (fld 3 w 15) (fld 3 w 8))
      (row w [(0, 8, 1), (18, 4, 0)] (.pmovReg (fld 2 w 22) (fld 3 w 15) (fld 7 w 8)))
  | _ => .error .unassignedOpcode

/-- The words whose opcode is 0x70 to 0x7F (R118). -/
def ops7 (w : Nat) : Except Reject Instr :=
  match w / 16777216 % 16 with
  | 0 => row w [(0, 1, 0)] (.fadd (fld 2 w 22) (fld 7 w 15) (fld 7 w 8) (fld 7 w 1))
  | 1 => row w [(0, 1, 0)] (.faddAbs (fld 2 w 22) (fld 7 w 15) (fld 7 w 8) (fld 7 w 1))
  | 2 => row w [(0, 1, 0)] (.fsub (fld 2 w 22) (fld 7 w 15) (fld 7 w 8) (fld 7 w 1))
  | 3 => row w [(0, 1, 0)] (.fsubAbs (fld 2 w 22) (fld 7 w 15) (fld 7 w 8) (fld 7 w 1))
  | 4 => row w [(0, 1, 0)] (.fmul (fld 2 w 22) (fld 7 w 15) (fld 7 w 8) (fld 7 w 1))
  | 5 => row w [(0, 1, 0)] (.fmulAbs (fld 2 w 22) (fld 7 w 15) (fld 7 w 8) (fld 7 w 1))
  | 6 => row w [(0, 1, 0)] (.ffma (fld 2 w 22) (fld 7 w 15) (fld 7 w 8) (fld 7 w 1))
  | 7 => row w [(0, 1, 0)] (.ffmaNp (fld 2 w 22) (fld 7 w 15) (fld 7 w 8) (fld 7 w 1))
  | 8 => row w [(0, 1, 0)] (.ffmaNd (fld 2 w 22) (fld 7 w 15) (fld 7 w 8) (fld 7 w 1))
  | 9 => row w [(0, 1, 0)] (.ffmaNn (fld 2 w 22) (fld 7 w 15) (fld 7 w 8) (fld 7 w 1))
  | 10 => row w [(0, 1, 0)] (.fmin (fld 2 w 22) (fld 7 w 15) (fld 7 w 8) (fld 7 w 1))
  | 11 => row w [(0, 1, 0)] (.fminNan (fld 2 w 22) (fld 7 w 15) (fld 7 w 8) (fld 7 w 1))
  | 12 => row w [(0, 1, 0)] (.fminAbs (fld 2 w 22) (fld 7 w 15) (fld 7 w 8) (fld 7 w 1))
  | 13 => row w [(0, 1, 0)] (.fmax (fld 2 w 22) (fld 7 w 15) (fld 7 w 8) (fld 7 w 1))
  | 14 => row w [(0, 1, 0)] (.fmaxNan (fld 2 w 22) (fld 7 w 15) (fld 7 w 8) (fld 7 w 1))
  | 15 => row w [(0, 1, 0)] (.fmaxAbs (fld 2 w 22) (fld 7 w 15) (fld 7 w 8) (fld 7 w 1))
  | _ => .error .unassignedOpcode

/-- The words whose opcode is 0x80 to 0x8F (R118). -/
def ops8 (w : Nat) : Except Reject Instr :=
  match w / 16777216 % 16 with
  | 0 => row w [(0, 1, 0)] (.fcmp (fld 2 w 22) (fld 4 w 18) (fld 3 w 15) (fld 7 w 8) (fld 7 w 1))
  | 1 => row w [(0, 8, 0)] (.fcmpZ (fld 2 w 22) (fld 4 w 18) (fld 3 w 15) (fld 7 w 8))
  | 2 => row w [(0, 8, 0)] (.frcp (fld 2 w 22) (fld 7 w 15) (fld 7 w 8))
  | 3 => row w [(0, 8, 0)] (.frsq (fld 2 w 22) (fld 7 w 15) (fld 7 w 8))
  | 4 => row w [(0, 8, 0)] (.fsqrt (fld 2 w 22) (fld 7 w 15) (fld 7 w 8))
  | 5 => row w [(0, 8, 0)] (.fexp2 (fld 2 w 22) (fld 7 w 15) (fld 7 w 8))
  | 6 => row w [(0, 8, 0)] (.flog2 (fld 2 w 22) (fld 7 w 15) (fld 7 w 8))
  | 7 => row w [(0, 8, 0)] (.fsin (fld 2 w 22) (fld 7 w 15) (fld 7 w 8))
  | 8 => row w [(0, 8, 0)] (.fsinPi (fld 2 w 22) (fld 7 w 15) (fld 7 w 8))
  | 9 => row w [(0, 8, 0)] (.fcos (fld 2 w 22) (fld 7 w 15) (fld 7 w 8))
  | 10 => row w [(0, 8, 0)] (.fcosPi (fld 2 w 22) (fld 7 w 15) (fld 7 w 8))
  | 11 => row w [(0, 8, 0)] (.ftanh (fld 2 w 22) (fld 7 w 15) (fld 7 w 8))
  | 12 => row w [(0, 8, 0)] (.ffloor (fld 2 w 22) (fld 7 w 15) (fld 7 w 8))
  | 13 => row w [(0, 8, 0)] (.ffrac (fld 2 w 22) (fld 7 w 15) (fld 7 w 8))
  | 14 => row w [(0, 1, 0), (5, 3, 0)] (.cvt (fld 2 w 22) (fld 7 w 15) (fld 7 w 8) (fld 4 w 1))
  | 15 => row w [(0, 1, 0), (5, 3, 0)] (.cvtFi (fld 2 w 22) (fld 7 w 15) (fld 7 w 8) (fld 4 w 1))
  | _ => .error .unassignedOpcode

/-- The words whose opcode is 0x90 to 0x9F (R118). -/
def ops9 (w : Nat) : Except Reject Instr :=
  match w / 16777216 % 16 with
  | 0 => row w [(0, 1, 0), (5, 3, 0)] (.cvtIf (fld 2 w 22) (fld 7 w 15) (fld 7 w 8) (fld 4 w 1))
  | 1 => row w [(0, 1, 0), (5, 3, 0)] (.cvtIi (fld 2 w 22) (fld 7 w 15) (fld 7 w 8) (fld 4 w 1))
  | 2 => row w [(0, 1, 0)] (.cvtb (fld 2 w 22) (fld 7 w 15) (fld 7 w 8) (fld 7 w 1))
  | 3 => row w [(0, 1, 0)] (.cvtbD (fld 2 w 22) (fld 7 w 15) (fld 7 w 8) (fld 7 w 1))
  | 4 => row w [] (.cvts (fld 2 w 22) (fld 7 w 15) (fld 7 w 8) (fld 7 w 1) (fld 1 w 0))
  | 5 => row w [(0, 8, 0)] (.cbenc (fld 2 w 22) (fld 7 w 15) (fld 7 w 8))
  | _ => .error .unassignedOpcode

/-- The words whose opcode is 0xA0 to 0xAF (R118). -/
def opsA (w : Nat) : Except Reject Instr :=
  match w / 16777216 % 16 with
  | 0 => row w [(0, 1, 0)] (.vperm (fld 2 w 22) (fld 7 w 15) (fld 7 w 8) (fld 7 w 1))
  | 1 => row w [(0, 1, 0)] (.vshfl (fld 2 w 22) (fld 7 w 15) (fld 7 w 8) (fld 7 w 1))
  | 2 => row w [(5, 3, 0)] (.vbfx (fld 2 w 22) (fld 7 w 15) (fld 7 w 8) (fld 5 w 0))
  | 3 => row w [(5, 3, 0)] (.vbcast (fld 2 w 22) (fld 7 w 15) (fld 7 w 8) (fld 5 w 0))
  | 4 => row w [(3, 5, 0)] (.vred (fld 2 w 22) (fld 7 w 15) (fld 7 w 8) (fld 3 w 0))
  | 5 => row w [(4, 4, 0)] (.vscan (fld 2 w 22) (fld 7 w 15) (fld 7 w 8) (fld 1 w 3) (fld 3 w 0))
  | 6 => row w [(0, 8, 0)] (.vrdi (fld 2 w 22) (fld 7 w 15) (fld 7 w 8))
  | 7 => row w [(0, 8, 0)] (.vwri (fld 2 w 22) (fld 7 w 15) (fld 7 w 8))
  | 8 => row w [(0, 8, 0), (11, 4, 0), (22, 2, 0)] (.vbal (fld 7 w 15) (fld 3 w 8))
  | 9 => row w [(0, 8, 0), (11, 4, 0), (22, 2, 0)] (.vvote (fld 4 w 18) (fld 3 w 15) (fld 3 w 8))
  | _ => .error .unassignedOpcode

/-- The words whose opcode is 0xB0 to 0xBF (R118). -/
def opsB (w : Nat) : Except Reject Instr :=
  match w / 16777216 % 16 with
  | 0 => row w [(0, 8, 0), (19, 3, 0)] (.brec (fld 2 w 22) (fld 4 w 15) (fld 7 w 8))
  | 1 => row w [(0, 1, 0), (5, 3, 0)] (.ld (fld 2 w 22) (fld 7 w 15) (fld 7 w 8) (fld 4 w 1))
  | 2 => row w [(12, 3, 0), (22, 2, 0)] (.ldImm (fld 7 w 15) (fld 4 w 8) (fld 8 w 0))
  | 3 => row w [(5, 3, 0)] (.ldx (fld 2 w 22) (fld 7 w 15) (fld 7 w 8) (fld 4 w 1) (fld 1 w 0))
  | 4 => row w [(12, 3, 0), (22, 2, 0)] (.ldxImm (fld 7 w 15) (fld 4 w 8) (fld 1 w 7) (fld 7 w 0))
  | 5 => row w [(0, 1, 0), (5, 3, 0)] (.st (fld 2 w 22) (fld 7 w 15) (fld 7 w 8) (fld 4 w 1))
  | 6 => row w [(12, 3, 0), (22, 2, 0)] (.stImm (fld 7 w 15) (fld 4 w 8) (fld 8 w 0))
  | 7 => row w [(5, 3, 0)] (.stx (fld 2 w 22) (fld 7 w 15) (fld 7 w 8) (fld 4 w 1) (fld 1 w 0))
  | 8 => row w [(12, 3, 0), (22, 2, 0)] (.stxImm (fld 7 w 15) (fld 4 w 8) (fld 1 w 7) (fld 7 w 0))
  | 9 => row w [(0, 1, 0), (5, 3, 0)] (.lda (fld 2 w 22) (fld 7 w 15) (fld 7 w 8) (fld 4 w 1))
  | 10 => row w [(12, 3, 0), (22, 2, 0)] (.ldaImm (fld 7 w 15) (fld 4 w 8) (fld 8 w 0))
  | 11 => row w [(0, 1, 0), (5, 3, 0)] (.stl (fld 2 w 22) (fld 7 w 15) (fld 7 w 8) (fld 4 w 1))
  | 12 => row w [(12, 3, 0), (22, 2, 0)] (.stlImm (fld 7 w 15) (fld 4 w 8) (fld 8 w 0))
  | 13 => row w [] (.ldc (fld 2 w 22) (fld 7 w 15) (fld 7 w 8) (fld 8 w 0))
  | 14 => row w [] (.stc (fld 2 w 22) (fld 7 w 15) (fld 7 w 8) (fld 8 w 0))
  | 15 => row w [] (.ldaCluster (fld 2 w 22) (fld 7 w 15) (fld 7 w 8) (fld 8 w 0))
  | _ => .error .unassignedOpcode

/-- The words whose opcode is 0xC0 to 0xCF (R118). -/
def opsC (w : Nat) : Except Reject Instr :=
  match w / 16777216 % 16 with
  | 0 => row w [] (.stlCluster (fld 2 w 22) (fld 7 w 15) (fld 7 w 8) (fld 8 w 0))
  | 1 => row w [(0, 9, 0), (22, 2, 0)] (.acpy (fld 7 w 15) (fld 4 w 11) (fld 1 w 10) (fld 1 w 9))
  | 2 => row w [(0, 9, 0), (22, 2, 0)] (.apln (fld 7 w 15) (fld 4 w 11) (fld 1 w 10) (fld 1 w 9))
  | 3 => row w [(15, 7, 0)] (.arrive (fld 2 w 22) (fld 7 w 8) (fld 8 w 0))
  | 4 => row w [(4, 20, 0)] (.fence (fld 1 w 3) (fld 3 w 0))
  | 5 => row w [(0, 3, 0), (7, 17, 0)] (.publish (fld 4 w 3))
  | 6 => row w [(4, 4, 0), (15, 7, 0)] (.publishVf (fld 2 w 22) (fld 7 w 8) (fld 4 w 0))
  | 7 => row w [(0, 1, 0), (5, 3, 0), (15, 7, 0)] (.pref (fld 2 w 22) (fld 7 w 8) (fld 4 w 1))
  | 8 => row w [(12, 12, 0)] (.prefImm (fld 4 w 8) (fld 8 w 0))
  | 9 => row w [(12, 3, 0), (18, 6, 0)] (.cbld (fld 3 w 15) (fld 4 w 8) (fld 8 w 0))
  | _ => .error .unassignedOpcode

/-- The words whose opcode is 0xD0 to 0xDF (R118). -/
def opsD (w : Nat) : Except Reject Instr :=
  match w / 16777216 % 16 with
  | 0 => row w [(0, 1, 0)] (.atomGlobal (fld 2 w 22) (fld 7 w 15) (fld 7 w 8) (fld 3 w 5) (fld 4 w 1))
  | 1 => row w [(0, 5, 0)] (.atomCluster (fld 2 w 22) (fld 7 w 15) (fld 7 w 8) (fld 3 w 5))
  | 2 => row w [(0, 1, 0)] (.redGlobal (fld 2 w 22) (fld 7 w 15) (fld 7 w 8) (fld 3 w 5) (fld 4 w 1))
  | 3 => row w [(0, 5, 0)] (.redCluster (fld 2 w 22) (fld 7 w 15) (fld 7 w 8) (fld 3 w 5))
  | 4 => row w [(0, 1, 0)] (.atomfGlobal (fld 2 w 22) (fld 7 w 15) (fld 7 w 8) (fld 3 w 5) (fld 4 w 1))
  | 5 => row w [(0, 5, 0)] (.atomfCluster (fld 2 w 22) (fld 7 w 15) (fld 7 w 8) (fld 3 w 5))
  | 6 => row w [(0, 1, 0), (5, 3, 0)] (.acasGlobal (fld 2 w 22) (fld 7 w 15) (fld 7 w 8) (fld 4 w 1))
  | 7 => row w [(0, 8, 0)] (.acasCluster (fld 2 w 22) (fld 7 w 15) (fld 7 w 8))
  | 8 => row w [(0, 5, 0), (22, 2, 0)] (.atomp (fld 7 w 15) (fld 4 w 11) (fld 6 w 5))
  | 9 => row w [(0, 1, 0)] (.waitmGlobal (fld 2 w 22) (fld 7 w 15) (fld 7 w 8) (fld 3 w 5) (fld 4 w 1))
  | 10 => row w [(0, 5, 0)] (.waitmCluster (fld 2 w 22) (fld 7 w 15) (fld 7 w 8) (fld 3 w 5))
  | 11 => row w [(0, 1, 0)] (.atomD (fld 2 w 22) (fld 7 w 15) (fld 7 w 8) (fld 3 w 5) (fld 4 w 1))
  | 12 => row w [(0, 1, 0)] (.redD (fld 2 w 22) (fld 7 w 15) (fld 7 w 8) (fld 3 w 5) (fld 4 w 1))
  | 13 => row w [(0, 1, 0), (5, 3, 0)] (.acasD (fld 2 w 22) (fld 7 w 15) (fld 7 w 8) (fld 4 w 1))
  | _ => .error .unassignedOpcode

/-- The words whose opcode is 0xE0 to 0xEF (R118). -/
def opsE (w : Nat) : Except Reject Instr :=
  match w / 16777216 % 16 with
  | 0 => rowOr w [(3, 12, 0), (22, 2, 0)] (.bstr (fld 7 w 15) (fld 3 w 0))
      (row w [(14, 10, 1)] (.bstrImm (fld 11 w 3) (fld 3 w 0)))
  | 1 => row w [(6, 4, 0), (22, 2, 0)] (.bstg (fld 7 w 15) (fld 1 w 14) (fld 4 w 10) (fld 3 w 3) (fld 3 w 0))
  | 2 => row w [(3, 3, 0), (22, 2, 0)] (.bchn (fld 7 w 15) (fld 1 w 14) (fld 4 w 10) (fld 4 w 6) (fld 3 w 0))
  | 3 => row w [(3, 3, 0), (22, 2, 0)] (.btrn (fld 7 w 15) (fld 1 w 14) (fld 4 w 10) (fld 4 w 6) (fld 3 w 0))
  | 4 => row w [(6, 4, 0), (22, 2, 0)] (.btrnW (fld 7 w 15) (fld 1 w 14) (fld 4 w 10) (fld 3 w 3) (fld 3 w 0))
  | 5 => row w [(22, 2, 0)] (.bdns (fld 7 w 15) (fld 1 w 14) (fld 4 w 10) (fld 1 w 9) (fld 1 w 8) (fld 2 w 6) (fld 3 w 3) (fld 3 w 0))
  | 6 => row w [(22, 2, 0)] (.bdrn (fld 7 w 15) (fld 1 w 14) (fld 4 w 10) (fld 4 w 6) (fld 3 w 3) (fld 3 w 0))
  | 7 => rowOr w [(0, 15, 0), (22, 2, 0)] (.btps (fld 7 w 15))
      (row w [(0, 3, 1), (7, 8, 0), (22, 2, 0)] (.btpsOne (fld 7 w 15) (fld 4 w 3)))
  | 8 => row w [(0, 5, 0), (22, 2, 0)] (.hcfg (fld 7 w 15) (fld 4 w 11) (fld 4 w 7) (fld 2 w 5))
  | 9 => rowOr w [(0, 5, 0), (22, 2, 0)] (.hlookRows (fld 7 w 15) (fld 2 w 13) (fld 4 w 9) (fld 4 w 5))
      (row w [(0, 5, 1), (22, 2, 0)] (.hlookPlanes (fld 7 w 15) (fld 2 w 13) (fld 4 w 9) (fld 4 w 5)))
  | 10 => row w [(0, 5, 0), (22, 2, 0)] (.hgrad (fld 7 w 15) (fld 2 w 13) (fld 4 w 9) (fld 4 w 5))
  | 11 => row w [(0, 3, 0), (5, 10, 0), (22, 2, 0)] (.qpush (fld 7 w 15) (fld 2 w 3))
  | 12 => rowOr w [(0, 15, 160), (22, 2, 0)] (.qpushRt (fld 7 w 15))
      (row w [(0, 3, 0), (7, 8, 0), (22, 2, 0)] (.qpushN (fld 7 w 15) (fld 2 w 5) (fld 2 w 3)))
  | 13 => row w [(0, 3, 0), (5, 10, 0), (22, 2, 0)] (.qpop (fld 7 w 15) (fld 2 w 3))
  | 14 => row w [(0, 3, 0), (7, 8, 0), (22, 2, 0)] (.qpopN (fld 7 w 15) (fld 2 w 5) (fld 2 w 3))
  | 15 => row w [(3, 12, 0), (22, 2, 0)] (.qstat (fld 7 w 15) (fld 3 w 0))
  | _ => .error .unassignedOpcode

/-- The words whose opcode is 0xF0 to 0xFF (R118). -/
def opsF (w : Nat) : Except Reject Instr :=
  match w / 16777216 % 16 with
  | 0 => row w [(0, 3, 0), (7, 8, 0), (22, 2, 0)] (.apgo (fld 7 w 15) (fld 1 w 6) (fld 3 w 3))
  | 1 => row w [(0, 3, 0), (7, 17, 0)] (.apstop (fld 1 w 6) (fld 3 w 3))
  | 4 => row w [(0, 3, 0), (6, 9, 0), (22, 2, 0)] (.emit (fld 7 w 15) (fld 3 w 3))
  | 5 => row w [(0, 8, 0)] (.emitReg (fld 2 w 22) (fld 7 w 15) (fld 7 w 8))
  | 6 => row w [(0, 8, 0), (15, 7, 0)] (.post (fld 2 w 22) (fld 7 w 8))
  | 7 => row w [(15, 9, 0)] (.postImm (fld 15 w 0))
  | 8 => rowOr w [(0, 3, 0), (7, 8, 0), (22, 2, 0)] (.cacheopArm (fld 7 w 15) (fld 4 w 3))
      (rowOr w [(0, 3, 1), (7, 8, 0), (22, 2, 0)] (.cacheopDisarm (fld 7 w 15) (fld 4 w 3))
      (rowOr w [(0, 3, 2), (7, 8, 0), (22, 2, 0)] (.cacheopFlush (fld 7 w 15) (fld 4 w 3))
      (rowOr w [(0, 3, 3), (7, 8, 0), (22, 2, 0)] (.cacheopEvict (fld 7 w 15) (fld 4 w 3))
      (rowOr w [(0, 3, 4), (7, 8, 0), (22, 2, 0)] (.cacheopPackOn (fld 7 w 15) (fld 4 w 3))
      (row w [(0, 3, 5), (7, 8, 0), (22, 2, 0)] (.cacheopPackOff (fld 7 w 15) (fld 4 w 3)))))))
  | 9 => rowOr w [(0, 1, 0), (15, 7, 0)] (.cacheopRangeFlush (fld 2 w 22) (fld 7 w 8) (fld 7 w 1))
      (row w [(0, 1, 1), (15, 7, 0)] (.cacheopRangeEvict (fld 2 w 22) (fld 7 w 8) (fld 7 w 1)))
  | 10 => row w [(0, 3, 0), (15, 9, 0)] (.sysc (fld 12 w 3))
  | 11 => row w [(0, 8, 0), (15, 7, 0)] (.syscReg (fld 2 w 22) (fld 7 w 8))
  | _ => .error .unassignedOpcode

/-- R105, R118, R120: the instruction that a 32-bit word of a core's program holds. -/
def decodeCore (w : Nat) : Except Reject Instr :=
  match w / 268435456 % 16 with
  | 0 => ops0 w
  | 1 => ops1 w
  | 2 => ops2 w
  | 3 => ops3 w
  | 4 => ops4 w
  | 5 => ops5 w
  | 7 => ops7 w
  | 8 => ops8 w
  | 9 => ops9 w
  | 10 => opsA w
  | 11 => opsB w
  | 12 => opsC w
  | 13 => opsD w
  | 14 => opsE w
  | 15 => opsF w
  | _ => .error .unassignedOpcode

/-- R353: the words of major opcode custom-1. -/
def custom1 (w : Nat) : Except Reject Instr :=
  match w / 4096 % 8 with
  | 0 => row w [(7, 8, 0), (25, 7, 0)] (.qPush (fld 5 w 20) (fld 5 w 15))
  | 1 => row w [(7, 8, 32), (25, 7, 0)] (.qPop (fld 5 w 20) (fld 5 w 15))
  | 2 => row w [(7, 8, 64), (20, 12, 0)] (.rtSuspend (fld 5 w 15))
  | 3 => row w [(12, 20, 3)] (.rtResume (fld 5 w 7))
  | 4 => row w [(7, 25, 128)] (.ctxYield)
  | 5 => row w [(7, 25, 160)] (.ctxEnd)
  | 6 => row w [(7, 8, 192), (20, 12, 0)] (.gWait (fld 5 w 15))
  | _ => .error .unassignedOpcode

/-- R353: the words of major opcode custom-2. -/
def custom2 (w : Nat) : Except Reject Instr :=
  match w / 4096 % 8 with
  | 0 => row w [(7, 8, 0), (25, 7, 0)] (.gIssue (fld 5 w 20) (fld 5 w 15))
  | 1 => row w [(7, 8, 32), (25, 7, 0)] (.sIssue (fld 5 w 20) (fld 5 w 15))
  | 2 => row w [(7, 8, 64), (20, 12, 0)] (.bagSum (fld 5 w 15))
  | 3 => row w [(7, 8, 96), (20, 12, 0)] (.bagMean (fld 5 w 15))
  | 4 => row w [(12, 3, 4), (20, 12, 0)] (.rtBox (fld 5 w 15) (fld 5 w 7))
  | 5 => row w [(12, 3, 5), (20, 12, 0)] (.rtTri (fld 5 w 15) (fld 5 w 7))
  | _ => .error .unassignedOpcode

/-- R338, R353: the instruction that a word of an access processor's instruction store holds. -/
def decodeAp (w : Nat) : Except Reject Instr :=
  match w % 128 with
  | 0x2B => custom1 w
  | 0x5B => custom2 w
  | 0x73 =>
    if w = 0x00000073 ∨ w = 0x00100073 then .ok (.apEnvironmentCall (BitVec.ofNat 32 w))
    else .error .unassignedOpcode
  | _ => row w [] (.apBaseInstruction (BitVec.ofNat 32 w))

/-- The instruction in the bytes at a core's program counter, lowest address first. -/
def decode : List Byte → Except Reject Instr
  | b0 :: b1 :: b2 :: b3 :: _ =>
    decodeCore (b0.toNat + 256 * b1.toNat + 65536 * b2.toNat + 16777216 * b3.toNat)
  | _ => .error .unassignedOpcode

/-- The instruction of a 32-bit word whose bits the opcode table numbers: a core word if a core's
decoder accepts it, else an access-processor word. -/
def decodeTableWord (nbits w : Nat) : Option Instr :=
  let v := w % 2 ^ min nbits 32
  match decodeCore v with
  | .ok i => some i
  | .error _ => (decodeAp v).toOption

/-- The word of an instruction (R105, R118, R353); 0 for a row without an encoding. -/
def encode : Instr → Nat
  | .nop => 0x00000000
  | .exit => 0x01000000
  | .bra o => 0x02000000 + o.toNat
  | .brc o => 0x03000000 + o.toNat
  | .bri h a => 0x04000000 + h.toNat * 4194304 + a.toNat * 256
  | .call o => 0x05000000 + o.toNat
  | .calli h a => 0x06000000 + h.toNat * 4194304 + a.toNat * 256
  | .ret => 0x07000000
  | .mark o => 0x08000000 + o.toNat
  | .join => 0x09000000
  | .regang => 0x0A000000
  | .mode h a => 0x0B000000 + h.toNat * 4194304 + a.toNat * 256
  | .modei s f => 0x0C000000 + s.toNat * 8 + f.toNat
  | .win h a => 0x0D000000 + h.toNat * 4194304 + a.toNat * 256
  | .wini i => 0x0E000000 + i.toNat
  | .rds d s => 0x0F000000 + d.toNat * 32768 + s.toNat * 8
  | .rdsClockLo d => 0x0F000180 + d.toNat * 32768
  | .wrs d s => 0x10000000 + d.toNat * 32768 + s.toNat * 8
  | .wrsWin d => 0x10000080 + d.toNat * 32768
  | .wrsFlags d => 0x10000100 + d.toNat * 32768
  | .wrsSrseed d => 0x10000108 + d.toNat * 32768
  | .freeze l => 0x11000000 + l.toNat
  | .grow i => 0x12000000 + i.toNat
  | .shrink i => 0x13000000 + i.toNat
  | .growReg h a => 0x1E000000 + h.toNat * 4194304 + a.toNat * 256
  | .shrinkReg h a => 0x1F000000 + h.toNat * 4194304 + a.toNat * 256
  | .donate h a n => 0x14000000 + h.toNat * 4194304 + a.toNat * 256 + n.toNat
  | .rend k => 0x15000000 + k.toNat
  | .bar c n i => 0x16000000 + c.toNat * 2097152 + n.toNat * 32768 + i.toNat
  | .bara c n i => 0x17000000 + c.toNat * 2097152 + n.toNat * 32768 + i.toNat
  | .barReg h a c n => 0x20000000 + h.toNat * 4194304 + a.toNat * 256 + c.toNat * 128 + n.toNat
  | .baraReg h a c n => 0x21000000 + h.toNat * 4194304 + a.toNat * 256 + c.toNat * 128 + n.toNat
  | .waitc h a p => 0x18000000 + h.toNat * 4194304 + a.toNat * 256 + p.toNat
  | .waitp h a p => 0x19000000 + h.toNat * 4194304 + a.toNat * 256 + p.toNat
  | .yield => 0x1A000000
  | .sleep i => 0x1B000000 + i.toNat
  | .trap i => 0x1C000000 + i.toNat
  | .eret => 0x1D000000
  | .iadd h d a b => 0x30000000 + h.toNat * 4194304 + d.toNat * 32768 + a.toNat * 256 + b.toNat * 2
  | .iaddi h d a i => 0x31000000 + h.toNat * 4194304 + d.toNat * 32768 + a.toNat * 256 + i.toNat
  | .isub h d a b => 0x32000000 + h.toNat * 4194304 + d.toNat * 32768 + a.toNat * 256 + b.toNat * 2
  | .imul h d a b => 0x33000000 + h.toNat * 4194304 + d.toNat * 32768 + a.toNat * 256 + b.toNat * 2
  | .imulImm h d a i => 0x34000000 + h.toNat * 4194304 + d.toNat * 32768 + a.toNat * 256 + i.toNat
  | .imulh h d a b => 0x35000000 + h.toNat * 4194304 + d.toNat * 32768 + a.toNat * 256 + b.toNat * 2
  | .imad h d a b => 0x36000000 + h.toNat * 4194304 + d.toNat * 32768 + a.toNat * 256 + b.toNat * 2
  | .imin h d a b => 0x37000000 + h.toNat * 4194304 + d.toNat * 32768 + a.toNat * 256 + b.toNat * 2
  | .iminImm h d a i => 0x38000000 + h.toNat * 4194304 + d.toNat * 32768 + a.toNat * 256 + i.toNat
  | .imax h d a b => 0x39000000 + h.toNat * 4194304 + d.toNat * 32768 + a.toNat * 256 + b.toNat * 2
  | .imaxImm h d a i => 0x3A000000 + h.toNat * 4194304 + d.toNat * 32768 + a.toNat * 256 + i.toNat
  | .iabs h d a => 0x3B000000 + h.toNat * 4194304 + d.toNat * 32768 + a.toNat * 256
  | .and h d a b => 0x3C000000 + h.toNat * 4194304 + d.toNat * 32768 + a.toNat * 256 + b.toNat * 2
  | .andImm h d a i => 0x3D000000 + h.toNat * 4194304 + d.toNat * 32768 + a.toNat * 256 + i.toNat
  | .or h d a b => 0x3E000000 + h.toNat * 4194304 + d.toNat * 32768 + a.toNat * 256 + b.toNat * 2
  | .orImm h d a i => 0x3F000000 + h.toNat * 4194304 + d.toNat * 32768 + a.toNat * 256 + i.toNat
  | .xor h d a b => 0x40000000 + h.toNat * 4194304 + d.toNat * 32768 + a.toNat * 256 + b.toNat * 2
  | .xorImm h d a i => 0x41000000 + h.toNat * 4194304 + d.toNat * 32768 + a.toNat * 256 + i.toNat
  | .andn h d a b => 0x42000000 + h.toNat * 4194304 + d.toNat * 32768 + a.toNat * 256 + b.toNat * 2
  | .not h d a => 0x43000000 + h.toNat * 4194304 + d.toNat * 32768 + a.toNat * 256
  | .shl h d a b => 0x44000000 + h.toNat * 4194304 + d.toNat * 32768 + a.toNat * 256 + b.toNat * 2
  | .shlImm h d a n => 0x45000000 + h.toNat * 4194304 + d.toNat * 32768 + a.toNat * 256 + n.toNat
  | .shr h d a b => 0x46000000 + h.toNat * 4194304 + d.toNat * 32768 + a.toNat * 256 + b.toNat * 2
  | .shrImm h d a n => 0x47000000 + h.toNat * 4194304 + d.toNat * 32768 + a.toNat * 256 + n.toNat
  | .sar h d a b => 0x48000000 + h.toNat * 4194304 + d.toNat * 32768 + a.toNat * 256 + b.toNat * 2
  | .sarImm h d a n => 0x49000000 + h.toNat * 4194304 + d.toNat * 32768 + a.toNat * 256 + n.toNat
  | .rot h d a b => 0x4A000000 + h.toNat * 4194304 + d.toNat * 32768 + a.toNat * 256 + b.toNat * 2
  | .rotImm h d a n => 0x4B000000 + h.toNat * 4194304 + d.toNat * 32768 + a.toNat * 256 + n.toNat
  | .popc h d a => 0x4C000000 + h.toNat * 4194304 + d.toNat * 32768 + a.toNat * 256
  | .clz h d a => 0x4D000000 + h.toNat * 4194304 + d.toNat * 32768 + a.toNat * 256
  | .brev h d a => 0x4E000000 + h.toNat * 4194304 + d.toNat * 32768 + a.toNat * 256
  | .bfe h d a b => 0x4F000000 + h.toNat * 4194304 + d.toNat * 32768 + a.toNat * 256 + b.toNat * 2
  | .bfi h d a b => 0x50000000 + h.toNat * 4194304 + d.toNat * 32768 + a.toNat * 256 + b.toNat * 2
  | .icmp h c p a b => 0x51000000 + h.toNat * 4194304 + c.toNat * 262144 + p.toNat * 32768 + a.toNat * 256 + b.toNat * 2
  | .icmpImm h c p a i => 0x52000000 + h.toNat * 4194304 + c.toNat * 262144 + p.toNat * 32768 + a.toNat * 256 + i.toNat
  | .sel h d a b => 0x53000000 + h.toNat * 4194304 + d.toNat * 32768 + a.toNat * 256 + b.toNat * 2
  | .mov h d a => 0x54000000 + h.toNat * 4194304 + d.toNat * 32768 + a.toNat * 256
  | .movi d i => 0x55000000 + d.toNat * 32768 + i.toNat
  | .movh j d i => 0x56000000 + j.toNat * 4194304 + d.toNat * 32768 + i.toNat
  | .lea h d a b => 0x57000000 + h.toNat * 4194304 + d.toNat * 32768 + a.toNat * 256 + b.toNat * 2
  | .pand d a b x => 0x58000000 + d.toNat * 32768 + a.toNat * 256 + b.toNat * 2 + x.toNat
  | .por d a b x => 0x59000000 + d.toNat * 32768 + a.toNat * 256 + b.toNat * 2 + x.toNat
  | .pnot d a => 0x5A000000 + d.toNat * 32768 + a.toNat * 256
  | .pmov d a => 0x5B000000 + d.toNat * 32768 + a.toNat * 256
  | .pmovReg h d a => 0x5B000001 + h.toNat * 4194304 + d.toNat * 32768 + a.toNat * 256
  | .fadd h d a b => 0x70000000 + h.toNat * 4194304 + d.toNat * 32768 + a.toNat * 256 + b.toNat * 2
  | .faddAbs h d a b => 0x71000000 + h.toNat * 4194304 + d.toNat * 32768 + a.toNat * 256 + b.toNat * 2
  | .fsub h d a b => 0x72000000 + h.toNat * 4194304 + d.toNat * 32768 + a.toNat * 256 + b.toNat * 2
  | .fsubAbs h d a b => 0x73000000 + h.toNat * 4194304 + d.toNat * 32768 + a.toNat * 256 + b.toNat * 2
  | .fmul h d a b => 0x74000000 + h.toNat * 4194304 + d.toNat * 32768 + a.toNat * 256 + b.toNat * 2
  | .fmulAbs h d a b => 0x75000000 + h.toNat * 4194304 + d.toNat * 32768 + a.toNat * 256 + b.toNat * 2
  | .ffma h d a b => 0x76000000 + h.toNat * 4194304 + d.toNat * 32768 + a.toNat * 256 + b.toNat * 2
  | .ffmaNp h d a b => 0x77000000 + h.toNat * 4194304 + d.toNat * 32768 + a.toNat * 256 + b.toNat * 2
  | .ffmaNd h d a b => 0x78000000 + h.toNat * 4194304 + d.toNat * 32768 + a.toNat * 256 + b.toNat * 2
  | .ffmaNn h d a b => 0x79000000 + h.toNat * 4194304 + d.toNat * 32768 + a.toNat * 256 + b.toNat * 2
  | .fmin h d a b => 0x7A000000 + h.toNat * 4194304 + d.toNat * 32768 + a.toNat * 256 + b.toNat * 2
  | .fminNan h d a b => 0x7B000000 + h.toNat * 4194304 + d.toNat * 32768 + a.toNat * 256 + b.toNat * 2
  | .fminAbs h d a b => 0x7C000000 + h.toNat * 4194304 + d.toNat * 32768 + a.toNat * 256 + b.toNat * 2
  | .fmax h d a b => 0x7D000000 + h.toNat * 4194304 + d.toNat * 32768 + a.toNat * 256 + b.toNat * 2
  | .fmaxNan h d a b => 0x7E000000 + h.toNat * 4194304 + d.toNat * 32768 + a.toNat * 256 + b.toNat * 2
  | .fmaxAbs h d a b => 0x7F000000 + h.toNat * 4194304 + d.toNat * 32768 + a.toNat * 256 + b.toNat * 2
  | .fcmp h c p a b => 0x80000000 + h.toNat * 4194304 + c.toNat * 262144 + p.toNat * 32768 + a.toNat * 256 + b.toNat * 2
  | .fcmpZ h c p a => 0x81000000 + h.toNat * 4194304 + c.toNat * 262144 + p.toNat * 32768 + a.toNat * 256
  | .frcp h d a => 0x82000000 + h.toNat * 4194304 + d.toNat * 32768 + a.toNat * 256
  | .frsq h d a => 0x83000000 + h.toNat * 4194304 + d.toNat * 32768 + a.toNat * 256
  | .fsqrt h d a => 0x84000000 + h.toNat * 4194304 + d.toNat * 32768 + a.toNat * 256
  | .fexp2 h d a => 0x85000000 + h.toNat * 4194304 + d.toNat * 32768 + a.toNat * 256
  | .flog2 h d a => 0x86000000 + h.toNat * 4194304 + d.toNat * 32768 + a.toNat * 256
  | .fsin h d a => 0x87000000 + h.toNat * 4194304 + d.toNat * 32768 + a.toNat * 256
  | .fsinPi h d a => 0x88000000 + h.toNat * 4194304 + d.toNat * 32768 + a.toNat * 256
  | .fcos h d a => 0x89000000 + h.toNat * 4194304 + d.toNat * 32768 + a.toNat * 256
  | .fcosPi h d a => 0x8A000000 + h.toNat * 4194304 + d.toNat * 32768 + a.toNat * 256
  | .ftanh h d a => 0x8B000000 + h.toNat * 4194304 + d.toNat * 32768 + a.toNat * 256
  | .ffloor h d a => 0x8C000000 + h.toNat * 4194304 + d.toNat * 32768 + a.toNat * 256
  | .ffrac h d a => 0x8D000000 + h.toNat * 4194304 + d.toNat * 32768 + a.toNat * 256
  | .cvt h d a t => 0x8E000000 + h.toNat * 4194304 + d.toNat * 32768 + a.toNat * 256 + t.toNat * 2
  | .cvtFi h d a t => 0x8F000000 + h.toNat * 4194304 + d.toNat * 32768 + a.toNat * 256 + t.toNat * 2
  | .cvtIf h d a t => 0x90000000 + h.toNat * 4194304 + d.toNat * 32768 + a.toNat * 256 + t.toNat * 2
  | .cvtIi h d a t => 0x91000000 + h.toNat * 4194304 + d.toNat * 32768 + a.toNat * 256 + t.toNat * 2
  | .cvtb h d a b => 0x92000000 + h.toNat * 4194304 + d.toNat * 32768 + a.toNat * 256 + b.toNat * 2
  | .cvtbD h d a b => 0x93000000 + h.toNat * 4194304 + d.toNat * 32768 + a.toNat * 256 + b.toNat * 2
  | .cvts h d a b x => 0x94000000 + h.toNat * 4194304 + d.toNat * 32768 + a.toNat * 256 + b.toNat * 2 + x.toNat
  | .cbenc h d a => 0x95000000 + h.toNat * 4194304 + d.toNat * 32768 + a.toNat * 256
  | .vperm h d a b => 0xA0000000 + h.toNat * 4194304 + d.toNat * 32768 + a.toNat * 256 + b.toNat * 2
  | .vshfl h d a b => 0xA1000000 + h.toNat * 4194304 + d.toNat * 32768 + a.toNat * 256 + b.toNat * 2
  | .vbfx h d a m => 0xA2000000 + h.toNat * 4194304 + d.toNat * 32768 + a.toNat * 256 + m.toNat
  | .vbcast h d a j => 0xA3000000 + h.toNat * 4194304 + d.toNat * 32768 + a.toNat * 256 + j.toNat
  | .vred h d a o => 0xA4000000 + h.toNat * 4194304 + d.toNat * 32768 + a.toNat * 256 + o.toNat
  | .vscan h d a e o => 0xA5000000 + h.toNat * 4194304 + d.toNat * 32768 + a.toNat * 256 + e.toNat * 8 + o.toNat
  | .vrdi h d a => 0xA6000000 + h.toNat * 4194304 + d.toNat * 32768 + a.toNat * 256
  | .vwri h d a => 0xA7000000 + h.toNat * 4194304 + d.toNat * 32768 + a.toNat * 256
  | .vbal d p => 0xA8000000 + d.toNat * 32768 + p.toNat * 256
  | .vvote v d p => 0xA9000000 + v.toNat * 262144 + d.toNat * 32768 + p.toNat * 256
  | .brec h r a => 0xB0000000 + h.toNat * 4194304 + r.toNat * 32768 + a.toNat * 256
  | .ld h d a r => 0xB1000000 + h.toNat * 4194304 + d.toNat * 32768 + a.toNat * 256 + r.toNat * 2
  | .ldImm d r i => 0xB2000000 + d.toNat * 32768 + r.toNat * 256 + i.toNat
  | .ldx h d a r w => 0xB3000000 + h.toNat * 4194304 + d.toNat * 32768 + a.toNat * 256 + r.toNat * 2 + w.toNat
  | .ldxImm d r w i => 0xB4000000 + d.toNat * 32768 + r.toNat * 256 + w.toNat * 128 + i.toNat
  | .st h d a r => 0xB5000000 + h.toNat * 4194304 + d.toNat * 32768 + a.toNat * 256 + r.toNat * 2
  | .stImm d r i => 0xB6000000 + d.toNat * 32768 + r.toNat * 256 + i.toNat
  | .stx h d a r w => 0xB7000000 + h.toNat * 4194304 + d.toNat * 32768 + a.toNat * 256 + r.toNat * 2 + w.toNat
  | .stxImm d r w i => 0xB8000000 + d.toNat * 32768 + r.toNat * 256 + w.toNat * 128 + i.toNat
  | .lda h d a r => 0xB9000000 + h.toNat * 4194304 + d.toNat * 32768 + a.toNat * 256 + r.toNat * 2
  | .ldaImm d r i => 0xBA000000 + d.toNat * 32768 + r.toNat * 256 + i.toNat
  | .stl h d a r => 0xBB000000 + h.toNat * 4194304 + d.toNat * 32768 + a.toNat * 256 + r.toNat * 2
  | .stlImm d r i => 0xBC000000 + d.toNat * 32768 + r.toNat * 256 + i.toNat
  | .ldc h d a i => 0xBD000000 + h.toNat * 4194304 + d.toNat * 32768 + a.toNat * 256 + i.toNat
  | .stc h d a i => 0xBE000000 + h.toNat * 4194304 + d.toNat * 32768 + a.toNat * 256 + i.toNat
  | .ldaCluster h d a i => 0xBF000000 + h.toNat * 4194304 + d.toNat * 32768 + a.toNat * 256 + i.toNat
  | .stlCluster h d a i => 0xC0000000 + h.toNat * 4194304 + d.toNat * 32768 + a.toNat * 256 + i.toNat
  | .acpy d r t c => 0xC1000000 + d.toNat * 32768 + r.toNat * 2048 + t.toNat * 1024 + c.toNat * 512
  | .apln d r t c => 0xC2000000 + d.toNat * 32768 + r.toNat * 2048 + t.toNat * 1024 + c.toNat * 512
  | .arrive h a n => 0xC3000000 + h.toNat * 4194304 + a.toNat * 256 + n.toNat
  | .fence m s => 0xC4000000 + m.toNat * 8 + s.toNat
  | .publish r => 0xC5000000 + r.toNat * 8
  | .publishVf h a r => 0xC6000000 + h.toNat * 4194304 + a.toNat * 256 + r.toNat
  | .pref h a r => 0xC7000000 + h.toNat * 4194304 + a.toNat * 256 + r.toNat * 2
  | .prefImm r i => 0xC8000000 + r.toNat * 256 + i.toNat
  | .cbld k r i => 0xC9000000 + k.toNat * 32768 + r.toNat * 256 + i.toNat
  | .atomGlobal h d a o r => 0xD0000000 + h.toNat * 4194304 + d.toNat * 32768 + a.toNat * 256 + o.toNat * 32 + r.toNat * 2
  | .atomCluster h d a o => 0xD1000000 + h.toNat * 4194304 + d.toNat * 32768 + a.toNat * 256 + o.toNat * 32
  | .redGlobal h d a o r => 0xD2000000 + h.toNat * 4194304 + d.toNat * 32768 + a.toNat * 256 + o.toNat * 32 + r.toNat * 2
  | .redCluster h d a o => 0xD3000000 + h.toNat * 4194304 + d.toNat * 32768 + a.toNat * 256 + o.toNat * 32
  | .atomfGlobal h d a o r => 0xD4000000 + h.toNat * 4194304 + d.toNat * 32768 + a.toNat * 256 + o.toNat * 32 + r.toNat * 2
  | .atomfCluster h d a o => 0xD5000000 + h.toNat * 4194304 + d.toNat * 32768 + a.toNat * 256 + o.toNat * 32
  | .acasGlobal h d a r => 0xD6000000 + h.toNat * 4194304 + d.toNat * 32768 + a.toNat * 256 + r.toNat * 2
  | .acasCluster h d a => 0xD7000000 + h.toNat * 4194304 + d.toNat * 32768 + a.toNat * 256
  | .atomp d r k => 0xD8000000 + d.toNat * 32768 + r.toNat * 2048 + k.toNat * 32
  | .waitmGlobal h d a c r => 0xD9000000 + h.toNat * 4194304 + d.toNat * 32768 + a.toNat * 256 + c.toNat * 32 + r.toNat * 2
  | .waitmCluster h d a c => 0xDA000000 + h.toNat * 4194304 + d.toNat * 32768 + a.toNat * 256 + c.toNat * 32
  | .atomD h d a o r => 0xDB000000 + h.toNat * 4194304 + d.toNat * 32768 + a.toNat * 256 + o.toNat * 32 + r.toNat * 2
  | .redD h d a o r => 0xDC000000 + h.toNat * 4194304 + d.toNat * 32768 + a.toNat * 256 + o.toNat * 32 + r.toNat * 2
  | .acasD h d a r => 0xDD000000 + h.toNat * 4194304 + d.toNat * 32768 + a.toNat * 256 + r.toNat * 2
  | .cacheopArm d r => 0xF8000000 + d.toNat * 32768 + r.toNat * 8
  | .cacheopDisarm d r => 0xF8000001 + d.toNat * 32768 + r.toNat * 8
  | .cacheopFlush d r => 0xF8000002 + d.toNat * 32768 + r.toNat * 8
  | .cacheopEvict d r => 0xF8000003 + d.toNat * 32768 + r.toNat * 8
  | .cacheopPackOn d r => 0xF8000004 + d.toNat * 32768 + r.toNat * 8
  | .cacheopPackOff d r => 0xF8000005 + d.toNat * 32768 + r.toNat * 8
  | .cacheopRangeFlush h a b => 0xF9000000 + h.toNat * 4194304 + a.toNat * 256 + b.toNat * 2
  | .cacheopRangeEvict h a b => 0xF9000001 + h.toNat * 4194304 + a.toNat * 256 + b.toNat * 2
  | .hcfg d t g s => 0xE8000000 + d.toNat * 32768 + t.toNat * 2048 + g.toNat * 128 + s.toNat * 32
  | .hlookRows d s f c => 0xE9000000 + d.toNat * 32768 + s.toNat * 8192 + f.toNat * 512 + c.toNat * 32
  | .hlookPlanes d s f c => 0xE9000001 + d.toNat * 32768 + s.toNat * 8192 + f.toNat * 512 + c.toNat * 32
  | .hgrad d s f c => 0xEA000000 + d.toNat * 32768 + s.toNat * 8192 + f.toNat * 512 + c.toNat * 32
  | .bstr d k => 0xE0000000 + d.toNat * 32768 + k.toNat
  | .bstrImm i k => 0xE0004000 + i.toNat * 8 + k.toNat
  | .bstg d e t s m => 0xE1000000 + d.toNat * 32768 + e.toNat * 16384 + t.toNat * 1024 + s.toNat * 8 + m.toNat
  | .bchn d e t n m => 0xE2000000 + d.toNat * 32768 + e.toNat * 16384 + t.toNat * 1024 + n.toNat * 64 + m.toNat
  | .btrn d e t n m => 0xE3000000 + d.toNat * 32768 + e.toNat * 16384 + t.toNat * 1024 + n.toNat * 64 + m.toNat
  | .btrnW d e t s m => 0xE4000000 + d.toNat * 32768 + e.toNat * 16384 + t.toNat * 1024 + s.toNat * 8 + m.toNat
  | .bdns d e t a b f c m => 0xE5000000 + d.toNat * 32768 + e.toNat * 16384 + t.toNat * 1024 + a.toNat * 512 + b.toNat * 256 + f.toNat * 64 + c.toNat * 8 + m.toNat
  | .bdrn d e t n c o => 0xE6000000 + d.toNat * 32768 + e.toNat * 16384 + t.toNat * 1024 + n.toNat * 64 + c.toNat * 8 + o.toNat
  | .btps d => 0xE7000000 + d.toNat * 32768
  | .btpsOne d k => 0xE7000001 + d.toNat * 32768 + k.toNat * 8
  | .qpush d q => 0xEB000000 + d.toNat * 32768 + q.toNat * 8
  | .qpushN d z q => 0xEC000000 + d.toNat * 32768 + z.toNat * 32 + q.toNat * 8
  | .qpushRt d => 0xEC0000A0 + d.toNat * 32768
  | .qpop d q => 0xED000000 + d.toNat * 32768 + q.toNat * 8
  | .qpopN d z q => 0xEE000000 + d.toNat * 32768 + z.toNat * 32 + q.toNat * 8
  | .qstat d k => 0xEF000000 + d.toNat * 32768 + k.toNat
  | .apgo d u c => 0xF0000000 + d.toNat * 32768 + u.toNat * 64 + c.toNat * 8
  | .apstop u c => 0xF1000000 + u.toNat * 64 + c.toNat * 8
  | .apBaseInstruction w => w.toNat
  | .apEnvironmentCall w => w.toNat
  | .qPush b a => 0x0000002B + b.toNat * 1048576 + a.toNat * 32768
  | .qPop b a => 0x0000102B + b.toNat * 1048576 + a.toNat * 32768
  | .rtSuspend a => 0x0000202B + a.toNat * 32768
  | .rtResume d => 0x0000302B + d.toNat * 128
  | .ctxYield => 0x0000402B
  | .ctxEnd => 0x0000502B
  | .gWait a => 0x0000602B + a.toNat * 32768
  | .gIssue b a => 0x0000005B + b.toNat * 1048576 + a.toNat * 32768
  | .sIssue b a => 0x0000105B + b.toNat * 1048576 + a.toNat * 32768
  | .bagSum a => 0x0000205B + a.toNat * 32768
  | .bagMean a => 0x0000305B + a.toNat * 32768
  | .rtBox a d => 0x0000405B + a.toNat * 32768 + d.toNat * 128
  | .rtTri a d => 0x0000505B + a.toNat * 32768 + d.toNat * 128
  | .emit d k => 0xF4000000 + d.toNat * 32768 + k.toNat * 8
  | .emitReg h d a => 0xF5000000 + h.toNat * 4194304 + d.toNat * 32768 + a.toNat * 256
  | .post h a => 0xF6000000 + h.toNat * 4194304 + a.toNat * 256
  | .postImm i => 0xF7000000 + i.toNat
  | .sysc s => 0xFA000000 + s.toNat * 8
  | .syscReg h a => 0xFB000000 + h.toNat * 4194304 + a.toNat * 256
  | _ => 0

end Sys2Proof
end

