-- ==== Sys2Proof/Machine/State.lean ====
section
/-!
DEFINITION. The state of the device as plain data: everything the chapters of spec/ give it. Tables
are association lists with rising keys (`Tbl`), read and written only through Machine/Table.lean.
A warp, an in-flight operation and a waiting request each have a number of their own that is never
used again, so an operation that outlives its warp names nothing else.
-/

namespace Sys2Proof.Machine

/-- A table: keys rising, one entry a key. -/
abbrev Tbl (α : Type) := List (Nat × α)

/-- The bytes of one address space, keys rising, no entry equal to what an unlisted byte reads as. -/
abbrev Memory := List Host.Cell

/-! ## A slice (R27, R129 to R138, R166, R171) -/

/-- R138: what pushed a stack entry. -/
inductive EntryKind where
  | mark
  | pending
  | call
  deriving DecidableEq, Repr, Inhabited

/-- R138: an entry of a slice's stack. -/
structure StackEntry where
  kind : EntryKind
  pc : VAddr
  mask : BitVec 4
  deriving DecidableEq, Repr, Inhabited

/-- Where a fixed-latency result goes: a physical register, a predicate, or nothing but its flags
(a write to p0, R113, R177). -/
inductive Dest where
  | reg (n : Nat)
  | pred (p : Nat)
  | none
  deriving DecidableEq, Repr, Inhabited

/-- R133, R171: a result waiting in the slice's result queue, with the issue cycles it still needs,
and the flags it raises when it is written (R104). -/
structure Result where
  dest : Dest
  mask : BitVec 4
  vals : List Word
  flags : BitVec 6
  left : Nat
  deriving DecidableEq, Repr, Inhabited

/-- R133: state held per warp that BREC, BSTR and BTPS write with a latency. -/
inductive WarpWrite where
  | record (k : Nat) (v : BitVec 128)
  | stride (k : Nat) (v : Word)
  | tiles (mask value : BitVec 16)
  deriving DecidableEq, Repr, Inhabited

/-- R133: such a write with the issue cycles it still needs. -/
structure WarpResult where
  what : WarpWrite
  left : Nat
  deriving DecidableEq, Repr, Inhabited

/-- R112: an operand-latch entry: a value for each of the slice's four lanes, and how many more
instructions of the slice's gang may read it; with 0 its value is undefined. -/
structure Latch where
  vals : List Word
  life : Nat
  deriving DecidableEq, Repr, Inhabited

/-- R30, R171: why a slice waits. -/
inductive Wait where
  | ready
  | bar (cohort : Bool) (n : Nat)
  | rend (k : Nat)
  | freeze
  | grow
  | copyFault
  | waitc
  | waitp
  | sleep (due : Nat)
  | fetch
  | held (op : Nat)
  | other
  deriving DecidableEq, Repr, Inhabited

/-- R241, R287: an asynchronous trap that a slice has yet to enter. -/
structure AsyncTrap where
  cause : Nat
  value : Word
  deriving DecidableEq, Repr, Inhabited

structure Slice where
  pc : VAddr
  mode : Word
  active : BitVec 4
  /-- Top first, at most 16 entries (R138). -/
  stack : List StackEntry
  /-- R143. -/
  ended : Bool
  /-- R129: slices with equal numbers issue as one gang. -/
  gang : Nat
  /-- R133, at most 12 entries (R171). -/
  queue : List Result
  /-- R133: the writes of BREC, BSTR and BTPS counted by this slice. -/
  warpQueue : List WarpResult
  /-- R107, R112: l1, l2, l3. -/
  latches : List Latch
  /-- R149, R166. -/
  tpc : VAddr
  tmode : Word
  tmask : BitVec 4
  tcause : Word
  tval : Word
  handler : Bool
  /-- R149: what the last read of s.clock.lo latched. -/
  clockHi : Word
  wait : Wait
  /-- R31: the step of the slice's last issue. -/
  lastIssue : Nat
  /-- R241. -/
  asyncTrap : Option AsyncTrap
  /-- R144: where the slice has executed a REGANG that did not complete. -/
  regangAt : Option VAddr
  deriving DecidableEq, Repr, Inhabited

/-! ## A warp (R27, R108, R151, R231, R238) -/

/-- R238: one entry of the operand log. -/
structure LogEntry where
  word : Word
  mask : BitVec 32
  fmask : BitVec 32
  ver : Word
  cont : Bool
  nextEntry : Nat
  slices : BitVec 8
  mode : Word
  win : Nat
  pc : VAddr
  record : BitVec 128
  idx : List Word
  data : List Word
  op : Nat
  deriving DecidableEq, Repr, Inhabited

/-- R231: an instruction that an in-flight counter counts, and whether its return has arrived. -/
structure Counted where
  op : Nat
  returned : Bool
  deriving DecidableEq, Repr, Inhabited

/-- R231: the five in-flight counters, each as the instructions it counts, oldest first. -/
structure Counters where
  ld : List Counted
  st : List Counted
  cl : List Counted
  at' : List Counted
  q : List Counted
  deriving DecidableEq, Repr, Inhabited

/-- R135: a pending mark on a physical register of a slice's lanes, and the operation that clears it. -/
structure Mark where
  slice : Nat
  reg : Nat
  op : Nat
  deriving DecidableEq, Repr, Inhabited

/-- R58: what a warp returns to when it rolls back, and how far it has gone past the fence. -/
structure Speculation where
  slices : List Slice
  /-- The slices before the FENCE was issued, as pre-emption saves them. -/
  before : List Slice
  regs : Tbl Word
  preds : Tbl Byte
  win : Nat
  flags : BitVec 6
  priv : BitVec 1024
  /-- Operations numbered from here on were issued past the fence. -/
  since : Nat
  scope : Nat
  gang : BitVec 8
  issued : Nat
  /-- Operations that the fence waits for. -/
  awaits : List Nat
  /-- Lines loaded past the fence. -/
  loaded : List Nat
  /-- R43, R59: physical registers that an instruction past the fence has named. -/
  touched : BitVec 1024
  rolledBack : Bool
  deriving DecidableEq, Repr, Inhabited

/-- R216, R219, R220: what has been judged of a lane's element. -/
inductive ElemState where
  | live
  | outOfBounds
  | addrError
  | trapped
  | dropped
  | performed
  deriving DecidableEq, Repr, Inhabited

/-- One element of an operation: the lane or position it belongs to, its byte address or, on a CB4
page, its code address, and the bytes a store writes. -/
structure Elem where
  lane : Nat
  idx : Nat
  offset : Nat
  addr : Nat
  code : Option Nat
  fmt : Nat
  st : ElemState
  data : List Byte
  deriving DecidableEq, Repr, Inhabited

/-- R303, R336: an entry of the reservation table. -/
structure MxEntry where
  word : Word
  mask : BitVec 32
  warp : Nat
  group : Nat
  ctx : Nat
  die : Nat
  core : Nat
  slices : BitVec 8
  par : List Word
  st : List Word
  cb : List (BitVec 16)
  sample : Option (Nat × Nat)
  sampleMax : Option (Nat × Nat)
  record : BitVec 128
  recordMax : BitVec 128
  codebooks : Tbl (List (BitVec 16))
  win : Nat
  pc : VAddr
  /-- Order and time of acceptance (R305). -/
  seq : Nat
  accepted : Nat
  granted : Bool
  /-- R449: held on a storage error. -/
  held : Bool
  /-- When the command's occupancy ends (R304). -/
  ends : Nat
  performed : Bool
  flags : BitVec 6
  op : Option Nat
  maxBits : Word
  maxDone : Bool
  /-- R420: the collective that its contributions carry. -/
  collective : Option (Nat × Nat)
  /-- R335: the elements of the lines that a drain before this one has finished, which are not performed again. -/
  elems : List Elem
  deriving DecidableEq, Repr, Inhabited

/-- What the launch gives a warp and nothing later changes (R23, R149, R25). -/
structure Ident where
  ctx : Nat
  graph : Nat
  node : Nat
  group : Nat
  wid : BitVec 64
  f1 : Nat
  prio : Nat
  args : BitVec 64
  ceil0 : Nat
  save : Nat
  tlevel : Nat
  unitShift : Nat
  collective : Option (Nat × Nat)
  batch : Bool
  deriving DecidableEq, Repr, Inhabited

structure Warp where
  ident : Ident
  /-- R16, R29, R149. -/
  die : Nat
  core : Nat
  slot : Nat
  port : Nat
  /-- R109, R147. -/
  win : Nat
  /-- R109, R160. -/
  ceil : Nat
  /-- R103. -/
  flags : BitVec 6
  /-- Physical register n of lane l at 32n + l; an unlisted register holds 0 (R108, R151). -/
  regs : Tbl Word
  /-- p7 to p0 of each lane; bit 0 is never read (R113). -/
  preds : Tbl Byte
  /-- R43, R268: the values written to registers in this step, at 32n + l, for the monitors of cluster space. -/
  wrote : List (Nat × Word)
  /-- R98: the generator of each lane. -/
  gen : Tbl Word
  /-- R155: one bit for each physical register. -/
  priv : BitVec 1024
  /-- R155: the innermost template image the warp reads. -/
  image : Option Nat
  /-- R150: a root template warp before its FREEZE. -/
  self : Bool
  /-- R214: b0 to b15. -/
  recs : Tbl (BitVec 128)
  /-- R308: st0 to st7. -/
  strides : Tbl Word
  /-- R308: tp15 to tp0. -/
  tiles : BitVec 16
  slices : List Slice
  counters : Counters
  marks : List Mark
  log : Tbl LogEntry
  /-- R161: granules pending for the warp with this F1. -/
  donations : Tbl Nat
  /-- R161, R170. -/
  rendArrived : BitVec 16
  /-- R161: the slices that have executed REND k, in key k. -/
  rendSlices : Tbl (BitVec 8)
  /-- R164: how often each slice has executed the barrier in key n (16 + n for a cohort barrier)
  since the warp's last arrival, eight counts. -/
  barSlices : Tbl (List Nat)
  /-- R164: for each such barrier, the count stated last and the slices that stated it. -/
  barStated : Tbl (Nat × BitVec 8)
  /-- R164, R170: bit n, or bit 16 + n for a cohort barrier: arrived and not yet departed. -/
  barArrived : BitVec 32
  /-- R313: tile commands that wait for a free entry, as they were read, one for each gang that waits. -/
  tileWait : List MxEntry
  /-- R58: set while a fence of a speculative context is incomplete. -/
  spec : Option Speculation
  /-- R143: every slice has ended. -/
  ended : Bool
  /-- R162, R387: the order in which warps were placed. -/
  placed : Nat
  /-- R169: the machine has chosen the warp for saving. -/
  stopping : Bool
  deriving DecidableEq, Repr, Inhabited

/-- R154: a template image that a core's template store may hold. -/
structure Image where
  addr : Nat
  level : Nat
  parent : Option Nat
  graph : Nat
  node : Nat
  ctx : Nat
  modes : List Word
  win : Nat
  ceil : Nat
  preds : Tbl Byte
  tiles : BitVec 16
  strides : Tbl Word
  recs : Tbl (BitVec 128)
  map : BitVec 1024
  regs : Tbl Word
  pc : VAddr
  group : Nat
  cohort : Nat
  deriving DecidableEq, Repr, Inhabited

/-! ## Workgroups and cohorts (R24, R86, R164) -/

/-- R164: one barrier. -/
structure Barrier where
  phase : Bool
  latched : Option Nat
  arrived : Nat
  deriving DecidableEq, Repr, Inhabited

structure Group where
  cohort : Nat
  die : Nat
  core : Nat
  /-- R86, R242: cb0 to cb7, sixteen BF16 entries each; an unlisted slot holds +0 (R202). -/
  cb : Tbl (List (BitVec 16))
  /-- R164: an unlisted barrier is unlatched, phase 0. -/
  bars : Tbl Barrier
  /-- Warps of the workgroup that have not ended, resident or saved: F1 and the warp's number. -/
  warps : Tbl Nat
  /-- R23, R161: the F1 values of the workgroup's warps, ended ones too. -/
  names : List Nat
  /-- R158: the nested level-2 image. -/
  nested : Option Nat
  deriving DecidableEq, Repr, Inhabited

structure Cohort where
  die : Nat
  cluster : Nat
  ctx : Nat
  graph : Nat
  node : Nat
  index : Nat
  f3 : Nat
  nwg : Nat
  bars : Tbl Barrier
  nested : Option Nat
  batch : Bool
  /-- R26: the one-warp workgroup of a root template warp. -/
  template : Option Nat
  deriving DecidableEq, Repr, Inhabited

/-! ## Operations in flight (R216, R221, R239, R245 to R248, R258, R268) -/

/-- R223: what a leaf entry says of a page. -/
structure PageAttr where
  red : Nat
  cbs : Nat
  geo : Nat
  fmt : Nat
  mt : Nat
  size : Nat
  deriving DecidableEq, Repr, Inhabited

/-- A 128-byte line that an operation reaches, translated; of a line of another device, that device and the
address there (R415). -/
structure OpLine where
  va : Nat
  pa : Nat
  attr : PageAttr
  far : Nat × Nat
  deriving DecidableEq, Repr, Inhabited

/-- What an operation in flight is. -/
inductive OpKind where
  | load | store | loadAcquire | storeRelease | codebook | prefetch
  | clusterLoad | clusterStore | clusterLoadAcquire | clusterStoreRelease
  | atomic | atomicCluster | routine | waitm | waitmCluster
  | cacheop | cacheopRange
  | arrive | publish | versionFence
  | copy | planes
  | drain | refill | scatterGrad
  | gather | scatter | bag | nodeFetch
  | queuePush | queuePop | queueStat | registerWrite
  | image | update | tileCopy | start | result
  deriving DecidableEq, Repr, Inhabited

structure Op where
  kind : OpKind
  die : Nat
  core : Nat
  cluster : Nat
  ctx : Nat
  warp : Option Nat
  /-- The workgroup that issued it, 0 for a unit. -/
  group : Nat
  slices : BitVec 8
  /-- R44: the slices whose later accesses follow it in issue order: its own, and those that a
  reconvergence has joined to them since. -/
  before : BitVec 8
  /-- Lanes whose elements are to be translated, and lanes whose elements met a fault (R239). -/
  mask : BitVec 32
  fmask : BitVec 32
  /-- Every element has been translated and its requests sent. -/
  placed : Bool
  /-- What the instruction asks for beyond its kind, as its requests carry it. -/
  code : Nat
  word : Word
  mode : Word
  win : Nat
  pc : VAddr
  /-- Bytes of one scalar and scalars of one element (R218). -/
  z : Nat
  n : Nat
  /-- First physical destination register, or the register an atomic returns to; of a copy, the slot of the
  warp that issued it. -/
  dst : Nat
  record : BitVec 128
  /-- R63: the publish entry and the version sampled. -/
  sample : Option (Nat × Nat)
  /-- R239: the operation is replayed and its published entry was disabled at issue: it samples when it next
  translates. -/
  resample : Bool
  elems : List Elem
  lines : List OpLine
  /-- Bytes read so far, by address. -/
  buf : List Host.Cell
  /-- Lanes that have returned, and lane results of atomics. -/
  results : Tbl (BitVec 64)
  /-- Operand-log entry, copy record, operation record or reservation entry (fr.entry). -/
  entry : Nat
  /-- R245, R336: parameters, or the control words of an engine or queue operation. -/
  par : List Word
  /-- R86: codebook entries sampled at issue, by slot. -/
  cb : Tbl (List (BitVec 16))
  /-- R246, R325: elements or bytes performed so far. -/
  done : Nat
  flags : BitVec 6
  /-- Set when the operation waits for system software at a fault (R239). -/
  faulted : Bool
  /-- R420: the collective a contribution carries. -/
  collective : Option (Nat × Nat)
  /-- R31, R210: the step or time it was issued at. -/
  issued : Nat
  deriving DecidableEq, Repr, Inhabited

/-! ## A core (R18, R29, R157, R226, R227, R337 to R349) -/

/-- R227: a line of the first-level cache. -/
structure CacheLine where
  ctx : Nat
  pa : Nat
  bytes : List Byte
  filled : Nat
  deriving DecidableEq, Repr, Inhabited

/-- R157: a request for register granules, oldest first in its core: of a gang for a GROW (1) or a copy fault
(3), or of a workgroup for its REND (2), in whose place `warp` then names the workgroup. A copy fault of a write
by another agent has no slices, and names its granule. -/
structure GrantRequest where
  warp : Nat
  slices : BitVec 8
  kind : Nat
  granules : Nat
  granule : Nat
  deriving DecidableEq, Repr, Inhabited

/-- R346: an entry of a queue: the reservation it belongs to, whether it is complete, and its words. -/
structure QueueEntry where
  res : Nat
  complete : Bool
  words : List Word
  deriving DecidableEq, Repr, Inhabited

/-- R365: the open candidate group of a queue. -/
structure OpenGroup where
  res : Nat
  records : Nat
  /-- What the clock of the core's field shows when the group closes. -/
  closes : Nat
  deriving DecidableEq, Repr, Inhabited

structure Queue where
  entries : List QueueEntry
  openGroup : Option OpenGroup
  /-- R349: gangs holding at the queue, in the order they first held: warp and slices. -/
  holding : List (Nat × BitVec 8)
  deriving DecidableEq, Repr, Inhabited

/-- R342: the state of an access-processor context. -/
inductive ApState where
  | idle
  | running
  | blocked
  | suspended
  | parked
  deriving DecidableEq, Repr, Inhabited

/-- R355 to R358, R366: what a blocked instruction of a context has read at its issue: its word of operands, the
address and the indices of its list, and its record. -/
structure ApIssue where
  word : Word
  list : Nat
  idx : List Nat
  record : BitVec 128
  deriving DecidableEq, Repr, Inhabited

structure ApContext where
  st : ApState
  /-- R338: a byte address of the instruction store, or the address past its last word (R359). -/
  pc : BitVec 16
  /-- x1 to x31; an unlisted register holds 0. -/
  x : Tbl Word
  /-- R357. -/
  outstanding : Nat
  /-- The context awaits its own node or triangle fetch (R342). -/
  fetching : Option Nat
  /-- The operands of the instruction at which the context is blocked. -/
  pend : Option ApIssue
  /-- R369: the save record could not be written. -/
  keptState : Bool
  /-- R359: the context has yielded. -/
  yielded : Bool
  /-- R420: the collective of the launch that started it. -/
  collective : Option (Nat × Nat)
  deriving DecidableEq, Repr, Inhabited

structure ApUnit where
  /-- R337: the 16 KiB instruction store, by byte. -/
  imem : Memory
  /-- R340: the 8 KiB data memory, by byte. -/
  dmem : Memory
  ctxs : List ApContext
  /-- R339: the context that issued last. -/
  last : Nat
  deriving DecidableEq, Repr, Inhabited

structure Core where
  /-- R341, R389: the context whose warps the core holds, 0 for none. -/
  ctx : Nat
  /-- R226: the carve-out in KiB. -/
  carve : Nat
  /-- R227. -/
  cache : List CacheLine
  /-- R154, R155: images in the template store. -/
  images : List Nat
  /-- R157. -/
  grants : List GrantRequest
  /-- R162: starvation has been detected and no warp has been ready since. -/
  starved : Bool
  queues : List Queue
  units : List ApUnit
  deriving DecidableEq, Repr, Inhabited

/-! ## A cluster: store, hash engine, matrix engine (R18, R280, R303) -/

/-- R280: a configuration slot of the hash engine. -/
structure HashSlot where
  ctx : Nat
  valid : Bool
  levels : List (BitVec 128)
  table : BitVec 128
  grad : BitVec 128
  replica : Nat
  stride : Nat
  tag : Option Nat
  deriving DecidableEq, Repr, Inhabited

/-- R286, R301: a command of the hash engine. -/
structure HashCommand where
  word : Word
  mask : BitVec 32
  warp : Nat
  group : Nat
  ctx : Nat
  die : Nat
  core : Nat
  slices : BitVec 8
  quad : List Word
  px : List Word
  py : List Word
  pz : List Word
  table : BitVec 128
  grad : BitVec 128
  total : Nat
  bo : Nat
  /-- The version sampled at acceptance (R291). -/
  version : Option Nat
  accepted : Bool
  served : Bool
  flags : BitVec 6
  /-- R293, R300: how many adds of an HGRAD have been sent. -/
  unacked : Nat
  op : Option Nat
  deriving DecidableEq, Repr, Inhabited

structure Cluster where
  /-- R389: the context the cluster last worked for. -/
  ctx : Nat
  /-- R229: the 8 MiB cluster store. -/
  store : Memory
  slots : List HashSlot
  hashQueue : List HashCommand
  /-- R298: the hash engine waits at a fault. -/
  hashHeld : Bool
  /-- R292: when the interpolator is free. -/
  hashFree : Nat
  mx : Tbl MxEntry
  cell : Option Nat
  drain : Option Nat
  /-- R305: when the cell array is free. -/
  cellFree : Nat
  deriving DecidableEq, Repr, Inhabited

/-! ## Home slices (R253 to R278) -/

/-- What a request at a home slice is. -/
inductive ReqKind where
  | load | store | atomic | routine | monitor | contribution | cacheop
  deriving DecidableEq, Repr, Inhabited

/-- R256: a request to one line, waiting at its home slice in arrival order. -/
structure Req where
  kind : ReqKind
  home : Nat
  src : Nat
  op : Nat
  line : Nat
  /-- R41: position, bytes and lane of each part, ascending lane order: byte address, bytes, lane. -/
  parts : List (Nat × List Byte × Nat)
  /-- A contribution's reduction code, or its operation's `code`. -/
  code : Nat
  collective : Option (Nat × Nat)
  /-- R416: the message to answer when the request came from another device. -/
  remote : Option Message
  /-- R415: the device and the physical address there of a line of another device. -/
  far : Nat × Nat
  /-- The context that a unit without an operation sends it for. -/
  ctx : Nat
  deriving DecidableEq, Repr, Inhabited

/-- R420: a line's collective tag, with the line's offset in the region. -/
structure CollTag where
  ctx : Nat
  desc : Nat
  epoch : Nat
  offset : Nat
  deriving DecidableEq, Repr, Inhabited

/-- R254, R273, R276, R278, R420, R449: what a home slice keeps for a line. -/
structure HomeLine where
  counter : Nat
  target : Nat
  tag : Option CollTag
  locked : Option Nat
  resident : Bool
  unwritten : Bool
  packOff : Bool
  compressed : Bool
  /-- R449: the structure and the syndrome of an uncorrectable error of the line. -/
  poison : Option (Nat × Nat)
  deriving DecidableEq, Repr, Inhabited

/-- R268, R269: a lane that waits for a condition, armed at a home slice, a cluster-store slice or a
register's core. -/
structure Monitor where
  op : Nat
  lane : Nat
  home : Nat
  addr : Nat
  cluster : Bool
  cond : Nat
  value : Word
  signed : Bool
  armed : Bool
  /-- R268: a write has satisfied the armed lane. -/
  met : Bool
  /-- R269: when the lane was last checked. -/
  checked : Nat
  /-- R416: the message to answer when another device waits; `op` is then the request's number. -/
  remote : Option Message
  deriving DecidableEq, Repr, Inhabited

/-- R254: a read-only copy of a line homed elsewhere. -/
structure LineCopy where
  die : Nat
  pa : Nat
  bytes : List Byte
  filled : Nat
  deriving DecidableEq, Repr, Inhabited

/-- R53: an invalidation on its way: holder core key, or 100000 + die for a die's copies. -/
structure Invalidation where
  holder : Nat
  pa : Nat
  deriving DecidableEq, Repr, Inhabited

/-- R62, R225: an entry of the publish table. -/
structure PubEntry where
  back0 : Nat
  back1 : Nat
  version : Word
  enabled : Bool
  /-- R64, R65: operations counted as writers, and readers with the version they sampled. -/
  writers : List (Nat × Word)
  readers : List (Nat × Word)
  counter : Nat
  target : Nat
  /-- Operations that arrived and wait, in order: the op number, and the target of a version fence. -/
  waiting : List (Nat × Option Nat)
  deriving DecidableEq, Repr, Inhabited

/-- R275. -/
structure UpdateDesc where
  gbase : Nat
  lines : Nat
  valid : Bool
  alg : Nat
  pub : Nat
  ctx : Nat
  master : Nat
  mom1 : Nat
  mom2 : Nat
  hyp : Nat
  out : Nat
  deriving DecidableEq, Repr, Inhabited

/-- R276, R277: an update step that holds its line: its gradients, its operation once it has
translated, and whether it waits at a fault. -/
structure UpdateStep where
  desc : Nat
  j : Nat
  line : Nat
  grads : List Word
  op : Option Nat
  waiting : Bool
  deriving DecidableEq, Repr, Inhabited

/-- R224: a translation cached in a core, or in a cluster (1000 and its key). -/
structure TlbEntry where
  holder : Nat
  ctx : Nat
  /-- First virtual byte of the page, and of its frame. -/
  base : Nat
  frame : Nat
  w : Bool
  x : Bool
  /-- Where the leaf entry lies. -/
  leaf : Nat
  attr : PageAttr
  deriving DecidableEq, Repr, Inhabited

/-! ## Contexts and the task-graph machine (R375 to R401) -/

/-- R240, R345, R377, R428, R451: who waits behind a fault record. -/
inductive Resumable where
  | none
  | op (n : Nat)
  | fetch (warp : Nat) (slices : BitVec 8)
  | park (core unit ctx : Nat)
  | savedPark (group unit ctx : Nat)
  | update (line : Nat)
  | image (warp : Nat)
  | hash (cluster : Nat)
  | matrix (cluster entry : Nat)
  /-- R449: an access of a unit for a context, at a poisoned line. -/
  | line (ctx die line : Nat)
  deriving DecidableEq, Repr, Inhabited

/-- A posted record: its 32 bytes, who waits behind it, the die that posted it, and the operation of which it is a
release (R376). -/
structure Posted where
  bytes : List Byte
  behind : Resumable
  die : Nat
  op : Option Nat
  deriving DecidableEq, Repr, Inhabited

structure Context where
  tbase : Nat
  fence : Bool
  clusters : Nat
  fq : Nat
  fqlog : Nat
  tvec : VAddr
  save : Nat
  savesz : Nat
  /-- R376: records written, and records consumed. -/
  fqTail : Nat
  fqHead : Nat
  /-- Records that wait for room, oldest first. -/
  waiting : List Posted
  /-- Who waits behind the record at each queue position. -/
  behind : Tbl Resumable
  /-- R265: the routine words of each valid slot. -/
  routines : Tbl (List Word)
  /-- R341: the access-processor image, by byte. -/
  image : Memory
  /-- R418: collective descriptors, 64 bytes each, and the epoch of each. -/
  collectives : Tbl (List Byte)
  epochs : Tbl Nat
  /-- R422: result lines written in the epoch, lines completed, and whether it has completed. -/
  epochLines : Tbl Nat
  epochDone : Tbl Nat
  /-- R387: bytes of the save pool in use: address and size. -/
  pool : List (Nat × Nat)
  deriving DecidableEq, Repr, Inhabited

/-- R127: a launch header. -/
structure Header where
  addr : Nat
  w : List Nat
  tlevel : Nat
  carve : Nat
  cohort : Bool
  idem : Bool
  collective : Option Nat
  prio : Nat
  ceil : Nat
  entry : Nat
  save : Nat
  count : Nat
  args : BitVec 64
  deriving DecidableEq, Repr, Inhabited

/-- R380: a tile operand: global address, direction, cluster address, bytes. -/
structure Tile where
  addr : Nat
  dir : Nat
  cluster : Nat
  bytes : Nat
  deriving DecidableEq, Repr, Inhabited

/-- R400: a chunk of indices that a die holds: the next index and F3 to dispatch, cohorts passed over
until their templates freeze, and the order in which it was handed out. -/
structure Chunk where
  die : Nat
  first : Nat
  count : Nat
  nextIndex : Nat
  nextF3 : Nat
  pending : List (Nat × Nat)
  seq : Nat
  deriving DecidableEq, Repr, Inhabited

/-- R26, R153: how a template unit stands. -/
inductive UnitState where
  | started (cohort : Nat)
  | frozen (image : Nat)
  | ended
  deriving DecidableEq, Repr, Inhabited

/-- R382. -/
inductive NodeState where
  | blocked
  | ready
  | complete
  deriving DecidableEq, Repr, Inhabited

/-- R396: a consumer batch of a die that waits to start. -/
structure Batch where
  die : Nat
  records : List (List Word)
  seq : Nat
  deriving DecidableEq, Repr, Inhabited

/-- R395: an EMIT of a gang that waits for room in its die's pool: the consumer node, and the records it
has yet to place. -/
structure Emitter where
  die : Nat
  warp : Nat
  slices : BitVec 8
  pc : VAddr
  node : Nat
  records : List (List Word)
  begun : Bool
  deriving DecidableEq, Repr, Inhabited

/-- R392: a POST value on its way to its node's partial value: its die, the warp that posted it, and the value. -/
structure Post where
  die : Nat
  warp : Nat
  value : Word
  deriving DecidableEq, Repr, Inhabited

structure Node where
  addr : Nat
  kind : Nat
  comb : Nat
  prio : Nat
  succ : List Nat
  npred : Nat
  timeout : Nat
  bmap : Nat
  tiles : List Tile
  hdrAddr : Nat
  hdr : Option Header
  st : NodeState
  status : Nat
  result : Word
  /-- Incoming edges resolved, taken, and whether one came from a node of status 2 (R382). -/
  resolved : Nat
  taken : Nat
  failed : Bool
  /-- R392: the partial value of each die, and the POST values on their way. -/
  partials : List Word
  posts : List Post
  /-- R400: the index counter, its mirrored copy, chunks, and requests in their order. -/
  counter : Nat
  mirror : Nat
  chunks : List Chunk
  requests : List Nat
  /-- R400: the die whose chunk is being mirrored, and whether the mirror write is acknowledged. -/
  mirroring : Option (Nat × Bool)
  /-- R401: chunks to be dispatched again: first index and count. -/
  redo : List (Nat × Nat)
  lost : Bool
  /-- R399: dies that have started a warp of the node. -/
  started : List Nat
  /-- R153: template units by their number. -/
  units : Tbl UnitState
  /-- R395, R396: the input queue of each die, when its oldest record was placed, batches, counts. -/
  input : List (List (List Word))
  placedAt : List Nat
  batches : List Batch
  batchCount : List Nat
  /-- R386: the order in which the node became ready or last took a chunk. -/
  readySeq : Nat
  /-- R383: clusters whose in-operands have been copied and whose regions are in use, and those of them for
  whose first cohort the copies were made and that has not started yet. -/
  openOn : List Nat
  primed : List Nat
  /-- R420: the epoch that the launch has started, with its descriptor. -/
  collective : Option (Nat × Nat)
  deriving DecidableEq, Repr, Inhabited

structure Graph where
  ctx : Nat
  addr : Nat
  /-- A plain launch (R378), whose completion word is the command's. -/
  plain : Bool
  background : Bool
  budget : Nat
  pool : Nat
  frame : Nat
  fgraph : Nat
  done : Nat
  nodes : Tbl Node
  /-- R399: the count of each die, whether it has posted exhaustion in the frame, frames so far. -/
  left : List Nat
  exhausted : List Bool
  frames : Nat
  /-- R399: the present window of each die, and whether a warp was resident in it. -/
  windowNo : List Nat
  windowUsed : List Bool
  /-- R395: records in each die's pool, and EMITs waiting for room, oldest first. -/
  poolUsed : List Nat
  emitters : List Emitter
  complete : Bool
  /-- R426: the die of a persistent launch. -/
  persistent : Option Nat
  /-- R407: the die whose machine holds this view of the graph, once the dies have taken each other as failed. -/
  owner : Option Nat
  deriving DecidableEq, Repr, Inhabited

/-- R388, R391: a saved warp: where its save area lies, whether it may return, and the warp as it was
saved, for what the layout of R170 has no field for. -/
structure Saved where
  rest : Warp
  /-- R171, R388: what the clock of the field that it left showed when it was saved; a saved SLEEP runs by that
  clock. -/
  clock : Nat
  cluster : Nat
  addr : Nat
  restorable : Bool
  /-- R62, R166: saved after a double trap or an error; only system software returns it. -/
  stopped : Bool
  seq : Nat
  deriving DecidableEq, Repr, Inhabited

/-- R390, R391: a workgroup saved whole: the addresses of its records in the save pool, where it was,
whether it must return to that cluster, its copies, commands, barrier objects and regions, its context's
hash slots (R299), and what its core record holds (R371). -/
structure SavedGroup where
  addrs : List Nat
  cluster : Nat
  die : Nat
  pinned : Bool
  copies : List (Nat × Op)
  hash : List HashCommand
  mx : List MxEntry
  objects : List (Nat × List Byte)
  regions : List (Nat × List Byte)
  slots : List HashSlot
  hasCore : Bool
  units : List ApUnit
  queues : List Queue
  ops : List (Nat × Op)
  /-- R299: the order in which workgroups were saved. -/
  seq : Nat
  deriving DecidableEq, Repr, Inhabited

/-! ## Links, islands and the host (R405 to R454) -/

/-- R411: a flit sent and not acknowledged: its sequence number, its bytes, the devices to which messages in
it go, and how often it has been sent again. -/
structure Flit where
  seq : Nat
  bytes : List Byte
  dests : List Nat
  resent : Nat
  deriving DecidableEq, Repr, Inhabited

/-- R411: a system port. -/
structure Port where
  up : Bool
  nextSeq : Nat
  expected : Nat
  unacked : List Flit
  /-- When a flit was last accepted (R411). -/
  lastAccept : Nat
  /-- Messages that wait for credits, or for those sent on another port, each with a number of its own (R412,
  R414). -/
  txWait : List (Nat × Message)
  /-- Bytes of messages that wait for a flit, each with the device it goes to. -/
  txBytes : List (Nat × Byte)
  rxBytes : List Byte
  /-- R412: credits that remain for sending, in flits, for each virtual channel. -/
  credits : List Nat
  /-- R412: credits of messages received, in flits, not yet returned to the peer. -/
  owed : List Nat
  /-- R429: system software has asked for a retraining. -/
  retraining : Bool
  deriving DecidableEq, Repr, Inhabited

/-- R416, R429: a request sent to another device and not answered. -/
structure RemoteReq where
  req : Req
  port : Nat
  device : Nat
  /-- R55: an acquire has discarded copies since it was sent, so its response fills no cache. -/
  stale : Bool
  deriving DecidableEq, Repr, Inhabited

/-- R423: an entry of a home slice's overflow list. -/
structure Overflow where
  home : Nat
  addr : Nat
  desc : Nat
  ctx : Nat
  epoch : Nat
  req : Req
  deriving DecidableEq, Repr, Inhabited

/-- R444 to R446. -/
structure Island where
  st : Nat
  point : Nat
  throttledCurrent : Bool
  throttledHeat : Bool
  amps : Nat
  head : Nat
  temp : Nat
  /-- R385. -/
  threshold : Nat
  /-- R385: the last reading stood below the threshold. -/
  holding : Bool
  /-- R8, R149: cycles of the island's clock since its reticle field left reset. -/
  clock : Nat
  deriving DecidableEq, Repr, Inhabited

/-- R439: a command ring. -/
structure Ring where
  base : Nat
  log : Nat
  enabled : Bool
  tail : Nat
  head : Nat
  /-- R437: the operations that the invalidate command at the head waits for. -/
  awaits : Option (List Nat)
  deriving DecidableEq, Repr, Inhabited

/-- What each die's management block and task-graph machine keep (R376, R385, R400, R443, R453). -/
structure Die where
  /-- R443. -/
  ready : BitVec 32
  /-- R452: the die has verified its firmware image. -/
  verified : Bool
  /-- R401. -/
  failed : Bool
  lastHeartbeat : Nat
  /-- R425: the reserved clusters and their context. -/
  partition : Option (Nat × Nat)
  /-- R449: the die has stopped dispatching. -/
  stopped : Bool
  /-- R453: m0 to m7. -/
  measures : List (List Byte)
  deriving DecidableEq, Repr, Inhabited

/-- R449, R450: an error record behind which something may wait: its position in the error log, the line
or cluster-store address it names, the structure, and the operation or the request held. -/
structure HeldError where
  pos : Nat
  struct : Nat
  unit : Nat
  line : Nat
  behind : Resumable
  req : Option Nat
  deriving DecidableEq, Repr, Inhabited

/-- R439: a message the device has sent system software. -/
structure EventMessage where
  kind : Nat
  number : Nat
  count : Nat
  deriving DecidableEq, Repr, Inhabited

/-! ## The whole device -/

/-- What acts in the next step: an issue port of a core (R31), an access processor (R339), a command
ring (R438), or an event and the numbers of what it acts on. -/
inductive Turn where
  | port (die core port : Nat)
  | ap (die core unit : Nat)
  | ring (r : Nat)
  | event (i : Instr) (args : List Nat)
  deriving DecidableEq, Repr, Inhabited

/-- What the present instruction acts for: no one, a gang of a warp, an access-processor context, or
the numbered things that an event acts on, in the order its constructor's docstring names them. -/
inductive Issuer where
  | none
  | gang (warp : Nat) (slices : BitVec 8)
  | ap (core unit ctx : Nat)
  | event (args : List Nat)
  deriving DecidableEq, Repr, Inhabited

structure State where
  /-- R1, R2: the dies of the device, two for a package. -/
  dies : Nat
  /-- Physical memory of routes 0 and 1 as its home slices hold it (R224, R254). -/
  mem : Memory
  warps : Tbl Warp
  groups : Tbl Group
  cohorts : Tbl Cohort
  images : Tbl Image
  cores : Tbl Core
  clusters : Tbl Cluster
  ops : Tbl Op
  reqs : Tbl Req
  homeLines : Tbl HomeLine
  monitors : List Monitor
  copies : List LineCopy
  invalidations : List Invalidation
  publish : Tbl PubEntry
  updates : Tbl UpdateDesc
  steps : Tbl UpdateStep
  tlb : List TlbEntry
  contexts : Tbl Context
  graphs : Tbl Graph
  saved : Tbl Saved
  savedGroups : Tbl SavedGroup
  perDie : List Die
  islands : List Island
  /-- R407: the die-to-die link is up. -/
  dieLink : Bool
  /-- R407: it has gone down, and stays down until the package is brought up again. -/
  dieLinkLost : Bool
  ports : Tbl Port
  /-- Messages received and not yet performed, by port. -/
  inbox : List (Nat × Message)
  /-- Flits sent, by port. -/
  outbox : List (Nat × List Byte)
  remote : Tbl RemoteReq
  /-- R415, R416: lines of other devices that the device's own units have asked for and received, without bytes
  where the request was lost (R429); and zeros for a poisoned line whose read was aborted (R449). -/
  unitLines : Tbl (List Byte)
  overflow : List Overflow
  /-- R423: the overflow area's base and entries; R424: exhaustion has been reported. -/
  overflowArea : Option (Nat × Nat)
  overflowFull : Bool
  /-- R414, R415, R278: bases given by system software. -/
  routeTable : Option Nat
  apertureTable : Option Nat
  metadata : Option (Nat × Nat)
  rings : List Ring
  /-- R439. -/
  errBase : Nat
  errLog : Nat
  errHead : Nat
  errTail : Nat
  errWaiting : List (List Byte)
  errors : List HeldError
  corrected : Tbl Nat
  events : List EventMessage
  /-- R413: the device identifier, once loaded. -/
  device : Nat
  /-- R452: which firmware image the host serves at this bring-up. -/
  firmware : Nat
  /-- R435: modules of the host attach that have trained. -/
  hostModules : Nat
  /-- The next number for a warp, an operation, a request, a workgroup or a cohort. -/
  fresh : Nat
  /-- How many free values have been drawn. -/
  free : Nat
  /-- How many steps have begun (R31). -/
  now : Nat
  turn : Turn
  issuer : Issuer
  /-- R240: the instruction word fetched for the issuer. -/
  fetched : Option Word
  /-- The issuer held: its instruction took no effect (R30, R135). -/
  held : Bool
  /-- Lines that a unit could not reach in this step, each with the context and the die that it acts for: the step
  is then made again (R405, R416, R443, R449). -/
  stuck : List (Nat × Nat × Nat)
  /-- The lines of `unitLines` that this step has used up. -/
  used : List Nat
  deriving DecidableEq, Repr, Inhabited

/-- The machine right after reset: nothing is powered, every table is empty, and the first step is
power-on (R442). Device memory lists nothing; the dispatch thresholds stand at 60 A (R385). -/
def State.reset : State :=
  { (default : State) with
    dies := 2
    perDie := List.replicate 2 { (default : Die) with measures := List.replicate 8 (List.replicate 64 0) }
    islands := List.replicate 6 { (default : Island) with threshold := 60 }
    rings := List.replicate 16 default
    fresh := 1
    turn := .event .powerOn [] }

/-- Why a step stops with a fault. -/
inductive Fault where
  /-- Raised by every meaning of a core instruction word when no gang issues it, which no step asks
  for. Safe: the device has no such case. -/
  | noIssuer
  /-- Raised by every meaning of an access-processor instruction when no context executes it, which
  no step asks for. Safe: the device has no such case. -/
  | noContext
  deriving DecidableEq, Repr, Inhabited

/-- Why a step is refused. -/
inductive Refusal where
  /-- Raised by an arm of `exec` whose instruction has no meaning yet. Safe: nothing follows. -/
  | notModelled (mnemonic : String)
  deriving DecidableEq, Repr, Inhabited

end Sys2Proof.Machine
end

