-- ==== Sys2Proof/Config.lean ====
section
/-!
DEFINITION. What the spec leaves open, as constants without a body: no proof can see their values, so
a claim that holds of this model holds whatever they are. A function of a counter gives a fresh value
each time it is applied to the next number (`State.free`); notes/assumptions/1.md lists who draws.
-/

namespace Sys2Proof.Config

/-- R11: an undefined value of one word. -/
opaque freeWord : Nat → Word

/-- A choice the spec leaves open (an order, a victim, a moment), as any number. -/
opaque choice : Nat → Nat

/-- Who acts next: the order of ports, access processors, rings and events is not fixed beyond the
rules that each of them checks. -/
opaque schedule : Nat → Machine.Turn

/-- R8: cycles of the clock of an island that pass before a step. -/
opaque elapsed : Nat → Nat → Nat

/-- R192: the FP32 result of the V480's method for a transcendental function (by its opcode) and an
operand. -/
opaque transcendental : Nat → Nat → Nat

/-- R454: the response of a die's physically unclonable array, and the helper data in an image's configuration
block. -/
opaque pufResponse : Nat → List Byte
opaque helperData : Nat → List Byte

/-- R454: what hedges a signature, by a counter; the spec does not say how FIPS 205's choice is made. -/
opaque signRandom : Nat → List Byte

/-- R452: the firmware image that the host serves at a bring-up: all that its signature covers, the public
key, the signature, the configuration block, and the device identifier in it. The spec states no layout. -/
opaque imageBody : Nat → List Byte
opaque imageKey : Nat → List Byte
opaque imageSignature : Nat → List Byte
opaque imageConfig : Nat → List Byte
opaque imageDevice : Nat → Nat

/-- R454: the firmware version that a report of an image states. -/
opaque imageVersion : Nat → Nat

/-- R452: the digest of Umiraza's public key in the boot ROM. -/
opaque keyDigest : List Byte

/-- R443: the HBM4 stack of a home slice's memory, by slice; the spec states no assignment. -/
opaque stackOf : Nat → Nat

/-- R412: the credits, beyond those of one message of the largest size, that a port holds for a virtual
channel when it comes up; the spec states no number. -/
opaque startCredits : Nat → Nat

/-- R412: how an atomic's request, as numbers, lies in the 256 bytes of its message, and how one is read
from them; the spec states no layout. -/
opaque atomicBytes : List Nat → List Byte
opaque atomicOf : List Byte → List Nat

/-- R416: how the results of lanes lie in the 128 bytes of a response, and how they are read from it. -/
opaque resultBytes : List Nat → List Byte
opaque resultsOf : List Byte → List Nat

end Sys2Proof.Config
end

