-- ==== Sys2Proof/Machine/Floats.lean ====
section
/-!
DEFINITION. Floating-point values and rounding (R80 to R104 of spec/03_number_formats.md). A value is
taken apart into an exact dyadic number, computed exactly, and rounded once. Encodings are natural
numbers; a BF16 value is handled as the FP32 value with its bits in the upper half (R81).
-/

namespace Sys2Proof.Machine

/-- A decoded floating-point value; `fin neg m e` is ±m·2^e. -/
inductive FVal where
  | nan (signalling : Bool)
  | inf (neg : Bool)
  | fin (neg : Bool) (m : Nat) (e : Int)
  deriving DecidableEq, Repr, Inhabited

/-- A rounded element: its FP32 bits, the flags it raises (R103) and the generator after it (R98). -/
structure Rounded where
  bits : Nat
  flags : BitVec 6
  gen : Word
  deriving DecidableEq, Repr, Inhabited

/-- How to round (R93 to R97): significand bits kept (24 for FP32, 8 for BF16), `mode.rnd`, `mode.sat`,
flushing, and for SR the number of random bits. -/
structure Rnd where
  prec : Nat
  mode : Nat
  sat : Bool
  ftz : Bool
  k : Nat
  deriving DecidableEq, Repr, Inhabited

/-! ## Flags (R103) -/

def flagNV : BitVec 6 := 1
def flagDZ : BitVec 6 := 2
def flagOF : BitVec 6 := 4
def flagUF : BitVec 6 := 8
def flagNX : BitVec 6 := 16
def flagOOB : BitVec 6 := 32

/-- R82: the canonical NaN in FP32. -/
def qnan : Nat := 0x7FC00000

/-- The FP32 infinity of a sign. -/
def infBits (neg : Bool) : Nat := if neg then 0xFF800000 else 0x7F800000

/-- The FP32 zero of a sign. -/
def zeroBits (neg : Bool) : Nat := if neg then 0x80000000 else 0

/-- R80: takes FP32 bits apart. -/
def fdecode (b : Nat) : FVal :=
  let neg := decide (b / 2 ^ 31 % 2 = 1)
  let ex : Nat := b / 2 ^ 23 % 256
  let fr := b % 2 ^ 23
  if ex = 255 then if fr = 0 then .inf neg else .nan (decide (fr < 2 ^ 22))
  else if ex = 0 then .fin neg fr (-149)
  else .fin neg (2 ^ 23 + fr) ((ex : Int) - 150)

/-- R83: an operand with `mode.ftz`: a denormal reads as a zero of its sign. -/
def fdecodeFtz (ftz : Bool) (b : Nat) : FVal :=
  if ftz && decide (b / 2 ^ 23 % 256 = 0) then .fin (decide (b / 2 ^ 31 % 2 = 1)) 0 (-149)
  else fdecode b

/-- The FP32 bits of m·2^u, which FP32 holds exactly; m is not 0 and u is at least -149. -/
def fencode (neg : Bool) (m : Nat) (u : Int) : Nat :=
  let s := if neg then 2 ^ 31 else 0
  let top := Nat.log2 m
  let ex : Int := top + u + 127
  if m = 0 then s
  else if ex ≤ 0 then s + m * 2 ^ (u + 149).toNat
  else s + ex.toNat * 2 ^ 23 + (m * 2 ^ (23 - top) / 2 ^ (top - 23) - 2 ^ 23)

/-- The exponent of the last place that a precision keeps for a value whose leading bit is `top`. -/
def ulpExp (prec : Nat) (top : Int) : Int := max (top - (prec - 1 : Nat)) (-125 - (prec : Int))

/-- R95: whether SR rounds a magnitude up: `d` discarded positions holding `rest`. -/
def srUp (d rest k r : Nat) : Bool :=
  let j := min k d
  decide (2 ^ j ≤ rest / 2 ^ (d - j) + r / 2 ^ (k - j))

/-- R93, R95: whether the magnitude rounds up. `rest` of `2^d` was discarded, with `sticky` when
more, unrepresented, follows; `odd` is the last kept bit; `r` the `k` random bits. -/
def roundUp (mode : Nat) (neg odd : Bool) (d rest : Nat) (sticky : Bool) (k r : Nat) : Bool :=
  let half := 2 ^ d / 2
  match mode with
  | 0 => decide (0 < d) && (decide (half < rest) || (decide (rest = half) && (sticky || odd)))
  | 1 => false
  | 2 => !neg && (decide (rest ≠ 0) || sticky)
  | 3 => neg && (decide (rest ≠ 0) || sticky)
  | 4 => decide (0 < d) && decide (half ≤ rest)
  | _ => decide (0 < d) && srUp d rest k r

/-- R94: what an overflow gives. -/
def overflowBits (rn : Rnd) (neg : Bool) : Nat :=
  let big := (if neg then 2 ^ 31 else 0) + (if rn.prec = 24 then 0x7F7FFFFF else 0x7F7F0000)
  let toInf := match rn.mode with
    | 1 => false
    | 2 => !neg
    | 3 => neg
    | _ => true
  if toInf && !rn.sat then infBits neg else big

/-- R93 to R95, R83: rounds ±m·2^e (with `sticky`, slightly more in magnitude); the random bits are
`r`. -/
def roundWith (rn : Rnd) (neg : Bool) (m : Nat) (e : Int) (sticky : Bool) (r : Nat) :
    Nat × BitVec 6 :=
  if m = 0 then (zeroBits neg, 0)
  else
    let u := ulpExp rn.prec (Nat.log2 m + e)
    let d := (u - e).toNat
    let t := m * 2 ^ (e - u).toNat / 2 ^ d
    let rest := m % 2 ^ d
    let inexact := decide (rest ≠ 0) || sticky
    let t' := if roundUp rn.mode neg (decide (t % 2 = 1)) d rest sticky rn.k r then t + 1 else t
    let nx := if inexact then flagNX else 0
    if t' = 0 then (zeroBits neg, nx)
    else
      let top : Int := Nat.log2 t' + u
      if 127 < top then (overflowBits rn neg, flagOF ||| flagNX)
      else if top < -126 then
        if rn.ftz then (zeroBits neg, flagUF ||| flagNX)
        else (fencode neg t' u, if inexact then flagUF ||| flagNX else 0)
      else (fencode neg t' u, nx)

/-- R98: one step of a lane's generator. -/
def genStep (g : Word) : Word :=
  let a := g ^^^ (g <<< 13)
  let b := a ^^^ (a >>> 17)
  b ^^^ (b <<< 5)

/-- R98: the state after an element is rounded, which advances only under SR. -/
def genNext (rn : Rnd) (g : Word) : Word := if rn.mode = 5 then genStep g else g

/-- R98: the random bits that an element rounds with. -/
def genBits (rn : Rnd) (g : Word) : Nat := (genNext rn g).toNat / 2 ^ (32 - rn.k)

/-- Rounds a finite exact value, drawing under SR. -/
def roundFin (rn : Rnd) (neg : Bool) (m : Nat) (e : Int) (sticky : Bool) (g : Word) : Rounded :=
  let p := roundWith rn neg m e sticky (genBits rn g)
  ⟨p.1, p.2, genNext rn g⟩

/-- A result that needs no rounding; under SR its draw is made all the same. -/
def exactly (rn : Rnd) (bits : Nat) (flags : BitVec 6) (g : Word) : Rounded :=
  ⟨bits, flags, genNext rn g⟩

/-- R82: a NaN result; a signalling operand raises invalid. -/
def nanOf (rn : Rnd) (g : Word) (vs : List FVal) : Rounded :=
  exactly rn qnan (if vs.any (· = .nan true) then flagNV else 0) g

/-- Whether a value is a NaN. -/
def FVal.isNan : FVal → Bool
  | .nan _ => true
  | _ => false

/-- The value with its sign turned. -/
def FVal.neg : FVal → FVal
  | .nan b => .nan b
  | .inf n => .inf !n
  | .fin n m e => .fin (!n) m e

/-- The signed mantissa of a finite value at exponent `e`, which is at most its own. -/
def signedAt (neg : Bool) (m : Nat) (e' e : Int) : Int :=
  let v : Int := m * 2 ^ (e' - e).toNat
  if neg then -v else v

/-- R82, R99: the exact sum of two values, rounded once. -/
def fAdd (rn : Rnd) (x y : FVal) (g : Word) : Rounded :=
  match x, y with
  | .nan _, _ => nanOf rn g [x, y]
  | _, .nan _ => nanOf rn g [x, y]
  | .inf a, .inf b => if a = b then exactly rn (infBits a) 0 g else exactly rn qnan flagNV g
  | .inf a, .fin .. => exactly rn (infBits a) 0 g
  | .fin .., .inf b => exactly rn (infBits b) 0 g
  | .fin na ma ea, .fin nb mb eb =>
    let e := min ea eb
    let v := signedAt na ma ea e + signedAt nb mb eb e
    if v = 0 then
      let neg := if ma = 0 ∧ mb = 0 ∧ na = nb then na else decide (rn.mode = 3)
      exactly rn (zeroBits neg) 0 g
    else roundFin rn (decide (v < 0)) v.natAbs e false g

/-- R82: the product of two values, exact; `none` for 0·∞ and for NaN operands. -/
def fProd (x y : FVal) : Option FVal :=
  match x, y with
  | .nan _, _ => none
  | _, .nan _ => none
  | .inf a, .inf b => some (.inf (a != b))
  | .inf a, .fin b m _ => if m = 0 then none else some (.inf (a != b))
  | .fin a m _, .inf b => if m = 0 then none else some (.inf (a != b))
  | .fin a m e, .fin b n f => some (.fin (a != b) (m * n) (e + f))

/-- Rounds any value. -/
def fRound (rn : Rnd) (x : FVal) (g : Word) : Rounded :=
  match x with
  | .nan b => exactly rn qnan (if b then flagNV else 0) g
  | .inf n => exactly rn (infBits n) 0 g
  | .fin n m e => roundFin rn n m e false g

/-- R188: the product of two values, rounded once. -/
def fMul (rn : Rnd) (x y : FVal) (g : Word) : Rounded :=
  match fProd x y with
  | some p => fRound rn p g
  | none =>
    if x.isNan || y.isNan then nanOf rn g [x, y] else exactly rn qnan flagNV g

/-- R189: x·y + z, rounded once. -/
def fFma (rn : Rnd) (x y z : FVal) (g : Word) : Rounded :=
  match fProd x y with
  | some p => fAdd rn p z g
  | none =>
    if x.isNan || y.isNan then nanOf rn g [x, y, z]
    else exactly rn qnan flagNV g

/-- Compares two values that are not NaNs, -0 equal to +0. -/
def fCompare (x y : FVal) : Ordering :=
  match x, y with
  | .inf a, .inf b => if a = b then .eq else if a then .lt else .gt
  | .inf a, _ => if a then .lt else .gt
  | _, .inf b => if b then .gt else .lt
  | .fin na ma ea, .fin nb mb eb =>
    let e := min ea eb
    compare (signedAt na ma ea e) (signedAt nb mb eb e)
  | _, _ => .eq

/-- The magnitude of a value. -/
def FVal.abs : FVal → FVal
  | .nan b => .nan b
  | .inf _ => .inf false
  | .fin _ m e => .fin false m e

/-- Whether a value that is not a NaN is negative, -0 counting as negative. -/
def FVal.sign : FVal → Bool
  | .inf n => n
  | .fin n _ _ => n
  | _ => false

/-- R190: whether the first of two numbers is the one that FMIN (or, with `big`, FMAX) takes. -/
def fPicksFirst (big : Bool) (x y : FVal) : Bool :=
  match fCompare x y with
  | .lt => !big
  | .gt => big
  | .eq => if big then !x.sign else x.sign

/-- R190: FMIN, FMAX and their forms on operand bits already flushed; `nan` and `mag` select the
.nan and .abs forms. -/
def fMinMax (big nan mag : Bool) (a b : Nat) : Nat × BitVec 6 :=
  let x := fdecode a
  let y := fdecode b
  let fl := if x = .nan true ∨ y = .nan true then flagNV else 0
  let pick := fun p : Bool => ((if p then a else b), fl)
  match x.isNan, y.isNan with
  | true, true => (qnan, fl)
  | true, false => if nan then (qnan, fl) else pick false
  | false, true => if nan then (qnan, fl) else pick true
  | false, false =>
    if mag then
      match fCompare x.abs y.abs with
      | .lt => pick (!big)
      | .gt => pick big
      | .eq => pick (fPicksFirst big x y)
    else pick (fPicksFirst big x y)

/-- R83: an operand's bits as `mode.ftz` reads them. -/
def flushBits (ftz : Bool) (b : Nat) : Nat :=
  if ftz && decide (b / 2 ^ 23 % 256 = 0) then b / 2 ^ 31 % 2 * 2 ^ 31 else b

/-- R191: FCMP under condition `c`: the predicate and whether invalid is raised. -/
def fCmp (c : Nat) (x y : FVal) : Bool × Bool :=
  let un := x.isNan || y.isNan
  let snan := decide (x = .nan true ∨ y = .nan true)
  let o := fCompare x y
  match c with
  | 0 => (!un && o = .eq, snan)
  | 1 => (un || o ≠ .eq, snan)
  | 2 => (!un && o = .lt, un)
  | 3 => (!un && o ≠ .gt, un)
  | 4 => (!un && o = .gt, un)
  | 5 => (!un && o ≠ .lt, un)
  | 6 => (un, snan)
  | _ => (!un, snan)

/-- The integer square root, by `n` binary digits. -/
def isqrtAux (v : Nat) : Nat → Nat → Nat
  | 0, r => r
  | n + 1, r =>
    let c := r + 2 ^ n
    isqrtAux v n (if c * c ≤ v then c else r)

/-- The largest number whose square is at most `v`. -/
def isqrt (v : Nat) : Nat := isqrtAux v (Nat.log2 v / 2 + 1) 0

/-- R192: the square root, rounded once. -/
def fSqrt (rn : Rnd) (x : FVal) (g : Word) : Rounded :=
  match x with
  | .nan _ => nanOf rn g [x]
  | .inf false => exactly rn (infBits false) 0 g
  | .inf true => exactly rn qnan flagNV g
  | .fin neg m e =>
    if m = 0 then exactly rn (zeroBits neg) 0 g
    else if neg then exactly rn qnan flagNV g
    else
      let sh := 160 + (e % 2).toNat
      let v := m * 2 ^ sh
      let r := isqrt v
      roundFin rn false r ((e - sh) / 2) (decide (r * r ≠ v)) g

/-- R195: the largest integral value not greater than a number, with no rounding. -/
def fFloor (b : Nat) : Nat × BitVec 6 :=
  match fdecode b with
  | .nan s => (qnan, if s then flagNV else 0)
  | .inf n => (infBits n, 0)
  | .fin n m e =>
    if m = 0 ∨ 0 ≤ e then (b, 0)
    else
      let d := (-e).toNat
      let q := if n then (m + 2 ^ d - 1) / 2 ^ d else m / 2 ^ d
      if q = 0 then (zeroBits n, 0) else (fencode n q 0, 0)

/-- R195: a minus its floor. -/
def fFrac (rn : Rnd) (x : FVal) (g : Word) : Rounded :=
  match x with
  | .nan _ => nanOf rn g [x]
  | .inf _ => exactly rn qnan flagNV g
  | .fin n m e =>
    let d := (-e).toNat
    let r := if 0 ≤ e then 0 else m % 2 ^ d
    let f := if n && decide (r ≠ 0) then 2 ^ d - r else r
    if f = 0 then exactly rn 0 0 g
    else
      let p := roundFin rn false f e false g
      if p.bits = 0x3F800000 then
        ⟨if rn.prec = 24 then 0x3F7FFFFF else 0x3F7F0000, p.flags, p.gen⟩ else p

/-- R198, R201: rounds a finite value to an integer: the magnitude and whether it was inexact. -/
def roundInt (mode : Nat) (neg : Bool) (m : Nat) (e : Int) (k r dmin : Nat) : Nat × Bool :=
  if 0 ≤ e then (m * 2 ^ e.toNat, false)
  else
    let d0 := (-e).toNat
    let d := max d0 dmin
    let m' := m * 2 ^ (d - d0)
    let t := m' / 2 ^ d
    let rest := m' % 2 ^ d
    (if roundUp mode neg (decide (t % 2 = 1)) d rest false k r then t + 1 else t, decide (rest ≠ 0))

/-- R198: converts to an integer in `lo` to `hi`: the value and the flags. -/
def fToInt (mode : Nat) (x : FVal) (k r dmin : Nat) (lo hi : Int) : Int × BitVec 6 :=
  match x with
  | .nan _ => (0, flagNV)
  | .inf n => (if n then lo else hi, flagNV)
  | .fin n m e =>
    let p := roundInt mode n m e k r dmin
    let v : Int := if n then -(p.1 : Int) else p.1
    if v < lo then (lo, flagNV) else if hi < v then (hi, flagNV)
    else (v, if p.2 then flagNX else 0)

/-- The value of an integer. -/
def fOfInt (v : Int) : FVal := .fin (decide (v < 0)) v.natAbs 0

/-- A value as a signed mantissa and an exponent, for exact distances; infinities and NaNs as 0. -/
def FVal.dyadic : FVal → Int × Int
  | .fin n m e => (if n then -(m : Int) else m, e)
  | _ => (0, 0)

/-- The distance between two finite values, scaled by 2^300. -/
def fDistance (x y : FVal) : Nat :=
  let a := x.dyadic
  let b := y.dyadic
  (a.1 * 2 ^ (a.2 + 300).toNat - b.1 * 2 ^ (b.2 + 300).toNat).natAbs

/-- R202: how far a codebook entry lies from x, or `none` when infinitely far. -/
def cbDistance (x y : FVal) : Option Nat :=
  match x, y with
  | .inf a, .inf b => if a = b then some 0 else none
  | .fin .., .fin .. => some (fDistance x y)
  | _, _ => none

/-- R202: the first of the nearest entries. Entries at infinite distance count as farther than all
others. -/
def cbNearest (x : FVal) : List (BitVec 16) → Nat → Option (Nat × Option Nat) → Option (Nat × Option Nat)
  | [], _, best => best
  | c :: r, i, best =>
    let y := fdecode (c.toNat * 65536)
    if y.isNan then cbNearest x r (i + 1) best
    else
      let d := cbDistance x y
      let better := match best, d with
        | none, _ => true
        | some (_, none), some _ => true
        | some (_, some b), some v => decide (v < b)
        | _, none => false
      cbNearest x r (i + 1) (if better then some (i, d) else best)

/-- R202: the index of the nearest codebook entry and the flags. -/
def cbEncode (x : FVal) (cb : List (BitVec 16)) : Nat × BitVec 6 :=
  if x.isNan then
    match cb.findIdx? fun c => (fdecode (c.toNat * 65536)).isNan with
    | some i => (i, if x = .nan true then flagNV else 0)
    | none => (0, flagNV)
  else
    match cbNearest x cb 0 none with
    | none => (0, flagNV)
    | some (i, d) => (i, if d = some 0 then 0 else flagNX)

/-- Rounding to BF16 and FP32 to nearest, as engines and home slices round (R83, R93). -/
def rneBf : Rnd := ⟨8, 0, false, false, 0⟩
def rneF : Rnd := ⟨24, 0, false, false, 0⟩

end Sys2Proof.Machine
end

