-- ==== Sys2Proof/Machine/Table.lean ====
section
/-!
DEFINITION. Tables with rising keys and the memories built on them. Every table and every memory of
the state is read and written through these few functions.
-/

namespace Sys2Proof.Machine

variable {α : Type}

/-- The entry of key `k`, if the table lists one. -/
def tfind : Tbl α → Nat → Option α
  | [], _ => none
  | (k', v) :: r, k => if k' = k then some v else tfind r k

/-- Sets the entry of key `k`, keeping the keys rising. -/
def tput : Tbl α → Nat → α → Tbl α
  | [], k, v => [(k, v)]
  | (k', v') :: r, k, v =>
    if k < k' then (k, v) :: (k', v') :: r
    else if k' = k then (k, v) :: r
    else (k', v') :: tput r k v

/-- Removes the entry of key `k`. -/
def tdel : Tbl α → Nat → Tbl α
  | [], _ => []
  | (k', v) :: r, k => if k' = k then tdel r k else (k', v) :: tdel r k

/-- Changes the entry of key `k`, where there is one. -/
def tmod (t : Tbl α) (k : Nat) (f : α → α) : Tbl α :=
  match tfind t k with
  | some v => tput t k (f v)
  | none => t

/-- The entry of key `k`, or `d` where none is listed. -/
def tget (t : Tbl α) (k : Nat) (d : α) : α := (tfind t k).getD d

/-- The keys of a table. -/
def tkeys (t : Tbl α) : List Nat := t.map Prod.fst

/-- The keys of `t` rise strictly, and all lie above `b`. -/
def risingFrom : Nat → Tbl α → Bool
  | _, [] => true
  | b, (k, _) :: r => decide (b < k) && risingFrom k r

/-- The keys of a table rise strictly. -/
def rising : Tbl α → Bool
  | [] => true
  | (k, _) :: r => risingFrom k r

/-- What a byte of memory that nothing has written reads as: notes/assumptions/2.md. -/
def unwritten : Byte := 0

/-- One byte of a memory. -/
def mread (m : Memory) (a : Nat) : Byte := tget m a unwritten

/-- Writes one byte, keeping the canonical form. -/
def mwrite (m : Memory) (a : Nat) (b : Byte) : Memory :=
  if b = unwritten then tdel m a else tput m a b

/-- The canonical form of a memory: keys rising, no entry equal to an unwritten byte. -/
def Memory.wf (m : Memory) : Bool := rising m && m.all fun c => decide (c.2 ≠ unwritten)

/-- The `n` bytes from address `a` on. -/
def mbytes (m : Memory) (a : Nat) : Nat → List Byte
  | 0 => []
  | n + 1 => mread m a :: mbytes m (a + 1) n

/-- Writes bytes from address `a` on. -/
def mstore (m : Memory) (a : Nat) : List Byte → Memory
  | [] => m
  | b :: r => mstore (mwrite m a b) (a + 1) r

/-- R4: the number that bytes hold, the byte at the lowest address least significant. -/
def leNat : List Byte → Nat
  | [] => 0
  | b :: r => b.toNat + 256 * leNat r

/-- R4: the `n` bytes of a number, least significant first. -/
def leBytes : Nat → Nat → List Byte
  | 0, _ => []
  | n + 1, v => BitVec.ofNat 8 v :: leBytes n (v / 256)

/-- The number held by the `n` bytes from `a` on. -/
def mnat (m : Memory) (a n : Nat) : Nat := leNat (mbytes m a n)

/-- The word at byte address `a`. -/
def mword (m : Memory) (a : Nat) : Word := BitVec.ofNat 32 (mnat m a 4)

/-- Writes a number of `n` bytes. -/
def mputNat (m : Memory) (a n v : Nat) : Memory := mstore m a (leBytes n v)

/-- Changes element `i` of a list, where there is one. -/
def lmod : List α → Nat → (α → α) → List α
  | [], _, _ => []
  | x :: r, 0, f => f x :: r
  | x :: r, i + 1, f => x :: lmod r i f

/-- Element `i` of a list, or `d`. -/
def lget (l : List α) (i : Nat) (d : α) : α := (l[i]?).getD d

/-- Puts an element where an order has it, before its equals. -/
def insertBy (before : α → α → Bool) (x : α) : List α → List α
  | [] => [x]
  | y :: r => if before x y then x :: y :: r else y :: insertBy before x r

/-- Sorts by an order; what the order holds equal keeps its place. -/
def sortBy (before : α → α → Bool) (l : List α) : List α := l.foldr (insertBy before) []

/-- Appends `x` unless it is listed. -/
def addOnce [DecidableEq α] (l : List α) (x : α) : List α := if x ∈ l then l else l ++ [x]

end Sys2Proof.Machine
end

