-- ==== Sys2Proof/Machine/Warps.lean ====
section
/-!
DEFINITION. The accessors of warps, slices, registers and their result queues: every read and write of
a register of spec/04_encoding.md (R108 to R113), every count of an issue cycle (R132, R133), every
granule of register space (R155 to R157) goes through this file.
-/

namespace Sys2Proof.Machine

abbrev Out := Host.Outcome State Fault Refusal

/-- The numbers an event acts on, as the present step names them. -/
def subjects (s : State) : List Nat :=
  match s.issuer with
  | .event l => l
  | _ => []

/-- The `i`-th thing that an event acts on. -/
def subject (s : State) (i : Nat) : Nat := lget (subjects s) i 0

/-- A free number (notes/assumptions/1.md). -/
def draw (s : State) : Nat × State := (Config.choice s.free, { s with free := s.free + 1 })

def coreKey (die core : Nat) : Nat := die * 288 + core
def clusterKey (die cluster : Nat) : Nat := die * 72 + cluster

/-- The numbers below `n` whose bit is set. -/
def bitsOf (n : Nat) (b : BitVec n) : List Nat := (List.range n).filter b.getLsbD

/-- The bit set of a list of numbers. -/
def toBits (n : Nat) (l : List Nat) : BitVec n :=
  l.foldl (fun b i => b ||| (1 : BitVec n) <<< i) 0

def warpAt (s : State) (k : Nat) : Warp := tget s.warps k default
def modWarp (s : State) (k : Nat) (f : Warp → Warp) : State := { s with warps := tmod s.warps k f }
def sliceAt (w : Warp) (i : Nat) : Slice := lget w.slices i default
def modSliceW (w : Warp) (i : Nat) (f : Slice → Slice) : Warp := { w with slices := lmod w.slices i f }
def modSlice (s : State) (k i : Nat) (f : Slice → Slice) : State := modWarp s k fun w => modSliceW w i f

/-- Changes every slice of a gang. -/
def modGang (s : State) (k : Nat) (sl : BitVec 8) (f : Slice → Slice) : State :=
  (bitsOf 8 sl).foldl (fun s i => modSlice s k i f) s

def modCore (s : State) (c : Nat) (f : Core → Core) : State :=
  { s with cores := tput s.cores c (f (tget s.cores c default)) }
def modCluster (s : State) (c : Nat) (f : Cluster → Cluster) : State :=
  { s with clusters := tput s.clusters c (f (tget s.clusters c default)) }
def modGroup (s : State) (g : Nat) (f : Group → Group) : State := { s with groups := tmod s.groups g f }
def modCohort (s : State) (c : Nat) (f : Cohort → Cohort) : State :=
  { s with cohorts := tmod s.cohorts c f }
def modCtx (s : State) (c : Nat) (f : Context → Context) : State :=
  { s with contexts := tmod s.contexts c f }
def modOp (s : State) (o : Nat) (f : Op → Op) : State := { s with ops := tmod s.ops o f }

def Warp.coreOf (w : Warp) : Nat := coreKey w.die w.core
def Warp.clusterOf (w : Warp) : Nat := clusterKey w.die (w.core / 4)

/-- Takes a number that nothing has had. -/
def newId (s : State) : Nat × State := (s.fresh, { s with fresh := s.fresh + 1 })

/-- The resident warps of a core, in slot order. -/
def warpsOn (s : State) (die core : Nat) : List (Nat × Warp) :=
  s.warps.filter fun p => p.2.die = die ∧ p.2.core = core

/-! ## Mode fields (R114) -/

def bitsAt (m : Word) (lo n : Nat) : Nat := m.toNat / 2 ^ lo % 2 ^ n
def modeGuard (m : Word) : Nat := bitsAt m 0 4
def modeType (m : Word) : Nat := bitsAt m 4 4
def modeRnd (m : Word) : Nat := bitsAt m 8 3
def modeSat (m : Word) : Bool := m.getLsbD 11
def modeFtz (m : Word) : Bool := m.getLsbD 12
def modeSrsrc (m : Word) : Nat := bitsAt m 13 3
def modeCbslot (m : Word) : Nat := bitsAt m 16 4
def modeScope (m : Word) : Nat := bitsAt m 20 3

/-- R97: the number of random bits of a source. -/
def srBits (src : Nat) : Nat :=
  match src with
  | 0 => 24
  | 1 => 16
  | 2 => 8
  | _ => 4

/-- How a mode rounds to FP32 or BF16 (R93, R94, R97). -/
def modeRounding (m : Word) (prec : Nat) : Rnd :=
  ⟨prec, modeRnd m, modeSat m, modeFtz m, srBits (modeSrsrc m)⟩

/-! ## Predicates and masks (R113, R115) -/

/-- The eight predicates of a lane, p0 reading true. -/
def predByte (w : Warp) (l : Nat) : Byte := tget w.preds l 0 ||| 1

def predOf (w : Warp) (l p : Nat) : Bool := (predByte w l).getLsbD p

/-- R113: writes a predicate; a write to p0 is discarded. -/
def setPred (w : Warp) (l p : Nat) (b : Bool) : Warp :=
  if p = 0 then w
  else
    let v := tget w.preds l 0
    let m : Byte := (1 : Byte) <<< p
    { w with preds := tput w.preds l (if b then v ||| m else v &&& ~~~m) }

/-- R115: whether the guard of a mode is true in a lane. -/
def guardTrue (w : Warp) (m : Word) (l : Nat) : Bool :=
  let g := modeGuard m
  if g = 0 ∨ g = 8 then true
  else if g < 8 then predOf w l g else !predOf w l (g - 8)

/-- The lanes of a slice that are active for an instruction (R115). -/
def guarded (w : Warp) (i : Nat) : BitVec 4 :=
  let sl := sliceAt w i
  toBits 4 ((bitsOf 4 sl.active).filter fun j => guardTrue w sl.mode (4 * i + j))

/-- The lanes of a gang that are active for an instruction, ascending. -/
def gangLanes (w : Warp) (sl : BitVec 8) : List Nat :=
  (bitsOf 8 sl).flatMap fun i => (bitsOf 4 (guarded w i)).map (4 * i + ·)

/-- The lanes of a gang's active masks, whatever the guard. -/
def maskLanes (w : Warp) (sl : BitVec 8) : List Nat :=
  (bitsOf 8 sl).flatMap fun i => (bitsOf 4 (sliceAt w i).active).map (4 * i + ·)

/-- R130: the lane whose value is the slice operand. -/
def sliceLane (w : Warp) (i : Nat) : Nat := 4 * i + (bitsOf 4 (sliceAt w i).active).headD 0

/-- The lowest-numbered slice of a gang. -/
def lowSlice (sl : BitVec 8) : Nat := (bitsOf 8 sl).headD 0

/-- R130: the lane whose value is the warp operand. -/
def warpLane (w : Warp) (sl : BitVec 8) : Nat := sliceLane w (lowSlice sl)

/-- The mode of a gang. -/
def gangMode (w : Warp) (sl : BitVec 8) : Word := (sliceAt w (lowSlice sl)).mode

/-- The program counter of a gang. -/
def gangPc (w : Warp) (sl : BitVec 8) : VAddr := (sliceAt w (lowSlice sl)).pc

/-! ## Registers and templates (R108, R151, R154, R155) -/

def imageOf (s : State) (w : Warp) : Option Image := w.image.bind (tfind s.images)

/-- R155: whether a register of a warp is template-backed. -/
def backed (s : State) (w : Warp) (n : Nat) : Bool :=
  match imageOf s w with
  | some im => !w.priv.getLsbD n && decide (n < im.ceil)
  | none => false

/-- R155: the value of a register in the innermost image of a chain that holds it. Chains are at most
three deep (R158). -/
def chainReg (s : State) : Nat → Option Nat → Nat → Nat → Word
  | 0, _, _, _ => 0
  | f + 1, k, n, l =>
    match k.bind (tfind s.images) with
    | some im => if im.map.getLsbD n then tget im.regs (32 * n + l) 0 else chainReg s f im.parent n l
    | none => 0

/-- The value of physical register `n` of lane `l`. -/
def physReg (s : State) (w : Warp) (n l : Nat) : Word :=
  if backed s w n then chainReg s 4 w.image n l else tget w.regs (32 * n + l) 0

/-- Writes register `n` of lane `l` in a register table. -/
def setCell (t : Tbl Word) (n l : Nat) (v : Word) : Tbl Word :=
  if v = 0 then tdel t (32 * n + l) else tput t (32 * n + l) v

/-- Writes physical register `n` of lane `l`. -/
def setPhys (w : Warp) (n l : Nat) (v : Word) : Warp := { w with regs := setCell w.regs n l v }

/-- R43: a write of physical register `n` of lane `l`, which monitors see (R268). -/
def writePhys (w : Warp) (n l : Nat) (v : Word) : Warp :=
  { setPhys w n l v with wrote := w.wrote ++ [(32 * n + l, v)] }

/-- R110, R112: the value of a source field in lane `l`: a register of the window, or a latch entry. -/
def srcReg (s : State) (w : Warp) (f l : Nat) : Word :=
  if f < 125 then physReg s w (w.win + f) l
  else lget (lget (sliceAt w (l / 4)).latches (f - 125) default).vals (l % 4) 0

/-- R130: the slice operand of a field. -/
def sliceOperand (s : State) (w : Warp) (f i : Nat) : Word := srcReg s w f (sliceLane w i)

/-- R130: the warp operand of a field. -/
def warpOperand (s : State) (w : Warp) (sl : BitVec 8) (f : Nat) : Word :=
  srcReg s w f (warpLane w sl)

/-! ## Granules (R155 to R157, R226) -/

/-- The granules that are a warp's own. -/
def privGranules (w : Warp) : List Nat :=
  (List.range 128).filter fun g => w.priv.getLsbD (8 * g)

/-- The granules an image takes in a template store. -/
def imageGranules (im : Image) : Nat :=
  ((List.range (im.ceil / 8)).filter fun g => im.map.getLsbD (8 * g)).length

/-- R226: the free granules of a core. -/
def freeGranules (s : State) (die core : Nat) : Nat :=
  let c := tget s.cores (coreKey die core) default
  let used := ((warpsOn s die core).map fun p => (privGranules p.2).length).sum
  let imgs := (c.images.map fun k => match tfind s.images k with
    | some im => imageGranules im
    | none => 0).sum
  768 - c.carve - used - imgs

/-- R157: takes requests for register space off the list of a core. -/
def dropRequests (s : State) (c : Nat) (f : GrantRequest → Bool) : State :=
  if (tfind s.cores c).isNone then s
  else modCore s c fun x => { x with grants := x.grants.filter fun g => !f g }

/-- R156: makes granule `g` the warp's own, copying its eight registers of every lane from the template. A
rollback keeps the copy, which holds what the template does (R58, notes/assumptions/59.md). No write of another agent
waits for the granule any more (R157). -/
def privatise (s : State) (k g : Nat) : State :=
  let w := warpAt s k
  let cells := (List.range 8).flatMap fun i => (List.range 32).map fun l => (8 * g + i, l)
  let w' := cells.foldl (fun acc c => setPhys acc c.1 c.2 (physReg s w c.1 c.2)) w
  let bits : BitVec 1024 := (255 : BitVec 1024) <<< (8 * g)
  let s := dropRequests s w.coreOf fun r => decide (r.warp = k ∧ r.slices = 0 ∧ r.kind = 3 ∧ r.granule = g)
  modWarp s k fun _ => { w' with
    priv := w.priv ||| bits
    spec := w.spec.map fun sp =>
      { sp with priv := sp.priv ||| bits, regs := cells.foldl (fun t c => setCell t c.1 c.2 (physReg s w c.1 c.2)) sp.regs } }

/-- R160: makes registers `lo` to `hi - 1` the warp's own, and zero. -/
def zeroPrivate (w : Warp) (lo hi : Nat) : Warp :=
  { w with
    regs := w.regs.filter fun p => decide (p.1 < 32 * lo ∨ 32 * hi ≤ p.1)
    priv := w.priv ||| toBits 1024 ((List.range (hi - lo)).map (lo + ·)) }

/-- R160: frees what a warp holds at or above a ceiling. -/
def dropAbove (w : Warp) (ceil : Nat) : Warp :=
  { w with
    regs := w.regs.filter fun p => decide (p.1 < 32 * ceil)
    priv := w.priv &&& toBits 1024 (List.range ceil)
    ceil := ceil }

/-! ## What a warp returns to (R58) -/

/-- R58: changes the slices of a warp, and in the same way those that it may return to at an incomplete fence: of what
other warps and events do to it. -/
def alsoAtFence (f : Warp → Warp) (w : Warp) : Warp :=
  let at' := fun l => (f { w with slices := l, spec := none }).slices
  { f w with spec := w.spec.map fun sp => { sp with slices := at' sp.slices, before := at' sp.before } }

/-! ## Result queues (R133) -/

/-- Writes one result: the lanes of its mask, then its flags (R104). -/
def writeResult (w : Warp) (i : Nat) (r : Result) : Warp :=
  let w' := (bitsOf 4 r.mask).foldl (fun w j =>
    let l := 4 * i + j
    let v := lget r.vals j 0
    match r.dest with
    | .reg n => writePhys w n l v
    | .pred p => setPred w l p (decide (v ≠ 0))
    | .none => w) w
  { w' with flags := w'.flags ||| r.flags }

/-- Writes one of the results that BREC, BSTR and BTPS leave (R133). -/
def writeWarpResult (w : Warp) (r : WarpResult) : Warp :=
  match r.what with
  | .record k v => { w with recs := tput w.recs k v }
  | .stride k v => { w with strides := tput w.strides k v }
  | .tiles m v => { w with tiles := (w.tiles &&& ~~~m) ||| (v &&& m) }

/-- R133: writes the results of slice `i` whose count has run out, the later-issued last. -/
def writeDue (w : Warp) (i : Nat) : Warp :=
  let q := (sliceAt w i).queue
  let w' := (q.filter fun r => r.left = 0).foldl (fun w r => writeResult w i r) w
  let q2 := (sliceAt w i).warpQueue
  let w'' := (q2.filter fun r => r.left = 0).foldl writeWarpResult w'
  modSliceW w'' i fun sl =>
    { sl with queue := q.filter fun r => r.left ≠ 0, warpQueue := q2.filter fun r => r.left ≠ 0 }

/-- R132: one issue cycle of slice `i`. -/
def tickSlice (w : Warp) (i : Nat) : Warp :=
  writeDue (modSliceW w i fun sl =>
    { sl with
      queue := sl.queue.map fun r => { r with left := r.left - 1 }
      warpQueue := sl.warpQueue.map fun r => { r with left := r.left - 1 } }) i

/-- `n` issue cycles of every slice of a gang. -/
def tickGang (w : Warp) (sl : BitVec 8) : Nat → Warp
  | 0 => w
  | n + 1 => tickGang ((bitsOf 8 sl).foldl tickSlice w) sl n

/-- The largest count in the result queues of a gang (R136). -/
def drainCount (w : Warp) (sl : BitVec 8) : Nat :=
  ((bitsOf 8 sl).flatMap fun i => (sliceAt w i).queue.map Result.left).foldl max 0

/-- R133: the writes of BREC, BSTR and BTPS that count in these slices are made at once, as when the
slice waits, traps or exits. -/
def flushWarpQueue (w : Warp) (sl : BitVec 8) : Warp :=
  (bitsOf 8 sl).foldl (fun w i =>
    let w' := (sliceAt w i).warpQueue.foldl writeWarpResult w
    modSliceW w' i fun s => { s with warpQueue := [] }) w

/-- R136: the drain of a gang. -/
def drain (s : State) (k : Nat) (sl : BitVec 8) : State :=
  modWarp s k fun w => tickGang w sl (drainCount w sl)

/-- Puts a result of latency `lat` into the queue of slice `i`. -/
def pushResult (w : Warp) (i : Nat) (d : Dest) (mask : BitVec 4) (vals : List Word) (fl : BitVec 6)
    (lat : Nat) : Warp :=
  modSliceW w i fun sl => { sl with queue := sl.queue ++ [⟨d, mask, vals, fl, lat⟩] }

/-! ## Latches (R112) -/

/-- R112: the entries whose lifetime has run out lose their value. -/
def expireLatches (w : Warp) (i : Nat) : Warp :=
  modSliceW w i fun sl =>
    { sl with latches := sl.latches.map fun e => if e.life = 0 then ⟨[], 0⟩ else e }

/-- R112: counts one instruction of the gang against the lifetimes of its slices' entries. -/
def ageLatches (w : Warp) (sl : BitVec 8) : Warp :=
  (bitsOf 8 sl).foldl (fun w i => expireLatches (modSliceW w i fun s =>
    { s with latches := s.latches.map fun e => { e with life := e.life - 1 } }) i) w

/-- R112, R11: before a read of latch `f - 125`, a slice whose entry is not valid holds free values in
it. -/
def freshenLatch (s : State) (k i f : Nat) : State :=
  if f < 125 ∨ 0 < (lget (sliceAt (warpAt s k) i).latches (f - 125) default).life then s
  else
    let v := (List.range 4).map fun j => Config.freeWord (s.free + j)
    let s' := modSlice s k i fun sl =>
      { sl with latches := lmod sl.latches (f - 125) fun e => { e with vals := v } }
    { s' with free := s.free + 4 }

/-- R112: the lifetimes of every entry end. -/
def killLatches (w : Warp) (sl : BitVec 8) : Warp :=
  (bitsOf 8 sl).foldl (fun w i => modSliceW w i fun s =>
    { s with latches := s.latches.map fun _ => ⟨[], 0⟩ }) w

/-- Whether a slice holds a valid latch entry. -/
def latched (sl : Slice) : Bool := sl.latches.any fun e => decide (0 < e.life)

/-! ## Gangs (R129) -/

/-- R129: after an instruction, the slices of the gang that agree stay together. -/
def regroup (w : Warp) (sl : BitVec 8) : Warp :=
  let l := bitsOf 8 sl
  let same := fun i j => decide ((sliceAt w i).pc = (sliceAt w j).pc ∧ (sliceAt w i).mode = (sliceAt w j).mode)
  l.foldl (fun acc i => modSliceW acc i fun x => { x with gang := (l.find? (same i)).getD i }) w

/-- The slices of gang `g` that have not ended. -/
def gangOf (w : Warp) (g : Nat) : BitVec 8 :=
  toBits 8 ((List.range 8).filter fun i => !(sliceAt w i).ended && decide ((sliceAt w i).gang = g))

/-- The slices of the gangs that some slices belong to. -/
def gangMates (w : Warp) (sl : BitVec 8) : BitVec 8 :=
  toBits 8 ((List.range 8).filter fun j => (bitsOf 8 sl).any fun i => decide ((sliceAt w i).gang = (sliceAt w j).gang))

/-- Moves a slice past its instruction. -/
def Slice.advance (sl : Slice) : Slice := { sl with pc := sl.pc + 4 }

/-- R44: slices that a JOIN or a REGANG has brought together: whatever one of them has issued comes before
all that they issue from now on. -/
def reconverge (s : State) (k : Nat) (sl : BitVec 8) : State :=
  { s with ops := s.ops.map fun p =>
      (p.1, if p.2.warp = some k ∧ p.2.before &&& sl ≠ 0 then { p.2 with before := p.2.before ||| sl } else p.2) }

/-! ## Counters (R231) -/

/-- Which in-flight counter. -/
inductive Path where
  | ld | st | cl | at' | q
  deriving DecidableEq, Repr, Inhabited

def Counters.get (c : Counters) : Path → List Counted
  | .ld => c.ld
  | .st => c.st
  | .cl => c.cl
  | .at' => c.at'
  | .q => c.q

def Counters.set (c : Counters) (p : Path) (l : List Counted) : Counters :=
  match p with
  | .ld => { c with ld := l }
  | .st => { c with st := l }
  | .cl => { c with cl := l }
  | .at' => { c with at' := l }
  | .q => { c with q := l }

/-- R165: the path codes of WAITC. -/
def Path.ofCode : Nat → Path
  | 0 => .ld
  | 1 => .st
  | 2 => .cl
  | 3 => .at'
  | _ => .q

def countOf (w : Warp) (p : Path) : Nat := (w.counters.get p).length

/-- R231: raises a counter for operation `o`. -/
def raiseCounter (s : State) (k : Nat) (p : Path) (o : Nat) : State :=
  modWarp s k fun w => { w with counters := w.counters.set p (w.counters.get p ++ [⟨o, false⟩]) }

/-- R231: operation `o` has returned; the counter falls in order. -/
def lowerCounter (s : State) (k : Nat) (p : Path) (o : Nat) : State :=
  modWarp s k fun w =>
    let l := (w.counters.get p).map fun c => if c.op = o then { c with returned := true } else c
    { w with counters := w.counters.set p (l.dropWhile (·.returned)) }

/-! ## Pending marks (R135) -/

/-- Marks registers pending in the lanes of a gang's slices. -/
def markPending (s : State) (k : Nat) (sl : BitVec 8) (regs : List Nat) (o : Nat) : State :=
  modWarp s k fun w =>
    { w with marks := w.marks ++ (bitsOf 8 sl).flatMap fun i => regs.map fun r => ⟨i, r, o⟩ }

def clearMarks (s : State) (k o : Nat) : State :=
  modWarp s k fun w => { w with marks := w.marks.filter fun m => m.op ≠ o }

/-- Whether a register of a slice of the gang is pending. -/
def pendingIn (w : Warp) (sl : BitVec 8) (regs : List Nat) : Bool :=
  w.marks.any fun m => sl.getLsbD m.slice && decide (m.reg ∈ regs)

/-- Raises flags in a warp (R102, R104). -/
def raiseFlags (s : State) (k : Nat) (fl : BitVec 6) : State :=
  modWarp s k fun w => { w with flags := w.flags ||| fl }

end Sys2Proof.Machine
end

