-- ==== Sys2Proof/Machine/Flags.lean ====
section
/-!
DEFINITION. Integer widths and the ranges that results are brought into (R78, R79, R176), and the
flag sets that lane instructions form (R102 to R104).
-/

namespace Sys2Proof.Machine

/-- R176: the width of an integer type code; the float codes act as i32 (R116). -/
def intWidth (ty : Nat) : Nat :=
  match ty with
  | 2 => 16
  | 3 => 16
  | 4 => 8
  | 5 => 8
  | _ => 32

/-- R176: whether a type code is signed; the float codes act as i32. -/
def intSigned (ty : Nat) : Bool := decide (ty ≠ 1 ∧ ty ≠ 3 ∧ ty ≠ 5)

/-- A number of `w` bits read as two's complement. -/
def toSigned (w n : Nat) : Int :=
  let v := n % 2 ^ w
  if v < 2 ^ (w - 1) then v else (v : Int) - 2 ^ w

/-- R176: a source at the width of its type. -/
def readInt (ty : Nat) (v : Word) : Int :=
  let w := intWidth ty
  if intSigned ty then toSigned w v.toNat else (v.toNat % 2 ^ w : Nat)

def intMin (ty : Nat) : Int := if intSigned ty then -(2 ^ (intWidth ty - 1)) else 0
def intMax (ty : Nat) : Int :=
  if intSigned ty then 2 ^ (intWidth ty - 1) - 1 else 2 ^ intWidth ty - 1

/-- R78: the low bits of a result at the width of its type, extended to a register. -/
def extend (ty : Nat) (v : Int) : Word :=
  let w := intWidth ty
  let n := (v % (2 ^ w : Int)).toNat
  if intSigned ty then BitVec.ofInt 32 (toSigned w n) else BitVec.ofNat 32 n

/-- R79, R176: brings an exact result into range and extends it. -/
def fit (ty : Nat) (sat : Bool) (v : Int) : Word :=
  if sat && decide (v < intMin ty) then extend ty (intMin ty)
  else if sat && decide (intMax ty < v) then extend ty (intMax ty)
  else extend ty v

/-- The union of the flags of several roundings. -/
def joinFlags (l : List (BitVec 6)) : BitVec 6 := l.foldl (· ||| ·) 0

end Sys2Proof.Machine
end

