-- ==== Sys2Proof/Machine/Translate.lean ====
section
/-!
DEFINITION. Fault queues and the error log (R376, R439), translation through the page tables (R222 to
R225 of spec/07_memory_unit.md), and accesses of the device's own units to physical and virtual memory.
-/

namespace Sys2Proof.Machine

/-- R224: an address in host memory as a physical address: route 1. -/
def hostPa (a : Nat) : Nat := 2 ^ 48 + a % 2 ^ 48

/-- What an access is for. -/
inductive Access where
  | read | write | fetch
  deriving DecidableEq, Repr, Inhabited

def ebit (e i : Nat) : Bool := decide (e / 2 ^ i % 2 = 1)
def efield (e lo n : Nat) : Nat := e / 2 ^ lo % 2 ^ n

/-! ## Apertures (R414, R415) -/

/-- R414: the port that the route table gives a device, if its entry is valid. -/
def routePort (s : State) (dev : Nat) : Option Nat :=
  match s.routeTable with
  | none => none
  | some b =>
    let v := (mread s.mem (b + dev)).toNat
    if v < 128 ∨ 36 ≤ v % 64 ∨ !(tget s.ports (v % 64) default).up then none else some (v % 64)

/-- R415: the aperture-table entry of a physical address of routes 2 to 5. -/
def apertureEntry (s : State) (pa : Nat) : Nat :=
  match s.apertureTable with
  | none => 0
  | some b => mnat s.mem (b + 8 * (4096 * (pa / 2 ^ 48 - 2) + pa / 2 ^ 36 % 4096)) 8

/-- R415: the device that an aperture entry names, and the target's physical address. -/
def apertureTarget (e pa : Nat) : Nat × Nat := (efield e 2 18, efield e 20 4 * 2 ^ 36 + pa % 2 ^ 36)

/-- R415: whether an access may go through the apertures to a physical address. -/
def apertureOk (s : State) (pa : Nat) (acc : Access) : Bool :=
  let route := pa / 2 ^ 48
  if route < 2 then true
  else
    let e := apertureEntry s pa
    let t := apertureTarget e pa
    ebit e 0 && (acc != .write || ebit e 1) && decide (efield e 20 4 < 12 ∧ e / 2 ^ 24 = 0 ∧ t.1 ≠ s.device) &&
      (routePort s t.1).isSome

/-- The memory of another device, reached through an aperture (R224, R415). -/
def isRemote (pa : Nat) : Bool := decide (2 ≤ pa / 2 ^ 48)

/-! ## Physical memory at the home slices -/

def lineOf (a : Nat) : Nat := a / 128 * 128

/-- R253: the number that spreads lines over home slices. -/
def homeHash (pa : Nat) : Nat :=
  let l := pa % 2 ^ 48 / 128
  l % 4096 ^^^ l / 2 ^ 12 % 4096 ^^^ l / 2 ^ 24 % 4096 ^^^ l / 2 ^ 36 % 32

/-- R417: the number, from 1000 on, that stands for the home of a line of another device: two lines share it when
that device may home them at one slice. -/
def farHome (t : Nat × Nat) : Nat := 1000 + 96 * t.1 + homeHash t.2 % 96

/-- R253: the home slice of a line of routes 0 and 1, die × 96 + slice; of a line of another device `farHome`. -/
def homeOf (s : State) (pa : Nat) : Nat :=
  let route := pa / 2 ^ 48
  let h := homeHash pa
  if 2 ≤ route then farHome (apertureTarget (apertureEntry s pa) pa)
  else if route = 1 ∨ s.dies < 2 then h % 96
  else h % 192

/-- R405, R407: whether a die reaches a line only across a die-to-die link that is down. -/
def acrossDown (s : State) (die pa : Nat) : Bool :=
  !s.dieLink && decide (s.dies = 2 ∧ pa / 2 ^ 48 < 2 ∧ homeOf s pa / 96 ≠ die)

/-- What a home slice keeps for a line. -/
def homeLine (s : State) (pa : Nat) : HomeLine := tget s.homeLines (lineOf pa) default

def modHomeLine (s : State) (pa : Nat) (f : HomeLine → HomeLine) : State :=
  { s with homeLines := tput s.homeLines (lineOf pa) (f (homeLine s pa)) }

/-- R15, R442, R443: whether a home slice's field has been initialised. -/
def fieldReady (s : State) (home : Nat) : Bool :=
  (lget s.perDie (home / 96) default).ready.getLsbD (4 + home % 96 / 32)

/-- R15, R442, R443: whether a home slice's field has been initialised and its HBM4 stack is ready. -/
def homeReady (s : State) (home : Nat) : Bool :=
  let b := (lget s.perDie (home / 96) default).ready
  fieldReady s home &&
    (decide (b.toNat / 128 % 256 = 255) || b.getLsbD (7 + Config.stackOf (home % 96) % 8))

/-- Whether a unit of a die can reach a line of this device now: its home slice runs with its stack, where it is a line of
HBM4 (R443, notes/assumptions/77.md), no die-to-die link that is down lies between (R405), and it is not poisoned
(R449). -/
def lineOpen (s : State) (die pa : Nat) : Bool :=
  (decide (pa / 2 ^ 48 = 1) || homeReady s (homeOf s pa)) && !acrossDown s die pa && (homeLine s pa).poison.isNone

/-- R53: the copies of a line that a store must invalidate: first-level caches of every core but
`except`, and copies of other dies. -/
def copyHolders (s : State) (pa : Nat) (except : Option Nat) : List Invalidation :=
  let l := lineOf pa
  let cores := s.cores.filter fun c => decide (some c.1 ≠ except) && c.2.cache.any fun x => x.pa = l
  let dies := s.copies.filter fun c => c.pa = l
  cores.map (fun c => ⟨c.1, l⟩) ++ dies.map fun c => ⟨100000 + c.die, l⟩

/-- The lines that `n` bytes from `pa` on touch. -/
def linesOf (pa n : Nat) : List Nat :=
  (List.range ((pa % 128 + n + 127) / 128)).map fun i => lineOf pa + 128 * i

/-- R58, R59: a write by another agent than warp `by'` makes the warps that loaded its lines past a fence roll
back. The model rolls them back when the home performs the write, whatever becomes of the invalidation
(notes/assumptions/56.md). -/
def squash (s : State) (lines : List Nat) (by' : Option Nat) : State :=
  { s with warps := s.warps.map fun p => (p.1,
      if some p.1 = by' then p.2
      else
        { p.2 with spec := p.2.spec.map fun sp =>
            if sp.loaded.any fun l => l ∈ lines then { sp with rolledBack := true } else sp }) }

/-- R268: whether a value meets a condition. -/
def condMet (cond : Nat) (signed : Bool) (v w : Word) : Bool :=
  let lt := if signed then v.slt w else v.ult w
  match cond with
  | 0 => v == w
  | 1 => v != w
  | 2 => lt
  | 3 => lt || v == w
  | 4 => !(lt || v == w)
  | _ => !lt

/-- R268: the armed monitors of lines that have been written are checked again. -/
def recheck (s : State) (lines : List Nat) : State :=
  { s with monitors := s.monitors.map fun m =>
      if m.armed && !m.cluster && decide (lineOf m.addr ∈ lines) && condMet m.cond m.signed (mword s.mem m.addr) m.value then
        { m with met := true } else m }

/-- R256: writes bytes at their home as one step: their lines hold unwritten data, and copies of the
lines are to be invalidated (R53); `except` is the core and `by'` the warp that writes. -/
def homeWrite (s : State) (pa : Nat) (b : List Byte) (except : Option Nat) (by' : Option Nat := none) :
    State :=
  recheck (squash (written s pa b except) (linesOf pa b.length) by') (linesOf pa b.length)
where
  written (s : State) (pa : Nat) (b : List Byte) (except : Option Nat) : State :=
  (linesOf pa b.length).foldl (fun s l =>
    modHomeLine { s with
      invalidations := (copyHolders s l except).foldl addOnce s.invalidations } l
      fun h => { h with resident := true, unwritten := true })
    { s with mem := mstore s.mem pa b }

/-! ## Records -/

/-- Sends system software an event message (R439). -/
def sendEvent (s : State) (kind number count : Nat) : State :=
  { s with events := s.events ++ [⟨kind, number, count⟩] }

/-- R439: writes the error records that wait, while the log has room; `n` bounds the work. -/
def flushErrors : Nat → State → State
  | 0, s => s
  | n + 1, s =>
    match s.errWaiting with
    | [] => s
    | b :: r =>
      let pa := hostPa (s.errBase + 32 * (s.errTail % 2 ^ s.errLog))
      if s.errLog = 0 ∨ 2 ^ s.errLog ≤ s.errTail - s.errHead ∨ !lineOpen s 0 pa then s
      else
        let s' := homeWrite { s with errWaiting := r, errTail := s.errTail + 1 } pa b none
        flushErrors n (sendEvent s' 2 0 (s.errTail + 1))

/-- R439: posts a record to the device error log, where it waits for room if it must. -/
def postError (s : State) (b : List Byte) : State :=
  flushErrors (s.errWaiting.length + 1) { s with errWaiting := s.errWaiting ++ [b] }

/-- Whether an operation waits for an answer from a home slice. -/
def outstanding (s : State) (o : Nat) : Bool :=
  (s.reqs.any fun p => p.2.op = o) || s.remote.any fun p => p.2.req.op = o

/-- R376: whether a posted record may be written now: the accesses of the operation that posted it are performed, and
its die reaches the queue (R405, R443, R449). -/
def recordOpen (s : State) (pa : Nat) (p : Posted) : Bool := lineOpen s p.die pa && !p.op.any (outstanding s)

/-- R376: the record of a context that is written next, each die's in the order in which they were posted. -/
def nextRecord (s : State) (cx : Context) (pa : Nat) : Option Posted :=
  ((List.range s.dies).filterMap fun d => cx.waiting.find? fun p => decide (p.die = d)).find? (recordOpen s pa)

/-- R376: writes a context's waiting records while its queue has room. -/
def flushRecords : Nat → State → Nat → State
  | 0, s, _ => s
  | n + 1, s, c =>
    match tfind s.contexts c with
    | none => s
    | some cx =>
      let pa := cx.fq + 32 * (cx.fqTail % 2 ^ cx.fqlog)
      match nextRecord s cx pa with
      | none => s
      | some p =>
        if 2 ^ cx.fqlog ≤ cx.fqTail - cx.fqHead then s
        else
          let s1 := homeWrite s pa p.bytes none
          let s2 := modCtx s1 c fun x =>
            { x with waiting := x.waiting.erase p, fqTail := cx.fqTail + 1, behind := tput x.behind cx.fqTail p.behind }
          flushRecords n (sendEvent s2 1 c (cx.fqTail + 1)) c

/-- R376: posts a record of a context for an operation, if any; without a used descriptor it goes to the error log. -/
def postFor (s : State) (c die : Nat) (b : List Byte) (behind : Resumable) (o : Option Nat) : State :=
  match tfind s.contexts c with
  | none => postError s b
  | some cx =>
    flushRecords (cx.waiting.length + 1)
      (modCtx s c fun x => { x with waiting := x.waiting ++ [⟨b, behind, die, o⟩] }) c

/-- R376: posts a record of a context; one behind which an operation waits is that operation's. -/
def postRecord (s : State) (c die : Nat) (b : List Byte) (behind : Resumable) : State :=
  postFor s c die b behind (match behind with
    | .op o => some o
    | _ => none)

/-- R376, R439: every record that waits and may now be written is written. -/
def flushAll (s : State) : State :=
  let s1 := if s.errWaiting.isEmpty then s else flushErrors (s.errWaiting.length + 1) s
  s1.contexts.foldl (fun s c =>
    if c.2.waiting.isEmpty then s else flushRecords (c.2.waiting.length + 1) s c.1) s1

/-- R439: the management block has room for another error record. -/
def errorRoom (s : State) : Bool := decide (s.errWaiting.length < 256)

/-- R376: the records of a die that wait in its buffer. -/
def bufferedOn (s : State) (die : Nat) : Nat :=
  (s.contexts.map fun p => (p.2.waiting.filter fun r => r.die = die).length).sum

/-- R376, R439: whether what makes `s'` of `s` posts a record that finds the fault queue and its die's buffer full, or
the error log and the management block. -/
def overfull (s s' : State) : Bool :=
  ((List.range s.dies).any fun d => decide (256 < bufferedOn s' d ∧ bufferedOn s d < bufferedOn s' d)) ||
    decide (256 < s'.errWaiting.length ∧ s.errWaiting.length < s'.errWaiting.length)

/-- R376: a unit whose record would find no room holds its operation: `s'` is what its step would make of `s`. -/
def ifRoom (s s' : State) : State := if overfull s s' then s else s'

/-- R240: a fault record. -/
def faultRecord (kind : Nat) (write copy resume fetch : Bool) (entry core die slot va : Nat)
    (mask : BitVec 32) (word : Word) (pc : Nat) : List Byte :=
  leBytes 4 (kind + (if write then 256 else 0) + (if copy then 512 else 0) +
    (if resume then 1024 else 0) + (if fetch then 2048 else 0) + entry % 32 * 4096) ++
  leBytes 4 (core % 512 + die % 2 * 512 + slot % 128 * 1024) ++
  leBytes 8 va ++ leBytes 4 mask.toNat ++ leBytes 4 word.toNat ++ leBytes 8 pc

/-- R377: a record of the task-graph machine. -/
def graphRecord (kind code core die slot addr val pc : Nat) : List Byte :=
  leBytes 4 (kind + code * 256) ++ leBytes 4 (core % 512 + die % 2 * 512 + slot % 128 * 1024) ++
  leBytes 8 addr ++ leBytes 8 val ++ leBytes 8 pc

/-- R345: a record of an access processor. -/
def apRecord (kind unit ctx core die pc : Nat) (word val : Word) : List Byte :=
  leBytes 4 (kind + unit % 2 * 256 + ctx % 8 * 512) ++ leBytes 4 (core % 512 + die % 2 * 512) ++
  leBytes 4 pc ++ leBytes 4 word.toNat ++ leBytes 4 val.toNat ++ leBytes 12 0

/-! ## Page tables -/

/-- Who translates: the context, the die, and the core or the cluster (1000 and its key) that caches translations for it;
the other units cache none (R224). -/
structure Walker where
  ctx : Nat
  die : Nat
  holder : Option Nat
  deriving DecidableEq, Repr, Inhabited

/-- A unit of a die that acts for a context. -/
def dieWalker (c die : Nat) : Walker := ⟨c, die, none⟩

/-- A translation: the physical address, with the device and address there that an aperture makes of it (R415), what
the leaf says, and where the leaf lies. -/
structure Trans where
  pa : Nat
  far : Nat × Nat
  attr : PageAttr
  leaf : Nat
  base : Nat
  frame : Nat
  w : Bool
  x : Bool
  deriving DecidableEq, Repr, Inhabited

/-- The reserved bits of an entry that points to a table (R223); bit 6 is the host's. -/
def pointerReserved (e : Nat) : Bool :=
  decide (efield e 4 2 ≠ 0 ∨ efield e 7 5 ≠ 0 ∨ efield e 51 12 ≠ 0)

/-- R225: the permission an access lacks, given the permissions of a whole walk. -/
def denied (acc : Access) (w x : Bool) : Option Nat :=
  match acc with
  | .read => none
  | .write => if w then none else some 2
  | .fetch => if x then none else some 10

/-- R89, R225: whether the format fields of a leaf break R89. -/
def badFormat (fmt geo size : Nat) : Bool :=
  if fmt = 0 then decide (geo ≠ 0)
  else decide (3 ≤ fmt ∨ geo = 0 ∨ geo = 3 ∨ size < 0x200000)

/-- R225: what a leaf entry gives an access to `va`, in a page of `size` bytes. A leaf that breaks several rules gives the
first of these kinds: 3, then 2 or 10, then 4, then 5 (DESIGN CHOICE, notes/assumptions/86.md). A route-0 frame at or above
the capacity of R20 is memory like any other, up to 2^48 (DESIGN CHOICE, notes/assumptions/85.md). -/
def leafTrans (acc : Access) (e leaf va size : Nat) (w x : Bool) : Except Nat Trans :=
  let frame := efield e 12 39 * 4096
  let red := efield e 51 3
  let fmt := efield e 59 4
  let geo := efield e 57 2
  let mt := efield e 9 3
  if 2 ≤ mt ∨ frame % size ≠ 0 ∨ 4 ≤ red then .error 3
  else
    match denied acc (w && ebit e 1) (x && ebit e 2) with
    | some k => .error k
    | none =>
      if 6 ≤ frame / 2 ^ 48 then .error 4
      else if badFormat fmt geo size then .error 5
      else .ok ⟨frame + va % size, (0, 0), ⟨red, efield e 54 3, geo, fmt, mt, size⟩, leaf, va - va % size, frame,
        w && ebit e 1, x && ebit e 2⟩

/-! ## Physical memory as the device's own units reach it -/

/-- The number, among the sending units, of the units of a die that send requests without an operation. -/
def unitSrc (die : Nat) : Nat := 400000 + die

/-- A request of a unit of a die, for a context, to the device that homes a line. -/
def unitReq (s : State) (c die line : Nat) (kind : ReqKind) (parts : List (Nat × List Byte × Nat)) : Req :=
  { (default : Req) with
    kind := kind, home := homeOf s line, src := unitSrc die, line := line, parts := parts, ctx := c
    far := apertureTarget (apertureEntry s line) line }

/-- Sends such a request. -/
def sendUnit (s : State) (r : Req) : State := { s with reqs := tput s.reqs s.fresh r, fresh := s.fresh + 1 }

/-- R416: asks another device for a line, unless the line has been asked for. -/
def askLine (c die : Nat) (s : State) (line : Nat) : State :=
  let asked := fun r : Req => decide (400000 ≤ r.src ∧ r.src < 500000 ∧ r.line = line ∧ r.kind = .load)
  if (s.reqs.any fun p => asked p.2) || s.remote.any fun p => asked p.2.req then s
  else sendUnit s (unitReq s c die line .load [])

/-- Notes lines that a unit cannot reach now. -/
def stick (s : State) (c die : Nat) (l : List Nat) : State :=
  { s with stuck := s.stuck ++ l.map fun x => (c, die, x) }

/-- R429: whether a line of another device that a unit asked for has been lost with its request; none of its bytes is
then listed. -/
def lostLine (s : State) (pa n : Nat) : Bool :=
  isRemote pa && (linesOf pa n).any fun l => tfind s.unitLines l == some []

/-- Whether a unit of a die has the bytes of a line, or can read it now. -/
def lineThere (s : State) (die line : Nat) : Bool :=
  (tfind s.unitLines line).isSome || (!isRemote line && lineOpen s die line)

/-- The byte that a unit reads at a physical address: one that has been sent for it, or one at its home. -/
def unitByte (s : State) (a : Nat) : Byte :=
  match tfind s.unitLines (lineOf a) with
  | some b => lget b (a % 128) 0
  | none => mread s.mem a

/-- `n` bytes of physical memory as the units of a die read them for a context; none where they have been lost (R429).
What is on its way from another device (R416), or cannot be reached (`lineOpen`), sticks. -/
def physBytes (s : State) (c die pa n : Nat) : State × Option (List Byte) :=
  let ls := linesOf pa n
  let s1 := { s with used := s.used ++ ls.filter fun l => (tfind s.unitLines l).isSome }
  if lostLine s pa n then (s1, none)
  else (stick s1 c die (ls.filter fun l => !lineThere s die l), some ((List.range n).map fun i => unitByte s (pa + i)))

/-- R50, R254: the copies of a line that a write or a read at its home leaves behind the times for an agent
of a die: its own die's, and of another device's line every die's (notes/assumptions/57.md). -/
def dropCopies (s : State) (die line : Nat) : State :=
  { s with copies := s.copies.filter fun c => !(decide (c.pa = lineOf line) && (isRemote line || decide (c.die = die))) }

/-- R449: whether a unit's write of a line is dropped: the line is poisoned, and the access has been aborted. -/
def dropsWrite (s : State) (line : Nat) : Bool :=
  !isRemote line && (homeLine s line).poison.isSome && (tfind s.unitLines line).isSome

/-- The bytes of a write from `pa` on that lie on one line. -/
def partOn (pa : Nat) (b : List Byte) (line : Nat) : List Byte :=
  ((List.range b.length).filter fun i => lineOf (pa + i) = line).map fun i => lget b i 0

/-- Writes bytes of one page of a context for a unit of a die, at their home, or by requests to the device that homes
them; where a line cannot be reached it sticks. -/
def physWrite (s : State) (c die pa : Nat) (b : List Byte) : State :=
  let ls := linesOf pa b.length
  let far := fun (s : State) l =>
    sendUnit (dropCopies s die l) (unitReq s c die l .store [(max l pa, partOn pa b l, 0)])
  if isRemote pa then ls.foldl far s
  else if ls.all (lineOpen s die) then ls.foldl (fun s l => dropCopies s die l) (homeWrite s pa b none)
  else if ls.all fun l => lineOpen s die l || dropsWrite s l then
    ls.foldl (fun s l =>
      if dropsWrite s l then { s with used := s.used ++ [l] }
      else dropCopies (homeWrite s (max l pa) (partOn pa b l) none) die l) s
  else stick s c die (ls.filter fun l => !(lineOpen s die l || dropsWrite s l))

/-! ## The walk (R222, R225) -/

/-- R222, R225: the walk, from level `n` with its table at `t`; `w` and `x` are the permissions so
far. A fault is its fr.kind. A table that another device homes is read through its aperture. -/
def walk (s : State) (u : Walker) (acc : Access) (va : Nat) : Nat → Nat → Bool → Bool → State × Except Nat Trans
  | 0, _, _, _ => (s, .error 1)
  | n + 1, t, w, x =>
    let size := 2 ^ (12 + 9 * n)
    let leaf := t + 8 * (va / size % 512)
    if 6 ≤ leaf / 2 ^ 48 ∨ !apertureOk s leaf .read then (s, .error 4)
    else
      match physBytes s u.ctx u.die leaf 8 with
      | (s1, none) => (s1, .error 4)
      | (s1, some b) =>
        let e := leNat b
        if !ebit e 0 then (s1, .error 1)
        else if n = 0 then
          (s1, if ebit e 7 then .error 3
            else leafTrans acc e leaf va (if ebit e 8 then 65536 else 4096) w x)
        else if ebit e 7 then
          (s1, if 3 ≤ n ∨ ebit e 8 then .error 3 else leafTrans acc e leaf va size w x)
        else if pointerReserved e then (s1, .error 3)
        else walk s1 u acc va n (efield e 12 39 * 4096) (w && ebit e 1) (x && ebit e 2)

/-- R224: sets pte.a, and pte.d for a write, by an OR at the leaf's location. -/
def touchLeaf (s : State) (u : Walker) (leaf : Nat) (acc : Access) : State :=
  let or := if acc = .write then 0x30 else 0x10
  if isRemote leaf then
    if (tfind s.unitLines (lineOf leaf)).isSome ∧ unitByte s leaf ||| or = unitByte s leaf then s
    else sendUnit s { unitReq s u.ctx u.die (lineOf leaf) .atomic [(leaf / 4 * 4, [or, 0, 0, 0], 0)] with code := 4 + 128 }
  else if mread s.mem leaf ||| or = mread s.mem leaf then s
  else physWrite s u.ctx u.die leaf [mread s.mem leaf ||| or]

/-- R222: the translation that a core or a cluster caches for an address of a context, the last read first. -/
def cachedTrans (s : State) (u : Walker) (va : Nat) : Option TlbEntry :=
  s.tlb.find? fun t => decide (u.holder = some t.holder ∧ t.ctx = u.ctx ∧ t.base ≤ va ∧ va < t.base + t.attr.size)

/-- R222 to R225, R415: finds the translation of an address of a context, which marks nothing yet. Where its core or
cluster still caches an old translation the access may use it (R224): a free choice. -/
def findTrans (s : State) (u : Walker) (va : Nat) (acc : Access) : State × Except Nat Trans :=
  match found with
  | (s1, .ok t) =>
    if apertureOk s1 t.pa acc then (s1, .ok { t with far := apertureTarget (apertureEntry s1 t.pa) t.pa })
    else (s1, .error 4)
  | r => r
where
  found : State × Except Nat Trans :=
    match cachedTrans s u va with
    | some t =>
      let d := draw s
      if d.1 % 2 = 0 then
        match denied acc t.w t.x with
        | some k => (d.2, .error k)
        | none => (d.2, .ok ⟨t.frame + (va - t.base), (0, 0), t.attr, t.leaf, t.base, t.frame, t.w, t.x⟩)
      else walked d.2
    | none => walked s
  walked (s : State) : State × Except Nat Trans :=
    match tfind s.contexts u.ctx with
    | none => (s, .error 1)
    | some cx => walk s u acc va 5 cx.tbase true true

/-- R222, R224: uses a translation: its leaf is marked, and where its unit caches translations it is the last read of
its page. -/
def useTrans (s : State) (u : Walker) (acc : Access) (t : Trans) : State :=
  touchLeaf (match u.holder with
    | some h =>
      let e : TlbEntry := ⟨h, u.ctx, t.base, t.frame, t.w, t.x, t.leaf, t.attr⟩
      { s with tlb := e :: s.tlb.filter (· ≠ e) }
    | none => s) u t.leaf acc

/-- R222 to R225, R415: translates an address of a context. -/
def translate (s : State) (u : Walker) (va : Nat) (acc : Access) : State × Except Nat Trans :=
  match findTrans s u va acc with
  | (s1, .ok t) => (useTrans s1 u acc t, .ok t)
  | r => r

/-! ## Virtual memory as the device's own units use it -/

/-- Reads up to `n` bytes of a context's memory for a unit of a die; the first translation fault ends it with
its kind and address, and so does a line that has been lost (R429). -/
def vread (s : State) (c die va : Nat) : Nat → State × Except (Nat × Nat) (List Byte)
  | 0 => (s, .ok [])
  | n + 1 =>
    match translate s (dieWalker c die) va .read with
    | (s1, .error k) => (s1, .error (k, va))
    | (s1, .ok t) =>
      -- The rest of the page follows without another walk.
      let len := min (n + 1) (t.attr.size - t.pa % t.attr.size)
      if len = n + 1 then
        match physBytes s1 c die t.pa (n + 1) with
        | (s2, some b) => (s2, .ok b)
        | (s2, none) => (s2, .error (4, va))
      else
        match physBytes s1 c die t.pa 1 with
        | (s2, none) => (s2, .error (4, va))
        | (s2, some b) =>
          match vread s2 c die (va + 1) n with
          | (s3, .error f) => (s3, .error f)
          | (s3, .ok r) => (s3, .ok (b ++ r))

/-- Writes bytes of a context's memory for a unit of a die; the first translation fault ends it, the bytes
before it written. -/
def vwrite (s : State) (c die va : Nat) : List Byte → State × Option (Nat × Nat)
  | [] => (s, none)
  | b :: r =>
    match translate s (dieWalker c die) va .write with
    | (s1, .error k) => (s1, some (k, va))
    | (s1, .ok t) =>
      if t.pa % t.attr.size + (b :: r).length ≤ t.attr.size then
        (physWrite s1 c die t.pa (b :: r), none)
      else vwrite (physWrite s1 c die t.pa [b]) c die (va + 1) r

end Sys2Proof.Machine
end

