-- ==== Sys2Proof/Machine/Save.lean ====
section
/-!
DEFINITION. The save area of a warp (R169 to R172 of spec/05_sequencer.md), the operand-log entries in
it (R238), and the save pool of a context (R387).
-/

namespace Sys2Proof.Machine

/-- R8: the island of a core, and its cycle count. -/
def islandOf (die core : Nat) : Nat := die * 3 + core / 96
def clockOf (s : State) (die core : Nat) : Nat := (lget s.islands (islandOf die core) default).clock

/-- R215, R12: the value that BREC writes for a quad, and that a record read from memory has: bits 63 and 62, and with rec.pub bits 56 to 8, zero. -/
def cleanRecord (r : BitVec 128) : BitVec 128 :=
  let r1 := r &&& ~~~((3 : BitVec 128) <<< 62)
  if r1.getLsbD 61 then r1 &&& ~~~((0x1FFFFFFFFFFFF : BitVec 128) <<< 8) else r1

/-- R150: s.tmpl. -/
def tmplWord (s : State) (w : Warp) : Nat :=
  let depth := match w.image with
    | none => 0
    | some k => chain s 4 (some k)
  let level := match imageOf s w with
    | some im => im.level
    | none => 0
  depth + 4 * level + (if w.self then 32 else 0) + 256 * (privGranules w).length
where
  chain (s : State) : Nat → Option Nat → Nat
    | 0, _ => 0
    | n + 1, k =>
      match k.bind (tfind s.images) with
      | some im => 1 + chain s n im.parent
      | none => 0

/-- A list of words as bytes. -/
def wordBytes (l : List Word) : List Byte := l.flatMap fun w => leBytes 4 w.toNat

/-! ## Fields of a slice record (R171) -/

def waitCode : Wait → Nat
  | .ready => 0
  | .bar .. => 1
  | .rend _ => 2
  | .freeze => 3
  | .grow => 4
  | .copyFault => 5
  | .waitc => 6
  | .waitp => 7
  | .sleep _ => 8
  | .fetch => 9
  | .held _ => 9
  | .other => 9

def stackBits (e : StackEntry) : Nat :=
  (match e.kind with
    | .mark => 1
    | .pending => 2
    | .call => 3) + e.mask.toNat * 4 + e.pc.toNat / 4 * 256

def stackOfBits (v : Nat) : StackEntry :=
  ⟨match v % 4 with
    | 1 => .mark
    | 2 => .pending
    | _ => .call, BitVec.ofNat 57 (v / 256 * 4), BitVec.ofNat 4 (v / 4)⟩

/-- A result-queue entry, its register as the low seven bits of its physical number. -/
def resultBytes (r : Result) : List Byte :=
  let dest := match r.dest with
    | .reg n => n % 128
    | .pred p => 128 + p
    | .none => 128
  leBytes 4 (dest + r.left % 16 * 256 + r.mask.toNat * 4096) ++ wordBytes r.vals ++ leBytes 12 0

/-- Writes a list of equal-sized pieces one after another. -/
def mpieces (m : Memory) (a size : Nat) : List (List Byte) → Memory
  | [] => m
  | b :: r => mpieces (mstore m a b) (a + size) size r

/-- The slice record of a slice, at `a`. ss.sleep counts units of 16 mc; a remaining time that is no whole number of them
is rounded up (DESIGN CHOICE, notes/assumptions/78.md). -/
def putSlice (m : Memory) (a now : Nat) (sl : Slice) : Memory :=
  let sleep := match sl.wait with
    | .sleep due => (due - now + 15) / 16
    | _ => 0
  let bits := sl.active.toNat + 16 * sl.tmask.toNat + 256 * sl.stack.length +
    (if sl.handler then 2 ^ 16 else 0) + (if sl.ended then 2 ^ 17 else 0) + sl.gang % 8 * 2 ^ 20 +
    sl.queue.length % 16 * 2 ^ 23
  let m := mputNat m a 8 sl.pc.toNat
  let m := mputNat m (a + 8) 8 sl.tpc.toNat
  let m := mputNat m (a + 0x10) 4 sl.mode.toNat
  let m := mputNat m (a + 0x14) 4 sl.tmode.toNat
  let m := mputNat m (a + 0x18) 4 bits
  let m := mputNat m (a + 0x1C) 4 sl.tcause.toNat
  let m := mputNat m (a + 0x20) 4 sl.tval.toNat
  let m := mputNat m (a + 0x24) 4 sl.clockHi.toNat
  let m := mputNat m (a + 0x28) 4 (waitCode sl.wait + 16 * sleep)
  let m := mpieces m (a + 0x40) 8 (sl.stack.reverse.map fun e => leBytes 8 (stackBits e))
  mpieces m (a + 0xC0) 32 (sl.queue.map resultBytes)

/-- R171: where a result-queue entry's value goes. The record holds the low seven bits of a register's
number; the bank of 128 is the saved slice's (notes/assumptions/12.md). -/
def queueDest (h : Nat) (was : Dest) : Dest :=
  if ebit h 7 then if h % 8 = 0 then .none else .pred (h % 8)
  else match was with
    | .reg n => .reg (n / 128 * 128 + h % 128)
    | _ => .reg (h % 128)

/-- R114, R12: a mode register as its reserved bits read. -/
def modeBits (m : Word) : Word := m &&& 0x7FFFFF

/-- The slice that a record holds; `old` is the slice as it was saved, and `base` the clock it was saved at, from which
a sleep runs on (R388). -/
def getSlice (m : Memory) (a base : Nat) (old : Slice) : Slice :=
  let bits := mnat m (a + 0x18) 4
  let depth := efield bits 8 5
  let w := mnat m (a + 0x28) 4
  { old with
    pc := BitVec.ofNat 57 (mnat m a 8)
    tpc := BitVec.ofNat 57 (mnat m (a + 8) 8)
    mode := modeBits (mword m (a + 0x10))
    tmode := modeBits (mword m (a + 0x14))
    active := BitVec.ofNat 4 bits
    tmask := BitVec.ofNat 4 (bits / 16)
    handler := ebit bits 16
    ended := ebit bits 17
    gang := efield bits 20 3
    tcause := mword m (a + 0x1C)
    tval := mword m (a + 0x20)
    clockHi := mword m (a + 0x24)
    stack := ((List.range depth).map fun i => stackOfBits (mnat m (a + 0x40 + 8 * i) 8)).reverse
    queue := (List.range (efield bits 23 4)).map fun i =>
      let e := a + 0xC0 + 32 * i
      let h := mnat m e 4
      let was := lget old.queue i default
      { was with
        dest := queueDest h was.dest
        left := efield h 8 4
        mask := BitVec.ofNat 4 (h / 4096)
        vals := (List.range 4).map fun j => mword m (e + 4 + 4 * j) }
    wait := match w % 16 with
      | 0 => .ready
      | 8 => .sleep (base + 16 * efield w 4 28)
      | 9 => match old.wait with
        | .held o => .held o
        | _ => .ready
      | c => if waitCode old.wait = c then old.wait else .ready
    latches := List.replicate 3 ⟨[], 0⟩ }

/-! ## Operand-log entries (R238) -/

def logBytes (e : LogEntry) : List Byte :=
  leBytes 4 e.word.toNat ++ leBytes 4 e.mask.toNat ++ leBytes 4 e.fmask.toNat ++ leBytes 4 e.ver.toNat ++
  leBytes 4 (1 + (if e.cont then 2 else 0) + e.nextEntry % 8 * 4 + e.slices.toNat * 32) ++
  leBytes 4 e.mode.toNat ++ leBytes 8 e.win ++ leBytes 8 e.pc.toNat ++ leBytes 8 0 ++
  leBytes 16 e.record.toNat ++ leBytes 64 0 ++ wordBytes e.idx ++ wordBytes e.data

def logOf (m : Memory) (a : Nat) (old : LogEntry) : LogEntry :=
  let h := mnat m (a + 0x10) 4
  ⟨mword m a, mword m (a + 4), mword m (a + 8), mword m (a + 12), ebit h 1, efield h 2 3,
    BitVec.ofNat 8 (h / 32), mword m (a + 0x14), mnat m (a + 0x18) 4, BitVec.ofNat 57 (mnat m (a + 0x20) 8),
    BitVec.ofNat 128 (mnat m (a + 0x30) 16), (List.range 32).map fun i => mword m (a + 0x80 + 4 * i),
    (List.range 64).map fun i => mword m (a + 0x100 + 4 * i), old.op⟩

/-! ## The save area (R170) -/

/-- The lanes of a word-per-lane table, in lane order. -/
def lanes32 (t : Tbl Word) : List Word := (List.range 32).map fun l => tget t l 0

def tableOf (l : List Word) : Tbl Word :=
  ((List.range l.length).zip l).filter fun p => decide (p.2 ≠ 0)

/-- Everything of a save area below its granules, written while the clock of the warp's field showed `now`. -/
def saveHeader (s : State) (w : Warp) (now : Nat) : Memory :=
  let m : Memory := []
  let m := mputNat m 0 8 w.ident.wid.toNat
  let m := mputNat m 8 8 (match imageOf s w with
    | some im => im.addr
    | none => 0)
  let m := mputNat m 0x10 4 w.win
  let m := mputNat m 0x14 4 w.ceil
  let m := mputNat m 0x18 4 w.flags.toNat
  let m := mputNat m 0x1C 4 w.rendArrived.toNat
  let m := mputNat m 0x20 8 (tmplWord s w)
  let m := mputNat m 0x28 4 w.barArrived.toNat
  let m := mstore m 0x40 ((List.range 32).map fun l => predByte w l)
  let m := mputNat m 0x60 4 w.tiles.toNat
  let m := mstore m 0x80 (wordBytes ((List.range 8).map fun k => tget w.strides k 0))
  let m := mstore m 0x100 ((List.range 16).flatMap fun k => leBytes 16 (tget w.recs k 0).toNat)
  let m := mstore m 0x200 (wordBytes (lanes32 w.gen))
  let m := mputNat m 0x280 128 w.priv.toNat
  let m := mstore m 0x300 ((List.range 32).flatMap fun f => leBytes 4 (match tfind w.donations f with
    | some n => n - 1 + 2 ^ 31
    | none => 0))
  let m := (List.range 8).foldl (fun m i => putSlice m (0x400 + 0x400 * i) now (sliceAt w i)) m
  w.log.foldl (fun m e => mstore m (0x2400 + 512 * e.1) (logBytes e.2)) m

/-- One granule, as R154 lays it out. -/
def granuleBytes (s : State) (w : Warp) (g : Nat) : List Byte :=
  wordBytes ((List.range 8).flatMap fun i => (List.range 32).map fun l => physReg s w (8 * g + i) l)

/-- R169, step 4: writes the save area of a warp at `a` of its context's memory. A line that does not
translate is left out: notes/assumptions/12.md. -/
def writeSave (s : State) (w : Warp) (a now : Nat) : State :=
  let s1 := (vwrite s w.ident.ctx w.die a (mbytes (saveHeader s w now) 0 0x4000)).1
  (privGranules w).foldl (fun s' g =>
    (vwrite s' w.ident.ctx w.die (a + 0x4000 + 0x400 * g) (granuleBytes s w g)).1) s1

/-- R169, R172: the warp that a save area holds; `old` is the warp as it was saved, and `base` the clock then. -/
def savedWarp (m : Memory) (base : Nat) (old : Warp) : Warp :=
  let priv := BitVec.ofNat 1024 (mnat m 0x280 128)
  let w := { old with
    ident := { old.ident with wid := BitVec.ofNat 64 (mnat m 0 8) }
    win := mnat m 0x10 4
    ceil := mnat m 0x14 4
    flags := BitVec.ofNat 6 (mnat m 0x18 4)
    rendArrived := BitVec.ofNat 16 (mnat m 0x1C 4)
    self := ebit (mnat m 0x20 4) 5
    barArrived := BitVec.ofNat 32 (mnat m 0x28 4)
    preds := ((List.range 32).map fun l => (l, mread m (0x40 + l))).filter fun p => decide (p.2 ≠ 0)
    tiles := BitVec.ofNat 16 (mnat m 0x60 2)
    strides := tableOf ((List.range 8).map fun k => mword m (0x80 + 4 * k))
    recs := ((List.range 16).map fun k => (k, cleanRecord (BitVec.ofNat 128 (mnat m (0x100 + 16 * k) 16)))).filter
      fun p => decide (p.2 ≠ 0)
    gen := tableOf ((List.range 32).map fun l => mword m (0x200 + 4 * l))
    priv := priv
    donations := ((List.range 32).filter fun f => ebit (mnat m (0x300 + 4 * f) 4) 31).map fun f =>
      (f, mnat m (0x300 + 4 * f) 1 % 128 + 1)
    slices := (List.range 8).map fun i => getSlice m (0x400 + 0x400 * i) base (sliceAt old i)
    log := old.log.map fun e => (e.1, logOf m (0x2400 + 512 * e.1) e.2)
    regs := [] }
  let cells := (privGranules w).flatMap fun g =>
    (List.range 256).map fun j => (256 * g + j, mword m (0x4000 + 0x400 * g + 4 * j))
  { w with regs := cells.filter fun p => decide (p.2 ≠ 0) }

/-- Reads a save area back, from its context's memory; none where it cannot be read, or not yet. -/
def saveImage (s : State) (c die a : Nat) : State × Option Memory :=
  match vread s c die a 0x24000 with
  | (s1, .ok b) => (s1, if s1.stuck = s.stuck then some (mstore [] 0 b) else none)
  | (s1, .error _) => (s1, none)

/-- A saved warp as its area holds it; without an area, or where it cannot be read, it is as it was saved
(notes/assumptions/12.md). -/
def readSave (s : State) (sv : Saved) : State × Warp :=
  if sv.addr = 0 then (s, sv.rest)
  else
    match saveImage s sv.rest.ident.ctx sv.rest.die sv.addr with
    | (s1, some m) => (s1, savedWarp m sv.clock sv.rest)
    | (s1, none) => (s1, sv.rest)

/-! ## Images in memory (R154) -/

/-- R154: the bytes of an image in memory, granules apart. -/
def imageHeader (im : Image) (parentAddr : Nat) : List Byte :=
  let m : Memory := mstore [] 0 (wordBytes im.modes)
  let m := mputNat m 0x20 4 im.win
  let m := mputNat m 0x24 4 im.ceil
  let m := mputNat m 0x28 4 im.level
  let m := mputNat m 0x30 8 parentAddr
  let m := mstore m 0x40 ((List.range 32).map fun l => tget im.preds l 0 ||| 1)
  let m := mputNat m 0x60 4 im.tiles.toNat
  let m := mstore m 0x80 (wordBytes ((List.range 8).map fun k => tget im.strides k 0))
  let m := mstore m 0x100 ((List.range 16).flatMap fun k => leBytes 16 (tget im.recs k 0).toNat)
  let m := mputNat m 0x200 128 im.map.toNat
  mbytes m 0 0x800

/-- R154: an image as a list of bytes. -/
def imageBytes (im : Image) (parentAddr : Nat) : List Byte :=
  imageHeader im parentAddr ++ (List.range (im.ceil / 8)).flatMap fun g =>
    wordBytes ((List.range 256).map fun j => tget im.regs (256 * g + j) 0)

/-! ## The save pool (R387) -/

/-- The first aligned place of `size` bytes in a context's save pool, if it has room. -/
def poolPlace (cx : Context) (size align : Nat) : Option Nat :=
  let ends := 0 :: cx.pool.map fun p => p.1 + p.2 - cx.save
  let at' := fun e => (e + align - 1) / align * align
  let fits := fun o => decide (o + size ≤ cx.savesz * 65536) &&
    cx.pool.all fun p => decide (cx.save + o + size ≤ p.1 ∨ p.1 + p.2 ≤ cx.save + o)
  ((ends.map at').filter fits).min?.map (cx.save + ·)

def poolTake (s : State) (c size align : Nat) : Option (Nat × State) :=
  match tfind s.contexts c with
  | none => none
  | some cx =>
    match poolPlace cx size align with
    | none => none
    | some a => some (a, modCtx s c fun x => { x with pool := (a, size) :: x.pool })

def poolFree (s : State) (c a : Nat) : State :=
  modCtx s c fun x => { x with pool := x.pool.filter fun p => decide (p.1 ≠ a) }

/-! ## Nested images of a saved warp (R158) -/

/-- R158: writes each nested image of a chain that has no address yet to a slot of the save pool. The chain
is at most three deep. -/
def saveChain (s : State) (c die : Nat) : Nat → Option Nat → State
  | 0, _ => s
  | n + 1, k =>
    match k.bind fun i => (tfind s.images i).map fun im => (i, im) with
    | none => s
    | some (i, im) =>
      let s1 := saveChain s c die n im.parent
      if im.parent.isNone ∨ im.addr ≠ 0 then s1
      else
        match poolTake s1 c (2048 + 128 * im.ceil) 1024 with
        | none => s1
        | some (a, s2) =>
          let up := ((im.parent.bind (tfind s2.images)).map Image.addr).getD 0
          let s3 := (vwrite s2 c die a (imageBytes im up)).1
          { s3 with images := tput s3.images i { im with addr := a } }

end Sys2Proof.Machine
end

