-- ==== Sys2Proof/Machine/Ops.lean ====
section
/-!
DEFINITION. The named operations that the meanings share: the end and the removal of a warp (R143,
R166), taking a synchronous trap and returning from one (R166, R167), register space (R155 to R157),
release and acquire (R55), and the issue of one instruction by a gang (R120, R132 to R136).
-/

namespace Sys2Proof.Machine

/-! ## Workgroups and saved warps -/

/-- Changes a warp where it is: resident, or in its save area (R161, R172). -/
def updateWarp (s : State) (k : Nat) (f : Warp → Warp) : State :=
  match tfind s.warps k with
  | some _ => modWarp s k f
  | none =>
    match tfind s.saved k with
    | none => s
    | some sv =>
      let r := readSave s sv
      let w := f r.2
      let s1 := if sv.addr = 0 then r.1 else writeSave r.1 w sv.addr sv.clock
      { s1 with saved := tput s1.saved k { sv with rest := w } }

/-- A warp as it stands, resident or saved. -/
def anyWarp (s : State) (k : Nat) : Option Warp :=
  match tfind s.warps k with
  | some w => some w
  | none =>
    match tfind s.saved k with
    | some sv => some (readSave s sv).2
    | none => none

/-- R386, R388: a saved warp becomes restorable, and ready, now; a stopped one does not. -/
def makeRestorable (s : State) (k : Nat) : State :=
  { s with
    saved := tmod s.saved k fun x =>
      if x.stopped || x.restorable then x else { x with restorable := true, seq := s.fresh }
    fresh := s.fresh + 1 }

def groupAt (s : State) (g : Nat) : Group := tget s.groups g default
def cohortOf (s : State) (w : Warp) : Nat := (groupAt s w.ident.group).cohort

/-- The numbers of the warps of a workgroup, in F1 order. -/
def groupWarps (s : State) (g : Nat) : List Nat := (groupAt s g).warps.map Prod.snd

/-- The numbers of the warps of a cohort. -/
def cohortWarps (s : State) (c : Nat) : List Nat :=
  (s.groups.filter fun g => g.2.cohort = c).flatMap fun g => g.2.warps.map Prod.snd

/-- Whether image `i` stands in the chain from image `k` on, which is at most four deep. -/
def chainHas (s : State) : Nat → Option Nat → Nat → Bool
  | 0, _, _ => false
  | n + 1, k, i =>
    match k with
    | none => false
    | some k =>
      k == i || (match tfind s.images k with
        | some im => chainHas s n im.parent i
        | none => false)

/-- R158: the nested templates that no warp, resident or saved, reads are released, with their slots of the save
pool. -/
def releaseNested (s : State) : State :=
  let readers := s.warps.map (fun p => p.2.image) ++ s.saved.map fun p => p.2.rest.image
  let dead := s.images.filter fun p => p.2.parent.isSome && !readers.any fun r => chainHas s 4 r p.1
  dead.foldl (fun s p =>
    let gone := fun x : Option Nat => if x = some p.1 then none else x
    poolFree { s with
      images := tdel s.images p.1
      groups := s.groups.map fun g => (g.1, { g.2 with nested := gone g.2.nested })
      cohorts := s.cohorts.map fun c => (c.1, { c.2 with nested := gone c.2.nested }) } p.2.ctx p.2.addr) s

/-- R158: the nested images of the workgroups of which a core holds a warp. -/
def nestedOn (s : State) (c : Nat) : List Nat :=
  (s.warps.filter fun p => p.2.coreOf = c).flatMap fun p =>
    (groupAt s p.2.ident.group).nested.toList ++ ((tfind s.cohorts (cohortOf s p.2)).bind Cohort.nested).toList

/-- Changes slices of a warp that wait, and in the same way those that the warp may return to (R58). -/
def wakeGang (s : State) (k : Nat) (sl : BitVec 8) (f : Slice → Slice) : State :=
  modWarp s k (alsoAtFence fun w => (bitsOf 8 sl).foldl (fun w i => modSliceW w i f) w)

/-- R258: the slices that an operation has held go on to the next instruction. -/
def letGo (s : State) (k : Nat) (sl : BitVec 8) (o : Nat) : State :=
  wakeGang s k sl fun x => if x.wait = .held o then { x.advance with wait := .ready } else x

/-- R155, R158: a template store keeps the images that a resident warp of its core reads, and the nested ones
that a warp of it may still take; nested ones that nothing reads are released. -/
def trimImages (s : State) (c : Nat) : State :=
  let s := releaseNested s
  let readers := (s.warps.filter fun p => p.2.coreOf = c).filterMap (fun p => p.2.image) ++ nestedOn s c
  if (tfind s.cores c).isNone then s
  else modCore s c fun x => { x with images := x.images.filter fun k => readers.any fun r => chainHas s 4 (some r) k }

/-- Forgets the requests of a warp for register space. -/
def dropGrants (s : State) (c k : Nat) : State :=
  if (tfind s.cores c).isNone then s
  else modCore s c fun x => { x with grants := x.grants.filter fun g => g.warp ≠ k }

/-- R349: a gang no longer holds at a queue of its core. -/
def dropHolding (s : State) (c k : Nat) (sl : BitVec 8) : State :=
  if (tfind s.cores c).isNone then s
  else modCore s c fun x => { x with queues := x.queues.map fun q =>
    { q with holding := q.holding.filter fun h => !(decide (h.1 = k ∧ h.2 &&& sl ≠ 0)) } }

/-- R157, R349: a gang no longer waits for register space or at a queue of its core. -/
def dropWaiting (s : State) (c k : Nat) (sl : BitVec 8) : State :=
  dropHolding (dropRequests s c fun r => decide (r.warp = k ∧ r.kind ≠ 2 ∧ r.slices &&& sl ≠ 0)) c k sl

/-- The operations of a warp that have not ended. -/
def opsOf (s : State) (k : Nat) : List (Nat × Op) := s.ops.filter fun p => p.2.warp = some k

/-- R392: a value that a warp has posted is still on its way. -/
def posting (s : State) (k : Nat) : Bool :=
  s.graphs.any fun p => p.2.nodes.any fun x => x.2.posts.any fun v => decide (v.warp = k)

/-- R143: takes an ended warp away once its counters are zero: its granules return to the core and its
workgroup, cohort and template unit end with their last warp. -/
def reap (s : State) (k : Nat) : State :=
  match tfind s.warps k with
  | none => s
  | some w =>
    let c := w.counters
    if !w.ended || posting s k || !(c.ld.isEmpty && c.st.isEmpty && c.cl.isEmpty && c.at'.isEmpty && c.q.isEmpty) then s
    else
      let g := w.ident.group
      let co := cohortOf s w
      let s1 := dropGrants { s with warps := tdel s.warps k } w.coreOf k
      let s2 := modGroup s1 g fun x => { x with warps := x.warps.filter fun p => p.2 ≠ k }
      let s3 := if (groupWarps s2 g).isEmpty then dropGrants { s2 with groups := tdel s2.groups g } w.coreOf g
        else s2
      let s4 := if s3.groups.any fun p => p.2.cohort = co then s3
        else
          { s3 with
            cohorts := tdel s3.cohorts co
            graphs := match (tfind s3.cohorts co).bind Cohort.template with
              | none => s3.graphs
              | some u => tmod s3.graphs w.ident.graph fun gr =>
                  { gr with nodes := tmod gr.nodes w.ident.node fun n =>
                      { n with units := if w.self then tput n.units u .ended else n.units } } }
      trimImages s4 w.coreOf

/-- R231: operation `o` has returned. -/
def lower (s : State) (k : Nat) (p : Path) (o : Nat) : State := reap (lowerCounter s k p o) k

/-- Removes an operation and its pending marks. -/
def endOp (s : State) (o : Nat) : State :=
  let s1 := match (tfind s.ops o).bind Op.warp with
    | some k => clearMarks s k o
    | none => s
  { s1 with ops := tdel s1.ops o }

/-! ## Release and acquire (R45, R46, R55) -/

/-- R55: whether the waits of a release at a scope are over for a gang. -/
def released (w : Warp) (sl : BitVec 8) (scope : Nat) : Bool :=
  let c := w.counters
  c.cl.isEmpty && (decide (scope < 2) || (c.ld.isEmpty && c.st.isEmpty && c.at'.isEmpty)) &&
    !(w.marks.any fun m => sl.getLsbD m.slice)

/-- R55: what is on its way to a core, or at system scope to its die, from another device was read before an
acquire, and fills no cache. -/
def staleRemote (s : State) (die core scope : Nat) : State :=
  let behind := fun r : Req => decide (r.src = coreKey die core) || (decide (scope = 5) && decide (r.src / 288 = die))
  { s with
    remote := s.remote.map fun p => (p.1, if behind p.2.req then { p.2 with stale := true } else p.2) }

/-- R55: the visibility step of an acquire at a scope, on the core of a warp or an engine: the core's
first-level cache, then the die's copies of lines that the other die homes, host memory's too, then those of
other devices' lines. -/
def acquire (s : State) (die core scope : Nat) : State :=
  let s1 := if scope < 2 then s else staleRemote s die core scope
  let s2 := if scope < 2 ∨ (tfind s.cores (coreKey die core)).isNone then s1
    else modCore s1 (coreKey die core) fun c => { c with cache := [] }
  if scope < 4 then s2
  else { s2 with copies := s2.copies.filter fun c =>
    !(decide (c.die = die) && (decide (scope = 5) || !isRemote c.pa)) }

/-- The visibility step on a warp's core. -/
def acquireWarp (s : State) (k scope : Nat) : State :=
  acquire s (warpAt s k).die (warpAt s k).core scope

/-! ## Speculative fences (R58) -/

/-- An operation no longer counts as a writer or a reader of the entry it sampled (R64, R65). -/
def unsample (s : State) (o : Nat) : State :=
  { s with publish := s.publish.map fun p => (p.1, { p.2 with
      writers := p.2.writers.filter fun x => x.1 ≠ o, readers := p.2.readers.filter fun x => x.1 ≠ o }) }

/-- R58: forgets the operations that a warp issued past its fence. -/
def killPast (s : State) (k since : Nat) : State :=
  let dead := ((opsOf s k).map Prod.fst).filter (since ≤ ·)
  let kept := fun l : List Counted => l.filter fun c => decide (c.op < since)
  let s1 := dead.foldl (fun s o => endOp (unsample s o) o) s
  let s2 := { s1 with reqs := s1.reqs.filter fun p => p.2.op ∉ dead }
  modWarp s2 k fun w =>
    let c := w.counters
    { w with
      counters := ⟨kept c.ld, kept c.st, kept c.cl, kept c.at', kept c.q⟩
      log := w.log.filter fun e => decide (e.2.op < since) }

/-- R58, R98: a warp as it stood at its fence; its generators have gone on. -/
def rolledBack (w : Warp) (sp : Speculation) : Warp :=
  { w with
    slices := sp.slices, regs := sp.regs, preds := sp.preds, win := sp.win
    flags := sp.flags, priv := sp.priv, spec := none }

/-! ## Removing a warp from its core (R166, R169) -/

/-- R58, R169: gives up what a warp has done past an incomplete fence: it stands at the FENCE again. -/
def backToFence (s : State) (k : Nat) : State :=
  match (tfind s.warps k).bind Warp.spec with
  | none => s
  | some sp =>
    modWarp (killPast s k sp.since) k fun w => { rolledBack w sp with slices := sp.before }

/-- R169, steps 2, 4 and 5: writes the save area of a warp and takes the warp off its core. Without room in
the save pool the area is not written (notes/assumptions/12.md). -/
def removeWarp (s : State) (k : Nat) (restorable stopped : Bool) : State × Nat :=
  let s := backToFence s k
  match tfind s.warps k with
  | none => (s, 0)
  | some w =>
    let s := saveChain s w.ident.ctx w.die 4 w.image
    let now := clockOf s w.die w.core
    let place := poolTake s w.ident.ctx (144 * 1024) 1024
    let s1 := match place with
      | some (a, s1) => writeSave s1 w a now
      | none => s
    let a := match place with
      | some (a, _) => a
      | none => 0
    let sv : Saved := ⟨w, now, w.core / 4, a, restorable, stopped, s1.fresh⟩
    let s2 := { s1 with
      saved := tput s1.saved k sv
      warps := tdel s1.warps k
      fresh := s1.fresh + 1 }
    (trimImages (dropHolding (dropGrants s2 w.coreOf k) w.coreOf k (BitVec.allOnes 8)) w.coreOf, a)

/-- R377: the address of the launch header of a warp. -/
def launchAddr (s : State) (w : Warp) : Nat :=
  (((tfind s.graphs w.ident.graph).bind fun g => tfind g.nodes w.ident.node).map Node.hdrAddr).getD 0

/-- R166: a double trap stops the warp, posts a record and removes the warp. -/
def doubleTrap (s : State) (k cause : Nat) (pc : VAddr) : State :=
  match tfind s.warps k with
  | none => s
  | some w =>
    let r := removeWarp s k false true
    postRecord r.1 w.ident.ctx w.die
      (graphRecord 0x62 cause w.core w.die w.slot (launchAddr s w) r.2 pc.toNat) .none

/-! ## Scoreboarded register writes (R210) -/

/-- A register write that an operation of the warp or another agent makes. What was under way before a
fence, and what others write, is also in the state that the warp may roll back to (R58). -/
def landReg (w : Warp) (o n l : Nat) (v : Word) : Warp :=
  let w1 := writePhys w n l v
  { w1 with spec := w1.spec.map fun sp =>
      if o < sp.since then
        { sp with regs := setCell sp.regs n l v }
      else sp }

/-- Flags that an operation of the warp raises. -/
def landFlags (s : State) (k o : Nat) (fl : BitVec 6) : State :=
  modWarp s k fun w =>
    { w with flags := w.flags ||| fl, spec := w.spec.map fun sp =>
        if o < sp.since then { sp with flags := sp.flags ||| fl } else sp }

/-- Performs the register writes of an operation: each element's data into its lane's register. -/
def performWrites (s : State) (o : Nat) : State :=
  match tfind s.ops o with
  | none => s
  | some op =>
    match op.warp with
    | none => s
    | some k =>
      let s1 := modWarp s k fun w => op.elems.foldl (fun w e =>
        landReg w o e.addr e.lane (BitVec.ofNat 32 (leNat e.data))) w
      endOp (landFlags s1 k o op.flags) o

/-- R136, R210: the drain of a gang: its VWRI writes and then its queued results are performed. -/
def drainGang (s : State) (k : Nat) (sl : BitVec 8) : State :=
  let mine := (opsOf s k).filter fun p => p.2.kind = .registerWrite ∧ p.2.slices &&& sl ≠ 0
  drain (mine.foldl (fun s p => performWrites s p.1) s) k sl

/-! ## Traps (R166, R167) -/

/-- R166, steps 2 and 3, in one slice. -/
def enterHandler (sl : Slice) (cause : Nat) (val : Word) (ret vec : VAddr) : Slice :=
  { sl with
    tpc := ret, tmode := sl.mode, tmask := sl.active, tcause := BitVec.ofNat 32 cause, tval := val
    mode := 0, handler := true, pc := vec, wait := .ready }

/-- The address of the trap handler of a context. -/
def handlerOf (s : State) (c : Nat) : VAddr := (tget s.contexts c default).tvec

/-- R166: a synchronous trap of a gang: the drain, then each slice enters its handler with its value of the
list; `past` saves the address after the instruction. A slice already in a handler makes it a double trap. -/
def trapSlices (s : State) (k : Nat) (sl : BitVec 8) (cause : Nat) (vals : List Word) (past : Bool) : State :=
  let s1 := modWarp (drainGang s k sl) k fun w => killLatches (flushWarpQueue w sl) sl
  let w := warpAt s1 k
  let vec := handlerOf s1 w.ident.ctx
  let s2 := (bitsOf 8 sl).foldl (fun s i => modSlice s k i fun x =>
    if x.handler then x else enterHandler x cause (lget vals i 0) (if past then x.pc + 4 else x.pc) vec) s1
  let s3 := dropWaiting (modWarp s2 k fun w => regroup w sl) w.coreOf k sl
  if (bitsOf 8 sl).any fun i => (sliceAt w i).handler then doubleTrap s3 k cause (gangPc w sl) else s3

/-- R166: a synchronous trap of a gang, with one value in all its slices. -/
def trapGang (s : State) (k : Nat) (sl : BitVec 8) (cause : Nat) (val : Word) (past : Bool) : State :=
  trapSlices s k sl cause (List.replicate 8 val) past

/-- R167: the return from a trap in one slice; with an empty mask the slice goes on as EXIT states. Bits [1:0]
of a written s.tpc are cleared, since every instruction is aligned (DESIGN CHOICE, notes/assumptions/60.md). -/
def leaveHandler (sl : Slice) : Slice :=
  { sl with
    pc := sl.tpc &&& ~~~(3 : VAddr), mode := sl.tmode, active := sl.tmask, handler := false }

/-! ## Register space (R155 to R157) -/

/-- R156: the granules that writing these registers makes the warp's own. -/
def copiedGranules (s : State) (w : Warp) (regs : List Nat) : List Nat :=
  ((regs.filter (backed s w)).map (· / 8)).dedup

/-- Whether a request for register space takes the place of one that waits: one for the same workgroup's REND or the same
granule of a warp, or of a gang for what it asked before. -/
def GrantRequest.renews (mine r : GrantRequest) : Bool :=
  decide (r.warp = mine.warp ∧ r.granule = mine.granule ∧ r.kind = mine.kind ∧
    (r.slices = mine.slices ∨ r.slices &&& mine.slices ≠ 0))

/-- R157: whether a request is granted now: it is the oldest of its core, and the core has the granules. Otherwise it waits
its turn; a request that has changed keeps its place. -/
def askCore (s : State) (die core : Nat) (mine : GrantRequest) : Bool × State :=
  let c := coreKey die core
  let old := (tget s.cores c default).grants
  let first := old.takeWhile fun r => !mine.renews r
  let rest := (old.drop first.length).filter fun r => !mine.renews r
  if first.isEmpty ∧ mine.granules ≤ freeGranules s die core then (true, modCore s c fun x => { x with grants := rest })
  else (false, modCore s c fun x => { x with grants := first ++ mine :: rest })

/-- R157: asks for `n` granules for a gang. -/
def askGranules (s : State) (k : Nat) (sl : BitVec 8) (kind n : Nat) : Bool × State :=
  askCore s (warpAt s k).die (warpAt s k).core ⟨k, sl, kind, n, 0⟩

/-- R111, R134: whether two register sources lie in one bank. -/
def bankConflict (reads : List Nat) : Bool :=
  let l := (reads.filter (· < 125)).dedup
  l.any fun a => l.any fun b => decide (a < b ∧ a % 4 = b % 4)

/-! ## The end of a fence (R58) -/

/-- R58: a fence completes when nothing it waited for is outstanding: the visibility step is made, and
a warp that has rolled back returns to its state at the fence. -/
def settleFence (s : State) (k : Nat) : State :=
  match tfind s.warps k with
  | none => s
  | some w =>
    match w.spec with
    | none => s
    | some sp =>
      let c := w.counters
      let out := (c.ld ++ c.st ++ c.cl ++ c.at').map Counted.op ++ w.marks.map Mark.op
      if sp.awaits.any fun o => o ∈ out then s
      else
        let s1 := acquireWarp s k sp.scope
        if sp.rolledBack then
          modWarp (killPast s1 k sp.since) k fun w => rolledBack w sp
        else modWarp s1 k fun w => { w with spec := none }

/-! ## Issue (R120, R132 to R136) -/

/-- What an instruction names, for the checks and the timing that all instructions share. -/
structure Form where
  /-- Register fields that are read, each register of a group named. -/
  reads : List Nat := []
  /-- Fixed-latency destinations. -/
  writes : List Nat := []
  /-- Scoreboarded destinations. -/
  waits : List Nat := []
  /-- The hold field, and field a (R107). -/
  hold : Nat := 0
  a : Nat := 0
  /-- In the drain set (R136). -/
  drains : Bool := false
  /-- Its extra cycles are counted by the instruction itself, before its read cycle. -/
  ownBanks : Bool := false
  /-- May issue past an incomplete fence (R58). -/
  past : Bool := false
  /-- Whether the gang must wait before the instruction has any effect (R231, R238). -/
  stall : State → Nat → Bool := fun _ _ => false
  /-- What the instruction reads through an index or in other lanes, given the warp in its read cycle: lanes and their
  physical registers (R203, R209). -/
  far : State → Warp → BitVec 8 → List (Nat × Nat) := fun _ _ _ => []
  /-- R120, check 3: whether the fields of `mode` that the instruction reads hold accepted codes. -/
  accepts : Word → Bool := fun _ => true

/-- What an instruction does when its read cycle comes. -/
inductive Eff where
  /-- It has taken effect. -/
  | done (s : State)
  /-- It waits (R30) and is tried again: only what the drain wrote has changed. -/
  | wait (s : State) (why : Wait)
  /-- It takes a synchronous trap; `past` is TRAP's return address (R166). -/
  | trap (cause : Nat) (val : Word) (past : Bool)
  /-- It takes a synchronous trap whose values differ from slice to slice. -/
  | trapEach (cause : Nat) (vals : List Word)
  /-- It has taken effect and takes a trap besides (R164). -/
  | andTrap (s : State) (cause : Nat) (val : Word)
  deriving Repr, Inhabited

/-- The registers that a form names, as fields. -/
def Form.named (f : Form) : List Nat := (f.reads ++ f.writes ++ f.waits).filter (· < 125)

/-- The gang waits: nothing was issued. -/
def holdGang (s : State) (k : Nat) (sl : BitVec 8) (why : Wait) : State :=
  { modGang s k sl (fun x => { x with wait := why }) with held := true }

/-- Marks a gang as having issued now (R31). -/
def stampIssue (s : State) (k : Nat) (sl : BitVec 8) : State :=
  modGang s k sl fun x => { x with lastIssue := s.now }

/-- The word that an instruction trap reports. -/
def fetchedWord (s : State) : Word := s.fetched.getD 0

/-- A trap taken by a gang's instruction, which has used its issue opportunity; past an incomplete
fence it is held (R58). -/
def issueTraps (s : State) (k : Nat) (sl : BitVec 8) (cause : Nat) (vals : List Word) (past : Bool) : State :=
  if ((warpAt s k).spec).isSome then holdGang s k sl .other
  else stampIssue (trapSlices s k sl cause vals past) k sl

def issueTrap (s : State) (k : Nat) (sl : BitVec 8) (cause : Nat) (val : Word) (past : Bool) : State :=
  issueTraps s k sl cause (List.replicate 8 val) past

/-- R134: the extra issue cycles of an instruction, apart from copied granules. -/
def extraCycles (f : Form) (w : Warp) (sl : BitVec 8) : Nat :=
  let busy := f.waits.map (w.win + ·)
  let waits := ((bitsOf 8 sl).flatMap fun i => (sliceAt w i).queue.filterMap fun r =>
    match r.dest with
    | .reg n => if n ∈ busy then some r.left else none
    | _ => none).foldl max 0
  (if bankConflict f.reads && !f.ownBanks then 1 else 0) + (if f.drains then drainCount w sl else waits)

/-- R107, R112: ends an instruction: the lifetimes of the gang's latch entries count it, its own hold
is made, its read cycle ends, and the gang parts where its slices disagree (R129). -/
def finishIssue (f : Form) (s : State) (k : Nat) (sl : BitVec 8) (held : List (Nat × List Word)) :
    State :=
  let s1 := modWarp s k fun w =>
    let w1 := ageLatches w sl
    let w2 := held.foldl (fun w p => modSliceW w p.1 fun x =>
      { x with latches := lmod x.latches (f.hold - 1) fun _ => ⟨p.2, 2⟩ }) w1
    let w3 := tickGang w2 sl 1
    let w4 := regroup w3 (gangMates w3 sl)
    { w4 with spec := w4.spec.map fun p =>
        if (bitsOf 8 sl).any fun i => p.gang.getLsbD i then { p with issued := p.issued + 1 } else p }
  stampIssue s1 k sl

/-- R58: whether an instruction must wait for an incomplete fence of its warp, whose own issue is counted too. -/
def fenceHolds (f : Form) (w : Warp) : Bool :=
  match w.spec with
  | none => false
  | some p => p.rolledBack || !f.past || decide (65 ≤ p.issued)

/-- R156, R157: whether the gang has the granules that the instruction's destinations copy, and the state in
which they were asked for, or in which a request that has lost its object is dropped. -/
def grantFor (f : Form) (s : State) (k : Nat) (sl : BitVec 8) (w : Warp) : Bool × State :=
  let g := copiedGranules s w ((f.writes ++ f.waits).map (w.win + ·))
  if g.isEmpty then (true, dropRequests s w.coreOf fun r => decide (r.warp = k ∧ r.kind = 3 ∧ r.slices &&& sl ≠ 0))
  else askGranules s k sl 3 g.length

/-- R133, R134: the state in the read cycle: granules copied, the drain made, the extra cycles over, and a
latch entry without a value filled with free ones; past an incomplete fence the registers named are noted (R59). `s0` is
the state after `grantFor`. -/
def readCycle (f : Form) (s s0 : State) (k : Nat) (sl : BitVec 8) (w : Warp) : State :=
  let g := copiedGranules s w ((f.writes ++ f.waits).map (w.win + ·))
  let s1 := g.foldl (fun s g => privatise s k g) s0
  let s2 := if f.drains then drainGang s1 k sl else s1
  let s3 := modWarp s2 k fun w' => tickGang w' sl (extraCycles f w sl + 2 * g.length)
  let s4 := (bitsOf 8 sl).foldl (fun s i => f.reads.foldl (fun s r => freshenLatch s k i r) s) s3
  let s5 := if w.spec.isNone then s4
    else modWarp s4 k fun x => { x with spec := x.spec.map fun p =>
      { p with touched := p.touched ||| toBits 1024 (f.named.map (w.win + ·) ++ (f.far s4 x sl).map Prod.snd) } }
  modGang s5 k sl fun x => { x with wait := .ready }

/-- R107: the values of field a that the hold field keeps, by slice: of all four lanes, inactive ones too
(DESIGN CHOICE, notes/assumptions/61.md). -/
def heldValues (f : Form) (s : State) (k : Nat) (sl : BitVec 8) : List (Nat × List Word) :=
  if f.hold = 0 then []
  else (bitsOf 8 sl).map fun i => (i, (List.range 4).map fun j => srcReg s (warpAt s k) f.a (4 * i + j))

/-! ## Own accesses to own registers (R43, R45) -/

/-- A place in cluster space: a word of the cluster store, or a lane's register of a warp, by whichever of its addresses
(R229, R230). -/
inductive ClusterPlace where
  | word (a : Nat)
  | reg (warp n lane : Nat)
  | nothing
  deriving DecidableEq, Repr, Inhabited

/-- R229, R230: the place that an operation's cluster address names. -/
def clusterPlace (s : State) (op : Op) (a : Nat) : ClusterPlace :=
  if a < 0x800000 then .word (a / 4)
  else if a < 0x4000000 then .nothing
  else if a < 0x8000000 then
    let core := op.cluster % 72 * 4 + (a - 0x4000000) / 2 ^ 24
    match (warpsOn s op.die core).find? fun p => p.2.slot = a / 2 ^ 17 % 128 with
    | some p => .reg p.1 (a / 128 % 1024) (a / 4 % 32)
    | none => .nothing
  else if a < 0x8400000 then
    match tfind (groupAt s op.group).warps ((a - 0x8000000) / 2 ^ 17) with
    | some j => .reg j (a / 128 % 1024) (a / 4 % 32)
    | none => .nothing
  else .nothing

def liveElems (l : List Elem) : List Elem := l.filter fun e => e.st = .live

/-- Whether an operation is an access of the memory access unit to cluster space. -/
def OpKind.cluster (k : OpKind) : Bool :=
  k == .clusterLoad || k == .clusterStore || k == .clusterLoadAcquire || k == .clusterStoreRelease ||
    k == .arrive || k == .atomicCluster || k == .waitmCluster

/-- Whether an operation writes cluster space. -/
def OpKind.writesCluster (k : OpKind) : Bool :=
  k == .clusterStore || k == .clusterStoreRelease || k == .atomicCluster

def OpKind.acquires (k : OpKind) : Bool := k == .loadAcquire || k == .clusterLoadAcquire

/-- R43, R45: whether an operation in flight, which a gang of warp `k` has issued before, comes before the gang's reads and
writes of these lanes' registers: an acquire, or an access to cluster space that reaches one of them and conflicts. -/
def beforeRegs (k : Nat) (sl : BitVec 8) (reads writes : List (Nat × Nat)) (s : State) (op : Op) : Bool :=
  decide (op.warp = some k ∧ op.before &&& sl ≠ 0) &&
    (op.kind.acquires || (op.kind.cluster && (liveElems op.elems).any fun e =>
      match clusterPlace s op e.addr with
      | .reg j n l => decide (j = k ∧ ((l, n) ∈ writes ∨ ((l, n) ∈ reads ∧ op.kind.writesCluster)))
      | _ => false))

/-- R43, R45: whether reads and writes of registers by a gang must follow an operation in flight. -/
def orderHeld (s : State) (k : Nat) (sl : BitVec 8) (reads writes : List (Nat × Nat)) : Bool :=
  !(reads ++ writes).isEmpty && s.ops.any fun p => beforeRegs k sl reads writes s p.2

/-- The registers of a list of fields, in every lane of a gang's slices. -/
def laneRegs (w : Warp) (sl : BitVec 8) (fields : List Nat) : List (Nat × Nat) :=
  (bitsOf 8 sl).flatMap fun i => (List.range 4).flatMap fun j =>
    (fields.filter (· < 125)).map fun f => (4 * i + j, w.win + f)

/-- Whether one of some lanes' registers is pending. -/
def indexedPending (w : Warp) (l : List (Nat × Nat)) : Bool :=
  l.any fun p => w.marks.any fun m => decide (m.slice = p.1 / 4 ∧ m.reg = p.2)

/-- A gang's warp in the read cycle of an instruction, as far as its results go (R134). -/
def Form.atRead (f : Form) (s : State) (sl : BitVec 8) (w : Warp) : Warp :=
  tickGang w sl (extraCycles f w sl + 2 * (copiedGranules s w ((f.writes ++ f.waits).map (w.win + ·))).length)

/-- R43, R45, R135: whether no register that an instruction reads or writes is pending, or to be reached first by an operation
in flight. -/
def Form.clear (f : Form) (s : State) (k : Nat) (sl : BitVec 8) (w : Warp) : Bool :=
  let far := f.far s (f.atRead s sl w) sl
  !pendingIn w sl (f.named.map (w.win + ·)) && !indexedPending w far &&
    !orderHeld s k sl (laneRegs w sl f.reads ++ far) (laneRegs w sl (f.writes ++ f.waits))

/-- R120 to R136: issues an instruction of a gang. Granules are copied, or waited for, before a trap that the instruction's
own meaning raises (DESIGN CHOICE, notes/assumptions/79.md). -/
def issueGang (f : Form) (eff : State → Nat → BitVec 8 → Eff) (s : State) (k : Nat) (sl : BitVec 8)
    (w : Warp) : State :=
  let phys := f.named.map (w.win + ·)
  if fenceHolds f w then holdGang s k sl .other
  else if !f.accepts (gangMode w sl) then issueTrap s k sl 0 (fetchedWord s) false
  else
    match phys.find? (w.ceil ≤ ·) with
    | some n => issueTrap s k sl 1 (BitVec.ofNat 32 n) false
    | none =>
      if !f.clear s k sl w then holdGang s k sl .other
      else if f.stall s k then holdGang s k sl .waitc
      else
        let ask := grantFor f s k sl w
        if !ask.1 then holdGang ask.2 k sl .copyFault
        else
          let s1 := readCycle f s ask.2 k sl w
          match eff s1 k sl with
          | .done s2 => finishIssue f s2 k sl (heldValues f (if f.ownBanks then s2 else s1) k sl)
          | .wait s2 why => holdGang (modWarp s2 k fun w => flushWarpQueue w sl) k sl why
          | .trap c v p =>
            if w.spec.isSome then holdGang s k sl .other else issueTrap s1 k sl c v p
          | .trapEach c vs =>
            if w.spec.isSome then holdGang s k sl .other else issueTraps s1 k sl c vs false
          | .andTrap s2 c v => issueTrap s2 k sl c v false

/-- Issues an instruction of the present issuer, which must be a gang. -/
def issue (f : Form) (eff : State → Nat → BitVec 8 → Eff) (s : State) : Out :=
  match s.issuer with
  | .gang k sl =>
    match tfind s.warps k with
    | some w => .next (issueGang f eff s k sl w)
    | none => .fault .noIssuer
  | _ => .fault .noIssuer

/-- An instruction that only computes: it takes effect and moves past itself. -/
def passing (eff : State → Nat → BitVec 8 → State) (s : State) (k : Nat) (sl : BitVec 8) : Eff :=
  .done (modGang (eff s k sl) k sl Slice.advance)

/-- The undefined-opcode trap of a word that R120's checks 1 and 2 refuse. -/
def refuseWord (s : State) : Out :=
  match s.issuer with
  | .gang k sl =>
    match tfind s.warps k with
    | some _ => .next (issueTrap s k sl 0 (fetchedWord s) false)
    | none => .fault .noIssuer
  | _ => .fault .noIssuer

end Sys2Proof.Machine
end

