-- ==== Sys2Proof/Machine/Operands.lean ====
section
/-!
DEFINITION. The operand forms of the instruction words: immediates (R106), register groups (R110), the
elements of a float register (R84), and the ways a lane instruction reads its sources and queues its
results (R173).
-/

namespace Sys2Proof.Machine

/-- R106: an immediate marked signed. -/
def immSigned {n : Nat} (i : BitVec n) : Word := i.signExtend 32

/-- R106: an immediate marked unsigned. -/
def immUnsigned {n : Nat} (i : BitVec n) : Word := i.setWidth 32

/-- R106: an immediate by type. -/
def immByType {n : Nat} (ty : Nat) (i : BitVec n) : Word :=
  if intSigned ty then immSigned i else immUnsigned i

/-- The second source of a lane instruction. -/
inductive Src where
  | reg (f : Nat)
  /-- The same word whatever the type. -/
  | imm (v : Word)
  /-- An immediate by type. -/
  | typed (i : BitVec 8)
  deriving DecidableEq, Repr, Inhabited

def Src.fields : Src → List Nat
  | .reg f => [f]
  | _ => []

def Src.value (s : State) (w : Warp) (ty l : Nat) : Src → Word
  | .reg f => srcReg s w f l
  | .imm v => v
  | .typed i => immByType ty i

/-- R110: the registers of a group of `n` named by its first. -/
def groupRegs (d : BitVec 7) (n : Nat) : List Nat := (List.range n).map (d.toNat + ·)

/-! ## Mode checks (R120, check 3) -/

/-- R116: the classes int and flt. -/
def acceptsInt (m : Word) : Bool := decide (modeType m ≤ 8)
def acceptsFlt (m : Word) : Bool := decide (6 ≤ modeType m ∧ modeType m ≤ 8)

/-- R93, R97: the rounding and random-source codes of an instruction that rounds. -/
def roundsOk (m : Word) : Bool := decide (modeRnd m ≤ 5 ∧ (modeRnd m = 5 → modeSrsrc m ≤ 3))

/-- R37: the scope code of an instruction that reads `mode.scope`. -/
def scopeOk (m : Word) : Bool := decide (modeScope m ≤ 5)

/-! ## Lane results -/

/-- What one lane of an instruction gives: its result, its flags, and its generator afterwards where
it has drawn. -/
structure LaneResult where
  val : Word
  flags : BitVec 6 := 0
  gen : Option Word := none
  deriving DecidableEq, Repr, Inhabited

/-- R133, R173: queues the results of the lanes of a gang that `mask` selects in each slice. -/
def queueLanes (s : State) (k : Nat) (sl : BitVec 8) (dest : Dest) (lat : Nat) (mask : Warp → Nat → BitVec 4)
    (f : Nat → LaneResult) : State :=
  let w := warpAt s k
  modWarp s k fun acc => (bitsOf 8 sl).foldl (fun acc i =>
    let m := mask w i
    let rs := (List.range 4).map fun j => if m.getLsbD j then f (4 * i + j) else { val := 0 }
    let acc := pushResult acc i dest m (rs.map LaneResult.val) (joinFlags (rs.map LaneResult.flags)) lat
    ((List.range 4).zip rs).foldl (fun acc p => match p.2.gen with
      | some g => { acc with gen := tput acc.gen (4 * i + p.1) g }
      | none => acc) acc) acc

/-- A register destination of the window. -/
def regDest (s : State) (k : Nat) (d : BitVec 7) : Dest := .reg ((warpAt s k).win + d.toNat)

/-- A lane instruction that writes a register: each active lane's result from its lane number. -/
def laneReg (f : Form) (d : BitVec 7) (lat : Nat) (val : State → Warp → Word → Nat → LaneResult)
    (s : State) : Out :=
  issue { f with writes := [d.toNat], past := true } (passing fun s k sl =>
    let w := warpAt s k
    queueLanes s k sl (regDest s k d) lat guarded (val s w (gangMode w sl))) s

/-- A lane instruction that writes a predicate (R177). -/
def lanePred (f : Form) (p : BitVec 3) (lat : Nat) (val : State → Warp → Word → Nat → LaneResult)
    (s : State) : Out :=
  issue { f with past := true } (passing fun s k sl =>
    let w := warpAt s k
    queueLanes s k sl (.pred p.toNat) lat guarded (val s w (gangMode w sl))) s

/-- The form of a word with fields a and b and a hold. -/
def formAB (h : BitVec 2) (a : BitVec 7) (b : Src) : Form :=
  { reads := a.toNat :: b.fields, hold := h.toNat, a := a.toNat }

def boolWord (b : Bool) : Word := if b then 1 else 0

/-! ## Float elements (R84) -/

/-- The elements of a register under a float type, as FP32 bits. -/
def elemsOf (ty : Nat) (v : Word) : List Nat :=
  match ty with
  | 7 => [v.toNat % 65536 * 65536]
  | 8 => [v.toNat % 65536 * 65536, v.toNat / 65536 * 65536]
  | _ => [v.toNat]

/-- A register of elements given as FP32 bits. -/
def packElems (ty : Nat) (l : List Nat) : Word :=
  match ty with
  | 7 => BitVec.ofNat 32 (lget l 0 0 / 65536)
  | 8 => BitVec.ofNat 32 (lget l 0 0 / 65536 + lget l 1 0 / 65536 * 65536)
  | _ => BitVec.ofNat 32 (lget l 0 0)

/-- Significand bits of a float type. -/
def precOf (ty : Nat) : Nat := if ty = 6 then 24 else 8

/-- Computes element after element, the generator passing through. -/
def elemwise (g : Word) (f : Nat → Word → Rounded) : Nat → Nat → List Rounded
  | 0, _ => []
  | n + 1, i =>
    let r := f i g
    r :: elemwise r.gen f n (i + 1)

/-- R187: a float instruction in one lane: element 0 first. -/
def fltLane (ty : Nat) (g : Word) (f : Nat → Word → Rounded) : LaneResult :=
  let rs := elemwise g f (if ty = 8 then 2 else 1) 0
  ⟨packElems ty (rs.map Rounded.bits), joinFlags (rs.map Rounded.flags), rs.getLast?.map Rounded.gen⟩

/-- The generator of a lane (R98). -/
def genOf (w : Warp) (l : Nat) : Word := tget w.gen l 0

end Sys2Proof.Machine
end

