-- ==== Sys2Proof/Machine/Transcend.lean ====
section
/-!
DEFINITION. The transcendental functions (R192 to R194 of spec/06_lane_datapath.md). The bits of the
V480's method are not part of the architecture: the FP32 result is an open value of `Config`, taken
where it meets the bounds of R193, and the nearest FP32 value of the function where it does not. The
function itself is enclosed by integer arithmetic with far more bits than the bounds need.
-/

namespace Sys2Proof.Machine

/-- 1 with 100 fraction bits, the fixed point of this file. -/
def fxOne : Int := 2 ^ 100

def fxLn2 : Int := 0xb17217f7d1cf79abc9e3b3980
def fxTwoPi : Int := 0x6487ed5110b4611a62633145c0
def fxPi : Int := 0x3243f6a8885a308d313198a2e0
def fxLog2E : Int := 0x171547652b82fe1777d0ffda0d
/-- 1/(2π) with 300 fraction bits. -/
def invTwoPi : Nat := 0x28be60db9391054a7f09d5f47d4d377036d8a5664f10e4107f9458eaf7aef1586dc91b8e909

def fxMul (a b : Int) : Int := a * b / 2 ^ 100

/-- Horner's form of e^x from term `i` on. -/
def expTerms (x : Int) : Nat → Nat → Int
  | 0, _ => fxOne
  | n + 1, i => fxOne + fxMul x (expTerms x n (i + 1)) / (i : Int)

/-- Horner's form of the alternating series in x² whose term `i` divides by i·(i+1). -/
def altTerms (x2 : Int) : Nat → Nat → Int
  | 0, _ => fxOne
  | n + 1, i => fxOne - fxMul x2 (altTerms x2 n (i + 2)) / ((i : Int) * ((i : Int) + 1))

/-- 2^A for a fixed-point A: mantissa and exponent. -/
def fxExp2 (a : Int) : Int × Int :=
  let n := a / fxOne
  let f := a % fxOne
  (expTerms (fxMul f fxLn2) 40 1, n - 100)

/-- sin and cos of t turns, 0 ≤ t < 1. -/
def fxSin (t : Int) : Int :=
  let x := fxMul t fxTwoPi - fxPi
  Int.neg (fxMul x (altTerms (fxMul x x) 34 2))
def fxCos (t : Int) : Int :=
  let x := fxMul t fxTwoPi - fxPi
  Int.neg (altTerms (fxMul x x) 34 1)

/-- The binary digits of log2 of y in [1, 2), y with 160 fraction bits. -/
def logDigits (y : Nat) : Nat → Nat
  | 0 => 0
  | n + 1 =>
    let s := y * y / 2 ^ 160
    if 2 ^ 161 ≤ s then 2 ^ n + logDigits (s / 2) n else logDigits s n

/-- m·2^e in fixed point, truncated. -/
def fxOf (neg : Bool) (m : Nat) (e : Int) : Int :=
  let v : Int := (m * 2 ^ (e + 100).toNat / 2 ^ (-(e + 100)).toNat : Nat)
  if neg then -v else v

/-- The fraction of |a|/(2π), in turns. -/
def turnsOf (m : Nat) (e : Int) : Int :=
  (m * 2 ^ e.toNat * invTwoPi / 2 ^ (-e).toNat % 2 ^ 300 / 2 ^ 200 : Nat)

/-- The fraction of |a|/2, in turns. -/
def halfTurns (m : Nat) (e : Int) : Int :=
  if 0 ≤ e - 1 then 0 else (m % 2 ^ (1 - e).toNat * 2 ^ 100 / 2 ^ (1 - e).toNat : Nat)

/-- How far a result may lie from the exact value (R193). -/
inductive Bound where
  | ulps (n : Nat)
  /-- 2^-n, absolute. -/
  | abs (n : Nat)
  deriving DecidableEq, Repr, Inhabited

/-- tanh of a number whose magnitude is at least 2^-12. -/
def fxTanh (neg : Bool) (m : Nat) (e : Int) : Int :=
  let x := fxOf false m e
  let u := if 40 * fxOne < x then 0
    else
      let p := fxExp2 (-(2 * fxMul x fxLog2E))
      p.1 * 2 ^ (p.2 + 100).toNat / 2 ^ (-(p.2 + 100)).toNat
  let v := (fxOne - u) * fxOne / (fxOne + u)
  if neg then -v else v

/-- R193: the function of opcode `op` at a finite operand that no special or exact case covers: an
enclosed value v·2^x, and its bound. -/
def transValue (op : Nat) (neg : Bool) (m : Nat) (e : Int) : Int × Int × Bound :=
  let sg := fun v : Int => if neg then -v else v
  match op with
  | 0x83 =>
    let r := (e % 2).toNat
    ((isqrt (2 ^ 400 / (m * 2 ^ r)) : Nat), -200 - (e - r) / 2, .ulps 2)
  | 0x85 =>
    let p := fxExp2 (if 10 < (Nat.log2 m : Int) + e then sg (2 ^ 110) else fxOf neg m e)
    (p.1, p.2, if (Nat.log2 p.1.natAbs : Int) + p.2 < -126 then .abs 149 else .ulps 2)
  | 0x86 =>
    let top := Nat.log2 m
    let k : Int := top + e
    let frac := logDigits (m * 2 ^ 160 / 2 ^ top) 64
    (k * 2 ^ 64 + frac, -64, if -1 ≤ k ∧ (k < 1 ∨ (k = 1 ∧ m = 2 ^ top)) then .abs 22 else .ulps 2)
  | 0x87 => (sg (fxSin (turnsOf m e)), -100, .abs 21)
  | 0x88 => (sg (fxSin (halfTurns m e)), -100, .abs 21)
  | 0x89 => (fxCos (turnsOf m e), -100, .abs 21)
  | 0x8A => (fxCos (halfTurns m e), -100, .abs 21)
  | _ => (fxTanh neg m e, -100, .abs 22)

/-- The exact cases of R193, as FP32 bits; `none` where only a bound is stated. -/
def transExact (op : Nat) (neg : Bool) (m : Nat) (e : Int) : Option Nat :=
  let top := Nat.log2 m
  let k : Int := top + e
  let pow := decide (m = 2 ^ top)
  match op with
  | 0x83 => if pow && decide (k % 2 = 0) then some (fencode false 1 (-k / 2)) else none
  | 0x85 =>
    let d := (-e).toNat
    let n : Int := if 0 ≤ e then m * 2 ^ e.toNat else (m / 2 ^ d : Nat)
    let v := if neg then -n else n
    if (0 ≤ e ∨ m % 2 ^ d = 0) ∧ -149 ≤ v ∧ v ≤ 127 then some (fencode false 1 v) else none
  | 0x86 =>
    if pow then some (if k = 0 then 0 else fencode (decide (k < 0)) k.natAbs 0) else none
  | 0x87 => if m = 0 then some (zeroBits neg) else none
  | 0x88 =>
    let t := halfTurns m e
    if m ≠ 0 ∧ t = 0 ∧ e < -98 then none
    else if t = 0 ∨ t = fxOne / 2 then some 0
    else if t = fxOne / 4 then some (if neg then 0xBF800000 else 0x3F800000)
    else if t = 3 * fxOne / 4 then some (if neg then 0x3F800000 else 0xBF800000)
    else none
  | 0x8A =>
    let t := halfTurns m e
    if m ≠ 0 ∧ t = 0 ∧ e < -98 then none
    else if t = 0 then some 0x3F800000
    else if t = fxOne / 2 then some 0xBF800000
    else if t = fxOne / 4 ∨ t = 3 * fxOne / 4 then some 0
    else none
  | _ => none

/-- Whether the number with these FP32 bits lies within the bound of the value v·2^x. -/
def withinBound (c : Nat) (v x : Int) (b : Bound) : Bool :=
  match fdecode c with
  | .fin n m e =>
    let at400 := fun (a : Int) (y : Int) => a * 2 ^ (y + 400).toNat / 2 ^ (-(y + 400)).toNat
    let err := (at400 (if n then -(m : Int) else m) e - at400 v x).natAbs
    let lim := match b with
      | .abs k => 2 ^ (400 - k)
      | .ulps k => k * 2 ^ (ulpExp 24 (Nat.log2 v.natAbs + x) + 400).toNat
    decide (err ≤ lim - lim / 2 ^ 20)
  | _ => false

/-- The flags of an inexact FP32 result and its flushing (R83, R94). -/
def transFinish (rn : Rnd) (c : Nat) : Nat × BitVec 6 :=
  let tiny := decide (c % 2 ^ 31 ≠ 0 ∧ c / 2 ^ 23 % 256 = 0)
  if tiny && rn.ftz then (c / 2 ^ 31 * 2 ^ 31, flagUF ||| flagNX)
  else (c, if tiny then flagUF ||| flagNX else flagNX)

/-- R192, R193: FRCP of a finite number that is not 0: one of the two nearest FP32 values, and beyond the
largest finite one what R94 makes of an overflow. -/
def frcp (rn : Rnd) (neg : Bool) (m : Nat) (e : Int) (cand : Nat) : Nat × BitVec 6 :=
  let q := 2 ^ 300 / m
  let sticky := decide (2 ^ 300 % m ≠ 0)
  let at' := fun mode => roundWith ⟨24, mode, rn.sat, rn.ftz, 0⟩ neg q (-300 - e) sticky 0
  let away := at' (if neg then 3 else 2)
  if (at' 1).2 = 0 then at' 1
  else if away.2 &&& flagOF ≠ 0 then at' 0
  else if cand = (at' 1).1 then at' 1
  else if cand = away.1 then away
  else at' 0

/-- R192 to R194: the FP32 result and flags of a transcendental function other than FSQRT; `rn` gives
saturation and flushing. -/
def transcend (op : Nat) (rn : Rnd) (x : FVal) (cand : Nat) : Nat × BitVec 6 :=
  let cand := cand % 2 ^ 32
  match x with
  | .nan s => (qnan, if s then flagNV else 0)
  | .inf n =>
    match op with
    | 0x82 => (zeroBits n, 0)
    | 0x83 => if n then (qnan, flagNV) else (0, 0)
    | 0x85 => if n then (0, 0) else (infBits false, 0)
    | 0x86 => if n then (qnan, flagNV) else (infBits false, 0)
    | 0x8B => (if n then 0xBF800000 else 0x3F800000, 0)
    | _ => (qnan, flagNV)
  | .fin n m e =>
    if m = 0 ∧ (op = 0x82 ∨ op = 0x83) then (infBits n, flagDZ)
    else if m = 0 ∧ op = 0x86 then (infBits true, flagDZ)
    else if m = 0 ∧ op = 0x85 then (0x3F800000, 0)
    else if m = 0 ∧ op = 0x8B then (zeroBits n, 0)
    else if n = true ∧ (op = 0x83 ∨ op = 0x86) then (qnan, flagNV)
    else if op = 0x82 then frcp rn n m e cand
    else
      match transExact op n m e with
      | some b =>
        if rn.ftz && decide (b % 2 ^ 31 ≠ 0 ∧ b / 2 ^ 23 % 256 = 0) then (0, flagUF ||| flagNX)
        else (b, 0)
      | none =>
        if op = 0x85 ∧ n = false ∧ 7 ≤ (Nat.log2 m : Int) + e then
          (overflowBits ⟨24, 0, rn.sat, rn.ftz, 0⟩ false, flagOF ||| flagNX)
        else if op = 0x8B ∧ (m = 0 ∨ (Nat.log2 m : Int) + e < -12) then
          transFinish rn (fencode n m e)
        else
          let p := transValue op n m e
          let c := if withinBound cand p.1 p.2.1 p.2.2 then cand
            else (roundWith ⟨24, 0, rn.sat, false, 0⟩ (decide (p.1 < 0)) p.1.natAbs p.2.1 true 0).1
          -- The cosine of 0 is the one rational value here: 1 is exact and raises nothing.
          if op = 0x89 ∧ m = 0 ∧ c = 0x3F800000 then (c, 0) else transFinish rn c

end Sys2Proof.Machine
end

