-- ==== Sys2Proof/Machine/FloatOps.lean ====
section
/-!
DEFINITION. Floating-point and conversion instructions (R187 to R202 of spec/06_lane_datapath.md).
-/

namespace Sys2Proof.Machine

/-- An instruction of class flt: each element from the elements of a, b and d. -/
def fltOp (h : BitVec 2) (d a : BitVec 7) (b : Src) (acc rounds : Bool) (lat : Nat)
    (f : Rnd → Nat → Nat → Nat → Word → Rounded) (s : State) : Out :=
  let base := formAB h a b
  let form : Form := { base with
    reads := base.reads ++ (if acc then [d.toNat] else [])
    accepts := fun m => acceptsFlt m && (!rounds || roundsOk m) }
  laneReg form d lat (fun s w m l =>
    let ty := modeType m
    let e := fun v => elemsOf ty v
    let x := e (srcReg s w a.toNat l)
    let y := e (b.value s w ty l)
    let z := e (srcReg s w d.toNat l)
    fltLane ty (genOf w l) fun i g =>
      f (modeRounding m (precOf ty)) (lget x i 0) (lget y i 0) (lget z i 0) g) s

/-- An operand's value under the flushing of `rn` (R83). -/
def operand (rn : Rnd) (b : Nat) : FVal := fdecodeFtz rn.ftz b

/-- R188: the magnitude of a rounded result. -/
def magnitude (r : Rounded) : Rounded := { r with bits := r.bits % 2 ^ 31 }

def addElem (rn : Rnd) (x y _ : Nat) (g : Word) : Rounded := fAdd rn (operand rn x) (operand rn y) g
def subElem (rn : Rnd) (x y _ : Nat) (g : Word) : Rounded := fAdd rn (operand rn x) (operand rn y).neg g
def mulElem (rn : Rnd) (x y _ : Nat) (g : Word) : Rounded := fMul rn (operand rn x) (operand rn y) g

def execFadd (h : BitVec 2) (d a b : BitVec 7) (s : State) : Out :=
  fltOp h d a (.reg b.toNat) false true 4 addElem s
def execFaddAbs (h : BitVec 2) (d a b : BitVec 7) (s : State) : Out :=
  fltOp h d a (.reg b.toNat) false true 4 (fun rn x y z g => magnitude (addElem rn x y z g)) s
def execFsub (h : BitVec 2) (d a b : BitVec 7) (s : State) : Out :=
  fltOp h d a (.reg b.toNat) false true 4 subElem s
def execFsubAbs (h : BitVec 2) (d a b : BitVec 7) (s : State) : Out :=
  fltOp h d a (.reg b.toNat) false true 4 (fun rn x y z g => magnitude (subElem rn x y z g)) s
def execFmul (h : BitVec 2) (d a b : BitVec 7) (s : State) : Out :=
  fltOp h d a (.reg b.toNat) false true 4 mulElem s
def execFmulAbs (h : BitVec 2) (d a b : BitVec 7) (s : State) : Out :=
  fltOp h d a (.reg b.toNat) false true 4 (fun rn x y z g => magnitude (mulElem rn x y z g)) s

/-- R189: ±(a·b) ± d. -/
def fmaElem (np nd : Bool) (rn : Rnd) (x y z : Nat) (g : Word) : Rounded :=
  let p := operand rn x
  let c := operand rn z
  fFma rn (if np then p.neg else p) (operand rn y) (if nd then c.neg else c) g

def execFfma (h : BitVec 2) (d a b : BitVec 7) (s : State) : Out :=
  fltOp h d a (.reg b.toNat) true true 4 (fmaElem false false) s
def execFfmaNp (h : BitVec 2) (d a b : BitVec 7) (s : State) : Out :=
  fltOp h d a (.reg b.toNat) true true 4 (fmaElem true false) s
def execFfmaNd (h : BitVec 2) (d a b : BitVec 7) (s : State) : Out :=
  fltOp h d a (.reg b.toNat) true true 4 (fmaElem false true) s
def execFfmaNn (h : BitVec 2) (d a b : BitVec 7) (s : State) : Out :=
  fltOp h d a (.reg b.toNat) true true 4 (fmaElem true true) s

/-- R190: no rounding, no draw. -/
def minMaxElem (big nan mag : Bool) (rn : Rnd) (x y _ : Nat) (g : Word) : Rounded :=
  let r := fMinMax big nan mag (flushBits rn.ftz x) (flushBits rn.ftz y)
  ⟨r.1, r.2, g⟩

def execFmin (h : BitVec 2) (d a b : BitVec 7) (s : State) : Out :=
  fltOp h d a (.reg b.toNat) false false 4 (minMaxElem false false false) s
def execFminNan (h : BitVec 2) (d a b : BitVec 7) (s : State) : Out :=
  fltOp h d a (.reg b.toNat) false false 4 (minMaxElem false true false) s
def execFminAbs (h : BitVec 2) (d a b : BitVec 7) (s : State) : Out :=
  fltOp h d a (.reg b.toNat) false false 4 (minMaxElem false false true) s
def execFmax (h : BitVec 2) (d a b : BitVec 7) (s : State) : Out :=
  fltOp h d a (.reg b.toNat) false false 4 (minMaxElem true false false) s
def execFmaxNan (h : BitVec 2) (d a b : BitVec 7) (s : State) : Out :=
  fltOp h d a (.reg b.toNat) false false 4 (minMaxElem true true false) s
def execFmaxAbs (h : BitVec 2) (d a b : BitVec 7) (s : State) : Out :=
  fltOp h d a (.reg b.toNat) false false 4 (minMaxElem true false true) s

/-- R191: element 0 alone is compared. -/
def fcmpOp (h : BitVec 2) (c : BitVec 4) (p : BitVec 3) (a : BitVec 7) (b : Src) (s : State) : Out :=
  lanePred { formAB h a b with accepts := acceptsFlt } p 4 (fun s w m l =>
    let ty := modeType m
    let e := fun v => fdecodeFtz (modeFtz m) (lget (elemsOf ty v) 0 0)
    let r := fCmp c.toNat (e (srcReg s w a.toNat l)) (e (b.value s w ty l))
    ⟨boolWord r.1, if r.2 then flagNV else 0, none⟩) s

def execFcmp (h : BitVec 2) (c : BitVec 4) (p : BitVec 3) (a b : BitVec 7) (s : State) : Out :=
  fcmpOp h c p a (.reg b.toNat) s
def execFcmpZ (h : BitVec 2) (c : BitVec 4) (p : BitVec 3) (a : BitVec 7) (s : State) : Out :=
  fcmpOp h c p a (.imm 0) s

/-! ## Transcendental functions (R192 to R194) -/

/-- R192: one element: the FP32 result, and under a BF16 type one more rounding. -/
def transElem (op : Nat) (rn : Rnd) (x _ _ : Nat) (g : Word) : Rounded :=
  let r := transcend op rn (operand rn x) (Config.transcendental op x)
  if rn.prec = 24 then ⟨r.1, r.2, g⟩
  else
    let p := fRound rn (fdecode r.1) g
    { p with flags := p.flags ||| r.2 }

def transOp (op : Nat) (h : BitVec 2) (d a : BitVec 7) (s : State) : Out :=
  let base := formAB h a (.imm 0)
  laneReg { base with
      accepts := fun m => acceptsFlt m && (decide (modeType m = 6) || roundsOk m) } d 12 (fun s w m l =>
    let ty := modeType m
    let x := elemsOf ty (srcReg s w a.toNat l)
    fltLane ty (genOf w l) fun i g =>
      transElem op (modeRounding m (precOf ty)) (lget x i 0) 0 0 g) s

def execFrcp (h : BitVec 2) (d a : BitVec 7) (s : State) : Out := transOp 0x82 h d a s
def execFrsq (h : BitVec 2) (d a : BitVec 7) (s : State) : Out := transOp 0x83 h d a s
def execFsqrt (h : BitVec 2) (d a : BitVec 7) (s : State) : Out :=
  fltOp h d a (.imm 0) false true 12 (fun rn x _ _ g => fSqrt rn (operand rn x) g) s
def execFexp2 (h : BitVec 2) (d a : BitVec 7) (s : State) : Out := transOp 0x85 h d a s
def execFlog2 (h : BitVec 2) (d a : BitVec 7) (s : State) : Out := transOp 0x86 h d a s
def execFsin (h : BitVec 2) (d a : BitVec 7) (s : State) : Out := transOp 0x87 h d a s
def execFsinPi (h : BitVec 2) (d a : BitVec 7) (s : State) : Out := transOp 0x88 h d a s
def execFcos (h : BitVec 2) (d a : BitVec 7) (s : State) : Out := transOp 0x89 h d a s
def execFcosPi (h : BitVec 2) (d a : BitVec 7) (s : State) : Out := transOp 0x8A h d a s
def execFtanh (h : BitVec 2) (d a : BitVec 7) (s : State) : Out := transOp 0x8B h d a s

/-! ## FFLOOR and FFRAC (R195) -/

def execFfloor (h : BitVec 2) (d a : BitVec 7) (s : State) : Out :=
  fltOp h d a (.imm 0) false false 4 (fun rn x _ _ g =>
    let r := fFloor (flushBits rn.ftz x)
    ⟨r.1, r.2, g⟩) s
def execFfrac (h : BitVec 2) (d a : BitVec 7) (s : State) : Out :=
  fltOp h d a (.imm 0) false true 4 (fun rn x _ _ g => fFrac rn (operand rn x) g) s

/-! ## Conversions (R196 to R202) -/

def srcFloat (m : Word) : Bool := decide (modeType m = 6 ∨ modeType m = 7)
def srcInt (m : Word) : Bool := decide (modeType m ≤ 5)

/-- R197: float to float. -/
def execCvt (h : BitVec 2) (d a : BitVec 7) (t : BitVec 4) (s : State) : Out :=
  laneReg { formAB h a (.imm 0) with accepts := fun m => srcFloat m && roundsOk m } d 4 (fun s w m l =>
    let rn := modeRounding m (precOf t.toNat)
    let x := lget (elemsOf (modeType m) (srcReg s w a.toNat l)) 0 0
    let r := fRound rn (operand rn x) (genOf w l)
    ⟨packElems t.toNat [r.bits], r.flags, some r.gen⟩) s

/-- R198: float to integer. -/
def execCvtFi (h : BitVec 2) (d a : BitVec 7) (t : BitVec 4) (s : State) : Out :=
  laneReg { formAB h a (.imm 0) with accepts := fun m => srcFloat m && roundsOk m } d 4 (fun s w m l =>
    let ty := t.toNat
    let rn := modeRounding m 24
    let x := lget (elemsOf (modeType m) (srcReg s w a.toNat l)) 0 0
    let g := genOf w l
    let r := fToInt rn.mode (operand rn x) rn.k (genBits rn g) 0 (intMin ty) (intMax ty)
    ⟨extend ty r.1, r.2, some (genNext rn g)⟩) s

/-- R199: integer to float. -/
def execCvtIf (h : BitVec 2) (d a : BitVec 7) (t : BitVec 4) (s : State) : Out :=
  laneReg { formAB h a (.imm 0) with accepts := fun m => srcInt m && roundsOk m } d 4 (fun s w m l =>
    let rn := modeRounding m (precOf t.toNat)
    let r := fRound rn (fOfInt (readInt (modeType m) (srcReg s w a.toNat l))) (genOf w l)
    ⟨packElems t.toNat [r.bits], r.flags, some r.gen⟩) s

/-- R199: integer to integer, brought into the destination's range. -/
def execCvtIi (h : BitVec 2) (d a : BitVec 7) (t : BitVec 4) (s : State) : Out :=
  laneReg { formAB h a (.imm 0) with accepts := srcInt } d 4 (fun s w m l =>
    ⟨fit t.toNat (modeSat m) (readInt (modeType m) (srcReg s w a.toNat l)), 0, none⟩) s

/-- R200: CVTB rounds a and then b, or copies their bits. -/
def execCvtb (h : BitVec 2) (d a b : BitVec 7) (s : State) : Out :=
  laneReg { formAB h a (.reg b.toNat) with
      accepts := fun m => srcFloat m && (decide (modeType m = 7) || roundsOk m) } d 4 (fun s w m l =>
    let x := srcReg s w a.toNat l
    let y := srcReg s w b.toNat l
    if modeType m = 7 then ⟨BitVec.ofNat 32 (y.toNat % 65536 * 65536 + x.toNat % 65536), 0, none⟩
    else
      let rn := { modeRounding m 8 with sat := false }
      fltLane 8 (genOf w l) fun i g =>
        fRound rn (operand rn (if i = 0 then x.toNat else y.toNat)) g) s

/-- R200: CVTB.d. -/
def execCvtbD (h : BitVec 2) (d a b : BitVec 7) (s : State) : Out :=
  laneReg { formAB h a (.reg b.toNat) with accepts := srcFloat } d 4 (fun s w m l =>
    let x := (srcReg s w a.toNat l).toNat
    let e := if (srcReg s w b.toNat l).getLsbD 0 then x / 65536 else x % 65536
    ⟨BitVec.ofNat 32 (if modeType m = 6 then e * 65536 else e), 0, none⟩) s

/-- R201: stochastic rounding with the random bits of register b. -/
def execCvts (h : BitVec 2) (d a b : BitVec 7) (x : BitVec 1) (s : State) : Out :=
  laneReg { formAB h a (.reg b.toNat) with accepts := fun m => decide (modeType m = 6) } d 4
    (fun s w m l =>
      let rn : Rnd := ⟨8, 5, modeSat m, modeFtz m, 32⟩
      let v := operand rn (srcReg s w a.toNat l).toNat
      let r := (srcReg s w b.toNat l).toNat
      if x = 1 then
        let p := fToInt 5 v 32 r 32 (-128) 127
        ⟨extend 4 p.1, p.2, none⟩
      else
        match v with
        | .fin n q e =>
          let p := roundWith rn n q e false r
          ⟨packElems 7 [p.1], p.2, none⟩
        | _ =>
          let p := fRound rn v 0
          ⟨packElems 7 [p.bits], p.flags, none⟩) s

/-- R202: the entries of a codebook slot of a workgroup; a slot not loaded holds +0. -/
def codebook (s : State) (w : Warp) (slot : Nat) : List (BitVec 16) :=
  tget (groupAt s w.ident.group).cb slot (List.replicate 16 0)

def execCbenc (h : BitVec 2) (d a : BitVec 7) (s : State) : Out :=
  laneReg { formAB h a (.imm 0) with
      accepts := fun m => acceptsFlt m && decide (modeCbslot m ≤ 7) } d 4 (fun s w m l =>
    let es := elemsOf (modeType m) (srcReg s w a.toNat l)
    let rs := es.map fun e => cbEncode (fdecodeFtz (modeFtz m) e) (codebook s w (modeCbslot m))
    ⟨BitVec.ofNat 32 ((rs.map Prod.fst).foldr (fun c n => c + 16 * n) 0), joinFlags (rs.map Prod.snd),
      none⟩) s

end Sys2Proof.Machine
end

