-- ==== Sys2Proof/Machine/Access.lean ====
section
/-!
DEFINITION. How an access is formed: buffer records, elements, swizzles, alignment, scaled pages, lines
and their translation, the operand log and its replay (R214 to R242 of spec/07_memory_unit.md), and the
publish table as instructions meet it (R62 to R66 of spec/02_memory_model.md).
-/

namespace Sys2Proof.Machine

/-! ## Buffer records (R214, R217) -/

def recBase (r : BitVec 128) : Nat := r.toNat % 2 ^ 57
def recSwz (r : BitVec 128) : Nat := r.toNat / 2 ^ 57 % 16
def recPub (r : BitVec 128) : Bool := r.getLsbD 61
def recEntry (r : BitVec 128) : Nat := r.toNat % 256
def recStride (r : BitVec 128) : Nat := r.toNat / 2 ^ 64 % 2 ^ 32
def recExtent (r : BitVec 128) : Nat := r.toNat / 2 ^ 96

/-- The `n` bits of `o` from `src` on, exclusive-ored into those from `dst` on. -/
def xorField (o dst src n : Nat) : Nat := o ^^^ (o / 2 ^ src % 2 ^ n * 2 ^ dst)

/-- R217. -/
def swizzle (mode o : Nat) : Nat :=
  match mode with
  | 1 => xorField o 4 7 3
  | 2 => xorField o 4 8 3
  | 3 => xorField o 2 7 5
  | 4 => xorField o 2 9 5
  | 5 => xorField o 7 11 4
  | _ => o

/-! ## Types (R218, R116) -/

/-- R218: bytes of one scalar of an element type. -/
def scalarSize (ty : Nat) : Nat :=
  match ty with
  | 2 => 2
  | 3 => 2
  | 7 => 2
  | 4 => 1
  | 5 => 1
  | 10 => 1
  | _ => 4

def acceptsMem (m : Word) : Bool := decide (modeType m ≤ 10)

/-- R78, R84, R90: a scalar of an element type as a register holds it. -/
def scalarWord (ty v : Nat) : Word :=
  match ty with
  | 2 => BitVec.ofInt 32 (toSigned 16 v)
  | 4 => BitVec.ofInt 32 (toSigned 8 v)
  | 10 => BitVec.ofInt 32 (toSigned 8 v)
  | _ => BitVec.ofNat 32 v

/-! ## The publish table (R62 to R65) -/

def pubAt (s : State) (p : Nat) : PubEntry := tget s.publish p default

def setPub (s : State) (p : Nat) (e : PubEntry) : State := { s with publish := tput s.publish p e }

/-- The front backing of version `v`, and the shadow. -/
def frontBase (e : PubEntry) (v : Nat) : Nat := if v % 2 = 0 then e.back0 else e.back1
def shadowBase (e : PubEntry) (v : Nat) : Nat := if v % 2 = 0 then e.back1 else e.back0

/-- R64: whether a PUBLISH waits at an entry. -/
def publishWaits (e : PubEntry) : Bool := e.waiting.any fun x => x.2.isNone

/-- R63 to R65: operation `o` of a core samples the version of the record's entry; an unpublished record or an
entry that is not enabled samples nothing. The sample is an acquire at system scope (R46): what the core and its die
hold of any line is dropped, not of the published backing alone (DEDUCED, notes/assumptions/57.md). -/
def sampleVersion (s : State) (die core o : Nat) (rec : BitVec 128) (writer : Bool) : State × Option (Nat × Nat) :=
  let p := recEntry rec
  let e := pubAt s p
  if !recPub rec || !e.enabled then (s, none)
  else
    let e' := if writer then { e with writers := e.writers ++ [(o, e.version)] }
      else { e with readers := e.readers ++ [(o, e.version)] }
    (setPub (acquire s die core 5) p e', some (p, e.version.toNat))

/-- Forgets what an operation has asked the home slices for; an answer from another device then goes to no operation. -/
def abandonReqs (s : State) (o : Nat) : State :=
  { s with
    reqs := s.reqs.filter fun p => p.2.op ≠ o
    remote := s.remote.map fun p =>
      (p.1, if p.2.req.op = o then { p.2 with req := { p.2.req with op := 0 }, stale := true } else p.2) }

/-- R216: the base that a record gives an access. -/
def accessBase (s : State) (rec : BitVec 128) (sample : Option (Nat × Nat)) (writer : Bool) : Nat :=
  if !recPub rec then recBase rec
  else
    let e := pubAt s (recEntry rec)
    match sample with
    | some (_, v) => if writer then shadowBase e v else frontBase e v
    | none => frontBase e e.version.toNat

/-- R64: a writer that would sample while a PUBLISH waits is held behind it. -/
def writerHeld (s : State) (rec : BitVec 128) : Bool :=
  recPub rec && publishWaits (pubAt s (recEntry rec))

/-- R65: no instruction that sampled the previous version still reads the backing to be written. -/
def shadowFree (s : State) (sample : Option (Nat × Nat)) : Bool :=
  match sample with
  | none => true
  | some (p, v) => !((pubAt s p).readers.any fun x => decide (x.2.toNat % 2 ≠ v % 2))

/-! ## Elements (R216) -/

/-- R216: the element of index `idx`, up to its address. -/
def elemAt (rec : BitVec 128) (base z n lane idx : Nat) (data : List Word) : Elem :=
  let o := swizzle (recSwz rec) (idx * recStride rec)
  { lane := lane, idx := idx, offset := o, addr := base + o, code := none, fmt := 0
    st := if recExtent rec ≤ idx then .outOfBounds
      else if 2 ^ 57 < base + o + z * n then .addrError else .live
    data := data.flatMap fun v => leBytes z v.toNat }

/-- The lanes of a list of elements. -/
def elemLanes (l : List Elem) : BitVec 32 := toBits 32 (l.map Elem.lane)

def Op.size (op : Op) : Nat := op.z * op.n

/-- Whether an operation writes the memory it translates (R225). -/
def OpKind.writes : OpKind → Bool
  | .store => true
  | .storeRelease => true
  | .atomic => true
  | .routine => true
  | .scatterGrad => true
  | .scatter => true
  | .drain => true
  | _ => false

/-- Operations of the engines, which no order of the memory access unit concerns (R60). -/
def OpKind.engine : OpKind → Bool
  | .copy => true
  | .planes => true
  | .drain => true
  | .refill => true
  | .scatterGrad => true
  | .gather => true
  | .scatter => true
  | .bag => true
  | _ => false

/-- Whether an operation writes the global memory it names: a copy by its direction, the lowest bit
of its code. -/
def Op.isWrite (op : Op) : Bool := op.kind.writes || (op.kind == .copy && op.code % 2 == 1)

/-- Whether an operation counts as a writer of a published record's entry (R64, R257, R274). -/
def OpKind.writer (k : OpKind) : Bool := k.writes || k == .cacheop

/-! ## Operations -/

/-- A new operation of a gang. -/
def gangOp (s : State) (k : Nat) (sl : BitVec 8) (kind : OpKind) : Op :=
  let w := warpAt s k
  { (default : Op) with
    kind := kind, die := w.die, core := w.core, cluster := w.clusterOf, ctx := w.ident.ctx
    warp := some k, group := w.ident.group, slices := sl, before := sl, word := fetchedWord s, mode := gangMode w sl, win := w.win
    pc := gangPc w sl, z := 4, n := 1, issued := s.now, cb := (groupAt s w.ident.group).cb }

/-- Puts a new operation in flight. -/
def addOp (s : State) (op : Op) : Nat × State :=
  let id := newId s
  (id.1, { id.2 with ops := tput id.2.ops id.1 op })

/-- The gang's operation waits for what its instruction needs, and the gang holds (R258). -/
def holdFor (s : State) (k : Nat) (sl : BitVec 8) (o : Nat) : State :=
  modGang s k sl fun x => { x with wait := .held o }

/-! ## Scaled pages (R88 to R91, R220) -/

/-- R88: an address's offset within its 2 MiB page or part. -/
def partOffset (a : Nat) : Nat := a % 2 ^ 21

def scaleStart : Nat := 0x1FF000

/-- R88: the scale byte of the block that holds the element stored at `a`, under format `fmt`. -/
def scaleAddr (a fmt : Nat) : Nat :=
  a - partOffset a + scaleStart + partOffset a / (if fmt = 1 then 512 else 1024)

/-- What a page does with an access to the byte at `a` (R90): plain, decoded, or the format trap. -/
inductive PageUse where
  | plain | decode | trap
  deriving DecidableEq, Repr, Inhabited

/-- R90. From 16 on `ty` is no element type: what acts on whole lines is plain everywhere (R274). -/
def pageUse (fmt ty a : Nat) (write : Bool) : PageUse :=
  if 16 ≤ ty then .plain
  else if fmt = 0 then if 9 ≤ ty then .trap else .plain
  else if scaleStart ≤ partOffset a then if ty ≤ 5 then .plain else .trap
  else
    match ty with
    | 9 => if fmt = 1 then .plain else .trap
    | 10 => if fmt = 2 then .plain else .trap
    | t => if 6 ≤ t ∧ t ≤ 8 ∧ !write then .decode else .trap

/-- R91, R82: an element's value times its scale, rounded to FP32 (`prec` 24) or BF16. -/
def decodeScaled (v : FVal) (scale prec : Nat) : Nat × BitVec 6 :=
  if scale = 255 then (qnan, if v = .nan true then flagNV else 0)
  else
    match v with
    | .nan s => (qnan, if s then flagNV else 0)
    | .inf neg => (infBits neg, 0)
    | .fin neg m e => roundWith ⟨prec, 0, false, false, 0⟩ neg m (e + scale - 127) false 0

/-- R86: entry `c` of a codebook, as a value. -/
def codeValue (cb : List (BitVec 16)) (c : Nat) : FVal := fdecode ((lget cb c 0).toNat * 65536)

/-! ## Placing elements (R219 to R225) -/

/-- Where an element lies, or what kept it from being placed: an address error and a format trap at the byte
address of the element. -/
inductive Place where
  | lines (l : List OpLine) (fmt : Nat) (code : Option Nat)
  | fault (kind va : Nat)
  | misaligned (va : Nat)
  | format (va : Nat)
  deriving DecidableEq, Repr, Inhabited

/-- The pages an operation has translated: each is translated once (R221). -/
abbrev Pages := List Trans

def transLine (t : Trans) (va : Nat) : OpLine :=
  let pa := t.frame + (lineOf va - t.base)
  ⟨lineOf va, pa, t.attr, if isRemote pa then (t.far.1, t.far.2 / 2 ^ 36 * 2 ^ 36 + pa % 2 ^ 36) else (0, 0)⟩

/-- R221: translates the page of an address, once for the operation. -/
def placePage (s : State) (u : Walker) (acc : Access) (pg : Pages) (va : Nat) :
    State × Pages × Except Nat Trans :=
  match pg.find? fun t => decide (t.base ≤ va ∧ va < t.base + t.attr.size) with
  | some t => (s, pg, .ok t)
  | none =>
    match translate s u va acc with
    | (s1, .ok t) => (s1, t :: pg, .ok t)
    | (s1, .error k) => (s1, pg, .error k)

/-- Translates a list of addresses in order; the first fault ends it. -/
def placeAddrs (s : State) (u : Walker) (acc : Access) (pg : Pages) :
    List Nat → State × Pages × Except (Nat × Nat) (List (Nat × Trans))
  | [] => (s, pg, .ok [])
  | va :: r =>
    match placePage s u acc pg va with
    | (s1, pg1, .error k) => (s1, pg1, .error (k, va))
    | (s1, pg1, .ok t) =>
      match placeAddrs s1 u acc pg1 r with
      | (s2, pg2, .error f) => (s2, pg2, .error f)
      | (s2, pg2, .ok l) => (s2, pg2, .ok ((va, t) :: l))

/-- The addresses of the lines that `n` bytes from `a` on touch, the first being `a` itself. -/
def lineStarts (a n : Nat) : List Nat := a :: (linesOf a n).tail

def opLines (l : List (Nat × Trans)) : List OpLine := (l.map fun p => transLine p.2 p.1).dedup

/-- The page that holds an address of a load, if it translates; nothing is marked yet. -/
def peekPage (s : State) (u : Walker) (pg : Pages) (va : Nat) : State × Option Trans :=
  match pg.find? fun t => decide (t.base ≤ va ∧ va < t.base + t.attr.size) with
  | some t => (s, some t)
  | none =>
    match findTrans s u va .read with
    | (s1, .ok t) => (s1, some t)
    | (s1, .error _) => (s1, none)

/-- Uses a page so found for the whole operation (R221, R224). -/
def usePage (s : State) (u : Walker) (pg : Pages) (t : Trans) : State × Pages :=
  if t ∈ pg then (s, pg) else (useTrans s u .read t, t :: pg)

/-- R220: the code address of an element on a CB4 page: offset and base count codes. -/
def codeAddr (e : Elem) : Nat := 2 * e.addr - e.offset

/-- R220: places a decoding load's `count` stored elements from `start` on, two to a byte on a CB4 page; the
byte address of the whole element is `va`. -/
def placeScaled (s : State) (u : Walker) (pg : Pages) (fmt start count va : Nat) :
    State × Pages × Place :=
  let byteOf := fun i => if fmt = 1 then (start + i) / 2 else start + i
  let stored := (List.range count).map byteOf
  match placeAddrs s u .read pg stored with
  | (s1, pg1, .error (k, at')) => (s1, pg1, .fault k at')
  | (s1, pg1, .ok l) =>
    if l.any fun p => decide (p.2.attr.fmt ≠ fmt ∨ scaleStart ≤ partOffset p.1) then (s1, pg1, .format va)
    else
      let scales := l.map fun p => (scaleAddr p.1 fmt, p.2)
      (s1, pg1, .lines (opLines (l ++ scales)) fmt (some start))

/-- How many stored elements a load of `n` scalars decodes (R220). -/
def storedCount (ty n : Nat) : Nat := if ty = 8 then 2 * n else n

/-- R220: places an element of a decoding load on a CB4 page. -/
def placeCodes (s : State) (u : Walker) (ty n : Nat) (pg : Pages) (e : Elem) : State × Pages × Place :=
  if ty = 8 ∧ codeAddr e % 2 = 1 then (s, pg, .misaligned (codeAddr e / 2))
  else placeScaled s u pg 1 (codeAddr e) (storedCount ty n) (codeAddr e / 2)

/-- R216, R219: places one element at its byte address. -/
def placeBytes (s : State) (u : Walker) (acc : Access) (ty z n : Nat) (pg : Pages) (e : Elem) :
    State × Pages × Place :=
  match placePage s u acc pg e.addr with
  | (s1, pg1, .error k) => (s1, pg1, .fault k e.addr)
  | (s1, pg1, .ok t) =>
    match pageUse t.attr.fmt ty e.addr (acc == .write) with
    | .trap => (s1, pg1, .format e.addr)
    | .decode =>
      if t.attr.fmt = 1 then placeCodes s1 u ty n pg1 e
      else if ty = 8 ∧ e.addr % 2 = 1 then (s1, pg1, .misaligned e.addr)
      else placeScaled s1 u pg1 2 e.addr (storedCount ty n) e.addr
    | .plain =>
      match placeAddrs s1 u acc pg1 (lineStarts e.addr (z * n)) with
      | (s2, pg2, .error (k, va)) => (s2, pg2, .fault k va)
      | (s2, pg2, .ok l) =>
        if e.addr % z ≠ 0 then (s2, pg2, .misaligned e.addr)
        else if l.any fun p => pageUse p.2.attr.fmt ty p.1 (acc == .write) ≠ .plain then
          (s2, pg2, .format e.addr)
        else (s2, pg2, .lines (opLines l) t.attr.fmt none)

/-- R216, R219, R220: places one element of `n` scalars of `z` bytes. A decoding load finds a CB4 page
at the byte of its code, and each page it looks at is the one it then uses (R224). -/
def placeElem (s : State) (u : Walker) (acc : Access) (ty z n : Nat) (pg : Pages) (e : Elem) :
    State × Pages × Place :=
  if decide (6 ≤ ty ∧ ty ≤ 8) && acc == .read then
    match peekPage s u pg (codeAddr e / 2) with
    | (s1, none) => placeBytes s1 u acc ty z n pg e
    | (s1, some t) =>
      let q := usePage s1 u pg t
      if t.attr.fmt = 1 then placeCodes q.1 u ty n q.2 e
      else if t.base ≤ e.addr ∧ e.addr < t.base + t.attr.size then placeBytes q.1 u acc ty z n q.2 e
      else placeBytes s1 u acc ty z n pg e
  else placeBytes s u acc ty z n pg e

/-- Places elements in order. -/
def placeElems (s : State) (u : Walker) (acc : Access) (ty z n : Nat) (pg : Pages) :
    List Elem → State × List (Elem × Place)
  | [] => (s, [])
  | e :: r =>
    match placeElem s u acc ty z n pg e with
    | (s1, pg1, p) =>
      let rest := placeElems s1 u acc ty z n pg1 r
      (rest.1, (e, p) :: rest.2)

/-- R224: who translates for an operation: its core, its cluster for the commands of the engines there, or a unit of the
die that caches nothing. -/
def Op.walker (op : Op) : Walker :=
  ⟨op.ctx, op.die, match op.kind with
    | .drain => some (1000 + op.cluster)
    | .refill => some (1000 + op.cluster)
    | .scatterGrad => some (1000 + op.cluster)
    | .update => none
    | .tileCopy => none
    | .start => none
    | .result => none
    | _ => some (coreKey op.die op.core)⟩

/-- The element type under which an operation is placed: class mem reads `mode.type`; CBLD and the
instructions of the home slices are placed as plain words (R242, R257), CACHEOP as whole lines (R274). -/
def Op.type (op : Op) : Nat :=
  match op.kind with
  | .load => modeType op.mode
  | .store => modeType op.mode
  | .loadAcquire => modeType op.mode
  | .storeRelease => modeType op.mode
  | .prefetch => modeType op.mode
  | .copy => modeType op.mode
  | .planes => modeType op.mode
  | .cacheop => 16
  | _ => 3

/-- R242, R257: whether a scaled page, scale region and all, takes the format trap. -/
def OpKind.plainOnly : OpKind → Bool
  | .codebook => true
  | .atomic => true
  | .routine => true
  | .waitm => true
  | _ => false

/-- Places the untranslated elements of an operation. -/
def placeOp (s : State) (op : Op) : State × List (Elem × Place) :=
  let todo := (liveElems op.elems).filter fun e => op.mask.getLsbD e.lane
  let acc := if op.isWrite then Access.write else .read
  let disabled := recPub op.record && op.sample.isNone
  if disabled then (s, todo.map fun e => (e, .fault 6 e.addr))
  else
    let r := placeElems s op.walker acc op.type op.z op.n [] todo
    (r.1, r.2.map fun p => match p.2 with
      | .lines l fmt code => if op.kind.plainOnly && decide (fmt ≠ 0) then (p.1, .format p.1.addr)
        else (p.1, .lines l fmt code)
      | _ => p)

/-! ## Order in the unit (R45, R228, R239) -/

/-- The virtual lines that an element may reach: those of its byte address, and for a decoding load those of its codes, on
a CB4 page (R220). -/
def elemLines (op : Op) (e : Elem) : List Nat :=
  linesOf e.addr op.size ++
    (if op.kind == .load ∧ 6 ≤ op.type ∧ op.type ≤ 8 then linesOf (codeAddr e / 2) (storedCount op.type op.n) else [])

/-- The virtual lines of an operation: those translated, those not yet, and those that await replay. -/
def Op.vlines (op : Op) : List Nat :=
  op.lines.map OpLine.va ++
    (liveElems op.elems).flatMap fun e => if (op.mask ||| op.fmask).getLsbD e.lane then elemLines op e else []

/-- Whether an operation has accesses still to make. -/
def unfinished (s : State) (o : Nat) (op : Op) : Bool := !op.placed || op.faulted || outstanding s o

/-- The accesses of the memory access unit to global memory that no condition delays. -/
def OpKind.ordered (k : OpKind) : Bool :=
  k == .load || k == .store || k == .loadAcquire || k == .storeRelease || k == .codebook || k == .atomic || k == .routine ||
    k == .cacheop

/-- R44, R45: whether an earlier operation of the same warp is acquire-side and in issue order before one of
these slices. -/
def acquiresBefore (p : Op) (warp : Option Nat) (slices : BitVec 8) : Bool :=
  p.kind.acquires && decide (warp.isSome ∧ p.warp = warp ∧ p.before &&& slices ≠ 0)

/-- Whether an operation reaches one of these lines. -/
def Op.meets (p : Op) (ctx : Nat) (va pa : List Nat) : Bool :=
  (decide (p.ctx = ctx) && p.vlines.any fun l => l ∈ va) || p.lines.any fun l => l.pa ∈ pa

/-- R50, R228: whether an access must wait for one that its core has taken earlier, where one of the two writes: the
earlier one reaches its lines, or its lines are not known yet. One at a fault keeps back what meets it by virtual line
alone (notes/assumptions/68.md). -/
def conflictBefore (s : State) (o : Nat) (p op : Op) (va pa : List Nat) : Bool :=
  (op.isWrite || p.isWrite) && p.kind.ordered && unfinished s o p &&
    (p.meets op.ctx va pa || (!p.placed && !p.faulted && !p.resample))

/-- R45, R46: whether a release at a scope whose agents share the core's cache, which waits for no counter, must follow an
earlier access of its warp that has not been sent yet. -/
def releaseAfter (p op : Op) : Bool :=
  op.kind == .storeRelease && decide (op.warp.isSome ∧ p.warp = op.warp ∧ p.before &&& op.slices ≠ 0) &&
    p.kind.ordered && (!p.placed || p.faulted)

/-- R45, R50, R228, R239: whether an earlier operation keeps operation `o`, which reaches these lines, from its accesses:
one of the same warp, wherever the warp then was, or a conflicting one of its core. -/
def mustFollow (s : State) (o : Nat) (op : Op) (va pa : List Nat) : Bool :=
  s.ops.any fun p =>
    decide (p.1 < o) && !p.2.kind.engine &&
    (acquiresBefore p.2 op.warp op.slices || releaseAfter p.2 op ||
      (decide (op.warp.isSome ∧ p.2.warp = op.warp) && unfinished s p.1 p.2 && p.2.meets op.ctx va pa) ||
      (decide (p.2.die = op.die ∧ p.2.core = op.core) && conflictBefore s p.1 p.2 op va pa))

/-! ## The operand log (R238) -/

/-- R238: the lowest free entries of a warp's log. -/
def freeLog (w : Warp) : List Nat := (List.range 8).filter fun i => (tfind w.log i).isNone

/-- R238: a log entry of an operation that these lanes issued. CBLD, which acts once, has the index of its one
element in every lane. -/
def logEntry (w : Warp) (o : Nat) (op : Op) (lanes : BitVec 32) (cont : Bool) (next : Nat)
    (words : Nat → Nat → Word) : LogEntry :=
  let per := fun f : Nat → List Word => (List.range 32).flatMap fun l =>
    if (lanes ||| elemLanes op.elems).getLsbD l then f l else List.replicate (f l).length 0
  let first := if cont then 2 else 0
  { word := op.word, mask := lanes, fmask := 0
    ver := match op.sample with
      | some (_, v) => BitVec.ofNat 32 v
      | none => 0
    cont := cont, nextEntry := next, slices := op.slices, mode := op.mode, win := w.win, pc := op.pc
    record := op.record
    idx := per fun l => [match op.elems.find? fun e => decide (e.lane = l ∨ op.kind = .codebook) with
      | some e => BitVec.ofNat 32 e.idx
      | none => 0]
    data := per fun l => [words l first, words l (first + 1)], op := o }

/-- The log entries of an operation, the first apart. -/
def logOfOp (w : Warp) (o : Nat) : List (Nat × LogEntry) := w.log.filter fun e => e.2.op = o

/-- The number of an operation's first entry (fr.entry). -/
def entryOf (w : Warp) (o : Nat) : Nat :=
  ((logOfOp w o).filter fun e => !e.2.cont).head?.map Prod.fst |>.getD 0

def dropLog (s : State) (k o : Nat) : State :=
  modWarp s k fun w => { w with log := w.log.filter fun e => e.2.op ≠ o }

/-! ## Faults, address errors and format traps (R219, R239 to R241) -/

/-- R241: an asynchronous trap falls due in a slice; one that is already due stays, and the later one is dropped (DESIGN
CHOICE, notes/assumptions/83.md). -/
def Slice.due (x : Slice) (cause v : Nat) : Slice :=
  { x with asyncTrap := x.asyncTrap <|> some ⟨cause, BitVec.ofNat 32 v⟩ }

/-- R241: an asynchronous trap falls due in the slices of a gang, wherever their warp is. Unless operation `o`
was issued past a speculative fence, the trap stays when the warp rolls back (R58). -/
def lateTrap (s : State) (k o : Nat) (sl : BitVec 8) (cause v : Nat) : State :=
  let due := fun w : Warp => (bitsOf 8 sl).foldl (fun w i => modSliceW w i fun x => x.due cause v) w
  updateWarp s k fun w => if w.spec.any fun sp => decide (sp.since ≤ o) then due w else alsoAtFence due w

/-- R241: the format trap of the slices of a gang. -/
def formatTrap (s : State) (k o : Nat) (sl : BitVec 8) (va : Nat) : State := lateTrap s k o sl 17 va

/-- Posts a record of R240 for lanes of operation `o`. -/
def opRecord (s : State) (o : Nat) (op : Op) (kind entry va : Nat) (resume : Bool) (lanes : BitVec 32)
    (behind : Resumable) : State :=
  let copy := op.kind == .copy || op.kind == .planes
  let slot := if copy then op.dst else match op.warp.bind (tfind s.warps) with
    | some w => w.slot
    | none => 0
  postFor s op.ctx op.die
    (faultRecord kind (op.isWrite || op.kind.writesCluster || op.kind == .arrive) copy resume false entry op.core op.die slot va lanes op.word op.pc.toNat)
    behind (some o)

/-- The lowest of a list of addresses. -/
def lowest (l : List Nat) : Nat := l.min?.getD 0

/-- R219: the records of an operation's address errors, one of each kind, never resumed. -/
def postAddressErrors (s : State) (o : Nat) (op : Op) (kind : Nat) (l : List Elem) : State :=
  if l.isEmpty then s
  else opRecord s o op kind op.entry (lowest (l.map Elem.addr)) false (elemLanes l) .none

/-- What the placement of an operation's elements found. -/
structure Placed where
  ok : List (Elem × List OpLine)
  elems : List Elem
  faults : List (Elem × Nat × Nat)
  /-- Each at the byte address that its record names. -/
  misaligned : List Elem
  formats : List (Elem × Nat)
  deriving Repr, Inhabited

/-- Sorts the placements. -/
def sortPlaces (l : List (Elem × Place)) : Placed :=
  { ok := l.filterMap fun p => match p.2 with
      | .lines ls _ _ => some (p.1, ls)
      | _ => none
    elems := l.map fun p => match p.2 with
      | .lines _ fmt code => { p.1 with fmt := fmt, code := code }
      | .misaligned _ => { p.1 with st := .addrError }
      | .format _ => { p.1 with st := .trapped }
      | .fault .. => p.1
    faults := l.filterMap fun p => match p.2 with
      | .fault k va => some (p.1, k, va)
      | _ => none
    misaligned := l.filterMap fun p => match p.2 with
      | .misaligned va => some { p.1 with addr := va }
      | _ => none
    formats := l.filterMap fun p => match p.2 with
      | .format va => some (p.1, va)
      | _ => none }

/-- Puts the placed elements back among the others, lane by lane. -/
def mergeElems (old new : List Elem) : List Elem :=
  old.map fun e => (new.find? fun x => decide (x.lane = e.lane ∧ x.idx = e.idx)).getD e

/-- The lowest-addressed fault of a list. -/
def firstFault (l : List (Elem × Nat × Nat)) : Nat × Nat :=
  l.foldl (fun b f => if f.2.2 < b.2 then f.2 else b) ((l.head?.map Prod.snd).getD (1, 0))

/-! ## Requests to home slices (R253, R256) -/

/-- Sends a request of an operation to the home of a line. -/
def sendReq (s : State) (r : Req) : State :=
  let id := newId s
  { id.2 with reqs := tput id.2.reqs id.1 r }

/-- R415: where a line of another device lies there: as the operation has translated it, or as the apertures now say. -/
def farOf (s : State) (op : Op) (line : Nat) : Nat × Nat :=
  match op.lines.find? fun l => l.pa = lineOf line with
  | some l => l.far
  | none => apertureTarget (apertureEntry s line) line

def coreReq (s : State) (o : Nat) (op : Op) (kind : ReqKind) (line : Nat)
    (parts : List (Nat × List Byte × Nat)) : Req :=
  { (default : Req) with
    kind := kind, home := if isRemote line then farHome (farOf s op line) else homeOf s line
    src := coreKey op.die op.core, op := o, line := lineOf line
    parts := parts, collective := op.collective, far := farOf s op line, ctx := op.ctx }

/-- The physical address of a virtual one, by the lines of an operation. -/
def physOf (l : List OpLine) (va : Nat) : Nat :=
  match l.find? fun x => x.va = lineOf va with
  | some x => x.pa + va % 128
  | none => 0

/-- The part of an element's bytes on the line at `pl`, as a request carries it. -/
def linePart (ls : List OpLine) (size pl : Nat) (e : Elem) : Option (Nat × List Byte × Nat) :=
  let on := ((List.range size).filter fun i => lineOf (physOf ls (e.addr + i)) = pl)
  match on with
  | [] => none
  | i :: _ => some (physOf ls (e.addr + i), on.map fun j => lget e.data j 0, e.lane)

/-- R221: the requests of a store: one a line, its lanes in ascending order. -/
def sendStores (s : State) (o : Nat) (op : Op) (ok : List (Elem × List OpLine)) : State :=
  let ls := ok.flatMap Prod.snd
  (ls.map fun l => (l.pa, l.attr.red)).dedup.foldl (fun s l =>
    let parts := ok.filterMap fun p => linePart p.2 op.size l.1 p.1
    sendReq s { coreReq s o op (if l.2 = 0 then .store else .contribution) l.1 parts with code := l.2 }) s

/-! ## The first-level cache (R227) -/

/-- Whether a line may be held in first-level caches. -/
def cacheable (op : Op) (l : OpLine) : Bool := op.kind == .load && !recPub op.record && l.attr.mt == 0 && l.attr.red == 0

/-- R8, R416: the clock by which a die's copy of a line ages: that of the field of the slice that holds it. -/
def copyClock (s : State) (die pa : Nat) : Nat :=
  (lget s.islands (die * 3 + homeHash pa % 96 / 32) default).clock

/-- R227, R416: whether what was filled at a time may still be held. -/
def freshCopy (s : State) (die pa filled : Nat) : Bool :=
  !isRemote pa || decide (copyClock s die pa ≤ filled + 65536)

/-- A line that the operation's core holds. -/
def cached (s : State) (op : Op) (l : OpLine) : Option CacheLine :=
  (tget s.cores (coreKey op.die op.core) default).cache.find? fun x =>
    decide (x.pa = l.pa) && freshCopy s op.die x.pa x.filled

/-- Adds a line's bytes to what an operation has read. -/
def gotLine (s : State) (o pa : Nat) (b : List Byte) : State :=
  modOp s o fun op => { op with buf := mstoreRaw op.buf pa b }
where
  /-- Every byte read is listed, zero bytes too. -/
  mstoreRaw (m : Memory) (a : Nat) : List Byte → Memory
    | [] => m
    | x :: r => mstoreRaw (tput m a x) (a + 1) r

/-- R58: remembers a line that a warp loads past its fence. -/
def noteLoaded (s : State) (o : Nat) (op : Op) (pa : Nat) : State :=
  match op.warp with
  | none => s
  | some k => modWarp s k fun w => { w with spec := w.spec.map fun sp =>
      if sp.since ≤ o then { sp with loaded := addOnce sp.loaded pa } else sp }

/-- Whether the operation was issued past a fence that is still incomplete, of a scope of at least `scope`. -/
def pastFence (s : State) (o : Nat) (op : Op) (scope : Nat) : Bool :=
  match op.warp.bind (tfind s.warps) with
  | some w => w.spec.any fun sp => decide (sp.since ≤ o ∧ scope ≤ sp.scope)
  | none => false

/-- R221, R227: the requests of a load: each line from the first-level cache, where the unit chooses
so, or from its home. -/
def sendLoads (s : State) (o : Nat) (op : Op) (ls : List OpLine) : State :=
  ls.dedup.foldl (fun s l =>
    let s1 := noteLoaded s o op l.pa
    match cached s1 op l with
    | some x =>
      let d := draw s1
      if cacheable op l && !pastFence s o op 2 && decide (d.1 % 2 = 0) then gotLine d.2 o l.pa x.bytes
      else sendReq d.2 (coreReq d.2 o op .load l.pa [])
    | none => sendReq s1 (coreReq s1 o op .load l.pa [])) s

/-! ## Results of loads (R233, R91) -/

/-- The bytes that an operation read at virtual address `va`. -/
def gotBytes (op : Op) (va n : Nat) : List Byte :=
  (List.range n).map fun i => tget op.buf (physOf op.lines (va + i)) 0

/-- The value of the stored element `i` of a decoded element: its value and its scale. -/
def storedElem (op : Op) (e : Elem) (start i : Nat) : FVal × Nat :=
  let va := if e.fmt = 1 then (start + i) / 2 else start + i
  let b := leNat (gotBytes op va 1)
  let scale := leNat (gotBytes op (scaleAddr va e.fmt) 1)
  if e.fmt = 1 then
    let cbs := match op.lines.find? fun x => x.va = lineOf va with
      | some x => x.attr.cbs
      | none => 0
    (codeValue (tget op.cb cbs (List.replicate 16 0)) (b / 16 ^ ((start + i) % 2) % 16), scale)
  else (fOfInt (toSigned 8 b), scale)

/-- R91: one decoded element as its FP32 bits. -/
def decodeOne (op : Op) (e : Elem) (ty start i : Nat) : Nat × BitVec 6 :=
  let p := storedElem op e start i
  decodeScaled p.1 p.2 (precOf ty)

/-- R233: the registers that a lane's element gives, and its decoding flags. -/
def elemValue (op : Op) (e : Elem) : List (Word × BitVec 6) :=
  let ty := op.type
  if e.st ≠ .live then List.replicate op.n (0, 0)
  else
    match e.code with
    | some start =>
      (List.range op.n).map fun k =>
        let l := if ty = 8 then [decodeOne op e ty start (2 * k), decodeOne op e ty start (2 * k + 1)]
          else [decodeOne op e ty start k]
        (packElems ty (l.map Prod.fst), joinFlags (l.map Prod.snd))
    | none =>
      (List.range op.n).map fun k => (scalarWord ty (leNat (gotBytes op (e.addr + op.z * k) op.z)), 0)

/-- flags.oob, where an element is out of bounds. -/
def boundsFlags (l : List Elem) : BitVec 6 :=
  if l.any fun e => e.st = .outOfBounds then flagOOB else 0

end Sys2Proof.Machine
end

