-- ==== Sys2Proof/Machine/Sequencer.lean ====
section
/-!
DEFINITION. The meanings of the sequencer's instructions and events (spec/05_sequencer.md): control
flow, mode and window, special registers, templates, ceilings, barriers and waits, traps.
-/

namespace Sys2Proof.Machine

/-! ## Control flow (R138 to R144) -/

/-- R106: the target of a J-format instruction at `a`. -/
def jumpTarget (a : VAddr) (o : BitVec 24) : VAddr := a + 4 + (o.signExtend 57) * 4

/-- R138: whether any slice of a gang lacks room for `n` entries. -/
def stackFull (w : Warp) (sl : BitVec 8) (n : Nat) : Bool :=
  (bitsOf 8 sl).any fun i => decide (16 < (sliceAt w i).stack.length + n)

def Slice.push (sl : Slice) (k : EntryKind) (pc : VAddr) (m : BitVec 4) : Slice :=
  { sl with stack := ⟨k, pc, m⟩ :: sl.stack }

/-- A control-flow instruction: `f` changes each slice of the gang. -/
def flow (s : State) (k : Nat) (sl : BitVec 8) (f : Nat → Slice → Slice) : Eff :=
  .done ((bitsOf 8 sl).foldl (fun s i => modSlice s k i (f i)) s)

/-- R143: pops entries until a slice has active lanes, or ends it. -/
def popActive : List StackEntry → Slice → Slice
  | [], sl => { sl with stack := [], active := 0, ended := true }
  | e :: r, sl =>
    if e.mask = 0 then popActive r sl
    else
      { sl with
        stack := r, active := e.mask
        pc := if e.kind = .mark then e.pc + 4 else e.pc }

/-- R143: the lanes `x` of a slice end. -/
def exitLanes (sl : Slice) (x : BitVec 4) : Slice :=
  let st := sl.stack.map fun e => { e with mask := e.mask &&& ~~~x }
  let act := sl.active &&& ~~~x
  if act = 0 then popActive st { sl with stack := st, active := 0 }
  else { sl with stack := st, active := act, pc := sl.pc + 4 }

/-- R131, R143: a slice takes a popped entry's mask; one whose lanes have all ended is handled as under EXIT. -/
def resume (sl : Slice) (r : List StackEntry) (m : BitVec 4) (pc : VAddr) : Slice :=
  if m = 0 then popActive r { sl with stack := r, active := 0 }
  else { sl with stack := r, active := m, pc := pc }

/-- R140: the addresses and masks of JOIN and RET, or the stack trap's value. -/
def popJoin (sl : Slice) : Except Nat Slice :=
  match sl.stack with
  | [] => .error 2
  | e :: r =>
    match e.kind with
    | .call => .error 4
    | .pending => .ok (resume sl r e.mask e.pc)
    | .mark => .ok (resume sl r e.mask (sl.pc + 4))

def popRet (sl : Slice) : Except Nat Slice :=
  match sl.stack with
  | [] => .error 2
  | e :: r =>
    match e.kind with
    | .call => .ok (resume sl r e.mask e.pc)
    | _ => .error 3

def execNop (s : State) : Out :=
  issue { past := true } (passing fun s _ _ => s) s

def execBra (o : BitVec 24) (s : State) : Out :=
  issue { past := true } (fun s k sl => flow s k sl fun _ x => { x with pc := jumpTarget x.pc o }) s

/-- R141. -/
def execBrc (o : BitVec 24) (s : State) : Out :=
  issue { past := true } (fun s k sl =>
    let w := warpAt s k
    let parts := fun i => decide (guarded w i ≠ 0 ∧ guarded w i ≠ (sliceAt w i).active)
    if (bitsOf 8 sl).any fun i => parts i && decide (16 ≤ (sliceAt w i).stack.length) then
      .trap 2 1 false
    else
      flow s k sl fun i x =>
        let t := guarded w i
        if t = x.active then { x with pc := jumpTarget x.pc o }
        else if t = 0 then x.advance
        else { x.push .pending (jumpTarget x.pc o) t with active := x.active &&& ~~~t, pc := x.pc + 4 }) s

/-- R142: the lanes of slice `i` that go to the first target, and that target. -/
def firstTarget (s : State) (w : Warp) (i f : Nat) : Option (VAddr × BitVec 4) :=
  let y := bitsOf 4 (guarded w i)
  let tgt := fun j => srcReg s w f (4 * i + j)
  match y with
  | [] => none
  | j :: _ =>
    let hi := (sliceAt w i).pc.toNat / 2 ^ 32 * 2 ^ 32
    some (BitVec.ofNat 57 (hi + (tgt j).toNat), toBits 4 (y.filter fun l => decide (tgt l = tgt j)))

/-- R142: BRI, or CALLI with `call`. The trap of a misaligned target comes before the stack trap, and reports the
lowest such lane of the lowest slice (DESIGN CHOICE, notes/assumptions/62.md). -/
def indirect (call : Bool) (h : BitVec 2) (a : BitVec 7) (s : State) : Out :=
  issue { reads := [a.toNat], hold := h.toNat, a := a.toNat, past := true } (fun s k sl =>
    let w := warpAt s k
    let f := a.toNat
    let bad := (bitsOf 8 sl).findSome? fun i => (bitsOf 4 (guarded w i)).findSome? fun j =>
      let v := srcReg s w f (4 * i + j)
      if v.toNat % 4 ≠ 0 then some v else none
    let need := fun i => match firstTarget s w i f with
      | none => 0
      | some (_, g) =>
        (if (sliceAt w i).active &&& ~~~g = 0 then 0 else 1) + (if call then 1 else 0)
    match bad with
    | some v => .trap 8 v false
    | none =>
      if (bitsOf 8 sl).any fun i => decide (16 < (sliceAt w i).stack.length + need i) then .trap 2 1 false
      else
        flow s k sl fun i x =>
          match firstTarget s w i f with
          | none => x.advance
          | some (t, g) =>
            let rest := x.active &&& ~~~g
            let x1 := if rest = 0 then x else x.push .pending x.pc rest
            let x2 := if call then x1.push .call (x.pc + 4) g else x1
            { x2 with active := g, pc := t }) s

def execBri (h : BitVec 2) (a : BitVec 7) (s : State) : Out := indirect false h a s
def execCalli (h : BitVec 2) (a : BitVec 7) (s : State) : Out := indirect true h a s

/-- R140. -/
def execCall (o : BitVec 24) (s : State) : Out :=
  issue { past := true } (fun s k sl =>
    if stackFull (warpAt s k) sl 1 then .trap 2 1 false
    else flow s k sl fun _ x =>
      { x.push .call (x.pc + 4) x.active with pc := jumpTarget x.pc o }) s

/-- R140. -/
def execMark (o : BitVec 24) (s : State) : Out :=
  issue { past := true } (fun s k sl =>
    if stackFull (warpAt s k) sl 1 then .trap 2 1 false
    else flow s k sl fun _ x => { x.push .mark (jumpTarget x.pc o) x.active with pc := x.pc + 4 }) s

/-! ## Barriers (R163, R164) -/

def getBarrier (s : State) (w : Warp) (key : Nat) : Barrier :=
  if key < 16 then tget (groupAt s w.ident.group).bars key default
  else tget (tget s.cohorts (cohortOf s w) default).bars (key - 16) default

def setBarrier (s : State) (w : Warp) (key : Nat) (b : Barrier) : State :=
  if key < 16 then modGroup s w.ident.group fun g => { g with bars := tput g.bars key b }
  else modCohort s (cohortOf s w) fun c => { c with bars := tput c.bars (key - 16) b }

/-- The warps that a barrier gathers. -/
def barrierWarps (s : State) (w : Warp) (key : Nat) : List Nat :=
  if key < 16 then groupWarps s w.ident.group else cohortWarps s (cohortOf s w)

def barCounts (w : Warp) (key : Nat) : List Nat := tget w.barSlices key (List.replicate 8 0)

/-- R164: the slices of a warp that wait at a phase that ends go on. -/
def departWarp (w : Warp) (key : Nat) : Warp :=
  let w1 := { w with barArrived := w.barArrived &&& ~~~((1 : BitVec 32) <<< key) }
  (List.range 8).foldl (fun w i =>
    if (sliceAt w i).wait = .bar (decide (16 ≤ key)) (key % 16) ∧ lget (barCounts w key) i 0 = 0 then
      modSliceW w i fun x => { x.advance with wait := .ready }
    else w) w1

/-- R164: the phase of a barrier ends: its waiting slices go on, each departure an acquire (R46). -/
def endPhase (s : State) (w : Warp) (key : Nat) (b : Barrier) : State :=
  let s1 := setBarrier s w key ⟨!b.phase, none, 0⟩
  (barrierWarps s w key).foldl (fun s j =>
    let s' := updateWarp s j (alsoAtFence fun x => departWarp x key)
    if 16 ≤ key ∧ (tfind s'.warps j).isSome then acquireWarp s' j 2 else s') s1

/-- R164: a warp arrives, stating a count. -/
def arriveAt (s : State) (k : Nat) (key count : Nat) : State :=
  let w := warpAt s k
  let b := getBarrier s w key
  let n := b.latched.getD count
  let s1 := modWarp s k fun w => { w with barArrived := w.barArrived ||| (1 : BitVec 32) <<< key }
  let b1 : Barrier := ⟨b.phase, some n, b.arrived + 1⟩
  if n ≤ b.arrived + 1 then endPhase s1 w key b1 else setBarrier s1 w key b1

/-- Whether every slice of a warp that has not ended has executed a barrier since its last arrival. -/
def barReady (w : Warp) (key : Nat) : Bool :=
  (List.range 8).all fun i => (sliceAt w i).ended || decide (0 < lget (barCounts w key) i 0)

def useArrival (w : Warp) (key : Nat) : Warp :=
  { w with barSlices := tput w.barSlices key ((barCounts w key).map (· - 1)) }

/-- R163, R164: BAR (with `waits`) and BARA on barrier `key` with a stated count. Where the arrival states
another count than the latched one, the gang whose BAR completed it takes the trap; the warp's other slices go
on waiting (DESIGN CHOICE, notes/assumptions/63.md). -/
def barrierEff (waits : Bool) (key count : Nat) (s : State) (k : Nat) (sl : BitVec 8) : Eff :=
  let scope := if key < 16 then 1 else 2
  let limit := if key < 16 then 32 else 128
  if count = 0 ∨ limit < count then .trap 5 (BitVec.ofNat 32 count) false
  else if !released (warpAt s k) sl scope then .wait s .other
  else
    let s1 := modWarp s k fun w =>
      let l := (bitsOf 8 sl).foldl (fun l i => lmod l i (· + 1)) (barCounts w key)
      { w with barSlices := tput w.barSlices key l, barStated := tput w.barStated key (count, sl) }
    let go := fun s => modGang s k sl fun x =>
      if waits then { x with wait := .bar (decide (16 ≤ key)) (key % 16) } else x.advance
    if barReady (warpAt s1 k) key then
      let s2 := modWarp s1 k fun w => useArrival w key
      match (getBarrier s2 (warpAt s2 k) key).latched with
      | none => .done (arriveAt (go s2) k key count)
      | some n =>
        if n = count then .done (arriveAt (go s2) k key count)
        else .andTrap (arriveAt s2 k key count) 5 (BitVec.ofNat 32 n)
    else .done (go s1)

/-- R164: an arrival that was waiting only for slices that have now ended. It states the count stated last, and
another count than the latched one traps in the slices that stated it: in those that wait there at once, in
those that have gone on before their next issue (DESIGN CHOICE, notes/assumptions/63.md). -/
def lateArrival (s : State) (k key : Nat) : State :=
  let st := tget (warpAt s k).barStated key (1, 0)
  match (getBarrier s (warpAt s k) key).latched with
  | none => arriveAt s k key st.1
  | some n =>
    if n = st.1 then arriveAt s k key st.1
    else
      let w := warpAt s k
      let live := (bitsOf 8 st.2).filter fun i => !(sliceAt w i).ended
      let waits := toBits 8 (live.filter fun i =>
        decide ((sliceAt w i).wait = .bar (decide (16 ≤ key)) (key % 16)))
      let gone := toBits 8 live &&& ~~~waits
      let s1 := arriveAt (modGang s k waits fun x => { x with wait := .ready }) k key st.1
      let s2 := modGang s1 k gone fun x =>
        { x with asyncTrap := x.asyncTrap <|> some ⟨5, BitVec.ofNat 32 n⟩ }
      if waits = 0 then s2 else trapGang s2 k waits 5 (BitVec.ofNat 32 n) false

def barKey (c : BitVec 1) (n : BitVec 4) : Nat := if c = 1 then 16 + n.toNat else n.toNat

def execBar (c : BitVec 1) (n : BitVec 4) (i : BitVec 15) (s : State) : Out :=
  issue { drains := true } (barrierEff true (barKey c n) i.toNat) s
def execBara (c : BitVec 1) (n : BitVec 4) (i : BitVec 15) (s : State) : Out :=
  issue { drains := true } (barrierEff false (barKey c n) i.toNat) s
def execBarReg (h : BitVec 2) (a : BitVec 7) (c : BitVec 1) (n : BitVec 4) (s : State) : Out :=
  issue { reads := [a.toNat], hold := h.toNat, a := a.toNat, drains := true } (fun s k sl =>
    barrierEff true (barKey c n) (warpOperand s (warpAt s k) sl a.toNat).toNat s k sl) s
def execBaraReg (h : BitVec 2) (a : BitVec 7) (c : BitVec 1) (n : BitVec 4) (s : State) : Out :=
  issue { reads := [a.toNat], hold := h.toNat, a := a.toNat, drains := true } (fun s k sl =>
    barrierEff false (barKey c n) (warpOperand s (warpAt s k) sl a.toNat).toNat s k sl) s

/-! ## The rendezvous (R161) -/

def rendReady (w : Warp) (r : Nat) : Bool :=
  let x := tget w.rendSlices r 0
  (List.range 8).all fun i => (sliceAt w i).ended || x.getLsbD i

/-- R161: the warps of a workgroup that take part, with their numbers. -/
def rendWarps (s : State) (g : Nat) : List (Nat × Warp) :=
  (groupWarps s g).filterMap fun j => (anyWarp s j).bind fun w => if w.ended then none else some (j, w)

/-- R161: applies one donation of `n` granules. -/
def applyDonation (l : List (Nat × Warp)) (donor f n : Nat) : List (Nat × Warp) :=
  l.map fun p =>
    if p.1 = donor then (p.1, dropAbove p.2 (p.2.ceil - 8 * n))
    else if p.2.ident.f1 = f then
      let gain := min (8 * n) (1024 - p.2.ceil)
      (p.1, { zeroPrivate p.2 p.2.ceil (p.2.ceil + gain) with ceil := p.2.ceil + gain })
    else p

/-- R161: all pending donations, in donor order and then recipient order. -/
def applyDonations (l : List (Nat × Warp)) : List (Nat × Warp) :=
  let all := l.flatMap fun p => p.2.donations.map fun d => (p.1, d.1, d.2)
  (all.foldl (fun l d => applyDonation l d.1 d.2.1 d.2.2) l).map fun p =>
    (p.1, { p.2 with donations := [] })

/-- R161, R112: the slices of a warp leave rendezvous `r`; the REND counts against the latch lifetimes of those
that `counted` does not name. -/
def leaveRend (w : Warp) (r : Nat) (counted : BitVec 8) : Warp :=
  let w1 := { w with
    rendArrived := w.rendArrived &&& ~~~((1 : BitVec 16) <<< r), rendSlices := tdel w.rendSlices r }
  (List.range 8).foldl (fun w i =>
    if (sliceAt w i).wait = .rend r then
      let w2 := modSliceW w i fun x => { x.advance with wait := .ready }
      if counted.getLsbD i then w2 else ageLatches w2 ((1 : BitVec 8) <<< i)
    else w) w1

/-- R157, R161: completes rendezvous `r` of a workgroup if every warp has arrived and the core grants what it
needs more than it holds, in its turn; gang `sl` of warp `k` issues the REND now. -/
def tryRend (s : State) (g r k : Nat) (sl : BitVec 8) : Bool × State :=
  let l := rendWarps s g
  let gr := groupAt s g
  if !(l.all fun p => p.2.rendArrived.getLsbD r) then (false, s)
  else
    let l' := applyDonations l
    let res := fun p : Nat × Warp => (tfind s.warps p.1).isSome
    let held := fun l : List (Nat × Warp) => ((l.filter res).map fun p => (privGranules p.2).length).sum
    let ask := if held l' ≤ held l then (true, s)
      else askCore s gr.die gr.core ⟨g, 0, 2, held l' - held l, r⟩
    if !ask.1 then ask
    else (true, l'.foldl (fun s p =>
      updateWarp s p.1 fun _ => alsoAtFence (fun w => leaveRend w r (if p.1 = k then sl else 0)) p.2) ask.2)

def execRend (n : BitVec 4) (s : State) : Out :=
  issue { drains := true } (fun s k sl =>
    let r := n.toNat
    let s1 := modWarp s k fun w =>
      { w with rendSlices := tput w.rendSlices r (tget w.rendSlices r 0 ||| sl) }
    let s2 := modGang s1 k sl fun x => { x with wait := .rend r }
    let s3 := if rendReady (warpAt s2 k) r then
        modWarp s2 k fun w => { w with rendArrived := w.rendArrived ||| (1 : BitVec 16) <<< r }
      else s2
    match tryRend s3 (warpAt s3 k).ident.group r k sl with
    | (true, s4) => .done s4
    | (false, s4) => .wait s4 (.rend r)) s

/-- R161. An unknown recipient is looked for before the amount (DESIGN CHOICE, notes/assumptions/80.md). -/
def execDonate (h : BitVec 2) (a : BitVec 7) (n : BitVec 8) (s : State) : Out :=
  issue { reads := [a.toNat], hold := h.toNat, a := a.toNat, drains := true } (fun s k sl =>
    let w := warpAt s k
    let f := (warpOperand s w sl a.toNat).toNat
    let total := 8 * (n.toNat + (w.donations.map Prod.snd).sum)
    if f = w.ident.f1 then passing (fun s _ _ => s) s k sl
    else if f ∉ (groupAt s w.ident.group).names then .trap 4 4 false
    else if w.ceil < total + 8 ∨ w.ceil ≤ total + w.win then .trap 4 3 false
    else passing (fun s k _ => modWarp s k fun w =>
      { w with donations := tput w.donations f (tget w.donations f 0 + n.toNat) }) s k sl) s

/-! ## The end of lanes and warps (R143) -/

/-- What the end of slices settles: arrivals that waited only for them, and the end of the warp. -/
def settleEnds (s : State) (k : Nat) : State :=
  let w := warpAt s k
  if (List.range 8).all fun i => (sliceAt w i).ended then
    let s1 := modWarp s k fun w => { w with ended := true, donations := [] }
    reap s1 k
  else
    let s1 := w.barSlices.foldl (fun s e =>
      if barReady (warpAt s k) e.1 then
        lateArrival (modWarp s k fun w => useArrival w e.1) k e.1
      else s) s
    w.rendSlices.foldl (fun s e =>
      if rendReady (warpAt s k) e.1 then
        modWarp s k fun w => { w with rendArrived := w.rendArrived ||| (1 : BitVec 16) <<< e.1 }
      else s) s1

def execExit (s : State) : Out :=
  issue { drains := true } (fun s k sl =>
    let w := warpAt s k
    let s1 := (bitsOf 8 sl).foldl (fun s i => modSlice s k i fun x => exitLanes x (guarded w i)) s
    .done (settleEnds (modWarp s1 k fun w => flushWarpQueue w sl) k)) s

/-! ## JOIN and RET (R140, R168) -/

/-- R140, R138: pops in every slice of the gang, or traps before any effect. A slice that offends traps with its
own value; the others take that of the lowest slice that does (DESIGN CHOICE, notes/assumptions/62.md). A mark
that JOIN pops is a point of reconvergence (R44). -/
def popping (joins : Bool) (pop : Slice → Except Nat Slice) (s : State) (k : Nat) (sl : BitVec 8) : Eff :=
  let w := warpAt s k
  let bad := fun i => match pop (sliceAt w i) with
    | .error v => some v
    | .ok _ => none
  match (bitsOf 8 sl).findSome? bad with
  | some v => .trapEach 2 ((List.range 8).map fun i => BitVec.ofNat 32 ((bad i).getD v))
  | none =>
    let s1 := (bitsOf 8 sl).foldl (fun s i => modSlice s k i fun x => (pop x).toOption.getD x) s
    let marks := toBits 8 ((bitsOf 8 sl).filter fun i =>
      (sliceAt w i).stack.head?.any fun e => decide (e.kind = .mark))
    let s2 := if joins && marks != 0 then reconverge s1 k marks else s1
    .done (if (bitsOf 8 sl).any fun i => (sliceAt (warpAt s2 k) i).ended then settleEnds s2 k else s2)

def execJoin (s : State) : Out := issue { past := true } (popping true popJoin) s
def execRet (s : State) : Out := issue { past := true } (popping false popRet) s

/-! ## REGANG (R144) -/

/-- A warp's core as it translates addresses. -/
def Warp.walker (w : Warp) : Walker := ⟨w.ident.ctx, w.die, some w.coreOf⟩

/-- Whether the word at a program counter is a REGANG, as the translations of a warp's core show it now; what another
device holds does not show. -/
def showsRegang (s : State) (w : Warp) (pc : VAddr) : Bool :=
  match (findTrans s w.walker pc.toNat .fetch).2 with
  | .ok t => !isRemote t.pa && decide (mword s.mem t.pa = 0x0A000000)
  | .error _ => false

/-- R144: whether a slice's pc is at a REGANG word: at one it has executed, or at one that memory shows. -/
def atRegang (s : State) (w : Warp) (i : Nat) : Bool :=
  let x := sliceAt w i
  decide (x.regangAt = some x.pc) || showsRegang s w x.pc

/-- R144. The slices of other gangs that a completing REGANG moves on are not drained, and their latch lifetimes
do not count it (DESIGN CHOICE, notes/assumptions/64.md). -/
def execRegang (s : State) : Out :=
  issue { drains := true, past := true } (fun s k sl =>
    let s1 := modGang s k sl fun x => { x with regangAt := some x.pc }
    let w := warpAt s1 k
    let live := (List.range 8).filter fun i => !(sliceAt w i).ended
    if live.all (atRegang s1 w) then
      let all := toBits 8 live
      .done (reconverge (modWarp (modGang s1 k all fun x => { x.advance with regangAt := none }) k
        fun w => regroup w all) k all)
    else .done s1) s

/-! ## Mode and window (R145 to R147) -/

def execMode (h : BitVec 2) (a : BitVec 7) (s : State) : Out :=
  issue { reads := [a.toNat], hold := h.toNat, a := a.toNat, past := true } (fun s k sl =>
    let w := warpAt s k
    flow s k sl fun i x =>
      { x.advance with mode := (x.mode &&& 0xFF800000) ||| (sliceOperand s w a.toNat i &&& 0x007FFFFF) }) s

/-- R114: where each mode field lies: lowest bit and width, by MODEI's sub3. -/
def modeField (f : Nat) : Nat × Nat :=
  match f with
  | 0 => (0, 4)
  | 1 => (4, 4)
  | 2 => (8, 3)
  | 3 => (11, 1)
  | 4 => (12, 1)
  | 5 => (13, 3)
  | 6 => (16, 4)
  | _ => (20, 3)

/-- A word with `n` bits from `lo` on replaced. -/
def putField (m : Word) (lo n : Nat) (v : Nat) : Word :=
  let mask : Word := BitVec.ofNat 32 (2 ^ n - 1) <<< lo
  (m &&& ~~~mask) ||| (BitVec.ofNat 32 (v % 2 ^ n) <<< lo)

def execModei (v : BitVec 12) (f : BitVec 3) (s : State) : Out :=
  issue { past := true } (fun s k sl =>
    let p := modeField f.toNat
    flow s k sl fun _ x => { x.advance with mode := putField x.mode p.1 p.2 v.toNat }) s

/-- R147: a new window base, or the register-range trap. -/
def setWindow (s : State) (k : Nat) (sl : BitVec 8) (v : Int) : Eff :=
  if v < 0 ∨ v % 4 ≠ 0 ∨ ((warpAt s k).ceil : Int) ≤ v then .trap 1 (BitVec.ofInt 32 v) false
  else passing (fun s k _ => modWarp s k fun w => { w with win := v.toNat }) s k sl

def execWin (h : BitVec 2) (a : BitVec 7) (s : State) : Out :=
  issue { reads := [a.toNat], hold := h.toNat, a := a.toNat } (fun s k sl =>
    setWindow s k sl (warpOperand s (warpAt s k) sl a.toNat).toNat) s
def execWini (i : BitVec 15) (s : State) : Out :=
  issue {} (fun s k sl => setWindow s k sl ((warpAt s k).win + i.toInt)) s

/-! ## Special registers (R148 to R150, R310) -/

/-- R149: s.budget. -/
def budgetOf (s : State) (w : Warp) : Word :=
  match tfind s.graphs w.ident.graph with
  | some g => if g.background then BitVec.ofNat 32 (lget g.left w.die 0) else 0xFFFFFFFF
  | none => 0xFFFFFFFF

/-- R149, R310: the value of a selector, as lane `l` of slice `i` sees it. -/
def special (s : State) (k : Nat) (w : Warp) (sel l : Nat) : Word :=
  let x := sliceAt w (l / 4)
  let wid := w.ident.wid.toNat + l
  let nat := BitVec.ofNat 32
  let vec := (handlerOf s w.ident.ctx).toNat
  match sel with
  | 0x000 => nat wid
  | 0x001 => nat (wid / 2 ^ 32)
  | 0x002 => nat l
  | 0x003 => nat (l / 4)
  | 0x004 => nat w.slot
  | 0x005 => nat w.port
  | 0x006 => nat w.core
  | 0x007 => nat w.die
  | 0x008 => nat s.device
  | 0x009 => nat w.ident.prio
  | 0x010 => nat w.win
  | 0x011 => nat w.ceil
  | 0x012 => nat (tmplWord s w)
  | 0x013 => nat x.active.toNat
  | 0x014 => nat (predByte w l).toNat
  | 0x015 => nat x.stack.length
  | 0x020 => nat w.flags.toNat
  | 0x030 => nat (clockOf s w.die w.core)
  | 0x031 => x.clockHi
  | 0x032 => budgetOf s w
  | 0x040 => nat w.ident.args.toNat
  | 0x041 => nat (w.ident.args.toNat / 2 ^ 32)
  | 0x050 => x.tcause
  | 0x051 => x.tval
  | 0x052 => nat x.tpc.toNat
  | 0x053 => nat (x.tpc.toNat / 2 ^ 32)
  | 0x054 => x.tmode
  | 0x055 => nat x.tmask.toNat
  | 0x056 => nat vec
  | 0x057 => nat (vec / 2 ^ 32)
  | 0x800 => nat w.tiles.toNat
  | 0x801 =>
    let c := tget s.clusters w.clusterOf default
    nat (c.mx.filter fun e => e.2.warp = k).length
  | n => if 0x808 ≤ n ∧ n ≤ 0x80F then tget w.strides (n - 0x808) 0 else 0

/-- Queues one value a lane for register `d` of the lanes that are active. -/
def writeLanes (s : State) (k : Nat) (sl : BitVec 8) (d lat : Nat) (fl : BitVec 6) (v : Nat → Word) :
    State :=
  let w := warpAt s k
  modWarp s k fun acc => (bitsOf 8 sl).foldl (fun acc i =>
    pushResult acc i (.reg (w.win + d)) (guarded w i) ((List.range 4).map fun j => v (4 * i + j)) fl lat) acc

def execRds (d : BitVec 7) (sel : BitVec 12) (s : State) : Out :=
  issue { writes := [d.toNat], past := true } (passing fun s k sl =>
    writeLanes s k sl d.toNat 2 0 (special s k (warpAt s k) sel.toNat)) s

/-- R149: s.clock.lo, whose read latches the high half for the slice. -/
def execRdsClockLo (d : BitVec 7) (s : State) : Out :=
  issue { writes := [d.toNat], past := true } (passing fun s k sl =>
    let w := warpAt s k
    let hi := BitVec.ofNat 32 (clockOf s w.die w.core / 2 ^ 32)
    writeLanes (modGang s k sl fun x => { x with clockHi := hi }) k sl d.toNat 2 0
      (special s k w 0x030)) s

/-- R149: WRS to s.pred and to the slice registers. -/
def writeSpecial (sel : Nat) (f : Nat) (s : State) (k : Nat) (sl : BitVec 8) : State :=
  let w := warpAt s k
  let per := fun g : Slice → Word → Slice =>
    (bitsOf 8 sl).foldl (fun s i => modSlice s k i fun x => g x (sliceOperand s w f i)) s
  match sel with
  | 0x014 =>
    modWarp s k fun acc => (gangLanes w sl).foldl (fun acc l =>
      { acc with preds := tput acc.preds l ((srcReg s w f l).setWidth 8 &&& 0xFE) }) acc
  | 0x052 => per fun x v => { x with tpc := BitVec.ofNat 57 (x.tpc.toNat / 2 ^ 32 * 2 ^ 32 + v.toNat) }
  | 0x053 => per fun x v => { x with tpc := BitVec.ofNat 57 (x.tpc.toNat % 2 ^ 32 + v.toNat * 2 ^ 32) }
  | 0x054 => per fun x v => { x with tmode := v &&& 0x007FFFFF }
  | _ => per fun x v => { x with tmask := v.setWidth 4 }

def execWrs (d : BitVec 7) (sel : BitVec 12) (s : State) : Out :=
  issue { reads := [d.toNat] } (passing fun s k sl => writeSpecial sel.toNat d.toNat s k sl) s
def execWrsWin (d : BitVec 7) (s : State) : Out :=
  issue { reads := [d.toNat] } (fun s k sl =>
    setWindow s k sl (warpOperand s (warpAt s k) sl d.toNat).toNat) s
def execWrsFlags (d : BitVec 7) (s : State) : Out :=
  issue { reads := [d.toNat] } (passing fun s k sl =>
    let v := warpOperand s (warpAt s k) sl d.toNat
    modWarp s k fun w => { w with flags := v.setWidth 6 }) s

/-- R98: the generator that a seed gives lane `l`. -/
def seedLane (v : Word) (l : Nat) : Word :=
  let g := v ^^^ BitVec.ofNat 32 ((l + 1) * 0x9E3779B1)
  if g = 0 then 1 else g

def execWrsSrseed (d : BitVec 7) (s : State) : Out :=
  issue { reads := [d.toNat] } (passing fun s k sl =>
    let w := warpAt s k
    modWarp s k fun acc => (gangLanes w sl).foldl (fun acc l =>
      { acc with gen := tput acc.gen l (seedLane (srcReg s w d.toNat l) l) }) acc) s

/-! ## Templates (R151 to R158) -/

/-- R98: the generator that a warp starts with. -/
def startGen (wid : Nat) : Word :=
  let g := BitVec.ofNat 32 wid ^^^ BitVec.ofNat 32 (wid / 2 ^ 32) ^^^ 0x6A09E667
  if g = 0 then 1 else g

/-- The image that a warp's present state makes (R154). -/
def imageFrom (s : State) (w : Warp) (pc : VAddr) (level addr : Nat) (parent : Option Nat) : Image :=
  { addr := addr, level := level, parent := parent
    graph := w.ident.graph, node := w.ident.node, ctx := w.ident.ctx
    modes := w.slices.map Slice.mode, win := w.win, ceil := w.ceil, preds := w.preds, tiles := w.tiles
    strides := w.strides, recs := w.recs
    map := if parent.isNone then BitVec.allOnes 1024 else w.priv
    regs := w.regs, pc := pc + 4, group := w.ident.group, cohort := cohortOf s w }

/-- What the warp takes from an image when it is stamped, or joins a nested template (R153, R158). -/
def takeImage (w : Warp) (k : Nat) (im : Image) : Warp :=
  { w with
    image := some k, priv := 0, regs := [], win := im.win, ceil := im.ceil, preds := im.preds
    tiles := im.tiles, strides := im.strides, recs := im.recs
    slices := (List.range 8).map fun i => { sliceAt w i with mode := lget im.modes i 0 } }

/-- R152: the state that FREEZE needs. -/
def freezeState (w : Warp) (sl : BitVec 8) : Bool :=
  sl == 255 && w.slices.all fun x => x.active == 15 && x.stack.isEmpty

/-- Every counter of a warp is zero. -/
def countersZero (w : Warp) : Bool :=
  let c := w.counters
  c.ld.isEmpty && c.st.isEmpty && c.cl.isEmpty && c.at'.isEmpty && c.q.isEmpty

/-- R153: the end of a root template warp whose image has been written. -/
def finishRoot (s : State) (k : Nat) (im : Image) (u : Nat) : State :=
  let id := newId s
  let s1 := { id.2 with
    images := tput id.2.images id.1 im
    graphs := tmod id.2.graphs im.graph fun g => { g with nodes := tmod g.nodes im.node fun n =>
      { n with units := tput n.units u (.frozen id.1) } } }
  settleEnds (modWarp s1 k fun w => { w with
    self := false, slices := w.slices.map fun x => { x with active := 0, ended := true } }) k

/-- R153: a root freeze. -/
def rootFreeze (s : State) (k : Nat) (sl : BitVec 8) : Eff :=
  let w := warpAt s k
  let id := w.ident
  let u := id.wid.toNat / 2 ^ id.unitShift
  let addr := id.save + u * (2048 + 128 * id.ceil0)
  let im := imageFrom s w (gangPc w sl) id.tlevel addr none
  let prior := (opsOf s k).find? fun p => p.2.kind = .image
  if id.ceil0 < w.ceil then .trap 3 3 false
  else
    match prior with
    | some (o, op) =>
      if op.faulted then .wait s .freeze
      else if 0 < op.done then .andTrap (endOp s o) 3 6
      else write w im u addr op.z (endOp s o)
    | none => write w im u addr 0 s
where
  /-- Writes the image from byte `from'` on: on replay, the lines that remain. -/
  write (w : Warp) (im : Image) (u addr from' : Nat) (s : State) : Eff :=
    match vwrite s w.ident.ctx w.die (addr + from') ((imageBytes im 0).drop from') with
    | (s1, none) => .done (finishRoot s1 k im u)
    | (s1, some (kind, va)) =>
      let o := newId s1
      let op : Op := { (default : Op) with
        kind := .image, die := w.die, core := w.core, ctx := w.ident.ctx, warp := some k, slices := sl
        z := va - addr, faulted := true }
      .wait (postRecord { o.2 with ops := tput o.2.ops o.1 op } w.ident.ctx w.die
        (faultRecord kind true false true false 0 w.core w.die w.slot (lineOf va) 0 (fetchedWord s)
          (gangPc w sl).toNat) (.image k)) .freeze

/-- The nested template of a level-L unit, if it exists. -/
def nestedOf (s : State) (w : Warp) (lvl : Nat) : Option Nat :=
  if lvl = 2 then (groupAt s w.ident.group).nested
  else (tget s.cohorts (cohortOf s w) default).nested

/-- R158: the cores whose template stores a nested template of a level takes a slot in. -/
def nestedCores (s : State) (w : Warp) (lvl : Nat) : List Nat :=
  if lvl = 2 then [w.coreOf]
  else ((s.groups.filter fun g => g.2.cohort = cohortOf s w).map fun g => coreKey g.2.die g.2.core).dedup

/-- R158: whether a warp is the freezer of its level-L unit. -/
def isFreezer (w : Warp) (lvl : Nat) : Bool := w.ident.f1 == 0 && (lvl == 2 || w.core % 4 == 0)

/-- R158: whether the freezer of a unit can still come. -/
def freezerAlive (s : State) (w : Warp) (lvl : Nat) : Bool :=
  let l := if lvl = 2 then groupWarps s w.ident.group else cohortWarps s (cohortOf s w)
  l.any fun j => match anyWarp s j with
    | some x => isFreezer x lvl && !x.ended
    | none => false

/-- R158: a nested freeze. -/
def nestedFreeze (s : State) (k : Nat) (sl : BitVec 8) (lvl : Nat) : Eff :=
  let w := warpAt s k
  match nestedOf s w lvl with
  | some t =>
    match tfind s.images t with
    | some im => passing (fun s k _ =>
        trimImages (modCore (modWarp s k fun w => takeImage w t im) w.coreOf fun x =>
          { x with images := addOnce x.images t }) w.coreOf) s k sl
    | none => .wait s .freeze
  | none =>
    if isFreezer w lvl then
      let cores := nestedCores s w lvl
      if cores.any fun c => decide (8 ≤ (tget s.cores c default).images.length) then .trap 3 4 false
      else
        let id := newId s
        let im := imageFrom s w (gangPc w sl) lvl 0 w.image
        let s1 := { id.2 with images := tput id.2.images id.1 im }
        let s2 := cores.foldl (fun s c => modCore s c fun x => { x with images := x.images ++ [id.1] }) s1
        let s3 := if lvl = 2 then modGroup s2 w.ident.group fun g => { g with nested := some id.1 }
          else modCohort s2 (cohortOf s w) fun c => { c with nested := some id.1 }
        passing (fun s k _ => modWarp s k fun w =>
          { w with image := some id.1, priv := 0, regs := [] }) s3 k sl
    else if freezerAlive s w lvl then .wait s .freeze
    else .trap 3 5 false

/-- R152. Its drain makes the writes of BREC, BSTR and BTPS too (R133), so the image holds them. -/
def execFreeze (l : BitVec 3) (s : State) : Out :=
  issue { drains := true } (fun s0 k sl =>
    let s := modWarp s0 k fun w => flushWarpQueue w sl
    let w := warpAt s k
    let lvl := l.toNat
    let inner := (imageOf s w).map Image.level
    if !freezeState w sl then .trap 3 1 false
    else if !countersZero w then .wait s .freeze
    else if w.self then
      if lvl = w.ident.tlevel then rootFreeze s k sl else .trap 3 2 false
    else
      match inner with
      | some n => if lvl ≤ 3 ∧ lvl < n then nestedFreeze s k sl lvl else .trap 3 2 false
      | none => .trap 3 2 false) s

/-! ## Ceilings (R159, R160) -/

def growEff (n : Nat) (s : State) (k : Nat) (sl : BitVec 8) : Eff :=
  if 1024 < (warpAt s k).ceil + n then .trap 4 1 false
  else
    match askGranules s k sl 1 (n / 8) with
    | (false, s1) => .wait s1 .grow
    | (true, s1) => passing (fun s k _ => modWarp s k fun w =>
        { zeroPrivate w w.ceil (w.ceil + n) with ceil := w.ceil + n }) s1 k sl

def shrinkEff (n : Nat) (s : State) (k : Nat) (sl : BitVec 8) : Eff :=
  let w := warpAt s k
  if w.ceil < n + 8 ∨ w.ceil ≤ n + w.win then .trap 4 2 false
  else if w.marks.any fun m => decide (w.ceil - n ≤ m.reg) then .wait s .other
  else passing (fun s k _ => modWarp s k fun w => dropAbove w (w.ceil - n)) s k sl

def execGrow (i : BitVec 15) (s : State) : Out := issue { drains := true } (growEff i.toNat) s
def execShrink (i : BitVec 15) (s : State) : Out := issue { drains := true } (shrinkEff i.toNat) s

/-- R159: an amount from the warp operand. -/
def amountEff (f : Nat) (eff : Nat → State → Nat → BitVec 8 → Eff) (s : State) (k : Nat)
    (sl : BitVec 8) : Eff :=
  let n := (warpOperand s (warpAt s k) sl f).toNat
  if n = 0 ∨ n % 8 ≠ 0 then .trap 4 5 false else eff n s k sl

def execGrowReg (h : BitVec 2) (a : BitVec 7) (s : State) : Out :=
  issue { reads := [a.toNat], hold := h.toNat, a := a.toNat, drains := true } (amountEff a.toNat growEff) s
def execShrinkReg (h : BitVec 2) (a : BitVec 7) (s : State) : Out :=
  issue { reads := [a.toNat], hold := h.toNat, a := a.toNat, drains := true }
    (amountEff a.toNat shrinkEff) s

/-! ## Waits (R165) -/

def execWaitc (h : BitVec 2) (a : BitVec 7) (p : BitVec 3) (s : State) : Out :=
  issue { reads := [a.toNat], hold := h.toNat, a := a.toNat, drains := true, past := true }
    (fun s k sl =>
      let w := warpAt s k
      if countOf w (Path.ofCode p.toNat) ≤ (warpOperand s w sl a.toNat).toNat then
        passing (fun s _ _ => s) s k sl
      else .wait s .waitc) s

/-- R243: whether an address can name a barrier object. -/
def boAddress (a : Nat) : Bool := decide (a % 16 = 0 ∧ a < 0x800000)

def execWaitp (h : BitVec 2) (a : BitVec 7) (p : BitVec 1) (s : State) : Out :=
  issue { reads := [a.toNat], hold := h.toNat, a := a.toNat, drains := true } (fun s k sl =>
    let w := warpAt s k
    let bo := (warpOperand s w sl a.toNat).toNat
    let st := (tget s.clusters w.clusterOf default).store
    if !boAddress bo then .trap 9 (BitVec.ofNat 32 bo) false
    else if mnat st (bo + 8) 4 % 2 = p.toNat then passing (fun s k _ => acquireWarp s k 2) s k sl
    else .wait s .waitp) s

/-- R165, R387: YIELD offers the warp for pre-emption where a held warp of equal or higher priority
could take its place and the save pool has room for it; whether the machine takes the offer is its own
choice. -/
def execYield (s : State) : Out :=
  issue { drains := true } (passing fun s k _ =>
    let w := warpAt s k
    let d := draw s
    if (s.saved.any fun p => p.2.restorable && decide (w.ident.prio ≤ p.2.rest.ident.prio ∧
        p.2.rest.die = w.die)) && ((tfind s.contexts w.ident.ctx).bind fun cx =>
          poolPlace cx (144 * 1024) 1024).isSome && decide (d.1 % 2 = 1) then
      modWarp d.2 k fun w => { w with stopping := true }
    else d.2) s

def execSleep (i : BitVec 15) (s : State) : Out :=
  issue { drains := true } (fun s k sl =>
    if i = 0 then passing (fun s _ _ => s) s k sl
    else
      let w := warpAt s k
      .done (modGang (modWarp s k fun w => flushWarpQueue w sl) k sl fun x =>
        { x with wait := .sleep (clockOf s w.die w.core + 16 * i.toNat) })) s

/-- R165: the slices of a gang whose common sleep ends go on together. -/
def wakeSleepers (w : Warp) (i due : Nat) : Warp :=
  (List.range 8).foldl (fun w j =>
    if (sliceAt w j).gang = (sliceAt w i).gang ∧ (sliceAt w j).wait = .sleep due then
      modSliceW w j fun x => { x.advance with wait := .ready }
    else w) w

/-- R165, R388: the time of a sleeping slice has run; a saved one's runs by the clock of the field that it left. -/
def execSleepExpiry (s : State) : Out :=
  let k := subject s 0
  let i := subject s 1
  match tfind s.warps k, tfind s.saved k with
  | some w, _ =>
    match (sliceAt w i).wait with
    | .sleep due => .next (if due ≤ clockOf s w.die w.core then modWarp s k (alsoAtFence fun w => wakeSleepers w i due) else s)
    | _ => .next s
  | none, some sv =>
    match (sliceAt (readSave s sv).2 i).wait with
    | .sleep due =>
      .next (if due ≤ clockOf s sv.rest.die sv.rest.core then
          makeRestorable (updateWarp s k fun w => wakeSleepers w i due) k
        else s)
    | _ => .next s
  | none, none => .next s

/-! ## Traps (R166, R167, R241) -/

def execTrap (i : BitVec 15) (s : State) : Out :=
  issue { drains := true } (fun _ _ _ => .trap 7 (i.setWidth 32) true) s

/-- R167. With s.tmask = 0 the slice leaves its handler with mode := s.tmode, and the lanes that end are those
active in the handler (DESIGN CHOICE, notes/assumptions/60.md). -/
def execEret (s : State) : Out :=
  issue { drains := true, past := true } (fun s k sl =>
    let w := warpAt s k
    if (bitsOf 8 sl).any fun i => !(sliceAt w i).handler then .trap 0 (fetchedWord s) false
    else
      let s1 := modGang s k sl fun x =>
        if x.tmask = 0 then exitLanes { x with mode := x.tmode, handler := false } x.active
        else leaveHandler x
      .done (settleEnds s1 k)) s

/-- R133: the results of a slice whose counts have run out are written. -/
def execResultQueueWrite (s : State) : Out :=
  .next (modWarp s (subject s 0) fun w => writeDue w (subject s 1))

/-- R112: the entries of a slice whose lifetimes have run out lose their values. -/
def execLatchExpiry (s : State) : Out :=
  .next (modWarp s (subject s 0) fun w => expireLatches w (subject s 1))

/-- R241: whether a slice enters its asynchronous trap before its next issue. -/
def asyncDue (x : Slice) : Bool := x.asyncTrap.isSome && !x.handler && !x.ended && !latched x

/-- R241: the slices of a gang whose asynchronous trap is due enter it, after the gang's drain, in one
issue opportunity. -/
def execFormatTrapEntry (s : State) : Out :=
  match s.issuer with
  | .gang k sl =>
    let w := warpAt s k
    if (bitsOf 8 sl).any fun i => asyncDue (sliceAt w i) then
      let s1 := modWarp (drainGang s k sl) k fun w => flushWarpQueue w sl
      let vec := handlerOf s1 w.ident.ctx
      let s2 := modGang s1 k sl fun x =>
        match asyncDue x, x.asyncTrap with
        | true, some t => { enterHandler x t.cause t.value x.pc vec with asyncTrap := none }
        | _, _ => x
      .next (stampIssue (modWarp s2 k fun w => regroup w sl) k sl)
    else .next s
  | _ => .fault .noIssuer

/-! ## Register starvation (R162) -/

/-- R162: what a slice waits for register space in: 1 GROW, 2 REND, 3 a copy fault; 0 otherwise. -/
def spaceWait (x : Slice) : Nat :=
  if x.ended then 0
  else
    match x.wait with
    | .grow => 1
    | .rend _ => 2
    | .copyFault => 3
    | _ => 0

/-- Whether a warp has a slice that is ready. -/
def hasReady (w : Warp) : Bool := w.slices.any fun x => !x.ended && x.wait == .ready

/-- R162: a warp blocked for register space. Before the core looks, every gang of it is tried, so a slice whose
wait is over counts as ready (`refreshWaits` of Machine/Turns.lean). -/
def spaceBlocked (w : Warp) : Bool := (w.slices.any fun x => spaceWait x != 0) && !hasReady w

/-- The warp of a list that has been resident longest. -/
def oldestOf (l : List (Nat × Warp)) : Option (Nat × Warp) :=
  l.foldl (fun b p => match b with
    | none => some p
    | some q => if p.2.placed < q.2.placed then some p else some q) none

/-- R162, step 2: the rendezvous arrivals of these slices are withdrawn. -/
def withdraw (w : Warp) (waits : List Nat) : Warp :=
  waits.foldl (fun w i => match (sliceAt w i).wait with
    | .rend r => { w with
        rendSlices := tput w.rendSlices r (tget w.rendSlices r 0 &&& ~~~((1 : BitVec 8) <<< i))
        rendArrived := w.rendArrived &&& ~~~((1 : BitVec 16) <<< r) }
    | _ => w) w

/-- R162: register starvation of a core. Detection is made again once a warp of the core has been ready, as the
one that enters the trap is. -/
def execRegisterStarvation (s : State) : Out :=
  let c := subject s 0
  let core := tget s.cores c default
  let l := warpsOn s (c / 288) (c % 288)
  match oldestOf l with
  | none => .next s
  | some (k, w) =>
    if core.starved || !(l.all fun p => spaceBlocked p.2) then .next s
    else
      let waits := (List.range 8).filter fun i => spaceWait (sliceAt w i) ≠ 0
      let val := (waits.map fun i => spaceWait (sliceAt w i)).headD 1
      let s1 := postRecord s w.ident.ctx w.die
        (graphRecord 0x61 0 w.core w.die w.slot (launchAddr s w) val (sliceAt w (waits.headD 0)).pc.toNat) .none
      let s2 := dropGrants (dropGrants s1 c k) c w.ident.group
      let s3 := modWarp s2 k fun w => withdraw w waits
      -- Each gang enters the trap (R129), each slice with the value of what it was blocked in.
      let s4 := (waits.map fun i => (sliceAt w i).gang).dedup.foldl (fun s g =>
        let sl := toBits 8 (waits.filter fun i => (sliceAt w i).gang = g)
        if (tfind s.warps k).isNone then s
        else trapSlices s k sl 6 ((List.range 8).map fun i => BitVec.ofNat 32 (spaceWait (sliceAt w i))) false) s3
      .next (modCore s4 c fun x =>
        { x with starved := !((warpsOn s4 (c / 288) (c % 288)).any fun p => hasReady p.2) })

/-! ## Instruction fetch (R105, R240) -/

/-- R240: a fault of a kind at a fetch posts a record, which names no lane (DESIGN CHOICE, notes/assumptions/84.md), and
the gang's slices wait; past an incomplete fence the fault is held (R58). -/
def fetchFault (s : State) (k : Nat) (sl : BitVec 8) (kind : Nat) : State :=
  let w := warpAt s k
  let pc := (gangPc w sl).toNat
  if w.spec.isSome then { holdGang s k sl .other with fetched := none }
  else
    { postRecord (modGang s k sl fun x => { x with wait := .fetch }) w.ident.ctx w.die
        (faultRecord kind false false true true 0 w.core w.die w.slot pc 0 0 pc) (.fetch k sl) with
      fetched := none, held := true }

/-- R240, R429: fetches the word of a gang; a word lost with its request is a translation fault of kind 4. -/
def execInstructionFetch (s : State) : Out :=
  match s.issuer with
  | .gang k sl =>
    let w := warpAt s k
    match translate s w.walker (gangPc w sl).toNat .fetch with
    | (s1, .ok t) =>
      match physBytes s1 w.ident.ctx w.die t.pa 4 with
      | (s2, some b) => .next { s2 with fetched := some (BitVec.ofNat 32 (leNat b)) }
      | (s2, none) => .next (fetchFault s2 k sl 4)
    | (s1, .error kind) => .next (fetchFault s1 k sl kind)
  | _ => .fault .noIssuer

end Sys2Proof.Machine
end

