-- ==== Sys2Proof/Machine/Memory.lean ====
section
/-!
DEFINITION. The meanings of the memory access unit's instructions and of its events up to the home
slices (spec/07_memory_unit.md): records, loads and stores, cluster space, fences, publishing.
-/

namespace Sys2Proof.Machine

/-! ## BREC (R215) -/

/-- Puts a write of state held per warp into the queue of the gang's lowest slice (R133). -/
def pushWarpWrite (s : State) (k : Nat) (sl : BitVec 8) (what : WarpWrite) (lat : Nat) : State :=
  modSlice s k (lowSlice sl) fun x => { x with warpQueue := x.warpQueue ++ [⟨what, lat⟩] }

/-- The warp operand of a quad, its first register as the lowest word. -/
def quadOperand (s : State) (k : Nat) (sl : BitVec 8) (a : BitVec 7) : BitVec 128 :=
  BitVec.ofNat 128 ((groupRegs a 4).foldr (fun f n =>
    (warpOperand s (warpAt s k) sl f).toNat + 2 ^ 32 * n) 0)

def execBrec (h : BitVec 2) (r : BitVec 4) (a : BitVec 7) (s : State) : Out :=
  issue { reads := groupRegs a 4, hold := h.toNat, a := a.toNat } (passing fun s k sl =>
    pushWarpWrite s k sl (.record r.toNat (cleanRecord (quadOperand s k sl a))) 2) s

/-! ## Loads and stores (R232 to R235) -/

/-- R231, R238: an access waits for its counter, for log entries, and as a writer behind a PUBLISH. -/
def logStall (p : Path) (need : Nat) (writer : Bool) (r : BitVec 4) (s : State) (k : Nat) : Bool :=
  let w := warpAt s k
  decide (63 ≤ countOf w p) || decide ((freeLog w).length < need) ||
    (writer && writerHeld s (tget w.recs r.toNat 0))

/-- R216: the record trap, or the access. -/
def throughRecord (r : BitVec 4) (go : State → Nat → BitVec 8 → Eff) (s : State) (k : Nat)
    (sl : BitVec 8) : Eff :=
  if 6 ≤ recSwz (tget (warpAt s k).recs r.toNat 0) then .trap 16 1 false else go s k sl

/-- What an instruction of the unit is: how many scalars, and where its data come from or go. -/
structure AccessForm where
  kind : OpKind
  path : Path
  z : Nat
  n : Nat
  /-- The first destination field of a load, or the first data field of a store. -/
  d : Nat
  record : Nat
  /-- Log entries it takes. -/
  need : Nat

/-- R233, R234, R238: puts an access in flight. -/
def startAccess (f : AccessForm) (ix : Src) (lanes : List Nat) (s : State) (k : Nat) (sl : BitVec 8) :
    State :=
  let w := warpAt s k
  let br := tget w.recs f.record 0
  let word := fun l j => srcReg s w (f.d + j) l
  let id := newId s
  let smp := sampleVersion id.2 w.die w.core id.1 br f.kind.writer
  let base := accessBase smp.1 br smp.2 f.kind.writes
  let elems := lanes.map fun l => elemAt br base f.z f.n l (ix.value s w 1 l).toNat
    (if f.kind.writes then (List.range f.n).map (word l) else [])
  let op : Op := { gangOp s k sl f.kind with
    z := f.z, n := f.n, dst := w.win + f.d, record := br, sample := smp.2, elems := elems
    mask := elemLanes elems, collective := w.ident.collective }
  let s1 := raiseCounter { smp.1 with ops := tput smp.1.ops id.1 op } k f.path id.1
  let s2 := if f.kind.writes then
      modWarp s1 k fun w => { w with flags := w.flags ||| boundsFlags elems }
    else markPending s1 k sl ((List.range f.n).map fun j => w.win + f.d + j) id.1
  let slots := (freeLog w).take f.need
  let put := fun (s : State) (i : Nat) (e : LogEntry) => modWarp s k fun w => { w with log := tput w.log i e }
  match slots with
  | [i] => put s2 i (logEntry w id.1 op op.mask false 0 word)
  | [i, j] => put (put s2 i (logEntry w id.1 op op.mask false j word)) j (logEntry w id.1 op op.mask true 0 word)
  | _ => s2

/-- R232: LD, LDX and LDA. -/
def globalLoad (kind : OpKind) (n : Nat) (h : BitVec 2) (d : BitVec 7) (r : BitVec 4) (ix : Src)
    (s : State) : Out :=
  issue { reads := ix.fields, waits := groupRegs d n, hold := h.toNat, a := ix.fields.headD 0
          past := kind == .load
          accepts := fun m => acceptsMem m && (kind == .load || scopeOk m)
          stall := logStall .ld 1 false r }
    (throughRecord r (passing fun s k sl =>
      let w := warpAt s k
      startAccess ⟨kind, .ld, scalarSize (modeType (gangMode w sl)), n, d.toNat, r.toNat, 1⟩ ix
        (gangLanes w sl) s k sl)) s

/-- R232, R235: ST, STX and STL; STL first waits as a release of its scope. -/
def globalStore (kind : OpKind) (n : Nat) (h : BitVec 2) (d : BitVec 7) (r : BitVec 4) (ix : Src)
    (s : State) : Out :=
  let need := if n = 4 then 2 else 1
  let rel := kind == .storeRelease
  issue { reads := ix.fields ++ groupRegs d n, hold := h.toNat, a := ix.fields.headD 0, drains := rel
          accepts := fun m => acceptsMem m && (!rel || scopeOk m)
          stall := logStall .st need true r }
    (throughRecord r (fun s k sl =>
      let w := warpAt s k
      let m := gangMode w sl
      if rel && !released w sl (modeScope m) then .wait s .other
      else passing (startAccess ⟨kind, .st, scalarSize (modeType m), n, d.toNat, r.toNat, need⟩ ix
        (gangLanes w sl)) s k sl)) s

def wideCount (w : BitVec 1) : Nat := if w = 1 then 4 else 2

def execLd (h : BitVec 2) (d a : BitVec 7) (r : BitVec 4) (s : State) : Out :=
  globalLoad .load 1 h d r (.reg a.toNat) s
def execLdImm (d : BitVec 7) (r : BitVec 4) (i : BitVec 8) (s : State) : Out :=
  globalLoad .load 1 0 d r (.imm (immUnsigned i)) s
def execLdx (h : BitVec 2) (d a : BitVec 7) (r : BitVec 4) (w : BitVec 1) (s : State) : Out :=
  globalLoad .load (wideCount w) h d r (.reg a.toNat) s
def execLdxImm (d : BitVec 7) (r : BitVec 4) (w : BitVec 1) (i : BitVec 7) (s : State) : Out :=
  globalLoad .load (wideCount w) 0 d r (.imm (immUnsigned i)) s
def execLda (h : BitVec 2) (d a : BitVec 7) (r : BitVec 4) (s : State) : Out :=
  globalLoad .loadAcquire 1 h d r (.reg a.toNat) s
def execLdaImm (d : BitVec 7) (r : BitVec 4) (i : BitVec 8) (s : State) : Out :=
  globalLoad .loadAcquire 1 0 d r (.imm (immUnsigned i)) s
def execSt (h : BitVec 2) (d a : BitVec 7) (r : BitVec 4) (s : State) : Out :=
  globalStore .store 1 h d r (.reg a.toNat) s
def execStImm (d : BitVec 7) (r : BitVec 4) (i : BitVec 8) (s : State) : Out :=
  globalStore .store 1 0 d r (.imm (immUnsigned i)) s
def execStx (h : BitVec 2) (d a : BitVec 7) (r : BitVec 4) (w : BitVec 1) (s : State) : Out :=
  globalStore .store (wideCount w) h d r (.reg a.toNat) s
def execStxImm (d : BitVec 7) (r : BitVec 4) (w : BitVec 1) (i : BitVec 7) (s : State) : Out :=
  globalStore .store (wideCount w) 0 d r (.imm (immUnsigned i)) s
def execStl (h : BitVec 2) (d a : BitVec 7) (r : BitVec 4) (s : State) : Out :=
  globalStore .storeRelease 1 h d r (.reg a.toNat) s
def execStlImm (d : BitVec 7) (r : BitVec 4) (i : BitVec 8) (s : State) : Out :=
  globalStore .storeRelease 1 0 d r (.imm (immUnsigned i)) s

/-- R242: CBLD acts once for the warp, whatever its lanes. -/
def execCbld (c : BitVec 3) (r : BitVec 4) (i : BitVec 8) (s : State) : Out :=
  issue { stall := logStall .ld 1 false r } (throughRecord r (passing fun s k sl =>
    let w := warpAt s k
    let br := tget w.recs r.toNat 0
    let id := newId s
    let smp := sampleVersion id.2 w.die w.core id.1 br false
    let elems := [elemAt br (accessBase smp.1 br smp.2 false) 2 16 (warpLane w sl) i.toNat []]
    let op : Op := { gangOp s k sl .codebook with
      z := 2, n := 16, dst := c.toNat, record := br, sample := smp.2, elems := elems
      mask := elemLanes elems }
    let s1 := raiseCounter { smp.1 with ops := tput smp.1.ops id.1 op } k .ld id.1
    modWarp s1 k fun w => match freeLog w with
      | e :: _ => { w with log := tput w.log e (logEntry w id.1 op (toBits 32 (gangLanes w sl)) false 0 fun _ _ => 0) }
      | [] => w)) s

/-- R237: PREF. -/
def prefetch (h : BitVec 2) (r : BitVec 4) (ix : Src) (s : State) : Out :=
  issue { reads := ix.fields, hold := h.toNat, a := ix.fields.headD 0, past := true
          accepts := acceptsMem } (throughRecord r (passing fun s k sl =>
    let w := warpAt s k
    let br := tget w.recs r.toNat 0
    let e := pubAt s (recEntry br)
    let smp := if recPub br && e.enabled then some (recEntry br, e.version.toNat) else none
    let z := scalarSize (modeType (gangMode w sl))
    let elems := (gangLanes w sl).map fun l =>
      elemAt br (accessBase s br smp false) z 1 l (ix.value s w 1 l).toNat []
    (addOp s { gangOp s k sl .prefetch with
      z := z, record := br, sample := smp, elems := elems, mask := elemLanes elems }).2)) s

def execPref (h : BitVec 2) (a : BitVec 7) (r : BitVec 4) (s : State) : Out :=
  prefetch h r (.reg a.toNat) s
def execPrefImm (r : BitVec 4) (i : BitVec 8) (s : State) : Out := prefetch 0 r (.imm (immUnsigned i)) s

/-! ## Translation of logged accesses (R221, R225, R239) -/

/-- Records that elements of an operation met a translation fault; its log entry names the lanes of the first
fault, and stays as it is when a replay faults again. An abort then drops the lanes of both (DESIGN CHOICE,
notes/assumptions/82.md). -/
def markFault (s : State) (k o : Nat) (lanes : BitVec 32) : State :=
  let first := ((anyWarp s k).map fun w => (logOfOp w o).foldl (fun m e => m ||| e.2.fmask) 0).getD 0
  updateWarp (modOp s o fun op => { op with faulted := true, fmask := first ||| lanes }) k fun w =>
    { w with log := w.log.map fun e =>
        (e.1, if e.2.op = o ∧ e.2.fmask = 0 then { e.2 with fmask := lanes } else e.2) }

/-- R221, R239: translates an access with a log entry: sends the lines it may, and posts what faults. A load past
an incomplete fence waits where it would trap or fault (R58), and where its line is homed on another device, whose writes
invalidate nothing here (R58, R416, notes/assumptions/56.md). -/
def translateLogged (s : State) (o k : Nat) (op : Op) : State :=
  let r := placeOp s op
  let p := sortPlaces r.2
  let ls := p.ok.flatMap Prod.snd
  let beyond := op.elems.filter fun e => decide (e.st = .addrError) && op.mask.getLsbD e.lane
  let clean := p.faults.isEmpty && p.formats.isEmpty && p.misaligned.isEmpty && beyond.isEmpty
  if mustFollow s o op (op.vlines ++ ls.map OpLine.va) (ls.map OpLine.pa) ||
      (op.isWrite && !shadowFree s op.sample) || (pastFence s o op 2 && ls.any fun l => isRemote l.pa) ||
      (pastFence s o op 0 && !clean) then s
  else
    let op1 := { op with
      elems := mergeElems op.elems p.elems, lines := (op.lines ++ ls).dedup, placed := true, mask := 0
      entry := entryOf (warpAt s k) o }
    let s1 := { r.1 with ops := tput r.1.ops o op1 }
    let s2 := postAddressErrors (postAddressErrors s1 o op1 7 p.misaligned) o op1 8 beyond
    let s3 := match p.formats with
      | [] => s2
      | f :: _ => formatTrap s2 k o op.slices f.2
    let s4 := if op.isWrite then sendStores s3 o op1 p.ok else sendLoads s3 o op1 ls
    if p.faults.isEmpty then dropLog s4 k o
    else
      let fm := elemLanes (p.faults.map Prod.fst)
      let f := firstFault p.faults
      opRecord (markFault s4 k o fm) o op1 f.1 op1.entry f.2 true fm (.op o)

/-- R237: a prefetch translates its lines; those that would fault are not fetched. Nor are those of a lane that is
misaligned or of another format than its page, which posts no record and takes no trap (DESIGN CHOICE,
notes/assumptions/87.md). -/
def translatePrefetch (s : State) (o : Nat) (op : Op) : State :=
  let r := placeOp s op
  let ls := (sortPlaces r.2).ok.flatMap Prod.snd
  let op1 := { op with lines := ls.dedup, placed := true, mask := 0 }
  ls.dedup.foldl (fun s l => sendReq s (coreReq s o op1 .load l.pa []))
    { r.1 with ops := tput r.1.ops o op1 }

/-! ## Replay and abort (R239) -/

/-- The elements that a log entry's lanes form again. -/
def elemsOfLog (op : Op) (e : LogEntry) (cont : Option LogEntry) (base : Nat) (lanes : BitVec 32) :
    List Elem :=
  (bitsOf 32 lanes).map fun l =>
    let d := [lget e.data (2 * l) 0, lget e.data (2 * l + 1) 0] ++ (match cont with
      | some c => [lget c.data (2 * l) 0, lget c.data (2 * l + 1) 0]
      | none => [])
    elemAt e.record base op.z op.n l (lget e.idx l 0).toNat (if op.kind.writes then d.take op.n else [])

/-- The log entries from which an operation is replayed; one whose entry was freed before its read was lost,
with no entry free since, is replayed from what it holds itself (R429). -/
def replayEntries (s : State) (o k : Nat) (op : Op) : List LogEntry :=
  match anyWarp s k with
  | none => []
  | some w =>
    match logOfOp w o with
    | [] => [{ logEntry w o op (elemLanes op.elems) false 0 (fun _ _ => 0) with win := op.win }]
    | l => l.map Prod.snd

/-- R239: system software replays a logged access from its entry. A store that sampled no version, its published
entry being disabled at issue, samples when it translates (R64). -/
def replayLogged (s : State) (o k : Nat) (op : Op) : State :=
  match replayEntries s o k op with
  | e :: rest =>
    let write := op.kind.writes
    let s1 := if write then s else abandonReqs (unsample s o) o
    let smp := if write then (s1, op.sample) else sampleVersion s1 op.die op.core o e.record false
    let smp2 := match smp.2 with
      | some (p, v) => some (p, if write then e.ver.toNat else v)
      | none => none
    let bad := elemLanes (op.elems.filter fun x => x.st = .addrError)
    let lanes := if write then e.fmask
      else (if op.kind = .codebook then elemLanes op.elems else e.mask) &&& ~~~bad
    let new := elemsOfLog op e rest.head? (accessBase smp.1 e.record smp2 write) lanes
    let kept := op.elems.filter fun x => !lanes.getLsbD x.lane
    let all := (List.range 32).flatMap fun l => (kept ++ new).filter fun x => x.lane = l
    let op1 := { op with
      elems := all, mask := lanes, fmask := 0, placed := false, faulted := false, sample := smp2
      resample := write && recPub e.record && op.sample.isNone
      word := e.word, mode := e.mode, win := e.win, pc := e.pc, record := e.record, slices := e.slices
      buf := if write then op.buf else [], lines := if write then op.lines else []
      flags := if write then op.flags else 0 }
    { smp.1 with ops := tput smp.1.ops o op1 }
  | [] => s

/-- R239: system software aborts it: the faulted lanes are dropped. -/
def abortLogged (s : State) (o k : Nat) : State :=
  let s1 := modOp s o fun op => { op with
    elems := op.elems.map fun e => if op.fmask.getLsbD e.lane then { e with st := .dropped } else e
    faulted := false, fmask := 0, flags := op.flags ||| flagOOB }
  updateWarp s1 k fun w => { w with log := w.log.filter fun e => e.2.op ≠ o }

/-! ## Returns (R231, R233, R235) -/

/-- Whether everything an operation asked for has come back. -/
def returned (s : State) (o : Nat) (op : Op) : Bool := op.placed && !op.faulted && !outstanding s o

/-- R233: writes the destinations of a load. -/
def writeLoaded (s : State) (o k : Nat) (op : Op) : State :=
  let vals := op.elems.map fun e => (e.lane, elemValue op e)
  let fl := joinFlags (vals.flatMap fun p => p.2.map Prod.snd)
  let s1 := modWarp s k fun w => vals.foldl (fun w p =>
    ((List.range op.n).zip p.2).foldl (fun w q => landReg w o (op.dst + q.1) p.1 q.2.1) w) w
  landFlags s1 k o (fl ||| boundsFlags op.elems ||| op.flags)

/-- R242: writes a codebook slot of the workgroup. -/
def writeCodebook (s : State) (o k : Nat) (op : Op) : State :=
  let vals := match op.elems.head? with
    | some e => (elemValue op e).map fun p => p.1.setWidth 16
    | none => List.replicate 16 0
  let s1 := modGroup s (warpAt s k).ident.group fun g => { g with cb := tput g.cb op.dst vals }
  landFlags s1 k o (boundsFlags op.elems ||| op.flags)

/-- R233, R235, R242: a load's data have all returned. -/
def execLoadReturn (s : State) : Out :=
  let o := subject s 0
  match tfind s.ops o with
  | none => .next s
  | some op =>
    match op.warp with
    | none => .next s
    | some k =>
      if !returned s o op || (tfind s.warps k).isNone then .next s
      else
        match op.kind with
        | .load => .next (lower (endOp (unsample (writeLoaded s o k op) o) o) k .ld o)
        | .loadAcquire =>
          .next (lower (endOp (unsample (acquireWarp (writeLoaded s o k op) k (modeScope op.mode)) o) o) k
            .ld o)
        | .codebook => .next (lower (endOp (unsample (writeCodebook s o k op) o) o) k .ld o)
        | .prefetch => .next (endOp s o)
        | _ => .next s

/-- R231: every line of a store has been acknowledged. -/
def execStoreAcknowledgement (s : State) : Out :=
  let o := subject s 0
  match tfind s.ops o with
  | none => .next s
  | some op =>
    match op.warp with
    | none => .next s
    | some k =>
      if !returned s o op || (tfind s.warps k).isNone then .next s
      else
        match op.kind with
        | .store => .next (lower (endOp (unsample (landFlags s k o op.flags) o) o) k .st o)
        | .storeRelease => .next (lower (endOp (unsample (landFlags s k o op.flags) o) o) k .st o)
        | _ => .next s

/-! ## Barrier objects (R243, R244) -/

def storeOf (s : State) (c : Nat) : Memory := (tget s.clusters c default).store

/-- A write of a cluster store; the armed monitors of its words are checked again (R268). -/
def modStore (s : State) (c : Nat) (f : Memory → Memory) : State :=
  let s1 := modCluster s c fun x => { x with store := f x.store }
  { s1 with monitors := s1.monitors.map fun m =>
      if m.armed && m.cluster && decide (m.addr < 0x800000 ∧ (tget s.ops m.op default).cluster = c) &&
          condMet m.cond m.signed (mword (storeOf s1 c) m.addr) m.value then { m with met := true } else m }

/-- R243: the end of a phase, where nothing is awaited. -/
def boSettle (m : Memory) (a : Nat) : Memory :=
  if mnat m (a + 12) 2 = 0 ∧ mnat m a 4 ≤ mnat m (a + 4) 4 then
    let ph := mnat m (a + 8) 4 % 2
    let m1 := mputNat (mputNat (mputNat m a 4 0) (a + 4) 4 0) (a + 8) 4 (1 - ph)
    mputNat m1 (a + 12) 2 (mnat m (a + 14) 2)
  else m

/-- R243: an issued copy or command adds to the bytes expected. -/
def boExpect (s : State) (c a n : Nat) : State :=
  modStore s c fun m => boSettle (mputNat m a 4 (mnat m a 4 + n)) a

/-- R243: bytes arrive. -/
def boArrived (s : State) (c a n : Nat) : State :=
  modStore s c fun m => boSettle (mputNat m (a + 4) 4 (mnat m (a + 4) 4 + n)) a

/-- R244: an ARRIVE. -/
def boCount (s : State) (c a n : Nat) : State :=
  modStore s c fun m => boSettle (mputNat m (a + 12) 2 (mnat m (a + 12) 2 - n)) a

/-! ## Cluster space (R229, R230, R235, R236) -/

/-- Puts a cluster-space access in flight. -/
def startCluster (kind : OpKind) (d : BitVec 7) (addr : Nat → Word) (z : Nat) (data : Nat → List Byte)
    (s : State) (k : Nat) (sl : BitVec 8) : State :=
  let w := warpAt s k
  let elems := (gangLanes w sl).map fun l =>
    let a := (addr l).toNat
    { (default : Elem) with
      lane := l, addr := a, data := data l, st := if a % z ≠ 0 then .addrError else .live }
  let r := addOp s { gangOp s k sl kind with
    z := z, dst := w.win + d.toNat, elems := elems, placed := true }
  raiseCounter r.2 k .cl r.1

/-- R236: the address of LDC, STC and the cluster forms of LDA and STL. -/
def clusterAddr (s : State) (w : Warp) (a : BitVec 7) (i : BitVec 8) (l : Nat) : Word :=
  srcReg s w a.toNat l + 4 * immUnsigned i

def clStall (s : State) (k : Nat) : Bool := decide (63 ≤ countOf (warpAt s k) .cl)

def clusterLoad (kind : OpKind) (h : BitVec 2) (d a : BitVec 7) (i : BitVec 8) (s : State) : Out :=
  let acq := kind == .clusterLoadAcquire
  issue { reads := [a.toNat], waits := [d.toNat], hold := h.toNat, a := a.toNat, past := !acq
          accepts := fun m => acceptsMem m && (!acq || scopeOk m), stall := clStall }
    (passing fun s k sl =>
      let w := warpAt s k
      let o := s.fresh
      markPending (startCluster kind d (clusterAddr s w a i) (scalarSize (modeType (gangMode w sl)))
        (fun _ => []) s k sl) k sl [w.win + d.toNat] o) s

def clusterStore (kind : OpKind) (h : BitVec 2) (d a : BitVec 7) (i : BitVec 8) (s : State) : Out :=
  let rel := kind == .clusterStoreRelease
  issue { reads := [a.toNat, d.toNat], hold := h.toNat, a := a.toNat, drains := rel
          accepts := fun m => acceptsMem m && (!rel || scopeOk m), stall := clStall }
    (fun s k sl =>
      let w := warpAt s k
      let m := gangMode w sl
      if rel && !released w sl (min 2 (modeScope m)) then .wait s .other
      else
        let z := scalarSize (modeType m)
        passing (startCluster kind d (clusterAddr s w a i) z
          fun l => leBytes z (srcReg s w d.toNat l).toNat) s k sl) s

def execLdc (h : BitVec 2) (d a : BitVec 7) (i : BitVec 8) (s : State) : Out :=
  clusterLoad .clusterLoad h d a i s
def execStc (h : BitVec 2) (d a : BitVec 7) (i : BitVec 8) (s : State) : Out :=
  clusterStore .clusterStore h d a i s
def execLdaCluster (h : BitVec 2) (d a : BitVec 7) (i : BitVec 8) (s : State) : Out :=
  clusterLoad .clusterLoadAcquire h d a i s
def execStlCluster (h : BitVec 2) (d a : BitVec 7) (i : BitVec 8) (s : State) : Out :=
  clusterStore .clusterStoreRelease h d a i s

/-- R244. -/
def execArrive (h : BitVec 2) (a : BitVec 7) (n : BitVec 8) (s : State) : Out :=
  issue { reads := [a.toNat], hold := h.toNat, a := a.toNat, drains := true, stall := clStall }
    (fun s k sl =>
      let w := warpAt s k
      let bo := (warpOperand s w sl a.toNat).toNat
      if !boAddress bo then .trap 9 (BitVec.ofNat 32 bo) false
      else if !released w sl 2 then .wait s .other
      else passing (fun s k sl =>
        let e : Elem := { (default : Elem) with addr := bo, idx := n.toNat, st := .live }
        let r := addOp s { gangOp s k sl .arrive with elems := [e], placed := true }
        raiseCounter r.2 k .cl r.1) s k sl) s

/-- What a cluster address names (R229, R230). -/
inductive Target where
  | store (a : Nat)
  | reg (warp n lane byte : Nat)
  | nothing
  /-- A pre-empted sibling, or a register whose scoreboarded write is pending. -/
  | waits
  deriving DecidableEq, Repr, Inhabited

/-- R230: register `n` of a warp, for an access by context `ctx`. -/
def regTarget (k : Nat) (w : Warp) (ctx a : Nat) : Target :=
  let n := a / 128 % 1024
  let l := a / 4 % 32
  if w.ident.ctx ≠ ctx ∨ w.ended ∨ w.ceil ≤ n then .nothing
  else if pendingIn w ((1 : BitVec 8) <<< (l / 4)) [n] then .waits
  else .reg k n l (a % 4)

def clusterTarget (s : State) (op : Op) (a : Nat) : Target :=
  match clusterPlace s op a with
  | .word _ => .store a
  | .reg j _ _ =>
    match tfind s.warps j with
    | some w => regTarget j w op.ctx a
    | none => .waits
  | .nothing => .nothing

/-- The bytes that a target holds. -/
def readTarget (s : State) (op : Op) (n : Nat) : Target → List Byte
  | .store a => mbytes (storeOf s op.cluster) a n
  | .reg k r l b => ((leBytes 4 (physReg s (warpAt s k) r l).toNat).drop b).take n
  | _ => List.replicate n 0

/-- R43, R230: writes bytes at a target; a register's other bytes stay. A warp of which another one writes a register that it
has named past an incomplete fence rolls back (R59, DEDUCED, notes/assumptions/56.md). -/
def writeTarget (s : State) (o : Nat) (op : Op) (b : List Byte) : Target → State
  | .store a => modStore s op.cluster fun m => mstore m a b
  | .reg k r l at' =>
    let old := leBytes 4 (physReg s (warpAt s k) r l).toNat
    let new := old.take at' ++ b ++ old.drop (at' + b.length)
    let own := if op.warp = some k then o else 0
    modWarp s k fun w =>
      let w1 := landReg w own r l (BitVec.ofNat 32 (leNat new))
      if op.warp = some k then w1
      else { w1 with spec := w1.spec.map fun sp => { sp with rolledBack := sp.rolledBack || sp.touched.getLsbD r } }
  | _ => s

/-- R156, R157: before a write, the granule of a target becomes the warp's own; `false` while it must wait. -/
def readyTarget (s : State) (write : Bool) : Target → Bool × State
  | .waits => (false, s)
  | .reg k n _ _ =>
    if write && backed s (warpAt s k) n then
      match askCore s (warpAt s k).die (warpAt s k).core ⟨k, 0, 3, 1, n / 8⟩ with
      | (true, s1) => (true, privatise s1 k (n / 8))
      | (false, s1) => (false, s1)
    else (true, s)
  | _ => (true, s)

/-- The places that an element of an access to cluster space reaches; an ARRIVE's is a barrier object. -/
def elemPlaces (s : State) (op : Op) (e : Elem) : List ClusterPlace :=
  if op.kind == .arrive then (List.range 4).map fun i => .word (e.addr / 4 + i) else [clusterPlace s op e.addr]

/-- R19, R45: whether an earlier access keeps a cluster-space element back: one of the same core at the
same slice of the store, or one of the same warp, wherever it then was, at the same place. -/
def clusterFollows (s : State) (o : Nat) (op : Op) (e : Elem) : Bool :=
  s.ops.any fun p =>
    decide (p.1 < o) &&
    (acquiresBefore p.2 op.warp op.slices ||
      (p.2.kind.cluster && (liveElems p.2.elems).any fun x =>
        decide (p.2.die = op.die ∧ p.2.core = op.core ∧ x.addr < 0x800000 ∧ e.addr < 0x800000 ∧
          x.addr / 0x80000 = e.addr / 0x80000) ||
        (decide (op.warp.isSome ∧ p.2.warp = op.warp) && (elemPlaces s p.2 x).any fun y =>
          y != .nothing && decide (y ∈ elemPlaces s op e))))

/-- Which elements of a cluster-space operation can be performed now: those no earlier access holds
back, all of a line together (R256). -/
def readyElems (s : State) (o : Nat) (op : Op) (write : Bool) : List Elem × State :=
  let r := (liveElems op.elems).foldl (fun (acc : List Nat × State) e =>
    if clusterFollows s o op e then (e.addr / 128 :: acc.1, acc.2)
    else
      match readyTarget acc.2 write (clusterTarget acc.2 op e.addr) with
      | (true, s1) => (acc.1, s1)
      | (false, s1) => (e.addr / 128 :: acc.1, s1)) ([], s)
  ((liveElems op.elems).filter fun e => e.addr / 128 ∉ r.1, r.2)

/-- The outcome of one element: what it gives its lane, and whether it reached anything. -/
def finishElem (s : State) (o : Nat) (e : Elem) (reached : Bool) (v : BitVec 64) : State :=
  modOp s o fun op => { op with
    elems := op.elems.map fun x => if x.lane = e.lane then
      { x with st := if reached then .performed else .outOfBounds } else x
    results := tput op.results e.lane v }

/-- R230: performs one element of LDC, STC and their kin. -/
def performCluster (s : State) (o : Nat) (op : Op) (write : Bool) (e : Elem) : State :=
  let t := clusterTarget s op e.addr
  if t = .nothing then finishElem s o e false 0
  else if write then finishElem (writeTarget s o op e.data t) o e true 0
  else finishElem s o e true (BitVec.ofNat 64 (leNat (readTarget s op op.z t)))

/-- R231, R233: the end of a cluster-space access whose elements have all been performed. -/
def endCluster (s : State) (o k : Nat) : State :=
  let op := tget s.ops o default
  if op.elems.any fun e => e.st = .live then s
  else
    let bad := op.elems.filter fun e => e.st = .addrError
    let s1 := postAddressErrors s o op 7 bad
    let ty := modeType op.mode
    let load := op.kind == .clusterLoad || op.kind == .clusterLoadAcquire
    let s2 := if load then
        modWarp s1 k fun w => op.elems.foldl (fun w e =>
          landReg w o op.dst e.lane (scalarWord ty (tget op.results e.lane 0).toNat)) w
      else s1
    let s3 := if op.kind == .clusterLoadAcquire then acquireWarp s2 k (min 2 (modeScope op.mode)) else s2
    lower (endOp (landFlags s3 k o (boundsFlags op.elems)) o) k .cl o

/-- R244: performs an ARRIVE; a surplus is reported. -/
def performArrive (s : State) (o k : Nat) (op : Op) : State :=
  match op.elems.head? with
  | none => s
  | some e =>
    if clusterFollows s o op e then s
    else
      let surplus := mnat (storeOf s op.cluster) (e.addr + 12) 2 < e.idx
      let s1 := boCount s op.cluster e.addr e.idx
      let s2 := if surplus then opRecord s1 o op 9 0 e.addr false 0 .none else s1
      lower (endOp s2 o) k .cl o

/-! ## Fences (R55 to R58, R249) -/

/-- R58, R112, R169: what a warp returns to if it rolls back, behind a fence of a scope that issues now, or if it is
pre-empted, at the fence. -/
def speculate (s : State) (k : Nat) (sl : BitVec 8) (scope : Nat) : State :=
  modWarp s k fun w =>
    let c := w.counters
    let marks := (w.marks.filter fun m => sl.getLsbD m.slice).map Mark.op
    let wide := if scope < 2 then [] else (c.ld ++ c.st ++ c.at').map Counted.op
    let next := (bitsOf 8 sl).foldl (fun w i => modSliceW w i fun x => { x.advance with lastIssue := s.now }) (ageLatches w sl)
    let sp : Speculation :=
      { slices := next.slices, before := w.slices, regs := w.regs, preds := w.preds, win := w.win, flags := w.flags
        priv := w.priv, since := s.fresh, scope := scope, gang := sl, issued := 0
        awaits := marks ++ c.cl.map Counted.op ++ wide, loaded := [], touched := 0, rolledBack := false }
    { w with spec := some sp }

def fenceScope (m : BitVec 1) (sc : BitVec 3) (mode : Word) : Nat :=
  if m = 1 then sc.toNat else modeScope mode

def execFence (m : BitVec 1) (sc : BitVec 3) (s : State) : Out :=
  issue { drains := true, accepts := fun md => decide (m = 1) || scopeOk md } (fun s k sl =>
    let w := warpAt s k
    let scope := fenceScope m sc (gangMode w sl)
    if released w sl scope then passing (fun s k _ => acquireWarp s k scope) s k sl
    else if (tget s.contexts w.ident.ctx default).fence then passing (fun s k sl => speculate s k sl scope) s k sl
    else .wait s .other) s

/-! ## PUBLISH (R64 to R66, R250) -/

/-- R250: the checks, the release, and the operation's way to its entry. -/
def publishEff (r : BitVec 4) (target : Option Nat) (s : State) (k : Nat) (sl : BitVec 8) : Eff :=
  let w := warpAt s k
  let br := tget w.recs r.toNat 0
  if !recPub br then .trap 16 2 false
  else if !(pubAt s (recEntry br)).enabled then .trap 16 5 false
  else if target.any fun n => decide (65535 < n) then .trap 16 3 false
  else if !released w sl 5 then .wait s .other
  else passing (fun s k sl =>
    let kind := if target.isSome then OpKind.versionFence else .publish
    let o := addOp s { gangOp s k sl kind with record := br, placed := true }
    let s1 := raiseCounter o.2 k .st o.1
    let e := pubAt s1 (recEntry br)
    setPub s1 (recEntry br) { e with waiting := e.waiting ++ [(o.1, target)] }) s k sl

def stStall (s : State) (k : Nat) : Bool := decide (63 ≤ countOf (warpAt s k) .st)

def execPublish (r : BitVec 4) (s : State) : Out :=
  issue { drains := true, stall := stStall } (publishEff r none) s
def execPublishVf (h : BitVec 2) (a : BitVec 7) (r : BitVec 4) (s : State) : Out :=
  issue { reads := [a.toNat], hold := h.toNat, a := a.toNat, drains := true, stall := stStall }
    (fun s k sl => publishEff r (some (warpOperand s (warpAt s k) sl a.toNat).toNat) s k sl) s

/-- The operation of a performed PUBLISH ends; 0 stands for a version fence that fired. -/
def endPublish (s : State) (o : Nat) : State :=
  match (tfind s.ops o).bind Op.warp with
  | some k => lower (endOp s o) k .st o
  | none => endOp s o

/-- R255: the home slice, die × 96 + slice, that holds an entry of the publish table. -/
def pubHome (s : State) (p : Nat) : Nat := if s.dies < 2 then p % 96 else p / 128 * 96 + p % 128 % 96

/-- R255, R405, R443: whether an operation that waits at an entry has reached the entry's home slice, which
runs; a version fence that has fired, named 0, is there. -/
def atPublish (s : State) (p o : Nat) : Bool :=
  homeReady s (pubHome s p) &&
    (s.dieLink || decide (o = 0 ∨ s.dies < 2 ∨ (tget s.ops o default).die = pubHome s p / 96))

/-- R64: the first PUBLISH that waits at an entry is performed once no writer is counted. -/
def execPublishPerform (s : State) : Out :=
  let p := subject s 0
  let e := pubAt s p
  match e.waiting with
  | (o, none) :: r =>
    if e.writers.isEmpty && atPublish s p o then
      let s1 := setPub s p { e with version := e.version + 1, counter := 0, target := 0, waiting := r }
      .next (endPublish s1 o)
    else .next s
  | _ => .next s

/-- R66: an entry whose counter has reached its target publishes. -/
def fireFence (e : PubEntry) : PubEntry :=
  if 0 < e.target ∧ e.target ≤ e.counter ∧ !(e.waiting.any fun x => decide (x.1 = 0)) then
    { e with waiting := e.waiting ++ [(0, none)] }
  else e

/-- R66: one more contribution to an entry. -/
def countPublish (s : State) (p : Nat) : State :=
  let e := pubAt s p
  setPub s p (fireFence { e with counter := min 65535 (e.counter + 1) })

/-- R66, R250: the first version fence that waits at an entry sets the target. -/
def execVersionFenceArm (s : State) : Out :=
  let p := subject s 0
  let e := pubAt s p
  match e.waiting with
  | (o, some n) :: r =>
    .next (if atPublish s p o then endPublish (setPub s p (fireFence { e with target := n, waiting := r })) o else s)
  | _ => .next s

end Sys2Proof.Machine
end

