-- ==== Sys2Proof/Machine/Remote.lean ====
section
/-!
DEFINITION. The Cralia link as bytes: messages, flits and their retransmission (R411, R412 of
spec/13_links_and_collectives.md), and the requests that this device sends to others (R416).
-/

namespace Sys2Proof.Machine

/-! ## Messages (R412) -/

/-- R412: the virtual channel that a kind of message uses. -/
def messageChannel (kind : Nat) : Nat :=
  match kind with
  | 1 => 1
  | 5 => 1
  | 6 => 2
  | _ => 0

/-- R412: bytes that follow the header of a kind of message. -/
def payloadSize (kind : Nat) : Nat :=
  match kind with
  | 1 => 128
  | 2 => 144
  | 3 => 256
  | 4 => 144
  | 6 => 144
  | _ => 0

/-- A list of bytes brought to a length. -/
def padTo (n : Nat) (l : List Byte) : List Byte := (l ++ List.replicate (n - l.length) 0).take n

/-- R412. -/
def messageHeader (m : Message) : Nat :=
  m.kind % 16 + m.vc % 4 * 2 ^ 4 + m.dst % 2 ^ 18 * 2 ^ 8 + m.src % 2 ^ 18 * 2 ^ 26 +
    m.ctx % 2 ^ 16 * 2 ^ 44 + m.line % 2 ^ 41 * 2 ^ 64 + m.code % 4 * 2 ^ 105 + m.tag % 2 ^ 16 * 2 ^ 128 +
    m.desc % 2 ^ 16 * 2 ^ 144 + m.epoch % 2 ^ 32 * 2 ^ 160 + m.arg % 2 ^ 64 * 2 ^ 192

def messageBytes (m : Message) : List Byte :=
  let n := payloadSize m.kind
  leBytes 32 (messageHeader m) ++
    (if n = 144 then leBytes 16 m.mask.toNat ++ padTo 128 m.data else padTo n m.data)

/-- R412: the message that a header and its payload make. -/
def messageOf (h : Nat) (pay : List Byte) : Message :=
  let kind := efield h 0 4
  let masked := decide (payloadSize kind = 144)
  { kind := kind, vc := efield h 4 2, dst := efield h 8 18, src := efield h 26 18, ctx := efield h 44 16
    line := efield h 64 41, code := efield h 105 2, tag := efield h 128 16, desc := efield h 144 16
    epoch := efield h 160 32, arg := efield h 192 64
    mask := if masked then BitVec.ofNat 128 (leNat (pay.take 16)) else 0
    data := if masked then pay.drop 16 else pay }

/-- Takes the whole messages off the front of a port's bytes; eight zero bytes where a header would begin
are a flit's unused end (notes/assumptions/21.md). `n` bounds the work. -/
def takeMessages : Nat → List Byte → List Message × List Byte
  | 0, l => ([], l)
  | n + 1, l =>
    if l.length < 16 then ([], l)
    else if (l.take 8).all fun b => decide (b = 0) then takeMessages n (l.drop 16)
    else
      let size := 32 + payloadSize (leNat (l.take 1) % 16)
      if l.length < size then ([], l)
      else
        let r := takeMessages n (l.drop size)
        (messageOf (leNat (l.take 32)) ((l.take size).drop 32) :: r.1, r.2)

/-! ## Flits (R411) -/

/-- R411: one bit of the CRC-64. -/
def crcBit (c : BitVec 64) : BitVec 64 :=
  if c.msb then (c <<< 1) ^^^ 0x42F0E1EBA9EA3693 else c <<< 1

def crcByte (c : BitVec 64) (b : Byte) : BitVec 64 :=
  (List.range 8).foldl (fun c _ => crcBit c) (c ^^^ (b.setWidth 64 <<< 56))

/-- R411: the CRC-64 of a flit's first 248 bytes. -/
def crc64 (l : List Byte) : BitVec 64 := l.foldl crcByte 0

/-- R411: a flit of a type, with its sequence number, acknowledgement, returned credits and payload. -/
def flitBytes (seq type ack cred vc : Nat) (pay : List Byte) : List Byte :=
  let body := leBytes 2 (seq % 4096 + type * 4096) ++ leBytes 2 (ack % 4096 + cred % 16 * 4096) ++
    leBytes 1 (vc % 4) ++ List.replicate 3 0 ++ padTo 240 pay
  body ++ leBytes 8 (crc64 body).toNat

def modPort (s : State) (p : Nat) (f : Port → Port) : State := { s with ports := tmod s.ports p f }

/-- R411: the last sequence number received in order from the peer. -/
def lastReceived (p : Port) : Nat := (p.expected + 4095) % 4096

/-- R8, R15, R409: the clock of the reticle field in which a port's lanes lie. -/
def portClock (s : State) (p : Nat) : Nat :=
  (lget s.islands (p / 18 * 3 + if p % 18 < 9 then 0 else 2) default).clock

/-! ## Credits (R411, R412; notes/assumptions/20.md) -/

/-- R412: the credits that a message takes: the flits that its bytes would fill. -/
def messageCost (m : Message) : Nat := (32 + payloadSize m.kind + 239) / 240

/-- R411: the credits that a port's next flit returns, and their channel. -/
def dueCredits (pt : Port) : Nat × Nat :=
  match (List.range 3).find? fun v => decide (4 ≤ lget pt.owed v 0) with
  | some v => (min 15 (lget pt.owed v 0 / 4), v)
  | none => (0, 0)

/-- A port that has returned those credits. -/
def payCredits (pt : Port) : Port :=
  { pt with owed := lmod pt.owed (dueCredits pt).2 fun n => n - 4 * (dueCredits pt).1 }

/-- Sends a flit that carries no messages: an idle flit (type 0) or a retry request (type 2). -/
def sendControl (s : State) (p type seq : Nat) : State :=
  let pt := tget s.ports p default
  let c := dueCredits pt
  let s1 := modPort s p payCredits
  { s1 with outbox := s1.outbox ++ [(p, flitBytes seq type (lastReceived pt) c.1 c.2 [])] }

/-- R412: a message received has been taken: its credits are owed to the peer, and returned once there are
enough for a flit to say so. -/
def owe (s : State) (p : Nat) (m : Message) : State :=
  let s1 := modPort s p fun x => { x with owed := lmod x.owed m.vc (· + messageCost m) }
  let pt := tget s1.ports p default
  if pt.up && decide (0 < (dueCredits pt).1) then sendControl s1 p 0 pt.nextSeq else s1

/-! ## Sending (R411, R412, R414) -/

/-- R411: sends the bytes that wait at a port, as data flits, while it may hold more of them. -/
def flushPort : Nat → State → Nat → State
  | 0, s, _ => s
  | n + 1, s, p =>
    match tfind s.ports p with
    | none => s
    | some pt =>
      if pt.txBytes.isEmpty ∨ 2048 ≤ pt.unacked.length ∨ !pt.up then s
      else
        let now := pt.txBytes.take 240
        let c := dueCredits pt
        let f := flitBytes pt.nextSeq 1 (lastReceived pt) c.1 c.2 (now.map Prod.snd)
        let s1 := modPort s p fun x => { payCredits x with
          nextSeq := (pt.nextSeq + 1) % 4096
          unacked := pt.unacked ++ [⟨pt.nextSeq, f, (now.map Prod.fst).dedup, 0⟩]
          txBytes := pt.txBytes.drop 240 }
        flushPort n { s1 with outbox := s1.outbox ++ [(p, f)] } p

/-- R414: whether a port still holds something for a device that has not been acknowledged. -/
def Port.holds (pt : Port) (dev : Nat) : Bool :=
  (pt.txBytes.any fun b => decide (b.1 = dev)) || pt.unacked.any fun f => decide (dev ∈ f.dests)

/-- R412, R414: whether a message that waits at a port may go: it is the first of its channel and has its
credits, and nothing sent to its device on another port is unacknowledged. -/
def mayGo (s : State) (p : Nat) (pt : Port) (x : Nat × Message) : Bool :=
  pt.up && decide ((pt.txWait.find? fun y => y.2.vc = x.2.vc) = some x) &&
    decide (messageCost x.2 ≤ lget pt.credits x.2.vc 0) &&
    !(s.ports.any fun q => decide (q.1 ≠ p) && (q.2.holds x.2.dst ||
      q.2.txWait.any fun y => decide (y.1 < x.1 ∧ y.2.dst = x.2.dst))) &&
    !(s.remote.any fun r => decide (r.2.device = x.2.dst ∧ r.2.port ≠ p))

/-- Sends what a port may send; `n` bounds the messages. -/
def pumpPort : Nat → State → Nat → State
  | 0, s, _ => s
  | n + 1, s, p =>
    match tfind s.ports p with
    | none => s
    | some pt =>
      match pt.txWait.find? (mayGo s p pt) with
      | none => flushPort (pt.txBytes.length / 240 + 1) s p
      | some x =>
        pumpPort n (modPort s p fun y => { y with
          txWait := y.txWait.erase x, credits := lmod y.credits x.2.vc (· - messageCost x.2)
          txBytes := y.txBytes ++ (messageBytes x.2).map fun b => (x.2.dst, b) }) p

/-- Sends what every port may send, as when something has been acknowledged. -/
def pumpPorts (s : State) : State :=
  s.ports.foldl (fun s p => pumpPort ((tget s.ports p.1 default).txWait.length + 1) s p.1) s

/-- Puts a message among those that a port sends. -/
def sendOn (s : State) (p : Nat) (m : Message) : State :=
  let id := newId s
  let s1 := modPort id.2 p fun x => { x with txWait := x.txWait ++ [(id.1, m)] }
  pumpPort ((tget s1.ports p default).txWait.length + 1) s1 p

/-- Sends a message of a home slice of a die to its destination; without a valid route, or across a
die-to-die link that is down, nothing is sent. -/
def sendMessage (s : State) (die : Nat) (m : Message) : State :=
  match routePort s m.dst with
  | some p =>
    if !s.dieLink && decide (s.dies = 2 ∧ p / 18 ≠ die) then s
    else sendOn s p { m with vc := messageChannel m.kind, src := s.device }
  | none => s

/-! ## Link records (R428) -/

def linkRecord (kind port die core slot : Nat) (write : Bool) (addr peer desc epoch : Nat)
    (mask : BitVec 32) : List Byte :=
  leBytes 4 (kind + port % 64 * 256 + die % 2 * 16384) ++
  leBytes 4 (core % 512 + slot % 128 * 512 + (if write then 65536 else 0)) ++
  leBytes 8 addr ++ leBytes 4 peer ++ leBytes 4 desc ++ leBytes 4 epoch ++ leBytes 4 mask.toNat

/-! ## Requests to other devices (R416) -/

/-- The kinds of request that an atomic's message carries, as a number, and back. -/
def atomicKind : ReqKind → Nat
  | .routine => 1
  | .monitor => 2
  | .cacheop => 3
  | _ => 0
def kindOfAtomic : Nat → ReqKind
  | 1 => .routine
  | 2 => .monitor
  | 3 => .cacheop
  | _ => .atomic

/-- A request as numbers, for the bytes of an atomic's message. -/
def reqNumbers (r : Req) : List Nat :=
  atomicKind r.kind :: r.code :: r.parts.flatMap fun p =>
    [p.2.2, p.1 % 128, p.2.1.length] ++ p.2.1.map BitVec.toNat

/-- The parts that such numbers hold; `n` bounds the work. -/
def partsOf (line : Nat) : Nat → List Nat → List (Nat × List Byte × Nat)
  | 0, _ => []
  | n + 1, l =>
    match l with
    | lane :: off :: len :: r =>
      (line + off % 128, (r.take len).map (BitVec.ofNat 8), lane) :: partsOf line n (r.drop len)
    | _ => []

/-- The byte mask and bytes of a line that parts write; a later part replaces an earlier one (R41). -/
def lineImage (parts : List (Nat × List Byte × Nat)) : BitVec 128 × List Byte :=
  let cells := parts.flatMap fun p => ((List.range p.2.1.length).zip p.2.1).map fun q =>
    ((p.1 + q.1) % 128, q.2)
  let m : Memory := cells.foldl (fun m c => tput m c.1 c.2) []
  (toBits 128 (m.map Prod.fst), (List.range 128).map fun i => tget m i 0)

/-- Whether a request was sent by a unit without an operation. -/
def Req.ofUnit (r : Req) : Bool := decide (400000 ≤ r.src ∧ r.src < 500000)

/-- R412, R416: the message that carries a request to the device that homes its line. -/
def requestMessage (s : State) (r : Req) (tag : Nat) : Message :=
  let t := r.far
  let img := lineImage r.parts
  let kind := match r.kind with
    | .load => 0
    | .store => 2
    | .contribution => 4
    | _ => 3
  { kind := kind, vc := 0, dst := t.1, src := s.device, ctx := r.ctx, line := t.2 / 128
    code := if kind = 4 then r.code else 0, tag := tag
    desc := match r.collective with
      | some (d, _) => d
      | none => 0xFFFF
    epoch := match r.collective with
      | some (_, e) => e
      | none => 0
    arg := 0, mask := img.1
    data := if kind = 3 then Config.atomicBytes (reqNumbers r) else img.2 }

/-- The number among the sending units of a port through which another device's requests come. -/
def portSrc (p : Nat) : Nat := 500000 + p

/-- The die that a request comes from. -/
def reqDie (s : State) (r : Req) : Nat :=
  if r.remote.isSome then (r.src - portSrc 0) / 18
  else if r.ofUnit then r.src - unitSrc 0
  else (tget s.ops r.op default).die

/-- R414, R416: sends a request to the device that its translation found; while messages to it stand on another
port, or its route is not valid, it waits. -/
def sendRemote (s : State) (id : Nat) (r : Req) : State :=
  let dev := r.far.1
  match routePort s dev with
  | none => s
  | some p =>
    if (!s.dieLink && decide (s.dies = 2 ∧ p / 18 ≠ reqDie s r)) ||
        (s.remote.any fun x => decide ((x.2.device = dev ∧ x.2.port ≠ p) ∨ x.1 % 65536 = id % 65536)) ||
        s.ports.any fun q => decide (q.1 ≠ p) &&
          (q.2.holds dev || q.2.txWait.any fun y => decide (y.2.dst = dev)) then s
    else
      let s1 := { s with reqs := tdel s.reqs id, remote := tput s.remote id ⟨r, p, dev, false⟩ }
      sendOn s1 p (requestMessage s r id)

/-- R256: whether a request is the next that its home may perform: no earlier one reaches its line, none
of its core the same slice, and no update step holds the line. -/
def eligible (s : State) (id : Nat) (r : Req) : Bool :=
  (homeLine s r.line).locked.isNone && !(s.reqs.any fun p =>
    decide (p.1 < id ∧ (p.2.line = r.line ∨ (p.2.src = r.src ∧ p.2.home = r.home))))

/-- R407: whether a request would cross a die-to-die link that is down. -/
def cutOff (s : State) (r : Req) : Bool :=
  !s.dieLink && decide (s.dies = 2 ∧ r.home < 1000 ∧ r.home / 96 ≠ reqDie s r)

/-! ## The overflow area as it holds arrivals back (R423, R424) -/

/-- The context that a request's records concern. -/
def reqCtx (r : Req) : Nat :=
  match r.remote with
  | some m => m.ctx
  | none => r.ctx

/-- R423: the address of a free entry of the area. -/
def freeOverflow (s : State) : Option Nat :=
  match s.overflowArea with
  | none => none
  | some (base, n) =>
    ((List.range n).map fun i => base + 256 * i).find? fun a => !(s.overflow.any fun e => e.addr = a)

/-- R421: whether a contribution must wait on an overflow list for a start. -/
def mustKeep (s : State) (r : Req) : Bool :=
  match r.collective, (homeLine s r.line).tag with
  | none, _ => false
  | some _, none => true
  | some (d, e), some t => !(decide (t.ctx = reqCtx r ∧ t.desc = d)) || decide (t.epoch < e)

/-- R424: the arrivals that a home slice holds for want of an entry. -/
def heldArrivals (s : State) : List (Nat × Req) :=
  if s.overflowFull && (freeOverflow s).isNone then
    s.reqs.filter fun p => decide (p.2.kind = .contribution) && mustKeep s p.2
  else []

/-- R424: whether the die-to-die link takes no further request behind a held one. -/
def linkHeld (s : State) (id : Nat) (r : Req) : Bool :=
  decide (s.dies = 2 ∧ r.home / 96 ≠ reqDie s r) &&
    (heldArrivals s).any fun p => decide (p.1 < id ∧ p.2.home / 96 = r.home / 96 ∧ reqDie s p.2 = reqDie s r)

/-! ## Storage errors at the home (R449 to R451) -/

/-- R451. -/
def errorRecord (kind struct die field unit ctx loc syn count save : Nat) : List Byte :=
  leBytes 4 (kind + struct % 256 * 2 ^ 8 + die % 2 * 2 ^ 16 + field % 4 * 2 ^ 17) ++
  leBytes 4 (unit % 2 ^ 16 + ctx % 2 ^ 16 * 2 ^ 16) ++ leBytes 8 loc ++ leBytes 4 (syn % 256) ++
  leBytes 4 count ++ leBytes 8 save

/-- The corrected errors of a structure since bring-up. -/
def correctedIn (s : State) (struct : Nat) : Nat := tget s.corrected struct 0

/-- R448: posts an error record to the error log, and to the fault queue of the context it touches. -/
def postErrorFor (s : State) (ctx die : Nat) (b : List Byte) : State :=
  let s1 := postError s b
  if (tfind s1.contexts ctx).isSome then postRecord s1 ctx die b .none else s1

/-- The position that the next error record takes. -/
def nextErrorPos (s : State) : Nat := s.errTail + s.errWaiting.length

/-- R15, R451: the reticle field and the unit that an error record of a line names: of HBM4 the stack, stacks 0 to
2 in field A, 3 and 4 in field B and 5 to 7 in field C; else the home slice. -/
def errorPlace (struct home : Nat) : Nat × Nat :=
  if struct = 5 then
    let k := Config.stackOf (home % 96) % 8
    (if k < 3 then 0 else if k < 5 then 1 else 2, k)
  else (home % 96 / 32, home % 96)

/-- R449: an access to a poisoned line of a home is held, with a record of its own. -/
def recordPoison (s : State) (home line ctx : Nat) (p : Nat × Nat) (behind : Resumable) (req : Option Nat) : State :=
  let at' := errorPlace p.1 home
  postErrorFor { s with errors := s.errors ++ [⟨nextErrorPos s, p.1, home, line, behind, req⟩] } ctx (home / 96)
    (errorRecord 0x81 p.1 (home / 96) at'.1 at'.2 ctx line p.2 (correctedIn s p.1) 0)

/-- R449: a request that reaches a poisoned line. -/
def holdPoisoned (s : State) (id : Nat) (r : Req) (p : Nat × Nat) : State :=
  if s.errors.any fun e => e.req = some id then s
  else recordPoison s r.home r.line (reqCtx r) p .none (some id)

/-- R449: a unit's own access that reaches a poisoned line, which it does again and again until it is resumed. -/
def holdUnit (s : State) (c die line : Nat) : State :=
  let home := homeOf s line
  match (homeLine s line).poison with
  | some p =>
    if isRemote line || !(decide (line / 2 ^ 48 = 1) || homeReady s home) || acrossDown s die line ||
        s.errors.any fun e => e.behind = .line c die line then s
    else recordPoison s home line c p (.line c die line) none
  | none => s

/-! ## The shared cache (R254, R278) -/

/-- R278: the first line of a compression block. -/
def blockOf (pa : Nat) : Nat := pa / 512 * 512

/-- R254, R278: a line's unwritten data go to HBM, compressed if its block may be. -/
def writeBack (s : State) (pa : Nat) : State :=
  if (homeLine s pa).unwritten then
    let d := draw s
    modHomeLine d.2 pa fun h => { h with
      unwritten := false, compressed := !(homeLine s (blockOf pa)).packOff && decide (d.1 % 2 = 1) }
  else s

/-- R254: the slice, die × 96 + slice, that holds a die's copy of a line. -/
def copySlice (die pa : Nat) : Nat := 96 * die + homeHash pa % 96

/-- R254: the 2 MiB of a home slice hold 16,384 lines: where they hold more, one leaves, whichever the slice
chooses, its unwritten data written back. -/
def replaceLine (s : State) (home : Nat) : State :=
  let lines := (s.homeLines.filter fun p => p.2.resident && decide (homeOf s p.1 = home)).map Prod.fst
  let copies := s.copies.filter fun c => decide (copySlice c.die c.pa = home)
  let n := lines.length + copies.length
  if n ≤ 16384 then s
  else
    let d := draw s
    match lines[d.1 % n]? with
    | some pa => modHomeLine (writeBack d.2 pa) pa fun h => { h with resident := false }
    | none => { d.2 with copies := d.2.copies.erase (lget copies (d.1 % n - lines.length) default) }

/-- What a home slice does about a request of these kinds: it performs it when it is next there, sends it on
when its home is another device, and holds it at a poisoned line. -/
def serveReq (kinds : List ReqKind) (f : State → Nat → Req → State) (s : State) (id : Nat) : State :=
  match tfind s.reqs id with
  | none => s
  | some r =>
    if r.kind ∉ kinds then s
    else if isRemote r.line then if eligible s id r then sendRemote s id r else s
    else if !(if r.line / 2 ^ 48 = 1 then fieldReady s r.home else homeReady s r.home) || cutOff s r || linkHeld s id r then s
    else
      match (homeLine s r.line).poison with
      | some p => holdPoisoned s id r p
      | none => if eligible s id r then replaceLine (f s id r) r.home else s

/-- Runs a home-slice event on the request that it acts on. -/
def atHome (kinds : List ReqKind) (f : State → Nat → Req → State) (s : State) : Out :=
  .next (serveReq kinds f s (subject s 0))

/-- Takes a request that has been performed off its home's list. -/
def doneReq (s : State) (id : Nat) : State := { s with reqs := tdel s.reqs id }

/-- Answers a request that came from another device. -/
def reply (s : State) (m : Message) (kind arg : Nat) (data : List Byte) : State :=
  sendMessage s (homeOf s (m.line * 128) / 96) { m with kind := kind, dst := m.src, arg := arg, mask := 0, data := data, code := 0 }

end Sys2Proof.Machine
end

