-- ==== Sys2Proof/Machine/Engine.lean ====
section
/-!
DEFINITION. How the device's own engines reach global memory: they translate ranges of bytes, and their
requests go to the home slices like any other (R49, R60, R256).
-/

namespace Sys2Proof.Machine

/-- Translates ranges of bytes in order; the first fault ends it with its kind and address. -/
def placeRanges (s : State) (u : Walker) (acc : Access) (pg : Pages) :
    List (Nat × Nat) → State × Pages × Except (Nat × Nat) (List OpLine)
  | [] => (s, pg, .ok [])
  | (va, n) :: r =>
    match placeAddrs s u acc pg (lineStarts va n) with
    | (s1, pg1, .error f) => (s1, pg1, .error f)
    | (s1, pg1, .ok l) =>
      match placeRanges s1 u acc pg1 r with
      | (s2, pg2, .error f) => (s2, pg2, .error f)
      | (s2, pg2, .ok ls) => (s2, pg2, .ok ((opLines l ++ ls).dedup))

/-- A request of an engine, `src` being its number among the sending units. -/
def engineReq (s : State) (o : Nat) (op : Op) (src : Nat) (kind : ReqKind) (line : Nat)
    (parts : List (Nat × List Byte × Nat)) (code : Nat) : Req :=
  { coreReq s o op kind line parts with src := src, code := code }

/-- Reads lines for an operation. -/
def engineReads (s : State) (o : Nat) (op : Op) (src : Nat) (ls : List OpLine) : State :=
  (ls.map OpLine.pa).dedup.foldl (fun s pa => sendReq s (engineReq s o op src .load pa [] 0)) s

/-- Writes elements' bytes for an operation whose lines have translated: one store or contribution a
line. -/
def engineWrites (s : State) (o : Nat) (op : Op) (src : Nat) (es : List Elem) : State :=
  (op.lines.map fun l => (l.pa, l.attr.red)).dedup.foldl (fun s l =>
    let parts := es.filterMap fun e => linePart op.lines e.data.length l.1 e
    if parts.isEmpty then s
    else sendReq s (engineReq s o op src (if l.2 = 0 then .store else .contribution) l.1 parts l.2)) s

/-- An operation of a unit of a die that no warp has issued. -/
def unitOp (kind : OpKind) (die core ctx : Nat) : Op :=
  { (default : Op) with
    kind := kind, die := die, core := core, cluster := clusterKey die (core / 4), ctx := ctx, z := 4, n := 1
    placed := true }

end Sys2Proof.Machine
end

