-- ==== Sys2Proof/Machine/Rv32.lean ====
section
/-!
DEFINITION. The RISC-V fields and computations that the home slices' microcores (R266) and the access
processors (R338) share, and the microcore's run of one routine.
-/

namespace Sys2Proof.Machine

def rvOp (w : Word) : Nat := w.toNat % 128
def rvRd (w : Word) : Nat := bitsAt w 7 5
def rvF3 (w : Word) : Nat := bitsAt w 12 3
def rvRs1 (w : Word) : Nat := bitsAt w 15 5
def rvRs2 (w : Word) : Nat := bitsAt w 20 5
def rvF7 (w : Word) : Nat := bitsAt w 25 7

/-- The immediates of the I, S, B, U and J formats. -/
def rvImmI (w : Word) : Word := (w.extractLsb' 20 12).signExtend 32
def rvImmS (w : Word) : Word := (w.extractLsb' 25 7 ++ w.extractLsb' 7 5).signExtend 32
def rvImmB (w : Word) : Word :=
  (w.extractLsb' 31 1 ++ w.extractLsb' 7 1 ++ w.extractLsb' 25 6 ++ w.extractLsb' 8 4 ++
    (0 : BitVec 1)).signExtend 32
def rvImmU (w : Word) : Word := w &&& 0xFFFFF000
def rvImmJ (w : Word) : Word :=
  (w.extractLsb' 31 1 ++ w.extractLsb' 12 8 ++ w.extractLsb' 20 1 ++ w.extractLsb' 21 10 ++
    (0 : BitVec 1)).signExtend 32

/-- The computations of OP with funct7 0 and 32, and of OP-IMM. -/
def rvAlu (f3 : Nat) (alt : Bool) (a b : Word) : Word :=
  let sh := b.toNat % 32
  match f3 with
  | 0 => if alt then a - b else a + b
  | 1 => a <<< sh
  | 2 => if a.slt b then 1 else 0
  | 3 => if a.ult b then 1 else 0
  | 4 => a ^^^ b
  | 5 => if alt then a.sshiftRight sh else a >>> sh
  | 6 => a ||| b
  | _ => a &&& b

/-- Whether funct7 is one that OP's funct3 has, funct7 1 apart. -/
def rvAluF7 (f3 f7 : Nat) : Bool := decide (f7 = 0 ∨ (f7 = 32 ∧ (f3 = 0 ∨ f3 = 5)))

/-- The M extension: division by zero and signed overflow give the results it defines. -/
def rvMul (f3 : Nat) (a b : Word) : Word :=
  let int := BitVec.ofInt 32
  match f3 with
  | 0 => a * b
  | 1 => int (a.toInt * b.toInt / 2 ^ 32)
  | 2 => int (a.toInt * b.toNat / 2 ^ 32)
  | 3 => BitVec.ofNat 32 (a.toNat * b.toNat / 2 ^ 32)
  | 4 => if b = 0 then BitVec.allOnes 32 else int (a.toInt.tdiv b.toInt)
  | 5 => if b = 0 then BitVec.allOnes 32 else BitVec.ofNat 32 (a.toNat / b.toNat)
  | 6 => if b = 0 then a else int (a.toInt.tmod b.toInt)
  | _ => if b = 0 then a else BitVec.ofNat 32 (a.toNat % b.toNat)

/-- Whether a branch is taken; funct3 2 and 3 are no branch. -/
def rvBranch (f3 : Nat) (a b : Word) : Option Bool :=
  match f3 with
  | 0 => some (a == b)
  | 1 => some (a != b)
  | 4 => some (a.slt b)
  | 5 => some (!a.slt b)
  | 6 => some (a.ult b)
  | 7 => some (!a.ult b)
  | _ => none

/-- Whether a word is an OP-IMM instruction of RV32I. -/
def rvOpImmOk (w : Word) : Bool :=
  match rvF3 w with
  | 1 => decide (rvF7 w = 0)
  | 5 => decide (rvF7 w = 0 ∨ rvF7 w = 32)
  | _ => true

/-- The result of an OP-IMM instruction. -/
def rvOpImm (w a : Word) : Word :=
  rvAlu (rvF3 w) (decide (rvF3 w = 5 ∧ rvF7 w = 32)) a (rvImmI w)

/-- A register, `x0` reading zero. -/
def rvGet (x : Tbl Word) (r : Nat) : Word := if r = 0 then 0 else tget x r 0
def rvSet (x : Tbl Word) (r : Nat) (v : Word) : Tbl Word := if r = 0 then x else tput x r v

/-! ## FP32 under RNE, for units without flags -/

def rneAdd (a b : Nat) : Nat := (fAdd rneF (fdecode a) (fdecode b) 0).bits
def rneNeg (a : Nat) : Nat := a ^^^ 0x80000000
def rneSub (a b : Nat) : Nat := (fAdd rneF (fdecode a) (fdecode b).neg 0).bits
def rneMul (a b : Nat) : Nat := (fMul rneF (fdecode a) (fdecode b) 0).bits

/-- The correctly rounded quotient of two FP32 numbers, to a precision. -/
def rneDiv (a b : Nat) : Nat :=
  let neg := fun x y : Bool => x != y
  match fdecode a, fdecode b with
  | .nan _, _ => qnan
  | _, .nan _ => qnan
  | .inf _, .inf _ => qnan
  | .inf s, y => infBits (neg s y.sign)
  | x, .inf t => zeroBits (neg x.sign t)
  | .fin s m e, .fin t n f =>
    if n = 0 then if m = 0 then qnan else infBits (neg s t)
    else (roundWith rneF (neg s t) (m * 2 ^ 64 / n) (e - f - 64) (decide (m * 2 ^ 64 % n ≠ 0)) 0).1

def rneSqrt (a : Nat) : Nat := (fSqrt rneF (fdecode a) 0).bits

/-- FMIN and FMAX with no flushing (R190). -/
def rneMinMax (big : Bool) (a b : Nat) : Nat := (fMinMax big false false a b).1

/-- An ordered comparison, false on a NaN. -/
def fLt (a b : Nat) : Bool :=
  match fdecode a, fdecode b with
  | .nan _, _ => false
  | _, .nan _ => false
  | x, y => fCompare x y == .lt
def fLe (a b : Nat) : Bool :=
  match fdecode a, fdecode b with
  | .nan _, _ => false
  | _, .nan _ => false
  | x, y => fCompare x y != .gt

/-! ## Routines of the home slices (R265 to R267) -/

/-- R265: whether loading accepts word `i` of a routine of `n` words. -/
def routineWordOk (n i : Nat) (w : Word) : Bool :=
  match rvOp w with
  | 0x37 => true
  | 0x13 => rvOpImmOk w
  | 0x33 => rvAluF7 (rvF3 w) (rvF7 w)
  | 0x63 =>
    let t := (rvImmB w).toInt
    (rvBranch (rvF3 w) 0 0).isSome && decide (0 < t ∧ t % 4 = 0 ∧ (i : Int) + t / 4 < n)
  | 0x0B =>
    match rvF3 w with
    | 0 => true
    | 1 => true
    | 2 => decide (rvF7 w = 0)
    | 3 => decide (rvF7 w = 0)
    | 4 => decide (w.toNat / 2 ^ 15 = 0 ∧ rvRd w = 0)
    | 5 => decide (w.toNat / 2 ^ 15 = 0 ∧ rvRd w = 0)
    | _ => false
  | _ => false

/-- R265: whether loading accepts a routine. -/
def routineOk (l : List Word) : Bool :=
  decide (1 ≤ l.length ∧ l.length ≤ 16) &&
    ((List.range l.length).zip l).all fun p => routineWordOk l.length p.1 p.2

/-- R266: the word of the line that an address names. -/
def lineOffset (a : Word) : Nat := a.toNat % 128 / 4 * 4

/-- R266, R267: runs a routine on a line, held as bytes from 0; gives `x10` and the line. Branches only
go forward, so the fuel never runs out. -/
def runRoutine (code : List Word) (old : Memory) : Nat → Nat → Tbl Word → Memory → Word × Memory
  | 0, _, x, m => (rvGet x 10, m)
  | n + 1, i, x, m =>
    match code[i]? with
    | none => (rvGet x 10, m)
    | some w =>
      let a := rvGet x (rvRs1 w)
      let b := rvGet x (rvRs2 w)
      let set := fun v => runRoutine code old n (i + 1) (rvSet x (rvRd w) v) m
      match rvOp w with
      | 0x37 => set (rvImmU w)
      | 0x13 => set (rvOpImm w a)
      | 0x33 => set (rvAlu (rvF3 w) (decide (rvF7 w = 32)) a b)
      | 0x63 =>
        if (rvBranch (rvF3 w) a b).getD false then
          runRoutine code old n (i + (rvImmB w).toNat / 4) x m
        else runRoutine code old n (i + 1) x m
      | _ =>
        match rvF3 w with
        | 0 => set (mword m (lineOffset (a + rvImmI w)))
        | 1 => runRoutine code old n (i + 1) x (mputNat m (lineOffset (a + rvImmS w)) 4 b.toNat)
        | 2 => set (BitVec.ofNat 32 (rneAdd a.toNat b.toNat))
        | 3 => set (BitVec.ofNat 32 (rneMinMax true a.toNat b.toNat))
        | 4 => (rvGet x 10, m)
        | _ => (rvGet x 10, old)

end Sys2Proof.Machine
end

