-- ==== Sys2Proof/Machine/Home.lean ====
section
/-!
DEFINITION. The home slices (spec/08_home_slices.md): loads and stores performed there, atomics,
routines, condition monitors, reduction pages, CACHEOP and the update units.
-/

namespace Sys2Proof.Machine

/-! ## Loads and stores at the home (R254, R256, R227) -/

/-- Whether a line is homed off a die, so that the die may hold a copy of it (R254). -/
def copyable (s : State) (die line : Nat) : Bool :=
  isRemote line || decide (s.dies = 2 ∧ homeOf s line / 96 ≠ die)

/-- R226, R227: puts a line into a first-level cache, replacing any line where it is full. -/
def fillCache (s : State) (c ctx pa filled : Nat) (b : List Byte) : State :=
  let core := tget s.cores c default
  if core.carve = 0 then s
  else
    let rest := core.cache.filter fun x => x.pa ≠ pa
    let d := draw s
    let kept := if 8 * core.carve ≤ rest.length then rest.eraseIdx (d.1 % rest.length) else rest
    modCore d.2 c fun x => { x with cache := kept ++ [⟨ctx, pa, b, filled⟩] }

/-- What the page of a line says, as an operation translated it. -/
def Op.attrOf (op : Op) (line : Nat) : PageAttr :=
  match op.lines.find? fun l => l.pa = line with
  | some l => l.attr
  | none => default

/-- R227, R254: what a plain load's line brings into the caches on its way. -/
def fillLoaded (s : State) (op : Op) (line filled : Nat) (b : List Byte) : State :=
  let attr := op.attrOf line
  if (op.kind = .load ∨ op.kind = .prefetch) ∧ attr.mt = 0 ∧ attr.red = 0 then
    fillCache s (coreKey op.die op.core) op.ctx line filled b
  else s

/-- R254: a die takes a read-only copy of a line, in the slice that its address chooses. -/
def addCopy (s : State) (die line filled : Nat) (b : List Byte) : State :=
  replaceLine { s with copies := s.copies.filter (fun c => !(decide (c.die = die ∧ c.pa = line))) ++
      [⟨die, line, b, filled⟩] } (copySlice die line)

/-- R50: what a die, and the cache of the core itself, hold of a line goes when an access of theirs has reached it
at its home (notes/assumptions/57.md). -/
def dropOwn (s : State) (op : Op) (line : Nat) : State :=
  let c := coreKey op.die op.core
  let s1 := dropCopies s op.die line
  if op.kind.engine || op.warp.isNone || (tfind s1.cores c).isNone then s1
  else modCore s1 c fun x => { x with cache := x.cache.filter fun l => l.pa ≠ line }

/-- R46, R58, R254, R271: whether a die's copy may serve a load of a line: a plain one, that sampled no version,
reaches no reduction page, and was not issued past an incomplete fence. -/
def copyServes (s : State) (o : Nat) (op : Op) (line : Nat) : Bool :=
  (op.kind == .load || op.kind == .prefetch || op.kind == .gather || op.kind == .nodeFetch) &&
    op.sample.isNone && decide ((op.attrOf line).red = 0) && !pastFence s o op 2

/-- R50, R256: a load that its home has served: what its die and its core held of the line goes, and the line as
read takes its place where it may; the die takes a copy if its slice so chooses. -/
def loadedHome (s : State) (r : Req) (op : Op) (b : List Byte) : State :=
  let now := copyClock s op.die r.line
  let d := draw (dropOwn s op r.line)
  let s1 := if copyServes s r.op op r.line && copyable s op.die r.line && decide (d.1 % 2 = 0) then
      addCopy d.2 op.die r.line now b else d.2
  fillLoaded (gotLine s1 r.op r.line b) op r.line now b

/-- R254: a load that its die's copy serves, where there is one that may, and the die so chooses. -/
def servedCopy (s : State) (r : Req) (op : Op) : Option State :=
  let d := draw s
  match s.copies.find? fun c => decide (c.die = op.die ∧ c.pa = r.line) with
  | none => none
  | some c =>
    if copyServes s r.op op r.line && freshCopy s op.die c.pa c.filled && decide (d.1 % 2 = 0) then
      let own := d.2.copies
      some (fillLoaded (gotLine { dropOwn d.2 op r.line with copies := own } r.op r.line c.bytes) op r.line
        c.filled c.bytes)
    else none

/-- R256: a load at its home; its die's copy may serve it instead (R254). A bag's read brings no line into the
shared cache (R358). -/
def performLoad (s : State) (id : Nat) (r : Req) : State :=
  let bytes := mbytes s.mem r.line 128
  let op := tget s.ops r.op default
  let s0 := doneReq s id
  let bag := r.remote.isNone && op.kind == .bag
  let s1 := modHomeLine s0 r.line fun h => { h with resident := h.resident || !bag }
  match r.remote with
  | some m => reply s1 m 1 0 bytes
  | none => (servedCopy s0 r op).getD (loadedHome s1 r op bytes)

/-- R254, R416: a copy of a line of another device serves a load instead of its home. -/
def servedRemote (s : State) (id : Nat) (r : Req) : Option State :=
  if isRemote r.line && r.remote.isNone && eligible s id r then
    servedCopy (doneReq s id) r (tget s.ops r.op default)
  else none

/-- R436, R438: what a host processor's access to a line of this device finds: it is performed at the line's home slice as
soon as that can be reached from die 0 and no update step holds the line. -/
def hostReaches (s : State) (pa n : Nat) : Bool :=
  decide (0 < n ∧ lineOf (pa + n - 1) = lineOf pa ∧ pa < 2 ^ 49) && lineOpen s 0 pa && (homeLine s pa).locked.isNone &&
    (lget s.perDie 0 default).ready.getLsbD 1

/-- R436: a host processor reads a byte. -/
def hostLoad (s : State) (pa : Nat) : State :=
  if hostReaches s pa 1 then modHomeLine s pa fun h => { h with resident := true } else s

/-- R436: a host processor writes bytes of one line. -/
def hostStore (s : State) (pa : Nat) (b : List Byte) : State :=
  if hostReaches s pa b.length then homeWrite s pa b none else s

/-- R256: a load at its home slice; one numbered 0 is a host processor's, at the address that follows (R436). -/
def execHomeLoad (s : State) : Out :=
  let id := subject s 0
  let served := match tfind s.reqs id with
    | some r => if r.kind = .load then servedRemote s id r else none
    | none => none
  if id = 0 then .next (hostLoad s (subject s 1))
  else
    match served with
    | some s1 => .next s1
    | none => atHome [.load] performLoad s

/-- Whether the words that bytes of a line reach are written whole. -/
def wholeWords (m : BitVec 128) : Bool :=
  (List.range 32).all fun i =>
    let b := (List.range 4).map fun j => m.getLsbD (4 * i + j)
    b.all id || !b.any id

/-- R42, R227: a store updates the copy of its line in its own core's cache. Where the copy may be behind other agents'
writes, its invalidation being on its way (R53) or its line another device's (R416), and part of a word is written, the copy
goes instead: a read of the word would otherwise find bytes that never stood together (notes/assumptions/57.md). -/
def updateOwnCopy (s : State) (c line : Nat) (parts : List (Nat × List Byte × Nat)) : State :=
  let img := lineImage parts
  let behind := isRemote line || decide ((⟨c, line⟩ : Invalidation) ∈ s.invalidations)
  let merge := fun l : CacheLine =>
    if l.pa = line then
      { l with bytes := (List.range 128).map fun i => if img.1.getLsbD i then lget img.2 i 0 else lget l.bytes i 0 }
    else l
  let new := fun l : List CacheLine =>
    if behind && !wholeWords img.1 then l.filter fun x => x.pa ≠ line else l.map merge
  if (tfind s.cores c).isNone then s else modCore s c fun x => { x with cache := new x.cache }

/-- The warp whose write a request is; an engine's is no warp's (R53, R58). -/
def reqWarp (s : State) (r : Req) : Option Nat :=
  let op := tget s.ops r.op default
  if r.remote.isSome || op.kind.engine then none else op.warp

/-- R41, R256: a store performed at its home, lane after lane. -/
def performStore (s : State) (id : Nat) (r : Req) : State :=
  let op := tget s.ops r.op default
  let core := if r.remote.isNone && (op.kind == .store || op.kind == .storeRelease) then
    some (coreKey op.die op.core) else none
  let s0 := r.parts.foldl (fun s p => homeWrite s p.1 p.2.1 core (reqWarp s r)) (doneReq s id)
  let s1 := if r.remote.isSome then s0 else dropCopies s0 op.die r.line
  match r.remote with
  | some m => reply s1 m 5 0 []
  | none => match core with
    | some c => updateOwnCopy s1 c r.line r.parts
    | none => s1

/-- R256: a store at its home slice; one numbered 0 is a host processor's, of the bytes that follow its address (R436). -/
def execHomeStore (s : State) : Out :=
  if subject s 0 = 0 then .next (hostStore s (subject s 1) (((subjects s).drop 2).map (BitVec.ofNat 8)))
  else atHome [.store] performStore s

/-- The die of the holder of a copy. -/
def Invalidation.die (v : Invalidation) : Nat := if v.holder < 100000 then v.holder / 288 else v.holder - 100000

/-- R405, R406: whether an invalidation crosses the die-to-die link behind another one, of the same home slice to the same
core or copy slice; the list has them in the order in which they were sent. -/
def behindOnLink (s : State) (n : Nat) (v : Invalidation) : Bool :=
  decide (s.dies = 2 ∧ homeOf s v.pa / 96 ≠ v.die) && (s.invalidations.take n).any fun u =>
    decide (u.holder = v.holder ∧ homeOf s u.pa = homeOf s v.pa ∧ copySlice v.die u.pa = copySlice v.die v.pa)

/-- R53: an invalidation reaches a holder, unless the die-to-die link that it must cross is down (R405) or has one to
deliver before it (R406); a die's copy goes with what its cores filled from it. -/
def execCopyInvalidation (s : State) : Out :=
  match s.invalidations[subject s 0]? with
  | none => .next s
  | some v =>
    if acrossDown s v.die v.pa || behindOnLink s (subject s 0) v then .next s
    else
    let s1 := { s with invalidations := s.invalidations.filter (· ≠ v) }
    let drop := fun (s : State) (c : Nat) => modCore s c fun x =>
      { x with cache := x.cache.filter fun l => l.pa ≠ v.pa }
    if v.holder < 100000 then .next (drop s1 v.holder)
    else
      let die := v.holder - 100000
      let s2 := { s1 with copies := s1.copies.filter fun c => !(decide (c.die = die ∧ c.pa = v.pa)) }
      .next ((tkeys s2.cores).foldl (fun s c => if c / 288 = die then drop s c else s) s2)

/-- R227, R416: a line of another device has been held for its lifetime: a core's line, or with a holder
from 100000 on a die's copy. -/
def execCachedCopyExpiry (s : State) : Out :=
  let h := subject s 0
  let pa := subject s 1
  let old := fun die filled => isRemote pa && decide (filled + 65536 ≤ copyClock s die pa)
  if h < 100000 then
    if (tfind s.cores h).isNone then .next s
    else .next (modCore s h fun x => { x with cache := x.cache.filter fun l =>
      !(decide (l.pa = pa) && old (h / 288) l.filled) })
  else .next { s with copies := s.copies.filter fun c =>
    !(decide (c.die = h - 100000 ∧ c.pa = pa) && old c.die c.filled) }

def execLineWriteBack (s : State) : Out := .next (writeBack s (subject s 0))

/-! ## Instructions of the home slices (R257 to R264) -/

def atStall (s : State) (k : Nat) : Bool := decide (63 ≤ countOf (warpAt s k) .at')

/-- R259: class atm, and the f32 of ATOMF. -/
def acceptsAtm (m : Word) : Bool :=
  let t := modeType m
  decide (t = 0 ∨ t = 1 ∨ (6 ≤ t ∧ t ≤ 8))
def acceptsF32 (m : Word) : Bool := decide (modeType m = 6)

/-- What an atomic does, as its requests carry it: the operation (0 to 6 as ATOM names them, 8 to 10 as
ATOMF does, 16 compare and swap), 32 for unsigned order, 64 for 64 bits, 128 when nothing returns. -/
def atomCode (op : Nat) (wide silent : Bool) (m : Word) : Nat :=
  op + (if modeType m = 1 then 32 else 0) + (if wide then 64 else 0) + (if silent then 128 else 0)

/-- The elements of a home-slice instruction in global memory, and its version sample; it raises `at` (R231). The
gang holds until every line has translated (R258). -/
def startHeld (kind : OpKind) (code : Nat) (r : BitVec 4) (z dst : Nat) (lanes : List Nat)
    (idx : Nat → Nat) (data : Nat → List Byte) (s : State) (k : Nat) (sl : BitVec 8) : State :=
  let w := warpAt s k
  let br := tget w.recs r.toNat 0
  let id := newId s
  let smp := sampleVersion id.2 w.die w.core id.1 br kind.writer
  let base := accessBase smp.1 br smp.2 kind.writer
  let elems := lanes.map fun l => { elemAt br base z 1 l (idx l) [] with data := data l }
  let op : Op := { gangOp s k sl kind with
    code := code, z := z, dst := dst, record := br, sample := smp.2, elems := elems
    mask := elemLanes elems }
  holdFor (raiseCounter { smp.1 with ops := tput smp.1.ops id.1 op } k .at' id.1) k sl id.1

/-- The bytes of `n` data registers of a lane. -/
def laneData (s : State) (w : Warp) (d : BitVec 7) (n l : Nat) : List Byte :=
  (groupRegs d n).flatMap fun f => leBytes 4 (srcReg s w f l).toNat

def heldStall (r : BitVec 4) (s : State) (k : Nat) : Bool :=
  atStall s k || writerHeld s (tget (warpAt s k).recs r.toNat 0)

/-- R258, R262: a global atomic of `n` data registers that writes `out` of them. -/
def globalAtomic (op z n out : Nat) (accepts : Word → Bool) (h : BitVec 2) (d a : BitVec 7) (r : BitVec 4)
    (s : State) : Out :=
  issue { reads := a.toNat :: groupRegs d n, waits := groupRegs d out, hold := h.toNat, a := a.toNat
          accepts := accepts, stall := heldStall r }
    (throughRecord r fun s k sl =>
      let w := warpAt s k
      .done (startHeld .atomic (atomCode op (decide (z = 8)) (decide (out = 0)) (gangMode w sl)) r z
        (w.win + d.toNat) (gangLanes w sl) (fun l => (srcReg s w a.toNat l).toNat) (laneData s w d n)
        s k sl)) s

/-- R256, R262: a cluster-space atomic. -/
def clusterAtomic (op n out : Nat) (accepts : Word → Bool) (h : BitVec 2) (d a : BitVec 7) (s : State) :
    Out :=
  issue { reads := a.toNat :: groupRegs d n, waits := groupRegs d out, hold := h.toNat, a := a.toNat
          accepts := accepts, stall := atStall } (passing fun s k sl =>
    let w := warpAt s k
    let elems := (gangLanes w sl).map fun l =>
      let at' := (srcReg s w a.toNat l).toNat
      { (default : Elem) with
        lane := l, addr := at', data := laneData s w d n l
        st := if at' % 4 ≠ 0 then .addrError else .live }
    let o := addOp s { gangOp s k sl .atomicCluster with
      code := atomCode op false (decide (out = 0)) (gangMode w sl)
      dst := w.win + d.toNat, elems := elems, placed := true }
    markPending (raiseCounter o.2 k .at' o.1) k sl ((groupRegs d out).map (w.win + ·)) o.1) s

def execAtomGlobal (h : BitVec 2) (d a : BitVec 7) (o : BitVec 3) (r : BitVec 4) (s : State) : Out :=
  globalAtomic o.toNat 4 1 1 acceptsAtm h d a r s
def execAtomCluster (h : BitVec 2) (d a : BitVec 7) (o : BitVec 3) (s : State) : Out :=
  clusterAtomic o.toNat 1 1 acceptsAtm h d a s
def execRedGlobal (h : BitVec 2) (d a : BitVec 7) (o : BitVec 3) (r : BitVec 4) (s : State) : Out :=
  globalAtomic o.toNat 4 1 0 acceptsAtm h d a r s
def execRedCluster (h : BitVec 2) (d a : BitVec 7) (o : BitVec 3) (s : State) : Out :=
  clusterAtomic o.toNat 1 0 acceptsAtm h d a s
def execAtomfGlobal (h : BitVec 2) (d a : BitVec 7) (o : BitVec 3) (r : BitVec 4) (s : State) : Out :=
  globalAtomic (8 + o.toNat) 4 1 1 acceptsF32 h d a r s
def execAtomfCluster (h : BitVec 2) (d a : BitVec 7) (o : BitVec 3) (s : State) : Out :=
  clusterAtomic (8 + o.toNat) 1 1 acceptsF32 h d a s
def execAcasGlobal (h : BitVec 2) (d a : BitVec 7) (r : BitVec 4) (s : State) : Out :=
  globalAtomic 16 4 2 1 (fun _ => true) h d a r s
def execAcasCluster (h : BitVec 2) (d a : BitVec 7) (s : State) : Out :=
  clusterAtomic 16 2 1 (fun _ => true) h d a s
def execAtomD (h : BitVec 2) (d a : BitVec 7) (o : BitVec 3) (r : BitVec 4) (s : State) : Out :=
  globalAtomic o.toNat 8 2 2 acceptsAtm h d a r s
def execRedD (h : BitVec 2) (d a : BitVec 7) (o : BitVec 3) (r : BitVec 4) (s : State) : Out :=
  globalAtomic o.toNat 8 2 0 acceptsAtm h d a r s
def execAcasD (h : BitVec 2) (d a : BitVec 7) (r : BitVec 4) (s : State) : Out :=
  globalAtomic 16 8 4 2 (fun _ => true) h d a r s

/-- R264: ATOMP. -/
def execAtomp (d : BitVec 7) (r : BitVec 4) (n : BitVec 6) (s : State) : Out :=
  issue { reads := groupRegs d 3, waits := [d.toNat + 1], stall := heldStall r }
    (throughRecord r fun s k sl =>
      let w := warpAt s k
      if (tfind (tget s.contexts w.ident.ctx default).routines n.toNat).isNone then .trap 19 1 false
      else .done (startHeld .routine n.toNat r 4 (w.win + d.toNat + 1) (gangLanes w sl)
        (fun l => (srcReg s w d.toNat l).toNat) (laneData s w (d + 1) 2) s k sl)) s

/-! ## What an atomic computes (R263) -/

/-- R263: the new value of an element of `b` bits from its old one and the lane's operand bytes. -/
def atomStep (code old : Nat) (data : List Byte) : Nat :=
  let wide := decide (code / 64 % 2 = 1)
  let n := if wide then 8 else 4
  let b := 8 * n
  let v := leNat (data.take n)
  let less := if code / 32 % 2 = 1 then decide (old < v) else decide (toSigned b old < toSigned b v)
  match code % 32 with
  | 0 => (old + v) % 2 ^ b
  | 1 => if less then old else v
  | 2 => if less then v else old
  | 3 => old &&& v
  | 4 => old ||| v
  | 5 => old ^^^ v
  | 6 => v
  | 8 => rneAdd old v
  | 9 => rneMinMax false old v
  | 10 => rneMinMax true old v
  | _ => if old = v then leNat (data.drop n) else old

/-- R263: performs the lanes of a request one after another; the old values are returned. -/
def atomLanes (code : Nat) (except by' : Option Nat) (s : State) :
    List (Nat × List Byte × Nat) → State × List (Nat × Nat)
  | [] => (s, [])
  | (pa, data, lane) :: r =>
    let n := if code / 64 % 2 = 1 then 8 else 4
    let old := mnat s.mem pa n
    let t := atomLanes code except by' (homeWrite s pa (leBytes n (atomStep code old data)) except by') r
    (t.1, (lane, old) :: t.2)

/-- Gives an operation's lanes their results. -/
def giveResults (s : State) (o : Nat) (l : List (Nat × Nat)) : State :=
  modOp s o fun op => { op with
    results := l.foldl (fun t p => tput t p.1 (BitVec.ofNat 64 p.2)) op.results }

/-- Ends a request at its home with the results of its lanes. -/
def answerReq (s : State) (id : Nat) (r : Req) (l : List (Nat × Nat)) : State :=
  let s1 := doneReq s id
  match r.remote with
  | some m => reply s1 m 1 0 (Config.resultBytes (l.flatMap fun p => [p.1, p.2]))
  | none => giveResults (dropOwn s1 (tget s1.ops r.op default) r.line) r.op l

/-! ## CACHEOP at the home (R274) -/

/-- R273, R274: the line's target, counter and bytes after an operation; flush and evict change no
value. -/
def performCacheop (s : State) (id : Nat) (r : Req) : State :=
  let arg := r.code / 8
  let s1 := match r.code % 8 with
    | 0 =>
      let s1 := if arg / 65536 % 2 = 1 then
          homeWrite s r.line (List.replicate 128 0) none (reqWarp s r) else s
      modHomeLine s1 r.line fun h => { h with target := arg % 65536, counter := 0 }
    | 1 => modHomeLine s r.line fun h => { h with target := 0 }
    | 2 => writeBack s r.line
    | 3 =>
      let s1 := modHomeLine (writeBack s r.line) r.line fun h => { h with resident := false }
      { s1 with copies := s1.copies.filter fun c => c.pa ≠ r.line }
    | 4 => modHomeLine s (blockOf r.line) fun h => { h with packOff := false }
    | _ => modHomeLine s (blockOf r.line) fun h => { h with packOff := true }
  answerReq s1 id r []

/-- R263, R274: an atomic, or a CACHEOP, at its home. -/
def performAtomic (s : State) (id : Nat) (r : Req) : State :=
  if r.kind = .cacheop then performCacheop s id r
  else
    let t := atomLanes r.code none (reqWarp s r) s r.parts
    answerReq t.1 id r t.2

/-- R263, R274: performed as one step. -/
def execHomeAtomic (s : State) : Out := atHome [.atomic, .cacheop] performAtomic s

/-! ## Routines (R267) -/

/-- R267: runs a routine for each lane of a request, in ascending order. -/
def routineLanes (code : List Word) (line : Nat) (by' : Option Nat) (s : State) :
    List (Nat × List Byte × Nat) → State × List (Nat × Nat)
  | [] => (s, [])
  | (pa, data, lane) :: r =>
    let arg := fun i => BitVec.ofNat 32 (leNat ((data.drop (4 * i)).take 4))
    let x : Tbl Word := [(10, arg 0), (11, arg 1), (12, BitVec.ofNat 32 (pa % 128)), (13, BitVec.ofNat 32 lane)]
    let m := mstore [] 0 (mbytes s.mem line 128)
    let p := runRoutine code m 17 0 x m
    let t := routineLanes code line by' (homeWrite s line (mbytes p.2 0 128) none by') r
    (t.1, (lane, p.1.toNat) :: t.2)

/-- R267: a routine's request at its home. -/
def performRoutine (s : State) (id : Nat) (r : Req) : State :=
  let code := tget (tget s.contexts (reqCtx r) default).routines r.code []
  let t := routineLanes code r.line (reqWarp s r) s r.parts
  answerReq t.1 id r t.2

def execRoutineRun (s : State) : Out := atHome [.routine] performRoutine s

/-! ## Condition monitors (R268 to R270) -/

/-- The word that a monitor watches: in global memory at its home, or in cluster space. -/
def monitored (s : State) (m : Monitor) : Word :=
  if m.cluster then
    let op := tget s.ops m.op default
    BitVec.ofNat 32 (leNat (readTarget s op 4 (clusterTarget s op m.addr)))
  else mword s.mem m.addr

/-- R43, R268: whether a value written to the watched register in this step meets a monitor's condition. -/
def writtenMet (s : State) (m : Monitor) : Bool :=
  m.cluster && match clusterTarget s (tget s.ops m.op default) m.addr with
    | .reg k n l _ => (warpAt s k).wrote.any fun x =>
        decide (x.1 = 32 * n + l) && condMet m.cond m.signed x.2 m.value
    | _ => false

def monitorMet (s : State) (m : Monitor) : Bool := condMet m.cond m.signed (monitored s m) m.value

/-- R269: whether a home has a free monitor; a register's core needs none. -/
def monitorFree (s : State) (m : Monitor) : Bool :=
  let used := (s.monitors.filter fun x => decide (x.home = m.home ∧ x.cluster = m.cluster) && x.armed).length
  if m.cluster then decide (0x800000 ≤ m.addr ∨ used < 64) else decide (used < 512)

/-- R270: a saved warp one of whose lanes is satisfied may return. -/
def wakeSaved (s : State) (o : Nat) : State :=
  match (tfind s.ops o).bind Op.warp with
  | some k => if (tfind s.saved k).isSome then makeRestorable s k else s
  | none => s

/-- R50, R268, R270: a lane is satisfied, and has read its element at its home. -/
def satisfied (s : State) (m : Monitor) : State :=
  if m.remote.isSome then s
  else
    let s1 := wakeSaved s m.op
    if m.cluster then s1 else dropOwn s1 (tget s1.ops m.op default) (lineOf m.addr)

/-- R268: checks a lane once, and arms a monitor for it unless it is satisfied. -/
def checkLane (s : State) (m : Monitor) : State :=
  if monitorMet s m then satisfied s m
  else { s with monitors := s.monitors ++ [{ m with armed := monitorFree s m }] }

/-- R268: the end of a WAITM whose lanes are all satisfied; for a saved warp the task-graph machine learns
of it at the first satisfied lane (R270). -/
def settleWaitm (s : State) (o : Nat) : State :=
  match tfind s.ops o with
  | none => s
  | some op =>
    match op.warp with
    | none => s
    | some k =>
      let waits := !op.placed || op.faulted || outstanding s o ||
        (s.monitors.any fun m => decide (m.op = o ∧ m.remote = none)) ||
        (op.kind == .waitmCluster && op.elems.any fun e => e.st = .live)
      if waits || (tfind s.warps k).isNone then s
      else
        let scope := modeScope op.mode
        let s1 := letGo s k op.slices o
        let s2 := acquireWarp s1 k (if op.kind = .waitmCluster then min 2 scope else scope)
        lower (endOp (landFlags s2 k o (boundsFlags op.elems ||| op.flags)) o) k .at' o

/-- R268: after a write, the armed monitors are checked again; a wake-up that must cross a die-to-die link that is
down stays at its home (R405). -/
def checkMonitors (s : State) : State :=
  let met := s.monitors.filter fun m => m.armed && (m.met || monitorMet s m || writtenMet s m) &&
    (m.cluster || m.remote.isSome || !acrossDown s (tget s.ops m.op default).die m.addr)
  if met.isEmpty then s
  else
    let s1 := { s with monitors := s.monitors.filter fun m => m ∉ met }
    met.foldl (fun s m =>
      match m.remote with
      | none => settleWaitm (satisfied s m) m.op
      | some x => if s.monitors.any fun y => y.op = m.op then s else reply s x 1 0 []) s1

/-- R268: WAITM. -/
def waitmForm (h : BitVec 2) (d a : BitVec 7) : Form :=
  { reads := [d.toNat, a.toNat], hold := h.toNat, a := a.toNat, drains := true
    accepts := fun m => acceptsAtm m && scopeOk m, stall := atStall }

/-- The condition of a WAITM, 32 added for unsigned order. -/
def waitmCode (c : BitVec 3) (m : Word) : Nat := c.toNat + (if modeType m = 1 then 32 else 0)

def execWaitmGlobal (h : BitVec 2) (d a : BitVec 7) (c : BitVec 3) (r : BitVec 4) (s : State) : Out :=
  issue (waitmForm h d a) (throughRecord r fun s k sl =>
    let w := warpAt s k
    if recPub (tget w.recs r.toNat 0) then .trap 19 5 false
    else .done (startHeld .waitm (waitmCode c (gangMode w sl)) r 4 0 (gangLanes w sl)
      (fun l => (srcReg s w a.toNat l).toNat) (laneData s w d 1) s k sl)) s

def execWaitmCluster (h : BitVec 2) (d a : BitVec 7) (c : BitVec 3) (s : State) : Out :=
  issue (waitmForm h d a) (fun s k sl =>
    let w := warpAt s k
    let elems := (gangLanes w sl).map fun l =>
      let at' := (srcReg s w a.toNat l).toNat
      { (default : Elem) with
        lane := l, addr := at', data := laneData s w d 1 l
        st := if at' % 4 ≠ 0 then .addrError else .live }
    let o := addOp s { gangOp s k sl .waitmCluster with
      code := waitmCode c (gangMode w sl), elems := elems, placed := true }
    let s1 := postAddressErrors o.2 o.1 (tget o.2.ops o.1 default) 7 (elems.filter fun e => e.st = .addrError)
    .done (settleWaitm (holdFor (raiseCounter s1 k .at' o.1) k sl o.1) o.1)) s

/-- R268: the check of a request's lanes at their home. -/
def performMonitor (s : State) (id : Nat) (r : Req) : State :=
  let op := tget s.ops r.op default
  let mon := fun p : Nat × List Byte × Nat =>
    { (default : Monitor) with
      op := if r.remote.isSome then id else r.op, lane := p.2.2, home := r.home, addr := p.1
      cond := r.code % 32, value := BitVec.ofNat 32 (leNat p.2.1), signed := decide (r.code / 32 = 0)
      checked := clockOf s op.die op.core, remote := r.remote }
  let s1 := r.parts.foldl (fun s p => checkLane s (mon p)) (doneReq s id)
  match r.remote with
  | none => settleWaitm s1 r.op
  | some m => if s1.monitors.any fun y => y.op = id then s1 else reply s1 m 1 0 []

def execMonitorCheck (s : State) : Out := atHome [.monitor] performMonitor s

/-- R269: the lanes of an operation that found no free monitor are checked again after 1,024 mc. -/
def execMonitorRetry (s : State) : Out :=
  let o := subject s 0
  let op := tget s.ops o default
  let now := clockOf s op.die op.core
  let due := s.monitors.filter fun m => decide (m.op = o ∧ m.checked + 1024 ≤ now) && !m.armed
  let s1 := { s with monitors := s.monitors.filter fun m => m ∉ due }
  let s2 := due.foldl (fun s m => checkLane s { m with checked := now }) s1
  .next (due.foldl (fun s m => match m.remote with
    | none => settleWaitm s o
    | some x => if s.monitors.any fun y => y.op = o then s else reply s x 1 0 []) s2)

/-! ## CACHEOP (R274) -/

/-- R274: the element form, acting once for the warp. -/
def cacheop (op : Nat) (d : BitVec 7) (r : BitVec 4) (s : State) : Out :=
  issue { reads := groupRegs d 2, stall := heldStall r } (throughRecord r fun s k sl =>
    let w := warpAt s k
    let idx := (warpOperand s w sl d.toNat).toNat
    let arg := (warpOperand s w sl (d.toNat + 1)).toNat
    if op = 0 ∧ (arg % 65536 = 0 ∨ arg / 2 ^ 17 ≠ 0) then .trap 19 3 false
    else .done (startHeld .cacheop (op + 8 * arg) r 1 0 [warpLane w sl] (fun _ => idx) (fun _ => [0]) s k
      sl)) s

def execCacheopArm (d : BitVec 7) (r : BitVec 4) (s : State) : Out := cacheop 0 d r s
def execCacheopDisarm (d : BitVec 7) (r : BitVec 4) (s : State) : Out := cacheop 1 d r s
def execCacheopFlush (d : BitVec 7) (r : BitVec 4) (s : State) : Out := cacheop 2 d r s
def execCacheopEvict (d : BitVec 7) (r : BitVec 4) (s : State) : Out := cacheop 3 d r s
def execCacheopPackOn (d : BitVec 7) (r : BitVec 4) (s : State) : Out := cacheop 4 d r s
def execCacheopPackOff (d : BitVec 7) (r : BitVec 4) (s : State) : Out := cacheop 5 d r s

/-- R274: the lines of a range that translate, each sent as a request; the others are skipped. -/
def rangeReqs (s : State) (o : Nat) (op : Op) : List Nat → State
  | [] => s
  | va :: r =>
    match translate s op.walker va .read with
    | (s1, .error _) => rangeReqs s1 o op r
    | (s1, .ok t) =>
      let l := transLine t va
      let op1 := { op with lines := op.lines ++ [l] }
      rangeReqs (sendReq { s1 with ops := tput s1.ops o op1 } { coreReq s1 o op1 .cacheop l.pa [] with code := op.code })
        o op1 r

/-- R274: the lines that a range of bytes covers, wholly or in part. -/
def rangeLines (start len : Nat) : List Nat := if len = 0 then [] else linesOf start len

def cacheopRange (op : Nat) (h : BitVec 2) (a b : BitVec 7) (s : State) : Out :=
  issue { reads := [a.toNat, a.toNat + 1, b.toNat], hold := h.toNat, a := a.toNat, stall := atStall }
    (fun s k sl =>
      let w := warpAt s k
      let v := fun f => (warpOperand s w sl f).toNat
      let start := (v a.toNat + 2 ^ 32 * v (a.toNat + 1)) % 2 ^ 57
      let len := v b.toNat
      if 2 ^ 30 < len then .trap 19 4 false
      else passing (fun s k sl =>
        let op' : Op := { gangOp s k sl .cacheopRange with code := op, placed := true }
        let o := addOp s op'
        rangeReqs (raiseCounter o.2 k .at' o.1) o.1 op' ((rangeLines start len).filter (· < 2 ^ 57))) s k sl) s

def execCacheopRangeFlush (h : BitVec 2) (a b : BitVec 7) (s : State) : Out := cacheopRange 2 h a b s
def execCacheopRangeEvict (h : BitVec 2) (a b : BitVec 7) (s : State) : Out := cacheopRange 3 h a b s

/-! ## Translation of instructions that hold (R258) -/

/-- The registers that an atomic's return writes. -/
def Op.outRegs (op : Op) : List Nat :=
  match op.kind with
  | .routine => [op.dst]
  | .atomic => outs
  | .atomicCluster => outs
  | _ => []
where
  outs : List Nat :=
    if 128 ≤ op.code then [] else if op.code / 64 % 2 = 1 then [op.dst, op.dst + 1] else [op.dst]

def heldReqKind : OpKind → ReqKind
  | .atomic => .atomic
  | .routine => .routine
  | .waitm => .monitor
  | _ => .cacheop

/-- R258: takes an instruction that is to be issued afresh, or trapped, off the counter that its issue raised. -/
def uncount (o : Nat) (w : Warp) : Warp :=
  { w with counters := { w.counters with at' := w.counters.at'.filter fun c => c.op ≠ o } }

/-- R256, R258: sends the requests of an instruction whose lines have all translated; the gang goes on,
but for WAITM. -/
def departHeld (s : State) (o k : Nat) (op : Op) (ok : List (Elem × List OpLine)) : State :=
  let s1 := markPending s k op.slices op.outRegs o
  let lines := (ok.flatMap fun p => p.2.map OpLine.pa).dedup
  let s2 := lines.foldl (fun s l =>
    let parts := (ok.filter fun p => p.2.any fun x => x.pa = l).map fun p =>
      (physOf p.2 p.1.addr, p.1.data, p.1.lane)
    sendReq s { coreReq s o op (heldReqKind op.kind) l parts with code := op.code }) s1
  if op.kind = .waitm then settleWaitm s2 o
  else letGo s2 k op.slices o

/-- R258: translates every line of a home-slice instruction before any lane leaves the core. -/
def translateHeld (s : State) (o k : Nat) (op : Op) : State :=
  let r := placeOp s op
  let p := sortPlaces r.2
  let ls := p.ok.flatMap Prod.snd
  if mustFollow s o op (op.vlines ++ ls.map OpLine.va) (ls.map OpLine.pa) ||
      (op.kind.writer && !shadowFree s op.sample) then s
  else if !p.faults.isEmpty then
    let fm := elemLanes (p.faults.map Prod.fst)
    let f := firstFault p.faults
    let op1 := { op with faulted := true, fmask := fm }
    opRecord { r.1 with ops := tput r.1.ops o op1 } o op1 f.1 0 f.2 true fm (.op o)
  else if op.kind = .cacheop ∧ op.code % 8 ≤ 1 ∧ ls.any (fun l => l.attr.red = 0) then
    issueTrap (modWarp (endOp (unsample r.1 o) o) k (uncount o)) k op.slices 19 2 false
  else
    let beyond := op.elems.filter fun e => decide (e.st = .addrError)
    let op1 := { op with
      elems := mergeElems op.elems p.elems, lines := ls.dedup, placed := true, mask := 0 }
    let s1 := { r.1 with ops := tput r.1.ops o op1 }
    let s2 := postAddressErrors (postAddressErrors s1 o op1 7 p.misaligned) o op1 8 beyond
    let s3 := match p.formats with
      | [] => s2
      | f :: _ => formatTrap s2 k o op.slices f.2
    departHeld s3 o k op1 p.ok

/-- R258: system software replays a home-slice instruction: it translates again. One that found its entry
disabled at its issue samples it when it does. -/
def replayHeld (s : State) (o : Nat) (op : Op) : State :=
  modOp s o fun x => { x with
    faulted := false, fmask := 0, resample := recPub op.record && op.sample.isNone }

/-- R258: an aborted instruction drops its faulted lanes and translates the others. -/
def abortHeld (s : State) (o : Nat) : State :=
  modOp s o fun op => { op with
    elems := op.elems.map fun e => if op.fmask.getLsbD e.lane then { e with st := .dropped } else e
    mask := op.mask &&& ~~~op.fmask, faulted := false, fmask := 0, flags := op.flags ||| flagOOB }

/-! ## Returns (R259, R260) -/

/-- R259: writes an atomic's destinations, all lanes together. -/
def writeResults (s : State) (o k : Nat) (op : Op) : State :=
  let regs := op.outRegs
  modWarp s k fun w => op.elems.foldl (fun w e =>
    let v := (tget op.results e.lane 0).toNat
    ((List.range regs.length).zip regs).foldl (fun w q =>
      landReg w o q.2 e.lane (BitVec.ofNat 32 (v / 2 ^ (32 * q.1)))) w) w

/-- R260: everything that an atomic, a routine or a CACHEOP asked for has come back. -/
def finishAtomic (s : State) (o k : Nat) (op : Op) : State :=
  let s1 := landFlags (writeResults s o k op) k o (boundsFlags op.elems ||| op.flags)
  lower (endOp (unsample s1 o) o) k .at' o

def execAtomicReturn (s : State) : Out :=
  let o := subject s 0
  match tfind s.ops o with
  | none => .next s
  | some op =>
    match op.warp with
    | none => .next s
    | some k =>
      if !returned s o op || (tfind s.warps k).isNone then .next s
      else
        match op.kind with
        | .atomic => .next (finishAtomic s o k op)
        | .routine => .next (finishAtomic s o k op)
        | .cacheop => .next (finishAtomic s o k op)
        | .cacheopRange => .next (finishAtomic s o k op)
        | _ => .next s

/-! ## Cluster space (R230, R256) -/

/-- R256: performs one element of a cluster-space atomic. -/
def performAtomCluster (s : State) (o : Nat) (op : Op) (e : Elem) : State :=
  let t := clusterTarget s op e.addr
  if t = .nothing then finishElem s o e false 0
  else
    let old := leNat (readTarget s op 4 t)
    finishElem (writeTarget s o op (leBytes 4 (atomStep op.code old e.data)) t) o e true (BitVec.ofNat 64 old)

/-- R268: checks one element of a cluster-space WAITM; the monitors of the registers are numbered apart from those
of the store's slices. -/
def performWaitCluster (s : State) (o : Nat) (op : Op) (e : Elem) : State :=
  let t := clusterTarget s op e.addr
  if t = .nothing then finishElem s o e false 0
  else
    let m : Monitor := { (default : Monitor) with
      op := o, lane := e.lane, addr := e.addr, cluster := true
      home := if e.addr < 0x800000 then 16 * op.cluster + e.addr / 0x80000 else 100000 + op.cluster
      cond := op.code % 32, value := BitVec.ofNat 32 (leNat e.data), signed := decide (op.code / 32 = 0)
      checked := clockOf s op.die op.core }
    finishElem (checkLane s m) o e true 0

/-- R229 to R231: a cluster-space operation performs the elements that it can; an LDC issued past an incomplete
fence waits for it (R58, notes/assumptions/56.md), and the WAITM of a saved warp is still checked (R270). -/
def execClusterSpaceAccess (s : State) : Out :=
  let o := subject s 0
  match tfind s.ops o with
  | none => .next s
  | some op =>
    match op.warp with
    | none => .next s
    | some k =>
      let saved := (tfind s.warps k).isNone
      if (saved && op.kind != .waitmCluster) || !op.kind.cluster || op.faulted ||
          (op.kind == .clusterLoad && pastFence s o op 0) then .next s
      else
        match op.kind with
        | .arrive => .next (performArrive s o k op)
        | .atomicCluster =>
          let r := readyElems s o op true
          let s1 := r.1.foldl (fun s e => performAtomCluster s o op e) r.2
          let op1 := tget s1.ops o default
          if op1.elems.any fun e => e.st = .live then .next s1
          else .next (finishAtomic (postAddressErrors s1 o op1 7 (op1.elems.filter fun e => e.st = .addrError))
            o k op1)
        | .waitmCluster =>
          let r := readyElems s o op false
          let s1 := r.1.foldl (fun s e => performWaitCluster s o op e) r.2
          .next (settleWaitm s1 o)
        | _ =>
          let write := op.kind == .clusterStore || op.kind == .clusterStoreRelease
          let r := readyElems s o op write
          .next (endCluster (r.1.foldl (fun s e => performCluster s o op write e) r.2) o k)

end Sys2Proof.Machine
end

