-- ==== Sys2Proof/Machine/Copies.lean ====
section
/-!
DEFINITION. Asynchronous copies (R245 to R248 of spec/07_memory_unit.md): their checks and issue, the
placement of their elements, their landing, and their records.
-/

namespace Sys2Proof.Machine

/-! ## Issue (R245 to R247) -/

/-- The operations of a core that hold its copy records. -/
def copiesOn (s : State) (die core : Nat) : List (Nat × Op) :=
  s.ops.filter fun p =>
    decide (p.2.die = die ∧ p.2.core = core) && (p.2.kind == .copy || p.2.kind == .planes)

/-- R245: the lowest free copy record of a core. -/
def freeCopy (s : State) (die core : Nat) : Option Nat :=
  (List.range 32).find? fun i => !((copiesOn s die core).any fun p => p.2.entry = i)

/-- The parameter quad of a copy. -/
def copyParams (s : State) (w : Warp) (sl : BitVec 8) (d : BitVec 7) : List Nat :=
  (groupRegs d 4).map fun f => (warpOperand s w sl f).toNat

/-- R247: the rows of a plane tile, and the bytes that it fills by element type. -/
def planeRows (p : List Nat) : Nat := lget p 3 0 % 2048
def planeBytes (ty rows : Nat) : Nat :=
  match ty with
  | 6 => 64 * rows
  | 7 => 64 * rows
  | 9 => 16 * rows + rows / 8
  | 10 => 32 * rows + rows / 8
  | _ => 0

/-- The bytes that a copy counts in its barrier object. -/
def copyTotal (planes : Bool) (ty : Nat) (p : List Nat) : Nat :=
  if planes then planeBytes ty (planeRows p) else lget p 3 0 * scalarSize ty

/-- R241, R246: the trap that the parameters of an ACPY take, if any. -/
def acpyCheck (ty : Nat) (p : List Nat) : Option (Nat × Nat) :=
  let z := scalarSize ty
  let m := lget p 3 0
  let c := lget p 1 0
  if m = 0 ∨ 2 ^ 21 < m then some (18, 1)
  else if c % z ≠ 0 ∨ 0x800000 < c + m * z then some (18, 2)
  else if !boAddress (lget p 2 0) then some (9, lget p 2 0)
  else none

/-- R241, R247: the trap that the parameters of an APLN take, if any. -/
def aplnCheck (ty : Nat) (p : List Nat) : Option (Nat × Nat) :=
  let rows := planeRows p
  let base := lget p 1 0
  if lget p 3 0 / 2048 % 32 ≠ 0 ∨ rows % 32 ≠ 0 ∨ rows = 0 ∨ 1024 < rows then some (18, 3)
  else if base % 128 ≠ 0 ∨ 0x800000 < base + planeBytes ty rows then some (18, 2)
  else if !boAddress (lget p 2 0) then some (9, lget p 2 0)
  else if (ty = 9 ∨ ty = 10) ∧ lget p 0 0 % 1024 ≠ 0 then some (18, 4)
  else none

/-- R247: whether a plane copy draws from a lane's generator, and how far it moves it. -/
def planeDraws (ty rows : Nat) (m : Word) : Nat := if ty = 6 ∧ modeRnd m = 5 then 32 * rows else 0

/-- Puts a copy in flight: its record, its barrier bytes, and the draws of R247 made at once. -/
def startCopy (planes : Bool) (dir mark : Nat) (br : BitVec 128) (p : List Nat) (rec : Nat) (s : State)
    (k : Nat) (sl : BitVec 8) : State :=
  let w := warpAt s k
  let m := gangMode w sl
  let ty := modeType m
  let id := newId s
  let smp := sampleVersion id.2 w.die w.core id.1 br (!planes && decide (dir = 1))
  let lane := warpLane w sl
  let g := tget w.gen lane 0
  let op : Op := { gangOp s k sl (if planes then .planes else .copy) with
    z := scalarSize ty, n := 1, code := dir + 2 * mark, record := br, sample := smp.2, entry := rec
    dst := w.slot, par := p.map (BitVec.ofNat 32) ++ [g], collective := w.ident.collective }
  let draws := if planes then planeDraws ty (planeRows p) m else 0
  let s1 := modWarp { smp.1 with ops := tput smp.1.ops id.1 op } k fun w =>
    { w with gen := tput w.gen lane ((List.range draws).foldl (fun g _ => genStep g) g) }
  boExpect s1 op.cluster (lget p 2 0) (copyTotal planes ty p)

/-- R245 to R247: the issue of a copy, a release at cohort scope. -/
def issueCopy (planes : Bool) (d : BitVec 7) (r : BitVec 4) (t c : BitVec 1) (s : State) : Out :=
  issue { reads := groupRegs d 4, drains := true
          accepts := fun m => acceptsMem m && (!planes || decide (modeType m ≠ 6) || roundsOk m)
          stall := fun s k => !planes && decide (t = 1) && writerHeld s (tget (warpAt s k).recs r.toNat 0) }
    (throughRecord r fun s k sl =>
      let w := warpAt s k
      let br := tget w.recs r.toNat 0
      let ty := modeType (gangMode w sl)
      let p := copyParams s w sl d
      if c = 1 ∧ !recPub br then .trap 16 4 false
      else
        match if planes then aplnCheck ty p else acpyCheck ty p with
        | some (cause, v) => .trap cause (BitVec.ofNat 32 v) false
        | none =>
          if !released w sl 2 then .wait s .other
          else
            match freeCopy s w.die w.core with
            | none => .wait s .waitc
            | some n => passing (startCopy planes t.toNat c.toNat br p n) s k sl) s

def execAcpy (d : BitVec 7) (r : BitVec 4) (t c : BitVec 1) (s : State) : Out := issueCopy false d r t c s
def execApln (d : BitVec 7) (r : BitVec 4) (t c : BitVec 1) (s : State) : Out := issueCopy true d r t c s

/-! ## Elements (R246, R247) -/

/-- A parameter of a copy in flight. -/
def Op.param (op : Op) (i : Nat) : Nat := (lget op.par i 0).toNat

/-- R247: whether a plane copy has a type that the rule's table does not name: it moves nothing, and takes the
format trap whatever its elements are. -/
def Op.untyped (op : Op) : Bool :=
  op.kind == .planes && decide (planeBytes (modeType op.mode) (op.param 3 % 2048) = 0)

/-- How many elements a copy moves. -/
def Op.moves (op : Op) : Nat :=
  if op.kind = .copy then op.param 3 else if op.untyped then 0 else 32 * (op.param 3 % 2048)

/-- Whether a plane copy reads scaled blocks. -/
def Op.scaled (op : Op) : Bool := op.kind == .planes && (decide (modeType op.mode = 9) || decide (modeType op.mode = 10))

/-- R247: the record index of element `e` of a plane tile, rows first; `geo` orders a scaled block. -/
def planeIndex (op : Op) (geo e : Nat) : Nat :=
  let i := e / 32
  let j := e % 32
  let t := op.code % 2 = 1
  if op.scaled then
    let row := if t then j else i % 32
    let col := if t then i % 32 else j
    op.param 0 + 1024 * (i / 32) + (if geo = 2 then 32 * col + row else 32 * row + col)
  else
    let h := op.param 3 / 65536
    op.param 0 + (if t then j * h + i else i * h + j)

/-- Element `k` of a copy, up to its address. -/
def copyElem (s : State) (op : Op) (geo k : Nat) : Elem :=
  let base := accessBase s op.record op.sample op.isWrite
  let idx := if op.kind = .copy then op.param 0 + k else planeIndex op geo k
  let e := elemAt op.record base op.z 1 k idx []
  if op.isWrite then { e with data := mbytes (storeOf s op.cluster) (op.param 1 + k * op.z) op.z } else e

/-- R247: places an element of a scaled plane tile: its code or byte, and its block's scale byte, in pages
of the format that the type names. -/
def placePlane (s : State) (op : Op) (pg : Pages) (e : Elem) : State × Pages × Place :=
  if modeType op.mode = 9 then placeScaled s op.walker pg 1 (codeAddr e) 1 (codeAddr e / 2)
  else placeScaled s op.walker pg 2 e.addr 1 e.addr

/-- R247: the geometry of the page that holds the block of element `k`, found by the one translation that the
copy then uses (R224); 1 where none does. -/
def planeGeometry (s : State) (op : Op) (pg : Pages) (k : Nat) : State × Pages × Nat :=
  if !op.scaled then (s, pg, 1)
  else
    let idx := op.param 0 + k / 1024 * 1024
    let first := elemAt op.record (accessBase s op.record op.sample op.isWrite) op.z 1 k idx []
    match peekPage s op.walker pg (if modeType op.mode = 9 then codeAddr first / 2 else first.addr) with
    | (s1, none) => (s1, pg, 1)
    | (s1, some t) =>
      let u := usePage s1 op.walker pg t
      (u.1, u.2, t.attr.geo)

/-- Places an element of a copy. -/
def placeCopy (s : State) (op : Op) (pg : Pages) (e : Elem) : State × Pages × Place :=
  let acc := if op.isWrite then Access.write else .read
  if op.scaled then placePlane s op pg e
  else
    let r := placeElem s op.walker acc (modeType op.mode) op.z 1 pg e
    match r.2.2 with
    | .lines _ fmt _ => if op.kind = .planes ∧ fmt ≠ 0 then (r.1, r.2.1, .format e.addr) else r
    | _ => r

/-- What the placement of a copy's next elements gives. -/
structure CopyRun where
  elems : List Elem
  ok : List (Elem × List OpLine)
  fault : Option (Nat × Nat)
  deriving Repr, Inhabited

/-- R246, R248: places elements in order until one meets a translation fault. -/
def placeRun (op : Op) : State → Pages → List Nat → State × CopyRun
  | s, _, [] => (s, ⟨[], [], none⟩)
  | s, pg, k :: r =>
    let disabled := recPub op.record && op.sample.isNone
    let g := if disabled then (s, pg, 1) else planeGeometry s op pg k
    let e := copyElem s op g.2.2 k
    let skip := fun (s : State) (pg : Pages) (e : Elem) =>
      let t := placeRun op s pg r
      (t.1, { t.2 with elems := e :: t.2.elems })
    if e.st ≠ .live then skip g.1 g.2.1 e
    else if disabled then (s, ⟨[], [], some (6, e.addr)⟩)
    else
      match placeCopy g.1 op g.2.1 e with
      | (s1, _, .fault kind va) => (s1, ⟨[], [], some (kind, va)⟩)
      | (s1, pg1, .lines l fmt code) =>
        let e1 := { e with fmt := fmt, code := code }
        let t := placeRun op s1 pg1 r
        (t.1, { t.2 with elems := e1 :: t.2.elems, ok := (e1, l) :: t.2.ok })
      | (s1, pg1, .misaligned va) => skip s1 pg1 { e with st := .addrError, addr := va }
      | (s1, pg1, .format va) => skip s1 pg1 { e with st := .trapped, addr := va }

/-! ## Translation and resumption (R248) -/

/-- The sending unit of a copy for a line: a copy's accesses to different lines are unordered. -/
def copySrc (pa : Nat) : Nat := 2000000 + pa / 128

/-- R219: a copy's records of address errors; it has no lanes. -/
def copyErrors (s : State) (o : Nat) (op : Op) (kind : Nat) (l : List Elem) : State :=
  if l.isEmpty then s else opRecord s o op kind op.entry (lowest (l.map Elem.addr)) false 0 .none

/-- Sends the requests of a copy's newly placed elements. -/
def sendCopy (s : State) (o : Nat) (op : Op) (ok : List (Elem × List OpLine)) : State :=
  let ls := (ok.flatMap Prod.snd).dedup
  if op.isWrite then
    (ls.map fun l => (l.pa, l.attr.red)).dedup.foldl (fun s l =>
      let parts := ok.filterMap fun p => linePart p.2 op.z l.1 p.1
      if parts.isEmpty then s
      else sendReq s (engineReq s o op (copySrc l.1) (if l.2 = 0 then .store else .contribution) l.1 parts
        l.2)) s
  else ls.foldl (fun s l => sendReq s (engineReq s o op (copySrc l.pa) .load l.pa [] 0)) s

/-- R246, R248: translates the elements of a copy that have not been placed. -/
def translateCopy (s : State) (o : Nat) (op : Op) : State :=
  if op.isWrite && !shadowFree s op.sample then s
  else
    let from' := op.elems.length
    let t := placeRun op s [] ((List.range (op.moves - from')).map (from' + ·))
    let new := t.2
    let op1 := { op with
      elems := op.elems ++ new.elems, lines := (op.lines ++ new.ok.flatMap Prod.snd).dedup
      placed := new.fault.isNone, faulted := new.fault.isSome }
    let s1 := { t.1 with ops := tput t.1.ops o op1 }
    let bad := new.elems.filter fun e => e.st = .addrError
    let beyond := fun e : Elem => decide (2 ^ 57 < e.addr + op.z)
    let s2 := copyErrors (copyErrors s1 o op1 7 (bad.filter (!beyond ·))) o op1 8 (bad.filter beyond)
    let trapped := if op.untyped then [(copyElem s op 1 0).addr]
      else (new.elems.filter fun e => e.st = .trapped).map Elem.addr
    let s3 := match op1.warp, trapped with
      | some k, va :: _ => formatTrap s2 k o op.slices va
      | _, _ => s2
    let s4 := sendCopy s3 o op1 new.ok
    match new.fault with
    | none => s4
    | some (kind, va) => opRecord s4 o op1 kind op1.entry va true 0 (.op o)

/-- R248: system software resumes a copy at its fault; an entry disabled at its issue is sampled as it goes on. -/
def replayCopy (s : State) (o : Nat) (op : Op) : State :=
  modOp s o fun x => { x with faulted := false, resample := recPub op.record && op.sample.isNone }

/-- R248: system software aborts a copy: the rest of it counts as landed, zero toward the cluster. -/
def abortCopy (s : State) (o : Nat) (op : Op) : State :=
  let n := op.elems.length
  let rest := (List.range (op.moves - n)).map fun i => { (default : Elem) with lane := n + i, st := .dropped }
  modOp s o fun op => { op with elems := op.elems ++ rest, placed := true, faulted := false }

/-! ## Landing (R246, R247) -/

/-- Whether everything that an element asked for has come back. -/
def elemBack (s : State) (o : Nat) (op : Op) (e : Elem) : Bool :=
  let stored := match e.code with
    | none => linesOf e.addr op.z
    | some c =>
      (List.range 2).flatMap fun i =>
        let a := if e.fmt = 1 then (c + i) / 2 else c + i
        [lineOf a, lineOf (scaleAddr a e.fmt)]
  let pas := stored.map fun va => physOf op.lines va
  decide (e.st ≠ .live) ||
    !((s.reqs.any fun p => decide (p.2.op = o) && pas.contains p.2.line) ||
      s.remote.any fun p => decide (p.2.req.op = o) && pas.contains p.2.req.line)

/-- The bytes that an element of a copy toward the cluster writes, and its flags. -/
def landedBytes (op : Op) (e : Elem) : List Byte × BitVec 6 :=
  match elemValue op e with
  | (v, fl) :: _ => (leBytes op.z v.toNat, fl)
  | [] => (List.replicate op.z 0, 0)

/-- Flags that an engine raises in a warp, wherever it is; discarded once it has ended. A command has issued before any
incomplete fence of the warp, so they stay when it rolls back (R58). -/
def lateFlags (s : State) (k : Nat) (fl : BitVec 6) : State :=
  if fl = 0 then s
  else updateWarp s k fun w =>
    { w with flags := w.flags ||| fl, spec := w.spec.map fun sp => { sp with flags := sp.flags ||| fl } }

/-- Flags raised in the warp that issued a copy. -/
def copyFlags (s : State) (op : Op) (fl : BitVec 6) : State :=
  match op.warp with
  | some k => lateFlags s k fl
  | none => s

/-- R246: bytes of a copy have landed; with the last of them it ends, and counts at its entry (R66). -/
def landBytes (s : State) (o : Nat) (op : Op) (total n : Nat) : State :=
  let s1 := boArrived (modOp s o fun x => { x with done := x.done + n }) op.cluster (op.param 2) n
  if op.done + n < total then s1
  else
    let s2 := endOp (unsample s1 o) o
    if 2 ≤ op.code then countPublish s2 (recEntry op.record) else s2

/-- R246: the elements that land next: those that have come back, in order. -/
def landCopy (s : State) (o : Nat) (op : Op) : State :=
  let ready := (op.elems.drop (op.done / op.z)).takeWhile (elemBack s o op)
  if ready.isEmpty then s
  else
    let write := op.isWrite
    let vals := ready.map fun e => (e, landedBytes op e)
    let s1 := if write then s else modStore s op.cluster fun m => vals.foldl (fun m p =>
      mstore m (op.param 1 + p.1.lane * op.z) p.2.1) m
    let fl := joinFlags (if write then [] else vals.map fun p => p.2.2) ||| boundsFlags ready
    landBytes (copyFlags s1 op fl) o op (copyTotal false (modeType op.mode) (op.par.map BitVec.toNat))
      (ready.length * op.z)

/-- R91, R92, R247: the bits of a plane element, with its flags and the generator after it. R83 leaves
`mode.ftz` to the lane datapath. -/
def planeBits (op : Op) (e : Elem) (g : Word) : Nat × BitVec 6 × Word :=
  let ty := modeType op.mode
  let m := op.mode
  if ty = 6 then
    let v := if e.st = .live then leNat (gotBytes op e.addr 4) else 0
    let rn := { modeRounding m 8 with ftz := false }
    let r := fRound rn (operand rn v) g
    if e.st = .live then (r.bits / 65536, r.flags, r.gen) else (0, 0, genNext rn g)
  else if e.st ≠ .live then (0, 0, g)
  else if ty = 7 then (leNat (gotBytes op e.addr 2), 0, g)
  else
    match e.code with
    | none => (0, 0, g)
    | some c =>
      let va := if e.fmt = 1 then c / 2 else c
      let b := leNat (gotBytes op va 1)
      (if e.fmt = 1 then b / 16 ^ (c % 2) % 16 else b, 0, g)

/-- Reads the elements of a tile in order, the generator passing through. -/
def planeVals (op : Op) (g : Word) : List Elem → List (Nat × BitVec 6)
  | [] => []
  | e :: r =>
    let v := planeBits op e g
    (v.1, v.2.1) :: planeVals op v.2.2 r

/-- R247: the scale byte of a block's first row group. -/
def planeScale (op : Op) (g : Nat) : Nat :=
  let e := lget op.elems (1024 * g) default
  match e.st, e.code with
  | .live, some c =>
    let va := if e.fmt = 1 then c / 2 else c
    leNat (gotBytes op (scaleAddr va e.fmt) 1)
  | _, _ => 0

/-- R92, R247: writes the planes of a tile, and its scale words. -/
def writePlanes (m : Memory) (op : Op) (vals : List Nat) : Memory :=
  let rows := op.param 3 % 2048
  let base := op.param 1
  let planes := match modeType op.mode with
    | 9 => 4
    | 10 => 8
    | _ => 16
  let word := fun p i => (List.range 32).foldl (fun n j => n + lget vals (32 * i + j) 0 / 2 ^ p % 2 * 2 ^ j) 0
  let m1 := (List.range planes).foldl (fun m p => (List.range rows).foldl (fun m i =>
    mputNat m (base + 4 * rows * p + 4 * i) 4 (word p i)) m) m
  if op.scaled then (List.range (rows / 32)).foldl (fun m g =>
    mputNat m (base + 4 * rows * planes + 4 * g) 4 (planeScale op g)) m1
  else m1

/-- R247: a tile lands whole, its flags first. -/
def landPlanes (s : State) (o : Nat) (op : Op) : State :=
  let total := planeBytes (modeType op.mode) (op.param 3 % 2048)
  if !op.placed || op.faulted || outstanding s o then s
  else if total = 0 then landBytes s o op 0 0
  else
    let vals := planeVals op (lget op.par 4 0) op.elems
    let fl := joinFlags (vals.map Prod.snd) ||| boundsFlags op.elems
    let s1 := copyFlags s op fl
    landBytes (modStore s1 op.cluster fun m => writePlanes m op (vals.map Prod.fst)) o op total total

def execCopyDataLanding (s : State) : Out :=
  let o := subject s 0
  match tfind s.ops o with
  | none => .next s
  | some op =>
    match op.kind with
    | .copy => .next (landCopy s o op)
    | .planes => .next (landPlanes s o op)
    | _ => .next s

/-! ## Records (R248, R391) -/

/-- R248: a copy record's 64 bytes. -/
def copyRecord (op : Op) : List Byte :=
  leBytes 4 op.word.toNat ++ leBytes 4 op.mode.toNat ++
  leBytes 4 (match op.sample with
    | some (_, v) => v
    | none => 0) ++
  leBytes 4 op.done ++ (op.par.take 4).flatMap (fun v => leBytes 4 v.toNat) ++ leBytes 16 op.record.toNat ++
  leBytes 16 op.dst

/-- R61, R248: a copy goes on from its landed prefix; what was in flight beyond it is abandoned. -/
def reissueCopy (s : State) (o : Nat) : State :=
  modOp (abandonReqs s o) o fun op => { op with
    elems := if op.kind = .copy then op.elems.take (op.done / op.z) else []
    lines := [], buf := [], placed := false, faulted := false }

end Sys2Proof.Machine
end

