-- ==== Sys2Proof/Machine/Hash.lean ====
section
/-!
DEFINITION. The hash-encoding engine of a cluster (spec/09_hash_engine.md): its slots, its commands in
acceptance order, look-ups, replica refills and gradient scatters.
-/

namespace Sys2Proof.Machine

/-! ## Levels and slots (R280 to R283) -/

def lvScale (d : BitVec 128) : Nat := d.toNat % 2 ^ 32
def lvLog2n (d : BitVec 128) : Nat := d.toNat / 2 ^ 32 % 32
def lvDense (d : BitVec 128) : Bool := d.getLsbD 37
def lvBase (d : BitVec 128) : Nat := d.toNat / 2 ^ 64 % 2 ^ 32

/-- R281: the grid scale of a dense level as an integer. -/
def lvGrid (d : BitVec 128) : Nat :=
  match fdecode (lvScale d) with
  | .fin _ m e => if 0 ≤ e then m * 2 ^ e.toNat else m / 2 ^ (-e).toNat
  | _ => 0

/-- R281: whether a descriptor keeps the rule. -/
def lvGood (d : BitVec 128) : Bool :=
  let whole := match fdecode (lvScale d) with
    | .fin neg m e => !neg && (decide (0 ≤ e) || decide (m % 2 ^ (-e).toNat = 0))
    | _ => false
  let n := lvLog2n d
  decide (0x3F800000 ≤ lvScale d ∧ lvScale d < 0x4B800000 ∧ 14 ≤ n ∧ n ≤ 19 ∧ lvBase d % 32 = 0) &&
    (!lvDense d || (whole && decide ((lvGrid d + 1) ^ 3 ≤ 2 ^ n)))

/-- R282: the table's top. -/
def tableTop (l : List (BitVec 128)) : Nat := (l.map fun d => lvBase d + 2 ^ lvLog2n d).foldl max 0

def clusterAt (s : State) (c : Nat) : Cluster := tget s.clusters c default
/-- R280: the four slots of an engine; before anything is written each is not valid. -/
def slotsOf (x : Cluster) : List HashSlot := if x.slots.length = 4 then x.slots else List.replicate 4 default

def slotAt (s : State) (c i : Nat) : HashSlot := lget (slotsOf (clusterAt s c)) i default
def modSlot (s : State) (c i : Nat) (f : HashSlot → HashSlot) : State :=
  modCluster s c fun x => { x with slots := lmod (slotsOf x) i f }

/-! ## Commands (R286, R289, R290, R293) -/

/-- The opcode of a command: 0xE8 HCFG, 0xE9 HLOOK, 0xEA HGRAD. -/
def HashCommand.opcode (c : HashCommand) : Nat := c.word.toNat / 2 ^ 24
def HashCommand.slot (c : HashCommand) : Nat := bitsAt c.word (if c.opcode = 0xE8 then 5 else 13) 2
def HashCommand.first (c : HashCommand) : Nat := bitsAt c.word 9 4
def HashCommand.count (c : HashCommand) : Nat := bitsAt c.word 5 4 + 1
def HashCommand.planes (c : HashCommand) : Bool := c.word.getLsbD 0
def HashCommand.control (c : HashCommand) : Nat := (lget c.quad 3 0).toNat
def HashCommand.region (c : HashCommand) : Nat := c.control / 2 ^ 20 * 2048

/-- Changes the first command of an engine. -/
def modHead (s : State) (c : Nat) (f : HashCommand → HashCommand) : State :=
  modCluster s c fun x => { x with hashQueue := lmod x.hashQueue 0 f }

/-- The word of an instruction. -/
def wordOf (i : Instr) : Word := BitVec.ofNat 32 (encode i)

/-- R291: the table record through which a command samples: that of the last HCFG for its slot ahead of
it, or the slot's. -/
def tableRecord (s : State) (c : Nat) (ahead : List HashCommand) (slot : Nat) : BitVec 128 :=
  match (ahead.filter fun x => decide (x.opcode = 0xE8 ∧ x.slot = slot)).getLast? with
  | some x => x.table
  | none => (slotAt s c slot).table

/-- R63, R291: the engine accepts its first command that it has not accepted, if that is an HLOOK. It does so as
the command is issued, so that no later sample of the slice is of an older version (notes/assumptions/69.md). -/
def acceptLook (s : State) (c : Nat) : State :=
  let l := (clusterAt s c).hashQueue
  let ahead := l.takeWhile fun x => decide (x.opcode ≠ 0xE9) || x.accepted
  match l.drop ahead.length with
  | [] => s
  | cmd :: _ =>
    let id := newId s
    let smp := sampleVersion id.2 cmd.die cmd.core id.1 (tableRecord s c ahead cmd.slot) false
    modCluster smp.1 c fun x => { x with hashQueue := lmod x.hashQueue ahead.length fun y =>
      { y with accepted := true, op := some id.1, version := smp.2.map Prod.snd } }

/-- R286: issues a command: a release at cohort scope, held while the queue is full. Lanes that supply no position stand as 0
in its record (R301; DESIGN CHOICE, notes/assumptions/88.md). -/
def hashCommand (word : Word) (d : BitVec 7) (lanes : Bool) (check : State → Warp → BitVec 8 → List Nat → Option (Nat × Nat))
    (total : Warp → BitVec 8 → Nat) (rt rg : Nat) (bo : List Nat → Nat) (s : State) : Out :=
  issue { reads := groupRegs d 4, drains := true } (fun s k sl =>
    let w := warpAt s k
    let quad := (groupRegs d 4).map (warpOperand s w sl)
    let q := quad.map BitVec.toNat
    match check s w sl q with
    | some (cause, v) => .trap cause (BitVec.ofNat 32 v) false
    | none =>
      if !boAddress (bo q) then .trap 9 (BitVec.ofNat 32 (bo q)) false
      else if !released w sl 2 || decide (16 ≤ (clusterAt s w.clusterOf).hashQueue.length) then .wait s .other
      else passing (fun s k sl =>
        let n := total w sl
        let pos := fun i => (List.range 32).map fun l =>
          if l ∈ gangLanes w sl then srcReg s w (d.toNat + i) l else 0
        let c : HashCommand := { (default : HashCommand) with
          word := word, mask := toBits 32 (gangLanes w sl), warp := k, group := w.ident.group, ctx := w.ident.ctx, die := w.die
          core := w.core, slices := sl, quad := quad, table := tget w.recs rt 0, grad := tget w.recs rg 0
          px := if lanes then pos 0 else [], py := if lanes then pos 1 else []
          pz := if lanes then pos 2 else [], total := n, bo := bo q }
        acceptLook (modCluster (boExpect s w.clusterOf (bo q) n) w.clusterOf fun x =>
          { x with hashQueue := x.hashQueue ++ [c] }) w.clusterOf) s k sl) s

def hcfgCheck (q : List Nat) : Option (Nat × Nat) :=
  let levels := lget q 3 0 % 16 + 1
  let desc := lget q 0 0
  if desc % 16 ≠ 0 ∨ 0x800000 < desc + 16 * levels ∨ lget q 1 0 % 128 ≠ 0 ∨ 0x800000 ≤ lget q 1 0 then
    some (20, 3)
  else if lget q 3 0 / 16 % 8 ≠ 0 then some (20, 4)
  else none

def execHcfg (d : BitVec 7) (t g : BitVec 4) (sel : BitVec 2) (s : State) : Out :=
  hashCommand (wordOf (.hcfg d t g sel)) d false (fun _ _ _ q => hcfgCheck q) (fun _ _ => 16) t.toNat g.toNat (fun q => lget q 2 0) s

/-- R287, R290: the checks of HLOOK and HGRAD. -/
def lookCheck (f c : BitVec 4) (size : Nat) (q : List Nat) : Option (Nat × Nat) :=
  let ctl := lget q 3 0
  if 16 < f.toNat + c.toNat + 1 then some (20, 1)
  else if ctl / 2 ^ 19 % 2 = 1 ∨ 0x800000 < ctl / 2 ^ 20 * 2048 + size then some (20, 2)
  else none

def controlBo (q : List Nat) : Nat := lget q 3 0 % 2 ^ 19 * 16

def hlook (word : Word) (d : BitVec 7) (f c : BitVec 4) (size per : Nat) (s : State) : Out :=
  hashCommand word d true (fun _ _ _ q => lookCheck f c size q) (fun w sl => per * (gangLanes w sl).length) 0 0
    controlBo s

def execHlookRows (d : BitVec 7) (sel : BitVec 2) (f c : BitVec 4) (s : State) : Out :=
  hlook (wordOf (.hlookRows d sel f c)) d f c 4096 (8 * (c.toNat + 1)) s
def execHlookPlanes (d : BitVec 7) (sel : BitVec 2) (f c : BitVec 4) (s : State) : Out :=
  hlook (wordOf (.hlookPlanes d sel f c)) d f c 2048 64 s
def execHgrad (d : BitVec 7) (sel : BitVec 2) (f c : BitVec 4) (s : State) : Out :=
  hashCommand (wordOf (.hgrad d sel f c)) d true (fun _ _ _ q => lookCheck f c 4096 q) (fun _ _ => 16) 0 0 controlBo s

/-! ## Cells, weights and indices (R284, R285, R99) -/

/-- R284: an axis: the cell, and the weights of its lower and its upper corner. -/
def axisCell (p scale : Nat) : Nat × Nat × Nat :=
  let p0 := match fdecode p with
    | .nan _ => 0
    | .inf neg => if neg then 0 else 0x3F800000
    | .fin neg m _ => if neg ∨ m = 0 then 0 else if 0x3F800000 < p then 0x3F800000 else p
  let q := rneMul p0 scale
  match fdecode q with
  | .fin _ m e =>
    let c := if 0 ≤ e then m * 2 ^ e.toNat else m / 2 ^ (-e).toNat
    let f := (fAdd rneF (fdecode q) (.fin true c 0) 0).bits
    (c, rneSub 0x3F800000 f, f)
  | _ => (0, 0x3F800000, 0)

/-- A corner's bit: x in bit 2, y in bit 1, z in bit 0 of its number. -/
def cornerBit (corner axis : Nat) : Nat := corner / 2 ^ (2 - axis) % 2

/-- The weight and the table entry of a corner of a level, for a position. -/
def cornerOf (d : BitVec 128) (pos : List Nat) (corner : Nat) : Nat × Nat :=
  let ax := pos.map fun p => axisCell p (lvScale d)
  let at' := fun a => lget ax a (0, 0, 0)
  let wt := fun a => if cornerBit corner a = 1 then (at' a).2.2 else (at' a).2.1
  let co := fun a => (at' a).1 + cornerBit corner a
  let w := rneMul (rneMul (wt 0) (wt 1)) (wt 2)
  let n := lvLog2n d
  let idx := if lvDense d then
      let r := lvGrid d
      let c := fun a => min (co a) r
      c 0 + (r + 1) * (c 1 + (r + 1) * c 2)
    else
      ((co 0 % 2 ^ 32) ^^^ (co 1 * 0x9E3779B1 % 2 ^ 32) ^^^ (co 2 * 0x85EBCA77 % 2 ^ 32)) % 2 ^ n
  (w, lvBase d + idx)

/-- A lane's position in a command. -/
def HashCommand.pos (c : HashCommand) (l : Nat) : List Nat :=
  [c.px, c.py, c.pz].map fun p => (lget p l 0).toNat

/-- The levels that a command names, of a slot. -/
def HashCommand.levels (c : HashCommand) (sl : HashSlot) : List (BitVec 128) := (sl.levels.drop c.first).take c.count

/-! ## Completion (R286, R288) -/

/-- A command has done its work: nothing more of it is read or written. -/
def hashServed (s : State) (c : Nat) (fl : BitVec 6) : State :=
  let s1 := match (clusterAt s c).hashQueue.head?.bind HashCommand.op with
    | some o => endOp (unsample s o) o
    | none => s
  modHead s1 c fun x => { x with served := true, flags := x.flags ||| fl, op := none }

/-- R287: the configuration trap of a command, which does nothing but complete. -/
def hashTrap (s : State) (c v : Nat) : State :=
  match (clusterAt s c).hashQueue.head? with
  | none => s
  | some cmd => hashServed (lateTrap s cmd.warp 0 cmd.slices 21 v) c 0

/-- R287: the trap that a command's slot gives it, if any. -/
def slotCheck (cmd : HashCommand) (sl : HashSlot) : Option Nat :=
  if !sl.valid || decide (sl.ctx ≠ cmd.ctx) then some 1
  else if sl.levels.length < cmd.first + cmd.count then some 2
  else none

def engineClock (s : State) (c : Nat) : Nat := clockOf s (c / 72) (c % 72 * 4)

/-- R286, R288: the first command completes. -/
def execHashCommandCompletion (s : State) : Out :=
  let c := subject s 0
  match (clusterAt s c).hashQueue with
  | [] => .next s
  | cmd :: _ =>
    if !cmd.served ∨ (cmd.opcode = 0xE9 ∧ engineClock s c < (clusterAt s c).hashFree) then .next s
    else
      let s1 := lateFlags s cmd.warp cmd.flags
      .next (modCluster (boArrived s1 c cmd.bo cmd.total) c fun x => { x with hashQueue := x.hashQueue.drop 1 })

/-! ## HCFG (R289) -/

/-- R287: whether a table record breaks its rule. -/
def tableBad (r : BitVec 128) (top : Nat) : Bool :=
  decide (recSwz r ≠ 0) || (!recPub r && decide (recBase r % 128 ≠ 0)) || decide (recExtent r < top)

/-- R287: whether a replica lies badly: too long, beyond the store, or over another valid slot's. -/
def replicaBad (x : Cluster) (slot base top : Nat) : Bool :=
  decide (0x400000 < 4 * top ∨ 0x800000 < base + 4 * top) ||
    (List.range 4).any fun i =>
      let o := lget (slotsOf x) i default
      decide (i ≠ slot) && o.valid &&
        decide (base < o.replica + 4 * tableTop o.levels ∧ o.replica < base + 4 * top)

def execHcfgPerform (s : State) : Out :=
  let c := subject s 0
  match (clusterAt s c).hashQueue with
  | [] => .next s
  | cmd :: _ =>
    if cmd.opcode ≠ 0xE8 ∨ cmd.served then .next s
    else
      let x := clusterAt s c
      let q := fun i => (lget cmd.quad i 0).toNat
      let levels := (List.range (q 3 % 16 + 1)).map fun i => BitVec.ofNat 128 (mnat x.store (q 0 + 16 * i) 16)
      let top := tableTop levels
      let bad := if levels.any (!lvGood ·) then some 3
        else if tableBad cmd.table top then some 4
        else if replicaBad x cmd.slot (q 1) top then some 5
        else none
      match bad with
      | some v => .next (hashTrap (modSlot s c cmd.slot fun o => { o with valid := false }) c v)
      | none =>
        let new : HashSlot := ⟨cmd.ctx, true, levels, cmd.table, cmd.grad, q 1, q 3 / 128 * 128, none⟩
        .next (hashServed (modSlot s c cmd.slot fun _ => new) c 0)

/-! ## HLOOK (R291, R292) -/

/-- R291: the interpolation of a lane at a level: its two features, and the flags. -/
def interpolate (m : Memory) (sl : HashSlot) (d : BitVec 128) (pos : List Nat) : List Nat × BitVec 6 :=
  (List.range 8).foldl (fun (acc : List Nat × BitVec 6) corner =>
    let c := cornerOf d pos corner
    let e := mnat m (sl.replica + 4 * c.2) 4
    let r := (List.range 2).map fun f =>
      fFma rneF (fdecode c.1) (fdecode (e / 2 ^ (16 * f) % 65536 * 65536)) (fdecode (lget acc.1 f 0)) 0
    (r.map Rounded.bits, acc.2 ||| joinFlags (r.map Rounded.flags))) ([0, 0], 0)

/-- R291: the columns of a lane, and its flags: FP32 words, or BF16 under planes. -/
def lookLane (m : Memory) (sl : HashSlot) (cmd : HashCommand) (l : Nat) : List Nat × BitVec 6 :=
  let r := (cmd.levels sl).map fun d => interpolate m sl d (cmd.pos l)
  let cols := r.flatMap Prod.fst
  let fl := joinFlags (r.map Prod.snd)
  if cmd.planes then
    let b := cols.map fun v => fRound rneBf (fdecode v) 0
    (b.map fun x => x.bits / 65536, fl ||| joinFlags (b.map Rounded.flags))
  else (cols, fl)

/-- R291: writes a lane's row, or its word of every plane. -/
def writeLook (m : Memory) (cmd : HashCommand) (l : Nat) (cols : List Nat) : Memory :=
  if cmd.planes then (List.range 16).foldl (fun m b =>
    mputNat m (cmd.region + 128 * b + 4 * l) 4
      (((List.range cols.length).map fun c => lget cols c 0 / 2 ^ b % 2 * 2 ^ c).sum)) m
  else mstore m (cmd.region + 128 * l) (cols.flatMap fun v => leBytes 4 v)

/-- R291, R292: serves the first command from its replica once the interpolator is free. -/
def serveLook (s : State) (c : Nat) (cmd : HashCommand) (sl : HashSlot) : State :=
  if engineClock s c < (clusterAt s c).hashFree then s
  else
    let m := storeOf s c
    let vals := (bitsOf 32 cmd.mask).map fun l => (l, lookLane m sl cmd l)
    let s1 := modCluster s c fun x => { x with
      store := vals.foldl (fun m p => writeLook m cmd p.1 p.2.1) x.store
      hashFree := engineClock s c + cmd.count }
    hashServed s1 c (joinFlags (vals.map fun p => p.2.2))

/-- R294: whether the replica of a slot can serve a command as it stands. -/
def tagServes (cmd : HashCommand) (sl : HashSlot) : Bool :=
  if recPub sl.table then sl.tag.isSome && decide (sl.tag = cmd.version) else sl.tag.isSome

def execHlookAccept (s : State) : Out :=
  let c := subject s 0
  match (clusterAt s c).hashQueue with
  | [] => .next s
  | cmd :: _ =>
    if cmd.opcode ≠ 0xE9 ∨ !cmd.accepted ∨ cmd.served then .next (acceptLook s c)
    else
      let sl := slotAt s c cmd.slot
      match slotCheck cmd sl with
      | some v => .next (hashTrap s c v)
      | none =>
        if cmd.mask = 0 then .next (hashServed s c 0)
        else if tagServes cmd sl then .next (serveLook s c cmd sl)
        else .next (acceptLook s c)

/-! ## Refills (R294, R298) -/

/-- R298: a record of the engine. -/
def hashRecord (s : State) (c : Nat) (cmd : HashCommand) (kind va : Nat) (write resume : Bool) : State :=
  postRecord s cmd.ctx (c / 72)
    (faultRecord kind write false resume false cmd.slot 511 (c / 72) (c % 72) va 0 0 0)
    (if resume then .hash c else .none)

/-- The engine waits at a fault of its first command. -/
def hashFault (s : State) (c : Nat) (cmd : HashCommand) (kind va : Nat) (write : Bool) : State :=
  hashRecord (modCluster s c fun x => { x with hashHeld := true }) c cmd kind va write true

/-- The sending unit of a cluster's hash engine. -/
def hashSrc (c : Nat) : Nat := 3000000 + c

/-- R294: the replica holds the words read, and zero beyond them; the tag is set. -/
def fillReplica (s : State) (c : Nat) (cmd : HashCommand) (sl : HashSlot) (b : List Byte) : State :=
  let s1 := modStore s c fun m => mstore m sl.replica (padTo (4 * tableTop sl.levels) b)
  modSlot s1 c cmd.slot fun x => { x with tag := some (cmd.version.getD 0) }

/-- What the translation of a table met. -/
inductive TableEnd where
  | whole
  | fault (kind va : Nat)
  | scaled
  deriving DecidableEq, Repr, Inhabited

/-- R294, R298: translates the lines of a table from the list on. -/
def tableLines (u : Walker) : State → Pages → List Nat → State × List OpLine × TableEnd
  | s, _, [] => (s, [], .whole)
  | s, pg, va :: r =>
    match placePage s u .read pg va with
    | (s1, _, .error k) => (s1, [], .fault k va)
    | (s1, pg1, .ok t) =>
      if t.attr.fmt ≠ 0 then (s1, [], .scaled)
      else
        let x := tableLines u s1 pg1 r
        (x.1, transLine t va :: x.2.1, x.2.2)

/-- The base from which a command's slot is refilled, by the version sampled. -/
def refillBase (s : State) (cmd : HashCommand) (sl : HashSlot) : Nat :=
  if recPub sl.table then frontBase (pubAt s (recEntry sl.table)) (cmd.version.getD 0) else recBase sl.table

/-- R294, R298: translates and requests what a refill has not reached. -/
def startRefill (s : State) (c o : Nat) (cmd : HashCommand) (sl : HashSlot) : State :=
  let base := refillBase s cmd sl
  let op := match tfind s.ops o with
    | some op => op
    | none => { unitOp .refill (c / 72) (c % 72 * 4) cmd.ctx with placed := false }
  let all := lineStarts base (4 * tableTop sl.levels)
  let r := tableLines op.walker s [] (all.drop op.lines.length)
  let op1 := { op with lines := op.lines ++ r.2.1, placed := decide (r.2.2 = .whole) }
  let s1 := engineReads { r.1 with ops := tput r.1.ops o op1 } o op1 (hashSrc c) r.2.1
  match r.2.2 with
  | .whole => s1
  | .fault k va => hashFault s1 c cmd k va false
  | .scaled =>
    hashTrap (modSlot (abandonReqs s1 o) c cmd.slot fun x => { x with tag := none }) c 7

/-- R294: the bytes of the table that a refill has read. -/
def refillBytes (op : Op) (base n : Nat) : List Byte :=
  gotBytes op base (min n (128 * op.lines.length - base % 128))

def execReplicaRefill (s : State) : Out :=
  let c := subject s 0
  match (clusterAt s c).hashQueue with
  | [] => .next s
  | cmd :: _ =>
    let sl := slotAt s c cmd.slot
    if cmd.opcode ≠ 0xE9 ∨ !cmd.accepted ∨ cmd.served ∨ (slotCheck cmd sl).isSome ∨ cmd.mask = 0 ∨
        tagServes cmd sl ∨ (clusterAt s c).hashHeld then .next s
    else
      match cmd.op with
      | none => .next s
      | some o =>
        if recPub sl.table ∧ cmd.version.isNone then
          let smp := sampleVersion s cmd.die cmd.core o sl.table false
          match smp.2 with
          | some (_, v) => .next (modHead smp.1 c fun x => { x with version := some v })
          -- fr.va is the entry's backing 0, whatever its version (DESIGN CHOICE, notes/assumptions/89.md).
          | none => .next (hashFault s c cmd 6 (pubAt s (recEntry sl.table)).back0 false)
        else
          let base := refillBase s cmd sl
          if base % 4 ≠ 0 then .next (fillReplica (hashRecord s c cmd 7 base false false) c cmd sl [])
          else
            match tfind s.ops o with
            | none => .next (startRefill s c o cmd sl)
            | some op =>
              if !op.placed then .next (startRefill s c o cmd sl)
              else if outstanding s o then .next s
              else
                .next (fillReplica { s with ops := tdel s.ops o } c cmd sl
                  (refillBytes op base (4 * tableTop sl.levels)))

/-! ## HGRAD (R293) -/

/-- R293: the adds of a command in their order: element address and addend, with the flags. -/
def gradAdds (s : State) (c : Nat) (cmd : HashCommand) (sl : HashSlot) : List (Nat × Nat) × BitVec 6 :=
  let base := recBase sl.grad + c * sl.stride
  let m := storeOf s c
  let all := ((List.range cmd.count).zip (cmd.levels sl)).flatMap fun lv =>
    (bitsOf 32 cmd.mask).flatMap fun l => (List.range 8).flatMap fun corner =>
      let k := cornerOf lv.2 (cmd.pos l) corner
      (List.range 2).map fun f =>
        let g := mnat m (cmd.region + 128 * l + 4 * (2 * lv.1 + f)) 4
        let t := fMul rneF (fdecode k.1) (fdecode g) 0
        (base + 8 * k.2 + 4 * f, t)
  (all.map fun p => (p.1, p.2.bits), joinFlags (all.map fun p => p.2.flags))

/-- R287: whether a gradient record breaks its rule. -/
def gradBad (r : BitVec 128) (top : Nat) : Bool :=
  recPub r || decide (recSwz r ≠ 0 ∨ recBase r % 8 ≠ 0 ∨ recExtent r < top)

/-- R293: sends the adds, each a request of its own. -/
def sendAdds (s : State) (c o : Nat) (op : Op) (l : List (Nat × Nat)) : State :=
  l.foldl (fun s p =>
    let pa := physOf op.lines p.1
    sendReq s (engineReq s o op (hashSrc c) .atomic pa [(pa, leBytes 4 p.2, 0)] (8 + 128))) s

/-- R293: translates every gradient line of the first command, in ascending order, and sends its adds. -/
def scatter (s : State) (c : Nat) (cmd : HashCommand) (sl : HashSlot) : State :=
  let adds := gradAdds s c cmd sl
  let order := tkeys (adds.1.foldl (fun t p => tput t p.1 ()) ([] : Tbl Unit))
  match placeRanges s ⟨cmd.ctx, c / 72, some (1000 + c)⟩ .write [] (order.map fun a => (a, 4)) with
  | (s1, _, .error (k, va)) => hashFault s1 c cmd k va true
  | (s1, _, .ok lines) =>
    let op : Op := { unitOp .scatterGrad (c / 72) (c % 72 * 4) cmd.ctx with lines := lines }
    let o := addOp s1 op
    sendAdds (modHead o.2 c fun x => { x with op := some o.1, accepted := true, flags := adds.2, unacked := adds.1.length }) c o.1 op
      adds.1

def execHgradScatter (s : State) : Out :=
  let c := subject s 0
  match (clusterAt s c).hashQueue with
  | [] => .next s
  | cmd :: _ =>
    if cmd.opcode ≠ 0xEA ∨ cmd.served ∨ (clusterAt s c).hashHeld then .next s
    else
      let sl := slotAt s c cmd.slot
      match cmd.op with
      | some o => if outstanding s o then .next s else .next (hashServed s c 0)
      | none =>
        match slotCheck cmd sl with
        | some v => .next (hashTrap s c v)
        | none => if gradBad sl.grad (tableTop sl.levels) then .next (hashTrap s c 6)
          else .next (scatter s c cmd sl)

/-! ## Resumption (R298) -/

/-- System software replays the fault at which an engine waits: it goes on where it stopped. -/
def hashReplay (s : State) (c : Nat) : State := modCluster s c fun x => { x with hashHeld := false }

/-- R298: system software aborts it: a refill ends in zeros, an HGRAD sends nothing. -/
def hashAbort (s : State) (c : Nat) : State :=
  let s1 := hashReplay s c
  match (clusterAt s c).hashQueue with
  | [] => s1
  | cmd :: _ =>
    if cmd.opcode = 0xEA then hashServed s1 c flagOOB
    else
      let sl := slotAt s c cmd.slot
      match cmd.op.bind (tfind s.ops) with
      | none =>
        -- The tag of a replica whose entry is not enabled is the entry's version, at which the command is served.
        let cmd1 := { cmd with version := cmd.version <|> some (pubAt s (recEntry sl.table)).version.toNat }
        fillReplica (modHead s1 c fun _ => cmd1) c cmd1 sl []
      | some op =>
        -- What it has asked for still arrives, the rest is zero.
        if outstanding s (cmd.op.getD 0) then
          modOp s1 (cmd.op.getD 0) fun x => { x with placed := true }
        else
          fillReplica { s1 with ops := tdel s1.ops (cmd.op.getD 0) } c cmd sl
            (refillBytes op (refillBase s cmd sl) (4 * tableTop sl.levels))

/-! ## Records (R301) -/

/-- R301: a hash command record's 512 bytes. -/
def hashRecordBytes (cmd : HashCommand) (slot : Nat) : List Byte :=
  leBytes 4 cmd.word.toNat ++ leBytes 4 cmd.mask.toNat ++ leBytes 4 cmd.control ++ leBytes 4 slot ++
  leBytes 112 0 ++ [cmd.px, cmd.py, cmd.pz].flatMap fun p => (List.range 32).flatMap fun l =>
    leBytes 4 (lget p l 0).toNat

/-- R300: a command of a workgroup that leaves its cluster starts anew. -/
def HashCommand.anew (cmd : HashCommand) : HashCommand :=
  { cmd with accepted := false, version := none, flags := 0, op := none, served := false }

end Sys2Proof.Machine
end

