-- ==== Sys2Proof/Machine/AccessProc.lean ====
section
/-!
DEFINITION. The access processors and the queues of a core (spec/11_access_processors.md): queues and the
core-side instructions, contexts and their RV32IM instructions, gathers, scatters and pools, groups and
routed responses, parking and its resumption.
-/

namespace Sys2Proof.Machine

/-! ## Units, contexts and queues (R337 to R346) -/

def newUnit : ApUnit := ⟨[], [], List.replicate 8 default, 7⟩

/-- A core's two access processors, and its four queues; a core that nothing has used holds them empty. -/
def unitsOf (c : Core) : List ApUnit := if c.units.length = 2 then c.units else List.replicate 2 newUnit
def queuesOf (c : Core) : List Queue := if c.queues.length = 4 then c.queues else List.replicate 4 default

def coreAt (s : State) (c : Nat) : Core := tget s.cores c default
def apUnit (s : State) (c u : Nat) : ApUnit := lget (unitsOf (coreAt s c)) u newUnit
def modUnit (s : State) (c u : Nat) (f : ApUnit → ApUnit) : State :=
  modCore s c fun x => { x with units := lmod (unitsOf x) u f }
def apCtx (s : State) (c u x : Nat) : ApContext := lget (apUnit s c u).ctxs x default
def modApCtx (s : State) (c u x : Nat) (f : ApContext → ApContext) : State :=
  modUnit s c u fun y => { y with ctxs := lmod y.ctxs x f }
def queueAt (s : State) (c q : Nat) : Queue := lget (queuesOf (coreAt s c)) q default
def modQueue (s : State) (c q : Nat) (f : Queue → Queue) : State :=
  modCore s c fun x => { x with queues := lmod (queuesOf x) q f }

/-- A word of an access processor's data memory, as a number. -/
def dmemNat (s : State) (c u a n : Nat) : Nat := mnat (apUnit s c u).dmem a n
def dmemPut (s : State) (c u a n v : Nat) : State :=
  modUnit s c u fun y => { y with dmem := mputNat y.dmem a n v }

def ctlBlock (x : Nat) : Nat := 0x1700 + 32 * x
def travState (x : Nat) : Nat := 0x1800 + 256 * x

/-- R12, R343: the reserved fields of the control blocks hold 0. -/
def cleanControl (m : Memory) : Memory :=
  (List.range 8).foldl (fun m x =>
    mputNat (mputNat m (ctlBlock x) 4 (mnat m (ctlBlock x) 4 % 4)) (ctlBlock x + 0x14) 12 0) m

/-- R12, R214, R340: so do those of the records of the record table. -/
def cleanTable (m : Memory) : Memory :=
  (List.range 16).foldl (fun m i =>
    mputNat m (0x1000 + 16 * i) 16 (cleanRecord (BitVec.ofNat 128 (mnat m (0x1000 + 16 * i) 16))).toNat) m

/-- Bytes that a program writes into data memory: the reserved fields of the control blocks and of the record table
ignore them. -/
def progStore (m : Memory) (a : Nat) (b : List Byte) : Memory :=
  let m1 := mstore m a b
  let m2 := if a < 0x1100 ∧ 0x1000 < a + b.length then cleanTable m1 else m1
  if a < 0x1800 ∧ 0x1700 < a + b.length then cleanControl m2 else m2

/-- R346: free and poppable entries of a queue. -/
def freeEntries (q : Queue) : Nat := 64 - q.entries.length
def poppable (q : Queue) : Nat := (q.entries.takeWhile fun e => e.complete).length

/-- R346: reserves `n` entries at a queue's tail for reservation `res`. -/
def reserve (q : Queue) (res n : Nat) (complete : Bool) (words : List (List Word)) : Queue :=
  { q with entries := q.entries ++ (List.range n).map fun k => ⟨res, complete, lget words k []⟩ }

/-- R346: writes and completes the entries of a reservation. -/
def fillEntries (q : Queue) (res : Nat) (words : List (List Word)) : Queue :=
  let mine := q.entries.filter fun e => e.res = res
  let new := ((List.range mine.length).map fun k => (⟨res, true, lget words k []⟩ : QueueEntry))
  { q with entries := (q.entries.foldl (fun (acc : List QueueEntry × List QueueEntry) e =>
      if e.res = res then (acc.1 ++ acc.2.take 1, acc.2.drop 1) else (acc.1 ++ [e], acc.2)) ([], new)).1 }

/-! ## Records and idleness (R342, R345, R365) -/

/-- Posts an access-processor record to the context that owns the core. -/
def apPost (s : State) (c u x kind pc : Nat) (word val : Word) : State :=
  postRecord s (coreAt s c).ctx (c / 288) (apRecord kind u x (c % 288) (c / 288) pc word val) .none

/-- R365: closes the open group of a queue: its empty lanes hold the empty tag and zeros. -/
def closeGroup (s : State) (c q : Nat) : State :=
  match (queueAt s c q).openGroup with
  | none => s
  | some g =>
    let words := ((queueAt s c q).entries.filter fun e => e.res = g.res).map QueueEntry.words
    let pad := ((List.range 16).zip words).map fun p => (List.range 32).map fun l =>
      if l < g.records then lget p.2 l 0 else if p.1 = 0 then 0xFFFFFFFF else 0
    modQueue s c q fun y => { fillEntries y g.res pad with openGroup := none }

/-- R365: while no context of a core runs, its open groups close. -/
def settleGroups (s : State) (c : Nat) : State :=
  let runs := (unitsOf (coreAt s c)).any fun y => y.ctxs.any fun x => x.st = .running
  if runs || (queuesOf (coreAt s c)).all (·.openGroup.isNone) then s
  else (List.range 4).foldl (fun s q => closeGroup s c q) s

/-- Takes back what a context's own fetch has asked for. -/
def dropFetch (s : State) (c u x : Nat) : State :=
  match (apCtx s c u x).fetching with
  | none => s
  | some o =>
    modApCtx (abandonReqs (endOp (unsample s o) o) o) c u x fun y => { y with fetching := none }

/-- R342: a context becomes idle, for the reason that ac.cause keeps. -/
def apIdle (s : State) (c u x cause : Nat) : State :=
  let s1 := modApCtx (dropFetch s c u x) c u x fun y => { y with st := .idle, yielded := false, pend := none }
  settleGroups (dmemPut s1 c u (ctlBlock x + 16) 4 cause) c

/-- R345: an exception of a context at an instruction. -/
def apExceptAt (s : State) (c u x kind pc : Nat) (word val : Word) : State :=
  apIdle (apPost s c u x kind pc word val) c u x kind

/-! ## The instructions of contexts (R338, R339) -/

/-- Runs an access-processor instruction for the context that executes it. -/
def apRun (f : State → Nat → Nat → Nat → State) (s : State) : Out :=
  match s.issuer with
  | .ap c u x => .next (f s c u x)
  | _ => .fault .noContext

/-- R345: an exception of the instruction being executed. -/
def apExcept (s : State) (c u x kind : Nat) (val : Word) : State :=
  apExceptAt s c u x kind (apCtx s c u x).pc.toNat (fetchedWord s) val

def apReg (s : State) (c u x : Nat) (r : BitVec 5) : Word := rvGet (apCtx s c u x).x r.toNat

/-- The instruction has taken effect: its destination, and the next address. -/
def apDone (s : State) (c u x rd : Nat) (v : Word) (pc : Nat) : State :=
  modApCtx s c u x fun y => { y with x := rvSet y.x rd v, pc := BitVec.ofNat 16 pc, st := .running, pend := none }

def apNext (s : State) (c u x : Nat) : State := apDone s c u x 0 0 ((apCtx s c u x).pc.toNat + 4)

/-- R342: the context is blocked at its instruction, which is tried again with the operands that it read at its
issue. -/
def apBlock (s : State) (c u x : Nat) (p : Option ApIssue := none) : State :=
  settleGroups { modApCtx s c u x (fun y => { y with st := .blocked, pend := p }) with held := true } c

/-- R355, R356, R358, R366: the operands of an instruction that may block, read once: `new` reads and checks them. -/
def apIssue (s : State) (c u x : Nat) (new : Except Word ApIssue) : Except Word ApIssue :=
  match (apCtx s c u x).pend with
  | some p => .ok p
  | none => new

/-- R338: a jump; a bad target is the jump's own exception. -/
def apJump (s : State) (c u x rd : Nat) (target : Word) : State :=
  if target.toNat % 4 ≠ 0 ∨ 0x4000 ≤ target.toNat then apExcept s c u x 0x41 target
  else apDone s c u x rd (BitVec.ofNat 32 ((apCtx s c u x).pc.toNat + 4)) target.toNat

/-- R338: bytes of a load or a store by funct3, if the instruction exists. -/
def rvSize (f3 : Nat) (store : Bool) : Option Nat :=
  match f3 with
  | 0 => some 1
  | 1 => some 2
  | 2 => some 4
  | 4 => if store then none else some 1
  | 5 => if store then none else some 2
  | _ => none

def apLoad (s : State) (c u x : Nat) (w : Word) : State :=
  let a := rvGet (apCtx s c u x).x (rvRs1 w) + rvImmI w
  match rvSize (rvF3 w) false with
  | none => apExcept s c u x 0x40 w
  | some n =>
    if a.toNat % n ≠ 0 ∨ 0x2000 ≤ a.toNat then apExcept s c u x 0x42 a
    else
      let v := dmemNat s c u a.toNat n
      let r := if rvF3 w < 4 then BitVec.ofInt 32 (toSigned (8 * n) v) else BitVec.ofNat 32 v
      apDone s c u x (rvRd w) r ((apCtx s c u x).pc.toNat + 4)

def apStore (s : State) (c u x : Nat) (w : Word) : State :=
  let regs := (apCtx s c u x).x
  let a := rvGet regs (rvRs1 w) + rvImmS w
  match rvSize (rvF3 w) true with
  | none => apExcept s c u x 0x40 w
  | some n =>
    if a.toNat % n ≠ 0 ∨ 0x2000 ≤ a.toNat then apExcept s c u x 0x42 a
    else
      let b := leBytes n (rvGet regs (rvRs2 w)).toNat
      apNext (modUnit s c u fun y => { y with dmem := progStore y.dmem a.toNat b }) c u x

/-- R357: waits until the context's outstanding count is at most a threshold. With 0 it is a fence at die
scope, whose visibility step has no cache to discard. -/
def apWait (s : State) (c u x threshold : Nat) : State :=
  if (apCtx s c u x).outstanding ≤ threshold then apNext s c u x else { s with held := true }

/-- R338: one RV32IM instruction. -/
def apBase (w : Word) (s : State) (c u x : Nat) : State :=
  let y := apCtx s c u x
  let pc := y.pc.toNat
  let a := rvGet y.x (rvRs1 w)
  let b := rvGet y.x (rvRs2 w)
  let put := fun v => apDone s c u x (rvRd w) v (pc + 4)
  let bad := apExcept s c u x 0x40 w
  match rvOp w with
  | 0x37 => put (rvImmU w)
  | 0x17 => put (BitVec.ofNat 32 pc + rvImmU w)
  | 0x6F => apJump s c u x (rvRd w) (BitVec.ofNat 32 pc + rvImmJ w)
  | 0x67 => if rvF3 w = 0 then apJump s c u x (rvRd w) ((a + rvImmI w) &&& ~~~(1 : Word)) else bad
  | 0x63 =>
    match rvBranch (rvF3 w) a b with
    | none => bad
    | some true => apJump s c u x 0 (BitVec.ofNat 32 pc + rvImmB w)
    | some false => apNext s c u x
  | 0x03 => apLoad s c u x w
  | 0x23 => apStore s c u x w
  | 0x13 => if rvOpImmOk w then put (rvOpImm w a) else bad
  | 0x33 =>
    if rvF7 w = 1 then put (rvMul (rvF3 w) a b)
    else if rvAluF7 (rvF3 w) (rvF7 w) then put (rvAlu (rvF3 w) (decide (rvF7 w = 32)) a b)
    else bad
  | 0x0F => if rvF3 w = 0 then apWait s c u x 0 else bad
  | _ => bad

def execApBaseInstruction (w : BitVec 32) (s : State) : Out := apRun (apBase w) s

/-- R338, R345: ECALL and EBREAK. -/
def execApEnvironmentCall (w : BitVec 32) (s : State) : Out :=
  apRun (fun s c u x => apExcept s c u x 0x43 w) s

def execCtxYield (s : State) : Out :=
  apRun (fun s c u x => modApCtx (apNext s c u x) c u x fun y => { y with yielded := true }) s
def execCtxEnd (s : State) : Out := apRun (fun s c u x => apIdle (apNext s c u x) c u x 0) s
def execGWait (a : BitVec 5) (s : State) : Out :=
  apRun (fun s c u x => apWait s c u x (apReg s c u x a).toNat) s

/-! ## q.push and q.pop (R354) -/

/-- R354: the queue and the count of a queue word, if the instruction accepts it and its data address. -/
def queueWord (push : Bool) (a v : Word) : Except Word (Nat × Nat) :=
  let n := v.toNat / 4 % 8 + 1
  if 32 ≤ v.toNat ∨ (push = decide (2 ≤ v.toNat % 4)) then .error v
  else if a.toNat % 4 ≠ 0 ∨ 0x2000 < a.toNat + 128 * n then .error a
  else .ok (v.toNat % 4, n)

/-- Words from data memory. -/
def dmemWords (s : State) (c u a n : Nat) : List Word :=
  (List.range n).map fun i => BitVec.ofNat 32 (dmemNat s c u (a + 4 * i) 4)

def execQPush (b a : BitVec 5) (s : State) : Out :=
  apRun (fun s c u x =>
    let at' := apReg s c u x a
    match queueWord true at' (apReg s c u x b) with
    | .error v => apExcept s c u x 0x44 v
    | .ok (q, n) =>
      if freeEntries (queueAt s c q) < n then apBlock s c u x
      else
        let id := newId s
        let words := (List.range n).map fun k => dmemWords s c u (at'.toNat + 128 * k) 32
        apNext (modQueue id.2 c q fun y => reserve y id.1 n true words) c u x) s

def execQPop (b a : BitVec 5) (s : State) : Out :=
  apRun (fun s c u x =>
    let at' := apReg s c u x a
    match queueWord false at' (apReg s c u x b) with
    | .error v => apExcept s c u x 0x44 v
    | .ok (q, n) =>
      let y := queueAt s c q
      if poppable y < n then apBlock s c u x
      else
        let bytes := (y.entries.take n).flatMap fun e => (List.range 32).flatMap fun l => leBytes 4 (lget e.words l 0).toNat
        let s1 := modQueue s c q fun y => { y with entries := y.entries.drop n }
        apNext (modUnit s1 c u fun z => { z with dmem := progStore z.dmem at'.toNat bytes }) c u x) s

/-! ## Gathers, scatters and pools (R355 to R358) -/

/-- A record of an access processor's record table. -/
def apRecordAt (s : State) (c u i : Nat) : BitVec 128 := BitVec.ofNat 128 (dmemNat s c u (0x1000 + 16 * i) 16)

/-- Word 1 of a record. -/
def recordWord1 (r : BitVec 128) : Word := BitVec.ofNat 32 (r.toNat / 2 ^ 32)

def OpKind.ap (k : OpKind) : Bool := k == .gather || k == .scatter || k == .bag

/-- R368: the lowest free operation record of a core. -/
def freeApOp (s : State) (c : Nat) : Option Nat :=
  (List.range 32).find? fun i => !(s.ops.any fun p =>
    p.2.kind.ap && decide (coreKey p.2.die p.2.core = c ∧ p.2.entry = i))

/-- An operation of an access-processor context. -/
def apOp (s : State) (c u x : Nat) (kind : OpKind) : Op :=
  { unitOp kind (c / 288) (c % 288) (coreAt s c).ctx with
    placed := false, dst := 8 * u + x, word := fetchedWord s, collective := (apCtx s c u x).collective
    pc := BitVec.ofNat 57 (apCtx s c u x).pc.toNat }

def setStatus (s : State) (c dst bit : Nat) : State :=
  let a := ctlBlock (dst % 8)
  dmemPut s c (dst / 8) a 4 (dmemNat s c (dst / 8) a 4 ||| bit)

/-- R355, R356, R358: an element of an operation, `def'` being the row read where an index has none. -/
def apElem (br : BitVec 128) (base z n lane idx : Nat) (def' : Bool) (data : List Word) : Elem :=
  if def' ∧ recExtent br ≤ idx then
    let e := elemAt br base z n lane (recExtent br) data
    { e with st := if 2 ^ 57 < e.addr + z * n then .addrError else .live }
  else elemAt br base z n lane idx data

/-- Puts an operation in flight: it samples its record's version, and is counted (R355, R357). -/
def startApOp (s : State) (c u x : Nat) (op : Op) (br : BitVec 128) (entry : Nat) (idx : List Nat)
    (data : Nat → List Word) : Nat × State :=
  let id := newId s
  let smp := sampleVersion id.2 op.die op.core id.1 br (op.kind == .scatter)
  let base := accessBase smp.1 br smp.2 (op.kind == .scatter)
  let elems := ((List.range idx.length).zip idx).map fun p =>
    apElem br base op.z op.n p.1 p.2 (op.kind == .bag) (data p.1)
  let op' := { op with record := br, sample := smp.2, entry := entry, elems := elems }
  let s1 := { smp.1 with ops := tput smp.1.ops id.1 op' }
  (id.1, modApCtx s1 c u x fun y => { y with outstanding := y.outstanding + 1 })

/-- The fields of a gather word: record, words, queue bit, lanes. -/
def gatherWord (v : Word) : Nat × Nat × Nat × Nat :=
  (bitsAt v 0 4, bitsAt v 4 3 + 1, bitsAt v 7 1, bitsAt v 8 5 + 1)

/-- R355, R356: what g.issue and s.issue read at their issue; an error is the exception's value. -/
def gatherOperands (s : State) (c u : Nat) (list v : Word) : Except Word ApIssue :=
  let g := gatherWord v
  let br := apRecordAt s c u g.1
  if 2 ^ 13 ≤ v.toNat then .error v
  else if list.toNat % 4 ≠ 0 ∨ 0x2000 < list.toNat + 4 * g.2.2.2 then .error list
  else if 6 ≤ recSwz br then .error (recordWord1 br)
  else .ok ⟨v, list.toNat, (dmemWords s c u list.toNat g.2.2.2).map BitVec.toNat, br⟩

/-- R355, R356: a gather or a scatter with its operands. -/
def startGather (scatter : Bool) (p : ApIssue) (s : State) (c u x : Nat) : State :=
  let g := gatherWord p.word
  let n := g.2.1
  let q := g.2.2.1 + (if scatter then 2 else 0)
  let y := queueAt s c q
  let room := if scatter then poppable y < n ∨ writerHeld s p.record else freeEntries y < n
  match freeApOp s c with
  | none => apBlock s c u x (some p)
  | some e =>
    if room ∨ 63 ≤ (apCtx s c u x).outstanding then apBlock s c u x (some p)
    else
      let taken := (y.entries.take n).map QueueEntry.words
      let op := { apOp s c u x (if scatter then .scatter else .gather) with
        n := n, code := q, par := [p.word, BitVec.ofNat 32 p.list] }
      let r := startApOp s c u x op p.record e p.idx fun l => if scatter then taken.map fun w => lget w l 0 else []
      let s1 := modQueue r.2 c q fun y =>
        if scatter then { y with entries := y.entries.drop n } else reserve y r.1 n false []
      apNext s1 c u x

def issueGather (scatter : Bool) (b a : BitVec 5) (s : State) : Out :=
  apRun (fun s c u x =>
    match apIssue s c u x (gatherOperands s c u (apReg s c u x a) (apReg s c u x b)) with
    | .error val => apExcept s c u x 0x44 val
    | .ok p => startGather scatter p s c u x) s

def execGIssue (b a : BitVec 5) (s : State) : Out := issueGather false b a s
def execSIssue (b a : BitVec 5) (s : State) : Out := issueGather true b a s

/-- R358: what bag.sum and bag.mean read at their issue; an error is the exception's value. -/
def bagOperands (s : State) (c u : Nat) (block : Word) : Except Word ApIssue :=
  let w := fun i => BitVec.ofNat 32 (dmemNat s c u (block.toNat + 4 * i) 4)
  let br := apRecordAt s c u (bitsAt (w 2) 0 4)
  if block.toNat % 16 ≠ 0 ∨ 0x2000 ≤ block.toNat then .error block
  else if (w 0).toNat % 4 ≠ 0 ∨ (w 1).toNat ≤ 1024 ∧ 0x2000 < (w 0).toNat + 4 * (w 1).toNat then .error (w 0)
  else if 1024 < (w 1).toNat then .error (w 1)
  else if 2 ^ 11 ≤ (w 2).toNat then .error (w 2)
  else if w 3 ≠ 0 then .error (w 3)
  else if 6 ≤ recSwz br then .error (recordWord1 br)
  else .ok ⟨w 2, (w 0).toNat, (dmemWords s c u (w 0).toNat (w 1).toNat).map BitVec.toNat, br⟩

/-- R358: a pool with its operands; par ends with whether the mean is wanted. -/
def startBag (mean : Bool) (p : ApIssue) (s : State) (c u x : Nat) : State :=
  let q := bitsAt p.word 10 1
  match freeApOp s c with
  | none => apBlock s c u x (some p)
  | some e =>
    if freeEntries (queueAt s c q) < 1 ∨ 63 ≤ (apCtx s c u x).outstanding then apBlock s c u x (some p)
    else
      let op := { apOp s c u x .bag with
        z := if p.word.getLsbD 4 then 2 else 4, n := bitsAt p.word 5 5 + 1, code := q
        par := [p.word, BitVec.ofNat 32 p.list, if mean then 1 else 0] }
      let r := startApOp s c u x op p.record e p.idx fun _ => []
      apNext (modQueue r.2 c q fun y => reserve y r.1 1 false []) c u x

def issueBag (mean : Bool) (a : BitVec 5) (s : State) : Out :=
  apRun (fun s c u x =>
    match apIssue s c u x (bagOperands s c u (apReg s c u x a)) with
    | .error val => apExcept s c u x 0x44 val
    | .ok p => startBag mean p s c u x) s

def execBagSum (a : BitVec 5) (s : State) : Out := issueBag false a s
def execBagMean (a : BitVec 5) (s : State) : Out := issueBag true a s

/-! ## Their lines (R368) -/

/-- The sending unit of an access processor. -/
def apSrc (op : Op) : Nat := 4000000 + 2 * coreKey op.die op.core + op.dst / 8

/-- R368: a fault record of an access processor's access. -/
def apFault (s : State) (o : Nat) (op : Op) (kind va : Nat) (mask : BitVec 32) (behind : Resumable) : State :=
  postFor s op.ctx op.die
    (faultRecord kind (op.kind == .scatter) false (decide (behind ≠ .none)) false op.entry op.core op.die
      (96 + op.dst) va mask op.word op.pc.toNat) behind (some o)

/-- R45, R357: whether an earlier operation of the same context reaches these lines and is not finished. -/
def apFollows (s : State) (o : Nat) (op : Op) : Bool :=
  let mine := (liveElems op.elems).flatMap fun e => linesOf e.addr op.size
  s.ops.any fun p =>
    decide (p.1 < o ∧ p.2.die = op.die ∧ p.2.core = op.core ∧ p.2.dst = op.dst) &&
    (p.2.kind.ap || p.2.kind == .nodeFetch) && unfinished s p.1 p.2 &&
    (liveElems p.2.elems).any fun e => (linesOf e.addr p.2.size).any fun l => l ∈ mine

/-- What the translation of elements met: those judged, those placed with their lines, and a fault. -/
def apPlace (op : Op) : State → Pages → List Elem → State × CopyRun
  | s, _, [] => (s, ⟨[], [], none⟩)
  | s, pg, e :: r =>
    if e.st ≠ .live then
      let t := apPlace op s pg r
      (t.1, { t.2 with elems := e :: t.2.elems })
    else if recPub op.record && op.sample.isNone then (s, ⟨[], [], some (6, e.addr)⟩)
    else
      let acc := if op.kind = .scatter then Access.write else .read
      match placeElem s op.walker acc 3 op.z op.n pg e with
      | (s1, _, .fault kind va) => (s1, ⟨[], [], some (kind, va)⟩)
      | (s1, pg1, p) =>
        let t := apPlace op s1 pg1 r
        match p with
        | .lines l 0 _ => (t.1, { t.2 with elems := e :: t.2.elems, ok := (e, l) :: t.2.ok })
        | .misaligned va => (t.1, { t.2 with elems := { e with st := .addrError, addr := va } :: t.2.elems })
        | .format va => (t.1, { t.2 with elems := { e with st := .trapped, addr := va } :: t.2.elems })
        | _ => (t.1, { t.2 with elems := { e with st := .trapped } :: t.2.elems })

/-- R355, R356, R358, R368: translates what an operation has not reached, up to a fault. -/
def translateAp (s : State) (o : Nat) (op : Op) : State :=
  if apFollows s o op || (op.kind == .scatter && !shadowFree s op.sample) then s
  else
    let c := coreKey op.die op.core
    let t := apPlace op s [] (op.elems.drop op.done)
    let new := t.2
    let op1 := { op with
      elems := op.elems.take op.done ++ new.elems ++ op.elems.drop (op.done + new.elems.length)
      lines := (op.lines ++ new.ok.flatMap Prod.snd).dedup, done := op.done + new.elems.length
      placed := new.fault.isNone, faulted := new.fault.isSome }
    let s1 := { t.1 with ops := tput t.1.ops o op1 }
    let s2 := if new.elems.any (·.st = .outOfBounds) then setStatus s1 c op.dst 1 else s1
    let scaled := new.elems.filter (·.st = .trapped)
    let s3 := scaled.foldl (fun s e => apPost (setStatus s c op.dst 2) c (op.dst / 8) (op.dst % 8) 0x48
      op.pc.toNat op.word (BitVec.ofNat 32 e.addr)) s2
    let bad := new.elems.filter (·.st = .addrError)
    let beyond := fun e : Elem => decide (2 ^ 57 < e.addr + op.size)
    let report := fun (s : State) (kind : Nat) (l : List Elem) =>
      if l.isEmpty then s else apFault s o op1 kind (lowest (l.map Elem.addr)) (elemLanes l) .none
    let s4 := report (report s3 7 (bad.filter (!beyond ·))) 8 (bad.filter beyond)
    let ls := (new.ok.flatMap Prod.snd).dedup
    let s5 := if op.kind = .scatter then
        (ls.map fun l => (l.pa, l.attr.red)).dedup.foldl (fun s l =>
          let parts := new.ok.filterMap fun p => linePart p.2 op.size l.1 p.1
          sendReq s (engineReq s o op1 (apSrc op) (if l.2 = 0 then .store else .contribution) l.1 parts l.2)) s4
      else engineReads s4 o op1 (apSrc op) ls
    match new.fault with
    | none => s5
    | some (k, va) =>
      let lane := match op1.elems[op1.done]? with
        | some e => elemLanes [e]
        | none => 0
      apFault s5 o op1 k va lane (.op o)

/-- R368: system software replays an operation's fault; an entry disabled at its issue is sampled as it goes on. -/
def replayAp (s : State) (o : Nat) (op : Op) : State :=
  modOp s o fun y => { y with faulted := false, resample := recPub op.record && op.sample.isNone }

/-- R368: system software aborts it: the rest behaves as out of bounds. -/
def abortAp (s : State) (o : Nat) (op : Op) : State :=
  let s1 := setStatus s (coreKey op.die op.core) op.dst 1
  modOp s1 o fun y => { y with
    elems := y.elems.take y.done ++ (y.elems.drop y.done).map fun e => { e with st := .dropped }
    placed := true, faulted := false }

/-- The word `k` of an element, 0 where it read nothing. -/
def apWord (op : Op) (e : Elem) (k : Nat) : Nat :=
  if e.st = .live then leNat (gotBytes op (e.addr + op.z * k) op.z) else 0

/-- R355: the entries that a gather fills. -/
def gatherEntries (op : Op) : List (List Word) :=
  (List.range op.n).map fun k => (List.range 32).map fun l =>
    match op.elems[l]? with
    | some e => BitVec.ofNat 32 (apWord op e k)
    | none => 0

/-- The FP32 number of exactly an integer below 2^24. -/
def natFloat (n : Nat) : Nat := if n = 0 then 0 else fencode false n 0

/-- R358: the entry that a pool fills. -/
def bagEntry (op : Op) : List Word :=
  (List.range 32).map fun j =>
    if op.n ≤ j ∨ op.elems.isEmpty then 0
    else
      let sum := op.elems.foldl (fun acc e =>
        rneAdd acc (apWord op e j * (if op.z = 2 then 65536 else 1))) 0
      BitVec.ofNat 32 (if op.param 2 = 1 then rneDiv sum (natFloat op.elems.length) else sum)

/-- R357: an operation completes: its entries, and the context's count. -/
def execApOperationCompletion (s : State) : Out :=
  let o := subject s 0
  match tfind s.ops o with
  | none => .next s
  | some op =>
    if !op.kind.ap || !op.placed || op.faulted || outstanding s o then .next s
    else
      let c := coreKey op.die op.core
      let s1 := match op.kind with
        | .gather => modQueue s c op.code fun y => fillEntries y o (gatherEntries op)
        | .bag => modQueue s c op.code fun y => fillEntries y o [bagEntry op]
        | _ => s
      .next (modApCtx (endOp (unsample s1 o) o) c (op.dst / 8) (op.dst % 8) fun y =>
        { y with outstanding := y.outstanding - 1 })

/-! ## Ray traversal (R360 to R364) -/

/-- R362: pops the stack of a traversal state: the node, and the depth left. -/
def tsPop (m : Memory) (b : Nat) : Nat → Nat × Nat
  | 0 => (0xFFFFFFFF, 0)
  | k + 1 =>
    if fLt (mnat m (b + 0x1C) 4) (mnat m (b + 0x60 + 8 * k + 4) 4) then tsPop m b k
    else (mnat m (b + 0x60 + 8 * k) 4, k)

/-- R363: the box test of a child whose lower corner lies at `lo` of a node: hit, and entry distance. -/
def boxTest (m : Memory) (b : Nat) (node : Memory) (lo : Nat) : Bool × Nat :=
  let axis := fun a : Nat =>
    let o := mnat m (b + 4 * a) 4
    let v := rneDiv 0x3F800000 (mnat m (b + 0x10 + 4 * a) 4)
    let side := fun at' => rneMul (rneSub (mnat node (at' + 4 * a) 4) o) v
    let p := side lo
    let q := side (lo + 12)
    if (fdecode p).isNan || (fdecode q).isNan then (infBits true, infBits false)
    else (rneMinMax false p q, rneMinMax true p q)
  let x := axis 0
  let y := axis 1
  let z := axis 2
  let near := rneMinMax true (rneMinMax true (rneMinMax true x.1 y.1) z.1) (mnat m (b + 0x0C) 4)
  let far := rneMinMax false (rneMinMax false (rneMinMax false x.2 y.2) z.2) (mnat m (b + 0x1C) 4)
  (fLe near far, near)

/-- R361: writes ts.ctl, its ignored bits zero. -/
def putCtl (m : Memory) (b depth : Nat) (hit held : Bool) : Memory :=
  mputNat m (b + 0x30) 4 (depth + (if hit then 256 else 0) + (if held then 512 else 0))

def ctlDepth (m : Memory) (b : Nat) : Nat := mnat m (b + 0x30) 4 % 32
def ctlHit (m : Memory) (b : Nat) : Bool := decide (mnat m (b + 0x30) 4 / 256 % 2 = 1)
def ctlHeld (m : Memory) (b : Nat) : Bool := decide (mnat m (b + 0x30) 4 / 512 % 2 = 1)

def setDepth (m : Memory) (b depth : Nat) : Memory :=
  if depth = ctlDepth m b then m else putCtl m b depth (ctlHit m b) (ctlHeld m b)

/-- R362: the effect of rt.box on the data memory and its result; `none` is the hierarchy exception. The
node is `none` when the instruction only pops. -/
def boxEffect (m : Memory) (b n : Nat) (node : Option Memory) : Option (Memory × Nat) :=
  let depth := ctlDepth m b
  let pop := let p := tsPop m b depth
    some (setDepth m b p.2, p.1)
  if 16 < depth then none
  else
    match node with
    | none => pop
    | some nd =>
      let kind := mnat nd 0 4 % 4
      let c0 := mnat nd 4 4
      let c1 := mnat nd 8 4
      if kind = 3 then none
      else if kind ≠ 0 then
        some (mputNat (mputNat (mputNat m (b + 0x34) 4 n) (b + 0x38) 4 c0) (b + 0x3C) 4 c1, kind * 2 ^ 30 + n)
      else
        let t0 := boxTest m b nd 0x10
        let t1 := boxTest m b nd 0x28
        match t0.1, t1.1 with
        | true, true =>
          if depth = 16 then none
          else
            let near1 := fLt t1.2 t0.2
            let far := if near1 then (c0, t0.2) else (c1, t1.2)
            let m1 := mputNat (mputNat m (b + 0x60 + 8 * depth) 4 far.1) (b + 0x64 + 8 * depth) 4 far.2
            some (setDepth m1 b (depth + 1), if near1 then c1 else c0)
        | true, false => some (m, c0)
        | false, true => some (m, c1)
        | false, false => pop

abbrev Vec3 := Nat × Nat × Nat

def vsub (a b : Vec3) : Vec3 := (rneSub a.1 b.1, rneSub a.2.1 b.2.1, rneSub a.2.2 b.2.2)

/-- R364. -/
def dot (a b : Vec3) : Nat :=
  rneAdd (rneAdd (rneMul a.1 b.1) (rneMul a.2.1 b.2.1)) (rneMul a.2.2 b.2.2)

def cross (a b : Vec3) : Vec3 :=
  (rneSub (rneMul a.2.1 b.2.2) (rneMul a.2.2 b.2.1), rneSub (rneMul a.2.2 b.1) (rneMul a.1 b.2.2),
    rneSub (rneMul a.1 b.2.1) (rneMul a.2.1 b.1))

def vecOf (m : Memory) (a : Nat) : Vec3 := (mnat m a 4, mnat m (a + 4) 4, mnat m (a + 8) 4)

/-- R364: the triangle test: whether it hits, and at which distance with which attribute. -/
def triTest (m : Memory) (b : Nat) (tri : Memory) : Option (Nat × Nat) :=
  let va := vecOf tri 0
  let e1 := vsub (vecOf tri 12) va
  let e2 := vsub (vecOf tri 24) va
  let f := vsub (vecOf m b) va
  let d := vecOf m (b + 0x10)
  let p := cross d e2
  let det := dot e1 p
  let u := rneDiv (dot f p) det
  let q := cross f e1
  let v := rneDiv (dot d q) det
  let t := rneDiv (dot e2 q) det
  let nonzero := fLt det 0 || fLt 0 det
  if nonzero && fLe 0 u && fLe 0 v && fLe (rneAdd u v) 0x3F800000 && fLt (mnat m (b + 0x0C) 4) t &&
      fLt t (mnat m (b + 0x1C) 4) then some (t, u)
  else none

/-- R364, R367: a hit of a primitive shortens the interval. -/
def recordHit (m : Memory) (b t prim attr : Nat) : Memory :=
  let put := fun m off v => mputNat m (b + off) 4 v
  let m1 := put (put (put (put m 0x1C t) 0x20 prim) 0x24 attr) 0x28 (mnat m (b + 0x34) 4)
  putCtl m1 b (ctlDepth m b) true (ctlHeld m b)

/-- The result of a fetched node or triangle: data memory and rd, or the hierarchy exception. -/
def fetchEffect (tri : Bool) (m : Memory) (b n : Nat) (got : Memory) : Option (Memory × Nat) :=
  if tri then
    match triTest m b got with
    | some (t, u) => some (recordHit m b t n u, 1)
    | none => some (m, 0)
  else boxEffect m b n (some got)

/-- Ends a ray instruction of a context with its effect. -/
def rayDone (s : State) (c u x rd pc n : Nat) (word : Word) (r : Option (Memory × Nat)) : State :=
  match r with
  | none => apExceptAt s c u x 0x45 pc word (BitVec.ofNat 32 n)
  | some (m, v) =>
    apDone (modUnit s c u fun y => { y with dmem := m }) c u x rd (BitVec.ofNat 32 v) (pc + 4)

/-- R362, R364: starts the fetch of a node or a triangle. -/
def startFetch (tri : Bool) (n rd : Nat) (s : State) (c u x : Nat) : State :=
  let cfg := dmemNat s c u (travState x + 0x2C) 4
  let br := apRecordAt s c u (if tri then cfg / 16 % 16 else cfg % 16)
  let size := if tri then 48 else 64
  if 2 ^ 9 ≤ cfg then apExcept s c u x 0x44 (BitVec.ofNat 32 cfg)
  else if 6 ≤ recSwz br then apExcept s c u x 0x44 (recordWord1 br)
  else
    let e0 := elemAt br (accessBase s br none false) 4 (size / 4) 0 n []
    if e0.st ≠ .live ∨ e0.addr % (if tri then 16 else 64) ≠ 0 then
      apExcept s c u x 0x45 (BitVec.ofNat 32 n)
    else
      let id := newId s
      let smp := sampleVersion id.2 (c / 288) (c % 288) id.1 br false
      let op := { apOp s c u x .nodeFetch with
        n := size / 4, elems := [e0], entry := rd, code := if tri then 1 else 0, par := [BitVec.ofNat 32 n]
        record := br, sample := smp.2 }
      modApCtx { smp.1 with ops := tput smp.1.ops id.1 op } c u x fun y => { y with fetching := some id.1 }

def execRtBox (a d : BitVec 5) (s : State) : Out :=
  apRun (fun s c u x =>
    let v := apReg s c u x a
    let n := v.toNat % 2 ^ 30
    if v.msb then
      rayDone s c u x d.toNat (apCtx s c u x).pc.toNat n (fetchedWord s)
        (boxEffect (apUnit s c u).dmem (travState x) n none)
    else startFetch false n d.toNat s c u x) s

def execRtTri (a d : BitVec 5) (s : State) : Out :=
  apRun (fun s c u x => startFetch true (apReg s c u x a).toNat d.toNat s c u x) s

/-- Translates a context's own fetch. A fault waits for CONTEXT_PARK; a page with a format ends the context. -/
def translateFetch (s : State) (o : Nat) (op : Op) : State :=
  match op.elems with
  | [] => s
  | e :: _ =>
    let c := coreKey op.die op.core
    let fail := fun (s : State) (k va : Nat) => modOp s o fun y => { y with
      faulted := true, par := y.par.take 1 ++ [BitVec.ofNat 32 k, BitVec.ofNat 32 va, BitVec.ofNat 32 (va / 2 ^ 32)] }
    if apFollows s o op then s
    else if recPub op.record && op.sample.isNone then fail s 6 e.addr
    else
      match placeRanges s op.walker .read [] [(e.addr, op.size)] with
      | (s1, _, .error (k, _)) => fail s1 k e.addr
      | (s1, _, .ok ls) =>
        match ls.find? fun l => l.attr.fmt ≠ 0 with
        | some l =>
          apExceptAt s1 c (op.dst / 8) (op.dst % 8) 0x48 op.pc.toNat op.word
            (BitVec.ofNat 32 (max l.va e.addr))
        | none =>
          let op1 := { op with lines := ls, placed := true }
          engineReads { s1 with ops := tput s1.ops o op1 } o op1 (apSrc op) ls

def execNodeFetchReturn (s : State) : Out :=
  let o := subject s 0
  match tfind s.ops o with
  | none => .next s
  | some op =>
    if op.kind ≠ .nodeFetch ∨ !op.placed ∨ op.faulted ∨ outstanding s o then .next s
    else
      let c := coreKey op.die op.core
      let u := op.dst / 8
      let x := op.dst % 8
      let a := match op.elems with
        | e :: _ => e.addr
        | [] => 0
      let got := mstore [] 0 (gotBytes op a op.size)
      let r := fetchEffect (decide (op.code = 1)) (apUnit s c u).dmem (travState x) (op.param 0) got
      let s1 := modApCtx (endOp (unsample s o) o) c u x fun y => { y with fetching := none }
      .next (rayDone s1 c u x op.entry op.pc.toNat (op.param 0) op.word r)

/-! ## Parking (R369, R370) -/

def apStateCode : ApState → Nat
  | .idle => 0
  | .running => 1
  | .blocked => 2
  | .suspended => 3
  | .parked => 4

/-- R370: the save record of context `x` of unit `u`, from what the unit holds of it. -/
def apSaveBytes (y : ApContext) (m : Memory) (u x : Nat) (st : ApState) : List Byte :=
  mbytes m (travState x) 256 ++ leBytes 4 (y.pc.toNat % 2 ^ 14) ++
  leBytes 4 (apStateCode st + 16 * u + 32 * x + 256 * (y.outstanding % 64)) ++ leBytes 24 0 ++
  mbytes m (ctlBlock x) 32 ++ leBytes 64 0 ++
  (List.range 32).flatMap fun r => leBytes 4 (rvGet y.x r).toNat

def apSaveRecord (s : State) (c u x : Nat) (st : ApState) : List Byte :=
  apSaveBytes (apCtx s c u x) (apUnit s c u).dmem u x st

def apSpill (s : State) (c u x : Nat) : Nat := dmemNat s c u (ctlBlock x + 8) 8

def execContextPark (s : State) : Out :=
  let c := subject s 0
  let u := subject s 1
  let x := subject s 2
  match (apCtx s c u x).fetching with
  | none => .next s
  | some o =>
    let op := tget s.ops o default
    if !op.faulted then .next s
    else
      let kind := op.param 1
      let va := op.param 2 + 2 ^ 32 * op.param 3
      let s1 := dropFetch s c u x
      let w := vwrite s1 op.ctx (c / 288) (apSpill s c u x) (apSaveRecord s1 c u x .parked)
      let s2 := if w.2.isSome then
          apPost w.1 c u x 0x49 op.pc.toNat op.word (BitVec.ofNat 32 (apSpill s c u x))
        else w.1
      let s3 := modApCtx s2 c u x fun y => { y with st := .parked, keptState := w.2.isSome }
      .next (settleGroups (apFault s3 o { op with entry := 0 } kind va 0 (.park c u x)) c)

/-- R370: context `x` of a unit as its save record gives it, running. -/
def loadSave (z : ApUnit) (x : Nat) (b : List Byte) : ApUnit :=
  let m : Memory := mstore [] 0 b
  let regs : Tbl Word := (List.range 31).foldl (fun t i => tput t (i + 1) (mword m (0x180 + 4 * (i + 1)))) []
  { z with
    dmem := progStore (mstore z.dmem (travState x) (b.take 256)) (ctlBlock x) (mbytes m 0x120 32)
    ctxs := lmod z.ctxs x fun y => { y with pc := BitVec.ofNat 16 (mnat m 0x100 4 % 2 ^ 14), x := regs } }

/-- R369: system software replays the fault of a parked context: it is reloaded from its save record, for context `cx`
on a die, and runs. -/
def replayPark (s : State) (cx die : Nat) (z : ApUnit) (x : Nat) : State × ApUnit :=
  let y := lget z.ctxs x default
  let run := fun z : ApUnit => { z with ctxs := lmod z.ctxs x fun y => { y with st := .running, keptState := false } }
  if y.st ≠ .parked then (s, z)
  else if y.keptState then (s, run z)
  else
    match vread s cx die (mnat z.dmem (ctlBlock x + 8) 8) 512 with
    | (s1, .error _) => (s1, run z)
    | (s1, .ok b) => (s1, run (loadSave z x b))

def apReplay (s : State) (c u x : Nat) : State :=
  let r := replayPark s (coreAt s c).ctx (c / 288) (apUnit s c u) x
  modUnit r.1 c u fun _ => r.2

/-- R369: system software aborts it. -/
def apAbort (s : State) (c u x : Nat) : State :=
  if (apCtx s c u x).st ≠ .parked then s else apIdle s c u x 2

/-- R369, R371: a resume command for a context that is saved with its core's record acts on what is saved. -/
def resumeSaved (abort : Bool) (s : State) (g u x : Nat) : State :=
  match tfind s.savedGroups g with
  | none => s
  | some sv =>
    let z := lget sv.units u newUnit
    let put := fun (s : State) (z : ApUnit) =>
      { s with savedGroups := tmod s.savedGroups g fun v => { v with units := lmod v.units u fun _ => z } }
    if (lget z.ctxs x default).st ≠ .parked then s
    else if abort then
      put s { z with
        dmem := mputNat z.dmem (ctlBlock x + 16) 4 2
        ctxs := lmod z.ctxs x fun y => { y with st := .idle, yielded := false } }
    else
      let r := replayPark s (tget s.cohorts (groupAt s g).cohort default).ctx sv.die z x
      put r.1 r.2

/-- Nothing waits any more behind the records that a given one was posted for. -/
def forgetBehind (s : State) (r : Resumable) : State :=
  { s with contexts := s.contexts.map fun p => (p.1, { p.2 with
      behind := p.2.behind.map fun b => (b.1, if b.2 = r then .none else b.2)
      waiting := p.2.waiting.map fun w => if w.behind = r then { w with behind := .none } else w }) }

/-! ## Suspension and responses (R365 to R367) -/

/-- R365: the candidate record of a context. -/
def candidate (m : Memory) (b u x prim : Nat) : List Nat :=
  let f := fun off => mnat m (b + off) 4
  [x + 8 * u, prim, f 0x0C, f 0x1C] ++ [0, 4, 8, 0x10, 0x14, 0x18].map f ++
    (List.range 6).map fun k => f (0xE0 + 4 * k)

/-- Puts a record into lane `g.records` of an open group. -/
def addRecord (q : Queue) (g : OpenGroup) (br : List Nat) : Queue :=
  let es := q.entries.foldl (fun (acc : List QueueEntry × Nat) e =>
    if e.res = g.res then
      (acc.1 ++ [{ e with words := e.words ++ [BitVec.ofNat 32 (lget br acc.2 0)] }], acc.2 + 1)
    else (acc.1 ++ [e], acc.2)) ([], 0)
  { q with entries := es.1, openGroup := some { g with records := g.records + 1 } }

/-- R366: what rt.suspend reads at its issue. -/
def suspendOperands (s : State) (c u x : Nat) : Except Word ApIssue :=
  let cfg := dmemNat s c u (travState x + 0x2C) 4
  if 2 ^ 9 ≤ cfg then .error (BitVec.ofNat 32 cfg) else .ok ⟨BitVec.ofNat 32 cfg, 0, [], 0⟩

/-- R366: a context whose ts.cfg has been read suspends. -/
def suspend (p : ApIssue) (prim : Nat) (s : State) (c u x : Nat) : State :=
  let b := travState x
  let q := bitsAt p.word 8 1
  let y := queueAt s c q
  if y.openGroup.isNone && decide (freeEntries y < 16) then apBlock s c u x (some p)
  else
    let id := newId s
    let g := y.openGroup.getD ⟨id.1, 0, clockOf s (c / 288) (c % 288) + 256⟩
    let s1 := if y.openGroup.isSome then s else modQueue id.2 c q fun y => reserve y id.1 16 false []
    let s2 := modQueue s1 c q fun y => addRecord y g (candidate (apUnit s c u).dmem b u x prim)
    let s3 := modUnit s2 c u fun z =>
      let m1 := mputNat z.dmem (b + 0x40) 4 prim
      { z with dmem := putCtl m1 b (ctlDepth m1 b) (ctlHit m1 b) false }
    let s4 := modApCtx (apNext s3 c u x) c u x fun z => { z with st := .suspended }
    settleGroups (if g.records + 1 = 32 then closeGroup s4 c q else s4) c

def execRtSuspend (a : BitVec 5) (s : State) : Out :=
  apRun (fun s c u x =>
    match apIssue s c u x (suspendOperands s c u x) with
    | .error val => apExcept s c u x 0x44 val
    | .ok p => suspend p (apReg s c u x a).toNat s c u x) s

def execRtResume (d : BitVec 5) (s : State) : Out :=
  apRun (fun s c u x =>
    let b := travState x
    let m := (apUnit s c u).dmem
    let f := fun off => mnat m (b + off) 4
    let pc := (apCtx s c u x).pc.toNat
    if !ctlHeld m b then apDone s c u x d.toNat 0 (pc + 4)
    else
      let m1 := putCtl m b (ctlDepth m b) (ctlHit m b) false
      let hit := f 0x44 % 2 = 1 ∧ fLt (f 0x0C) (f 0x48) ∧ fLt (f 0x48) (f 0x1C)
      let m2 := if hit then recordHit m1 b (f 0x48) (f 0x40) (f 0x4C) else m1
      apDone (modUnit s c u fun z => { z with dmem := m2 }) c u x d.toNat (if hit then 1 else 0) (pc + 4)) s

/-- R365: a group closes 256 mc after its first record. -/
def execGroupCloseTimeout (s : State) : Out :=
  let c := subject s 0
  let q := subject s 1
  match (queueAt s c q).openGroup with
  | none => .next s
  | some g => if g.closes ≤ clockOf s (c / 288) (c % 288) then .next (closeGroup s c q) else .next s

/-- R367: delivers one lane's response. -/
def deliver (s : State) (c : Nat) (word : Word) (v : List Word) : State :=
  let tag := (lget v 0 0).toNat
  if tag = 0xFFFFFFFF then s
  else
    let u := tag / 8 % 2
    let x := tag % 8
    if 16 ≤ tag ∨ (apCtx s c u x).st ≠ .suspended then apPost s c u x 0x47 0 word (BitVec.ofNat 32 tag)
    else
      let b := travState x
      let s1 := modUnit s c u fun z =>
        let m := mstore z.dmem (b + 0x44) ((v.drop 1).flatMap fun w => leBytes 4 w.toNat)
        { z with dmem := putCtl m b (ctlDepth m b) (ctlHit m b) true }
      modApCtx s1 c u x fun z => { z with st := .running }

/-! ## The core-side queue instructions (R347 to R351) -/

def qStall (s : State) (k : Nat) : Bool := decide (63 ≤ countOf (warpAt s k) .q)

/-- The words of `n` registers for an entry each: inactive lanes contribute 0. -/
def pushWords (s : State) (w : Warp) (sl : BitVec 8) (d : BitVec 7) (n : Nat) : List (List Word) :=
  let act := gangLanes w sl
  (groupRegs d n).map fun f => (List.range 32).map fun l => if l ∈ act then srcReg s w f l else 0

/-- R348: a push of `n` entries. -/
def queuePush (d : BitVec 7) (q n : Nat) (s : State) : Out :=
  issue { reads := groupRegs d n, drains := true, stall := qStall } (fun s k sl =>
    let w := warpAt s k
    if freeEntries (queueAt s w.coreOf q) < n then .wait s .other
    else passing (fun s k sl =>
      let op := { gangOp s k sl .queuePush with
        code := q, n := n, par := (pushWords s w sl d n).flatMap id, placed := true }
      let o := addOp s op
      modQueue (raiseCounter o.2 k .q o.1) w.coreOf q fun y => reserve y o.1 n false []) s k sl) s

def multiCount (z : BitVec 2) : Nat := 2 ^ (z.toNat + 1)

def execQpush (d : BitVec 7) (q : BitVec 2) (s : State) : Out := queuePush d q.toNat 1 s
def execQpushN (d : BitVec 7) (z q : BitVec 2) (s : State) : Out := queuePush d q.toNat (multiCount z) s

/-- R367: a routed push; its lanes' responses are delivered as it arrives. -/
def execQpushRt (d : BitVec 7) (s : State) : Out :=
  issue { reads := groupRegs d 4, drains := true, stall := qStall } (passing fun s k sl =>
    let w := warpAt s k
    let act := gangLanes w sl
    let op := { gangOp s k sl .queuePush with
      code := 4, n := 4, par := act.flatMap fun l => (groupRegs d 4).map fun f => srcReg s w f l, placed := true }
    let o := addOp s op
    raiseCounter o.2 k .q o.1) s

/-- R349: whether a gang is the first that holds at a queue. -/
def firstHolder (q : Queue) (k : Nat) (sl : BitVec 8) : Bool :=
  match q.holding with
  | [] => true
  | h :: _ => decide (h = (k, sl))

/-- R349: a pop of `n` entries. -/
def queuePop (d : BitVec 7) (q n : Nat) (s : State) : Out :=
  issue { waits := groupRegs d n, drains := true, stall := qStall } (fun s k sl =>
    let w := warpAt s k
    let y := queueAt s w.coreOf q
    if poppable y < n ∨ !firstHolder y k sl then
      .wait (modQueue s w.coreOf q fun y => { y with holding := addOnce y.holding (k, sl) }) .other
    else passing (fun s k sl =>
      let op := { gangOp s k sl .queuePop with
        code := q, n := n, dst := w.win + d.toNat, placed := true, mask := toBits 32 (gangLanes w sl)
        par := (y.entries.take n).flatMap fun e => (List.range 32).map fun l => lget e.words l 0 }
      let o := addOp s op
      let s1 := modQueue o.2 w.coreOf q fun y => { y with
        entries := y.entries.drop n, holding := y.holding.filter (· ≠ (k, sl)) }
      markPending (raiseCounter s1 k .q o.1) k sl ((groupRegs d n).map (w.win + ·)) o.1) s k sl) s

def execQpop (d : BitVec 7) (q : BitVec 2) (s : State) : Out := queuePop d q.toNat 1 s
def execQpopN (d : BitVec 7) (z q : BitVec 2) (s : State) : Out := queuePop d q.toNat (multiCount z) s

/-- R350. -/
def execQstat (d : BitVec 7) (k : BitVec 3) (s : State) : Out :=
  issue { waits := [d.toNat] } (passing fun s j sl =>
    let w := warpAt s j
    let o := addOp s { gangOp s j sl .queueStat with
      code := k.toNat, dst := w.win + d.toNat, mask := toBits 32 (gangLanes w sl), placed := true }
    markPending o.2 j sl [w.win + d.toNat] o.1) s

/-- R350: what QSTAT reads. -/
def queueStatus (s : State) (c k : Nat) : Word :=
  if k = 0 then
    let q := queueAt s c
    BitVec.ofNat 32 (poppable (q 0) + 256 * poppable (q 1) + 65536 * freeEntries (q 2) + 2 ^ 24 * freeEntries (q 3))
  else BitVec.ofNat 32 (((List.range 8).map fun x => apStateCode (apCtx s c (k - 1) x).st * 16 ^ x).sum)

/-- Writes entries' words into the lanes of an operation. -/
def writePopped (s : State) (o k : Nat) (op : Op) : State :=
  modWarp s k fun w => (bitsOf 32 op.mask).foldl (fun w l =>
    (List.range op.n).foldl (fun w i => landReg w o (op.dst + i) l (lget op.par (32 * i + l) 0)) w) w

/-- R348 to R351, R367: a queue instruction's entries, snapshot or responses arrive. -/
def execQueueReturn (s : State) : Out :=
  let o := subject s 0
  match tfind s.ops o with
  | none => .next s
  | some op =>
    match op.warp with
    | none => .next s
    | some k =>
      let c := coreKey op.die op.core
      if (tfind s.warps k).isNone || op.faulted then .next s
      else
        match op.kind with
        | .queuePush =>
          let s1 := if op.code = 4 then
              settleGroups ((List.range (op.par.length / 4)).foldl (fun s i =>
                deliver s c op.word ((op.par.drop (4 * i)).take 4)) s) c
            else modQueue s c op.code fun y => fillEntries y o
              ((List.range op.n).map fun i => (op.par.drop (32 * i)).take 32)
          .next (lower (endOp s1 o) k .q o)
        | .queuePop => .next (lower (endOp (writePopped s o k op) o) k .q o)
        | .queueStat =>
          let v := queueStatus s c op.code
          let s1 := modWarp s k fun w => (bitsOf 32 op.mask).foldl (fun w l => landReg w o op.dst l v) w
          .next (endOp s1 o)
        | _ => .next s

/-! ## APGO and APSTOP (R344) -/

/-- R344: the start of a context, by a warp of a launch that may carry a collective (R420). -/
def apStart (s : State) (c u x : Nat) (coll : Option (Nat × Nat)) (word : Word) (start arg lo hi : Word) : State :=
  let y := apCtx s c u x
  let spill := lo.toNat + 2 ^ 32 * hi.toNat
  if y.st ≠ .idle then apPost s c u x 0x46 0 word (BitVec.ofNat 32 (apStateCode y.st))
  else if start.toNat % 4 ≠ 0 ∨ 0x4000 ≤ start.toNat then apPost s c u x 0x44 0 word start
  else if spill % 512 ≠ 0 then apPost s c u x 0x44 0 word lo
  else if 2 ^ 57 ≤ spill then apPost s c u x 0x44 0 word hi
  else
    let s1 := modApCtx s c u x fun z => { z with
      st := .running, pc := start.setWidth 16, x := rvSet [] 10 arg, fetching := none, pend := none, keptState := false, yielded := false
      collective := coll }
    dmemPut (dmemPut (dmemPut s1 c u (ctlBlock x) 4 0) c u (ctlBlock x + 4) 4 arg.toNat) c u (ctlBlock x + 8) 8 spill

def execApgo (d : BitVec 7) (u : BitVec 1) (c : BitVec 3) (s : State) : Out :=
  issue { reads := groupRegs d 4, drains := true } (fun s k sl =>
    let w := warpAt s k
    let v := (groupRegs d 4).map (warpOperand s w sl)
    if !released w sl 2 then .wait s .other
    else passing (fun s _ _ => apStart s w.coreOf u.toNat c.toNat w.ident.collective (fetchedWord s) (lget v 0 0) (lget v 1 0)
      (lget v 2 0) (lget v 3 0)) s k sl) s

def execApstop (u : BitVec 1) (c : BitVec 3) (s : State) : Out :=
  issue {} (passing fun s k _ =>
    let core := (warpAt s k).coreOf
    if (apCtx s core u.toNat c.toNat).st = .idle then s
    else forgetBehind (apIdle s core u.toNat c.toNat 1) (.park core u.toNat c.toNat)) s

/-! ## Issue by an access processor (R339) -/

/-- R339, R359: the contexts that may issue, in the order in which they are tried: a context that has
yielded after every other. -/
def apOrder (y : ApUnit) : List Nat :=
  let ready := ((List.range 8).map fun i => (y.last + 1 + i) % 8).filter fun i =>
    let x := lget y.ctxs i default
    (x.st = .running ∨ x.st = .blocked) ∧ x.fetching.isNone
  (ready.filter fun i => !(lget y.ctxs i default).yielded) ++ ready.filter fun i => (lget y.ctxs i default).yielded

/-- The word that a context fetches. -/
def apFetch (s : State) (c u x : Nat) : Word := mword (apUnit s c u).imem (apCtx s c u x).pc.toNat

end Sys2Proof.Machine
end

