-- ==== Sys2Proof/Machine/Matrix.lean ====
section
/-!
DEFINITION. The butterfly matrix engine of a cluster (spec/10_matrix_engine.md): stride registers and tile
predicates, the tile commands and their checks, the regulator, stages, weight gradients, dense passes and
the drain path.
-/

namespace Sys2Proof.Machine

/-! ## BSTR and BTPS (R308, R309) -/

/-- R309: an instruction that writes state held per warp from a warp operand, ignoring `mode`. -/
def warpWriter (d : BitVec 7) (f : Word → WarpWrite) (s : State) : Out :=
  issue { reads := [d.toNat] } (passing fun s k sl =>
    pushWarpWrite s k sl (f (warpOperand s (warpAt s k) sl d.toNat)) 2) s

def execBstr (d : BitVec 7) (k : BitVec 3) (s : State) : Out := warpWriter d (.stride k.toNat) s
def execBstrImm (i : BitVec 11) (k : BitVec 3) (s : State) : Out :=
  issue {} (passing fun s w sl => pushWarpWrite s w sl (.stride k.toNat (immUnsigned i)) 2) s
def execBtps (d : BitVec 7) (s : State) : Out :=
  warpWriter d (fun v => .tiles (BitVec.allOnes 16) (v.setWidth 16)) s
def execBtpsOne (d : BitVec 7) (k : BitVec 4) (s : State) : Out :=
  warpWriter d (fun v => .tiles ((1 : BitVec 16) <<< k.toNat) (if v = 0 then 0 else BitVec.allOnes 16)) s

/-! ## Entries (R303, R311, R312) -/

/-- The opcode of a tile command: 0xE1 BSTG, 0xE2 BCHN, 0xE3 BTRN, 0xE4 BTRN.w, 0xE5 BDNS, 0xE6 BDRN. -/
def MxEntry.opcode (e : MxEntry) : Nat := e.word.toNat / 2 ^ 24
def MxEntry.param (e : MxEntry) (i : Nat) : Nat := (lget e.par i 0).toNat
/-- sub3: the plane count *m*, or BDRN's mode. -/
def MxEntry.planes (e : MxEntry) : Nat := bitsAt e.word 0 3
def MxEntry.control (e : MxEntry) : Word := lget e.par (if e.opcode = 0xE6 then 7 else 3) 0
def MxEntry.bo (e : MxEntry) : Nat := bitsAt e.control 0 19 * 16
def MxEntry.zc (e : MxEntry) : Bool := e.control.getLsbD 19
def MxEntry.keep (e : MxEntry) : Bool := e.control.getLsbD 20
def MxEntry.tin (e : MxEntry) : Bool := e.control.getLsbD 21
def MxEntry.wantsMax (e : MxEntry) : Bool := e.control.getLsbD 22
def MxEntry.marks (e : MxEntry) : Bool := e.control.getLsbD 23
def MxEntry.pri (e : MxEntry) : Nat := bitsAt e.control 24 4
/-- The row count *L* of a stage command. -/
def MxEntry.rows (e : MxEntry) : Nat := 2 ^ (5 + bitsAt e.control 28 3)
/-- The number of stages of a stage command. -/
def MxEntry.stages (e : MxEntry) : Nat :=
  if e.opcode = 0xE2 ∨ e.opcode = 0xE3 then bitsAt e.word 6 4 + 1 else 1
/-- The stride register of stage `t`. -/
def MxEntry.stride (e : MxEntry) (t : Nat) : Word :=
  let k := if e.opcode = 0xE2 ∨ e.opcode = 0xE3 then e.param 4 / 2 ^ (3 * t) % 8 else bitsAt e.word 3 3
  lget e.st k 0
def MxEntry.format (e : MxEntry) : Nat := bitsAt e.word 6 2

/-- How many parameter registers a command reads. -/
def paramCount (opcode : Nat) : Nat :=
  match opcode with
  | 0xE2 => 5
  | 0xE3 => 5
  | 0xE6 => 8
  | _ => 4

/-! ## Checks (R306, R314) -/

/-- A cluster-store operand of `n` bytes. -/
def inStore (a n align : Nat) : Bool := decide (a % align = 0 ∧ a + n ≤ 0x800000)

/-- Bytes of a dense operand. -/
def denseSize (fmt : Nat) : Nat :=
  match fmt with
  | 0 => 2048
  | 1 => 1028
  | _ => 516

/-- R326: whether a BDRN source is a whole tile of the store, of one slot or of one F1 value. -/
def tileSource (a : Nat) : Bool :=
  decide (a % 128 = 0) &&
    (decide (a + 4096 ≤ 0x800000) || (decide (0x4000000 ≤ a ∧ a < 0x8400000 ∧ a % 2 ^ 17 + 4096 ≤ 2 ^ 17)))

/-- R306: whether the operands of a command lie as they should. -/
def MxEntry.operandsOk (e : MxEntry) : Bool :=
  let l := e.rows
  match e.opcode with
  | 0xE4 => inStore (e.param 0) (64 * l) 128 && inStore (e.param 1) (64 * l) 128 && inStore (e.param 2) (8 * l) 16
  | 0xE5 =>
    let n := denseSize e.format
    inStore (e.param 0) n 128 && inStore (e.param 1) n 128 && inStore (e.param 2) 4096 128
  | 0xE6 => (List.range (if 2 ≤ e.planes then 4 else 1)).all fun i => tileSource (e.param i)
  | _ => inStore (e.param 0) (64 * l) 128 && inStore (e.param 1) (64 * l * (if e.keep then e.stages else 1)) 128 &&
      inStore (e.param 2) (4 * l * e.stages) 8

/-- R312: the fields of the control word that a command does not use. -/
def reservedControl (opcode : Nat) : Nat :=
  match opcode with
  | 0xE1 => 0x80D80000
  | 0xE2 => 0x80C80000
  | 0xE3 => 0x80C80000
  | 0xE4 => 0x80D00000
  | 0xE5 => 0xF0F00000
  | _ => 0xF0380000

/-- R314: the matrix-parameter trap of a command, by its lowest value. -/
def MxEntry.check (e : MxEntry) : Option Nat :=
  let stage := decide (e.opcode ≤ 0xE4)
  let chain := decide (e.opcode = 0xE2 ∨ e.opcode = 0xE3)
  let c := e.control.toNat
  let badStride := (List.range e.stages).any fun t =>
    let v := (e.stride t).toNat
    decide (32 ≤ v ∨ 5 + c / 2 ^ 28 % 8 ≤ v % 16)
  if !e.operandsOk then some 1
  else if c &&& reservedControl e.opcode ≠ 0 ∨ (stage ∧ 5 < c / 2 ^ 28 % 8) ∨ (chain ∧ 2 ^ 30 ≤ e.param 4) then some 2
  else if stage && badStride then some 3
  else if stage && e.tin && decide (e.rows ≠ 32) then some 4
  else if e.opcode = 0xE6 ∧ bitsAt e.word 3 3 ≠ 0 ∧ !e.wantsMax then some 5
  else none

/-- R216, R325: the record trap of a BDRN, if any. -/
def MxEntry.recordCheck (e : MxEntry) : Option Nat :=
  if e.opcode ≠ 0xE6 then none
  else if 6 ≤ recSwz e.record ∨ (e.wantsMax ∧ 6 ≤ recSwz e.recordMax) then some 1
  else if e.marks && !recPub e.record then some 4
  else none

/-! ## Issue (R311, R313) -/

/-- The entry that a command would take. -/
def tileEntry (word : Word) (s : State) (k : Nat) (sl : BitVec 8) (d : BitVec 7) : MxEntry :=
  let w := warpAt s k
  let opcode := word.toNat / 2 ^ 24
  let par := (groupRegs d (paramCount opcode)).map (warpOperand s w sl)
  let books := (groupAt s w.ident.group).cb
  { (default : MxEntry) with
    word := word, mask := toBits 32 (gangLanes w sl), warp := k, group := w.ident.group, ctx := w.ident.ctx, die := w.die, core := w.core
    slices := sl, par := par ++ List.replicate (8 - par.length) 0
    st := (List.range 8).map fun i => tget w.strides i 0
    cb := if opcode = 0xE5 ∧ bitsAt word 6 2 = 2 then tget books (bitsAt word 3 3) (List.replicate 16 0) else []
    record := tget w.recs (bitsAt word 6 4) 0, recordMax := tget w.recs (bitsAt word 3 3) 0
    win := w.win, pc := gangPc w sl, collective := w.ident.collective }

/-- R303: the lowest free entry of a cluster's table, for a command of a core. -/
def freeEntry (s : State) (c core : Nat) : Option Nat :=
  let mx := (clusterAt s c).mx
  if 16 ≤ (mx.filter fun p => decide (p.2.core = core)).length then none
  else (List.range 32).find? fun i => (tfind mx i).isNone

/-- R313: accepts a command into an entry; BDRN samples its records' versions (R325). -/
def acceptTile (s : State) (c n : Nat) (e : MxEntry) : State :=
  let a := newId s
  let b := newId a.2
  let drains := decide (e.opcode = 0xE6)
  let s1 := if drains then sampleVersion b.2 e.die e.core a.1 e.record true else (b.2, none)
  let s2 := if drains && e.wantsMax then sampleVersion s1.1 e.die e.core b.1 e.recordMax true else (s1.1, none)
  modCluster s2.1 c fun x => { x with mx := tput x.mx n { e with
    seq := a.1, accepted := engineClock s c, sample := s1.2, sampleMax := s2.2, op := some a.1 } }

/-- R313: the command of a gang that waits for a free entry, as it was read: its 128 bytes are expected
already. It stays with the warp until its gang enters it (notes/assumptions/72.md). -/
def waitingTile (word : Word) (w : Warp) (sl : BitVec 8) : Option MxEntry :=
  w.tileWait.find? fun e => decide (e.slices = sl ∧ e.pc = gangPc w sl ∧ e.word = word)

/-- R303, R313: enters a command that has been read in a free entry of its warp's cluster, or makes its gang wait. -/
def enterTile (s : State) (k : Nat) (sl : BitVec 8) (en : MxEntry) : Eff :=
  let w := warpAt s k
  let rest := w.tileWait.filter fun e => e.slices ≠ sl
  if en.opcode = 0xE6 && (writerHeld s en.record || (en.wantsMax && writerHeld s en.recordMax)) then
    .wait (modWarp s k fun w => { w with tileWait := en :: rest }) .waitc
  else
    match freeEntry s w.clusterOf w.core with
    | none => .wait (modWarp s k fun w => { w with tileWait := en :: rest }) .other
    | some i => passing (fun s _ _ =>
        acceptTile (modWarp s k fun w => { w with tileWait := rest }) w.clusterOf i
          { en with die := w.die, core := w.core }) s k sl

/-- R311, R313: issues a tile command. Its release (R46) comes before its 128 bytes are expected. -/
def tileCommand (word : Word) (d : BitVec 7) (e : BitVec 1) (t : BitVec 4) (s : State) : Out :=
  let n := paramCount (word.toNat / 2 ^ 24)
  issue { reads := groupRegs d n, drains := true }
    (fun s k sl =>
      let w := warpAt s k
      match waitingTile word w sl with
      | some en => enterTile s k sl en
      | none =>
        let en := tileEntry word s k sl d
        match en.check, en.recordCheck with
        | some v, _ => .trap 22 (BitVec.ofNat 32 v) false
        | none, some v => .trap 16 (BitVec.ofNat 32 v) false
        | none, none =>
          if !boAddress en.bo then .trap 9 (BitVec.ofNat 32 en.bo) false
          else if !released w sl 2 then .wait s .other
          else
            let s1 := boExpect s w.clusterOf en.bo 128
            if e = 1 ∧ !w.tiles.getLsbD t.toNat then passing (fun s _ _ => boArrived s w.clusterOf en.bo 128) s1 k sl
            else enterTile s1 k sl en) s

def execBstg (d : BitVec 7) (e : BitVec 1) (t : BitVec 4) (sel m : BitVec 3) (s : State) : Out := tileCommand (wordOf (.bstg d e t sel m)) d e t s
def execBchn (d : BitVec 7) (e : BitVec 1) (t n : BitVec 4) (m : BitVec 3) (s : State) : Out := tileCommand (wordOf (.bchn d e t n m)) d e t s
def execBtrn (d : BitVec 7) (e : BitVec 1) (t n : BitVec 4) (m : BitVec 3) (s : State) : Out := tileCommand (wordOf (.btrn d e t n m)) d e t s
def execBtrnW (d : BitVec 7) (e : BitVec 1) (t : BitVec 4) (sel m : BitVec 3) (s : State) : Out := tileCommand (wordOf (.btrnW d e t sel m)) d e t s
def execBdns (d : BitVec 7) (e : BitVec 1) (t : BitVec 4) (a b : BitVec 1) (f : BitVec 2) (c m : BitVec 3)
    (s : State) : Out := tileCommand (wordOf (.bdns d e t a b f c m)) d e t s
def execBdrn (d : BitVec 7) (e : BitVec 1) (t n : BitVec 4) (c o : BitVec 3) (s : State) : Out := tileCommand (wordOf (.bdrn d e t n c o)) d e t s

/-! ## The regulator (R304, R305) -/

/-- R304: how long a command holds the cell array. -/
def MxEntry.occupancy (e : MxEntry) : Nat :=
  if e.mask = 0 then 0
  else if e.opcode = 0xE5 then if e.format = 0 ∧ 4 ≤ e.planes then 2 else 1
  else e.stages * max 1 (e.rows / (if 4 ≤ e.planes then 256 else 512))

/-- R305: an entry's effective priority. -/
def MxEntry.priority (e : MxEntry) (now : Nat) : Nat := min 15 (e.pri + (now - e.accepted) / 256)

/-- R305: whether every earlier command of the same warp has completed. -/
def mxEligible (x : Cluster) (e : MxEntry) : Bool :=
  !e.granted && !(x.mx.any fun p => decide (p.2.warp = e.warp ∧ p.2.seq < e.seq))

/-- Whether entry `a` goes before entry `b`. -/
def mxBefore (now : Nat) (a b : MxEntry) : Bool :=
  let p := a.priority now
  let q := b.priority now
  decide (q < p ∨ (p = q ∧ (a.accepted < b.accepted ∨ (a.accepted = b.accepted ∧
    (a.core < b.core ∨ (a.core = b.core ∧ a.seq < b.seq))))))

/-- R305: the entry that the regulator grants, among the eligible ones of a kind. -/
def mxPick (x : Cluster) (now : Nat) (drain : Bool) : Option Nat :=
  let l := x.mx.filter fun p => !p.2.held && mxEligible x p.2 && (decide (p.2.opcode = 0xE6) == drain)
  (l.foldl (fun (b : Option (Nat × MxEntry)) p =>
    match b with
    | none => some p
    | some q => if mxBefore now p.2 q.2 then some p else some q) none).map Prod.fst

def execCellArrayGrant (s : State) : Out :=
  let c := subject s 0
  let x := clusterAt s c
  let now := engineClock s c
  if now < x.cellFree then .next s
  else
    match mxPick x now false with
    | none => .next s
    | some i =>
      let ends := now + (tget x.mx i default).occupancy
      .next (modCluster s c fun x => { x with
        cell := some i, cellFree := ends, mx := tmod x.mx i fun e => { e with granted := true, ends := ends } })

/-- R305: the drain path is granted; the drain becomes an operation whose lines are to be translated. -/
def execDrainPathGrant (s : State) : Out :=
  let c := subject s 0
  let x := clusterAt s c
  if x.drain.isSome then .next s
  else
    match mxPick x (engineClock s c) true with
    | none => .next s
    | some i =>
      let e := tget x.mx i default
      let op : Op := { unitOp .drain e.die e.core e.ctx with
        cluster := c, warp := some e.warp, group := e.group, collective := e.collective, slices := e.slices, placed := false, entry := i, record := e.record
        sample := e.sample, z := if e.planes % 2 = 1 then 2 else 4, done := e.ends }
      .next { modCluster s c (fun x => { x with
        drain := some i, mx := tmod x.mx i fun e => { e with granted := true } }) with
        ops := tput s.ops (e.op.getD 0) op }

/-! ## Operands (R92, R306, R307) -/

/-- The words of planes: bit `k` of element (i, j), for `rows` rows. -/
def planeElem (m : Memory) (base rows planes i j : Nat) : Nat :=
  (List.range planes).foldl (fun n k => n + mnat m (base + 4 * rows * k + 4 * i) 4 / 2 ^ j % 2 * 2 ^ k) 0

/-- R92: the bits of a BF16 element read at `mant` mantissa planes. -/
def readAt (mant v : Nat) : Nat := v - v % 2 ^ (7 - mant)

/-- A BF16 vector, read at `mant` planes, as rows of columns. -/
def readVector (m : Memory) (base rows mant : Nat) (tin : Bool) : List (List Nat) :=
  (List.range rows).map fun i => (List.range 32).map fun j =>
    readAt mant (if tin then planeElem m base rows 16 j i else planeElem m base rows 16 i j)

def vecAt (v : List (List Nat)) (i j : Nat) : Nat := lget (lget v i []) j 0

/-- A BF16 value. -/
def bfVal (b : Nat) : FVal := fdecode (b * 65536)

/-- A weight block's four BF16 values. -/
def blockAt (m : Memory) (w b : Nat) : List FVal := (List.range 4).map fun i => bfVal (mnat m (w + 8 * b + 2 * i) 2)

/-- R307: an element of a dense operand. -/
def denseElem (m : Memory) (cb : List (BitVec 16)) (fmt mant base i j : Nat) : FVal :=
  if fmt = 0 then bfVal (readAt mant (planeElem m base 32 16 i j))
  else
    let n := if fmt = 1 then 8 else 4
    let e := mnat m (base + 128 * n) 4 % 256
    let v := planeElem m base 32 n i j
    let x := if fmt = 1 then fOfInt (toSigned 8 v) else codeValue cb v
    if e = 255 then .nan false
    else
      match x with
      | .fin neg mt x => .fin neg mt (x + e - 127)
      | y => y

/-! ## Stages (R316 to R319) -/

/-- R318: two products and their sum, rounded to FP32 and then to BF16. A signalling NaN raises invalid, a weight as R318
says and an element of a vector as R82 and R102 do (DEDUCED, notes/assumptions/90.md). -/
def stageSum (w0 x w1 y : FVal) : Nat × BitVec 6 :=
  let zeroInf := fun a b : FVal => (fProd a b).isNone && !a.isNan && !b.isNan
  let bad := .nan true ∈ [w0, x, w1, y]
  match fProd w0 x, fProd w1 y with
  | some p, some q =>
    let r := fAdd rneF p q 0
    let b := fRound rneBf (fdecode r.bits) 0
    (b.bits / 65536, r.flags ||| b.flags)
  | _, _ => (qnan / 65536, if bad || zeroInf w0 x || zeroInf w1 y then flagNV else 0)

/-- R316: the rows that a stage pairs, lower row first, and their block. -/
def stagePairs (rows g : Nat) (tied : Bool) : List (Nat × Nat × Nat) :=
  ((List.range rows).filter fun i => i / 2 ^ g % 2 = 0).map fun i =>
    (i, i + 2 ^ g, if tied then 0 else i / 2 ^ (g + 1) * 2 ^ g + i % 2 ^ g)

def stLg (v : Word) : Nat := bitsAt v 0 4
def stTied (v : Word) : Bool := v.getLsbD 4

/-- R317: one application: the new vector in the columns of active lanes, and the flags. -/
def applyStage (m : Memory) (e : MxEntry) (trans : Bool) (t : Nat) (v : List (List Nat)) :
    List (List Nat) × BitVec 6 :=
  let st := e.stride t
  let w := e.param 2 + 4 * e.rows * t
  let pairs := (stagePairs e.rows (stLg st) (stTied st)).map fun p =>
    let b := blockAt m w p.2.2
    let w := fun i => lget b i (.fin false 0 0)
    let cols := (List.range 32).map fun j =>
      if e.mask.getLsbD j then
        let x := bfVal (readAt e.planes (vecAt v p.1 j))
        let y := bfVal (readAt e.planes (vecAt v p.2.1 j))
        (stageSum (w 0) x (w (if trans then 2 else 1)) y, stageSum (w (if trans then 1 else 2)) x (w 3) y)
      else ((0, 0), (0, 0))
    (p.1, p.2.1, cols)
  let row := fun i => match pairs.find? fun p => p.1 = i ∨ p.2.1 = i with
    | some (lo, _, cols) => cols.map fun c => if lo = i then c.1.1 else c.2.1
    | none => []
  ((List.range e.rows).map row, joinFlags (pairs.flatMap fun p => p.2.2.flatMap fun c => [c.1.2, c.2.2]))

/-- Writes the columns of active lanes of a vector's planes. -/
def writeVector (m : Memory) (base rows : Nat) (mask : BitVec 32) (v : List (List Nat)) : Memory :=
  (List.range 16).foldl (fun m k => (List.range rows).foldl (fun m i =>
    let a := base + 4 * rows * k + 4 * i
    let old := mword m a
    let new := toBits 32 ((List.range 32).filter fun j => decide (vecAt v i j / 2 ^ k % 2 = 1))
    mputNat m a 4 ((old &&& ~~~mask) ||| (new &&& mask)).toNat) m) m

/-- R317: the applications of a chain from the list on, `u` counting them; every vector to be written,
with its address. -/
def chain (m : Memory) (e : MxEntry) (trans : Bool) : List Nat → Nat → List (List Nat) →
    List (Nat × List (List Nat)) × BitVec 6
  | [], _, _ => ([], 0)
  | t :: r, u, v =>
    let o := applyStage m e trans t v
    let rest := chain m e trans r (u + 1) o.1
    let here := if r.isEmpty then [(e.param 1, o.1)]
      else if e.keep then [(e.param 1 + 64 * e.rows * (u + 1), o.1)] else []
    (here ++ rest.1, o.2 ||| rest.2)

/-- R317, R319: a stage command's writes to the store, and its flags. -/
def runStages (m : Memory) (e : MxEntry) : Memory × BitVec 6 :=
  let trans := decide (e.opcode = 0xE3)
  let ts := List.range e.stages
  let r := chain m e trans (if trans then ts.reverse else ts) 0
    (readVector m (e.param 0) e.rows e.planes e.tin)
  (r.1.foldl (fun m p => writeVector m p.1 e.rows e.mask p.2) m, r.2)

/-! ## Dense sums (R101) -/

/-- The exponent of the leading bit of a finite value that is not zero. -/
def leading : FVal → Option Int
  | .fin _ m e => if m = 0 then none else some (Nat.log2 m + e)
  | _ => none

/-- R101: a finite product as a multiple of 2^(top - 36), truncated toward zero. -/
def truncated (top : Int) : FVal → Int
  | .fin neg m e =>
    let k := e - (top - 36)
    let q : Int := if 0 ≤ k then m * 2 ^ k.toNat else (m / 2 ^ (-k).toNat : Nat)
    if neg then -q else q
  | _ => 0

/-- R101: the sum of products and an accumulator. Where some product is a NaN, the signalling NaN that raises
invalid is one of the operands; the accumulator is not looked at (DESIGN CHOICE, notes/assumptions/65.md). -/
def denseSum (ps : List (FVal × FVal)) (a : Nat) : Nat × BitVec 6 :=
  let prods := ps.map fun p => fProd p.1 p.2
  let zeroInf := ps.any fun p => (fProd p.1 p.2).isNone && !p.1.isNan && !p.2.isNan
  let sig := ps.any fun p => decide (p.1 = .nan true ∨ p.2 = .nan true)
  let has := fun n => prods.any (· == some (.inf n))
  if prods.any Option.isNone || (has false && has true) then
    (qnan, if zeroInf || sig || (has false && has true) then flagNV else 0)
  else if has false || has true then
    let r := fAdd rneF (fdecode a) (.inf (has true)) 0
    (r.bits, r.flags)
  else
    let vals := prods.filterMap id
    match (vals.filterMap leading).max? with
    | none => (a, 0)
    | some top =>
      let sum := (vals.map (truncated top)).sum
      if sum = 0 then (a, 0)
      else
        let r := fAdd rneF (fdecode a) (.fin (decide (sum < 0)) sum.natAbs (top - 36)) 0
        (r.bits, r.flags)

/-- R320: the weight gradients of one stage. -/
def runGradients (m : Memory) (e : MxEntry) : Memory × BitVec 6 :=
  let st := e.stride 0
  let x := readVector m (e.param 0) e.rows e.planes e.tin
  let dy := readVector m (e.param 1) e.rows e.planes false
  let zero : FVal := .fin false 0 0
  let step := fun (acc : Memory × BitVec 6 × List Nat) (p : Nat × Nat × Nat) =>
    let fresh := e.zc && !acc.2.2.contains p.2.2
    let rows := [p.1, p.2.1]
    let new := (List.range 4).map fun kc =>
      let ps := (List.range 32).map fun j =>
        if e.mask.getLsbD j then (bfVal (vecAt dy (lget rows (kc / 2) 0) j), bfVal (vecAt x (lget rows (kc % 2) 0) j))
        else (zero, zero)
      denseSum ps (if fresh then 0 else mnat acc.1 (e.param 2 + 16 * p.2.2 + 4 * kc) 4)
    (mstore acc.1 (e.param 2 + 16 * p.2.2) (new.flatMap fun v => leBytes 4 v.1),
      acc.2.1 ||| joinFlags (new.map Prod.snd), p.2.2 :: acc.2.2)
  if e.mask = 0 then (m, 0)
  else
    let r := (stagePairs e.rows (stLg st) (stTied st)).foldl step (m, 0, [])
    (r.1, r.2.1)

/-- R322: a dense pass. -/
def runDense (m : Memory) (e : MxEntry) : Memory × BitVec 6 :=
  let el := fun base i j => denseElem m e.cb e.format e.planes base i j
  let a := fun i k => if e.word.getLsbD 9 then el (e.param 0) k i else el (e.param 0) i k
  let b := fun k j => if e.word.getLsbD 8 then el (e.param 1) j k else el (e.param 1) k j
  let cols := (List.range 32).map fun j => (List.range 32).map fun k => b k j
  let new := (bitsOf 32 e.mask).flatMap fun i =>
    let row := (List.range 32).map (a i)
    (List.range 32).map fun j =>
      let at' := e.param 2 + 128 * j + 4 * i
      (at', denseSum (row.zip (lget cols j [])) (if e.zc then 0 else mnat m at' 4))
  (new.foldl (fun m p => mputNat m p.1 4 p.2.1) m, joinFlags (new.map fun p => p.2.2))

/-- What a cell-array command makes of the cluster store, and its flags. -/
def runCells (m : Memory) (e : MxEntry) : Memory × BitVec 6 :=
  match e.opcode with
  | 0xE4 => runGradients m e
  | 0xE5 => runDense m e
  | _ => runStages m e

/-! ## Drains (R325, R326, R333) -/

/-- The bits of a word of a tile, if its source can be read now, and whether it reaches anything. -/
def tileWord (s : State) (op : Op) (a : Nat) : Option (Nat × Bool) :=
  match clusterTarget s op a with
  | .waits => none
  | .nothing => some (0, false)
  | t => some (leNat (readTarget s op 4 t), true)

/-- R325: the value that element (i, j) of a drain writes, and its flags. -/
def drainValue (mode : Nat) (v : List Nat) : Nat × BitVec 6 :=
  let x := fun i => fdecode (lget v i 0)
  let r := if 2 ≤ mode then
      let p := fAdd rneF (x 0) (x 1) 0
      let q := fAdd rneF (x 2) (x 3) 0
      let r := fAdd rneF (fdecode p.bits) (fdecode q.bits) 0
      (r.bits, p.flags ||| q.flags ||| r.flags)
    else (lget v 0 0, 0)
  if mode % 2 = 1 then
    let b := fRound rneBf (fdecode r.1) 0
    (b.bits, r.2 ||| b.flags)
  else r

/-- The elements of a drain in their order, with its flags; `none` while a source must be waited for. Of a
reissued drain the elements that the one before it has dealt with stay as they are (R335). -/
def drainElems (s : State) (op : Op) (e : MxEntry) : Option (List Elem × BitVec 6) :=
  let tiles := if 2 ≤ e.planes then 4 else 1
  let base := accessBase s e.record op.sample true
  let cells := (bitsOf 32 e.mask).flatMap fun i => (List.range 32).map fun j =>
    match e.elems.find? fun x => decide (x.idx = 32 * i + j) with
    | some x => some (x, 0)
    | none =>
    let ws := (List.range tiles).map fun t => tileWord s op (e.param t + 128 * j + 4 * i)
    if ws.all Option.isSome then
      let got := ws.filterMap id
      let v := drainValue e.planes (got.map Prod.fst)
      let idx := e.param 4 + i * e.param 5 + j
      let el := elemAt e.record base op.z 1 i idx []
      some ({ el with
        data := leBytes op.z (v.1 / (if op.z = 2 then 65536 else 1)), code := some v.1, idx := 32 * i + j },
        v.2 ||| (if got.all Prod.snd then 0 else flagOOB))
    else none
  if cells.all Option.isSome then
    let l := cells.filterMap id
    some (l.map Prod.fst, e.flags ||| joinFlags (l.map Prod.snd))
  else none

/-- R333: a record of the drain path. -/
def drainRecord (s : State) (c o : Nat) (e : MxEntry) (entry kind va : Nat) (lanes : BitVec 32) (resume : Bool) :
    State :=
  postFor s e.ctx (c / 72)
    (faultRecord kind true false resume false entry 510 (c / 72) (c % 72) va lanes e.word e.pc.toNat)
    (if resume then .op o else .none) (some o)

/-- The record of elements of a drain, at the lowest byte of them. -/
def drainElemRecord (s : State) (c o : Nat) (e : MxEntry) (entry kind : Nat) (l : List Elem) (resume : Bool) : State :=
  if l.isEmpty then s else drainRecord s c o e entry kind (lowest (l.map Elem.addr)) (elemLanes l) resume

/-- R325, R333: translates the lines of a drain from the list on, until one faults. A line on a page with a
format, and misaligned elements, are left out. -/
def drainLines (u : Walker) : State → Pages → List Nat → State × List (Nat × Option OpLine) × Option (Nat × Nat)
  | s, _, [] => (s, [], none)
  | s, pg, va :: r =>
    match placePage s u .write pg va with
    | (s1, _, .error k) => (s1, [], some (k, va))
    | (s1, pg1, .ok t) =>
      let x := drainLines u s1 pg1 r
      (x.1, (lineOf va, if t.attr.fmt = 0 then some (transLine t va) else none) :: x.2.1, x.2.2)

/-- The lines that a drain reaches, in its order, each by the address first met. -/
def firstMet (z : Nat) (l : List Elem) : List Nat :=
  let reach := l.filter fun e => decide (e.st ≠ .outOfBounds ∧ e.addr + z ≤ 2 ^ 57)
  (reach.foldl (fun (acc : List Nat) e => if acc.any fun a => lineOf a = lineOf e.addr then acc else e.addr :: acc)
    []).reverse

/-- R325, R333: reads the sources of a drain and sends what it may of its lines. -/
def translateDrain (s : State) (o : Nat) (op : Op) : State :=
  let c := op.cluster
  match tfind (clusterAt s c).mx op.entry with
  | none => s
  | some e =>
    match if op.elems.isEmpty then drainElems s op e else some (op.elems, op.flags) with
    | none => s
    | some (es, fl) =>
      let live := liveElems es
      if !shadowFree s op.sample then s
      else if recPub e.record && op.sample.isNone && !live.isEmpty then
        let first := lineOf (((firstMet op.z es).drop op.done).headD 0)
        drainElemRecord (modOp s o fun x => { x with faulted := true }) c o e op.entry 6
          (live.filter fun el => lineOf el.addr = first) true
      else
        let todo := (firstMet op.z es).drop op.done
        let t := drainLines op.walker s [] todo
        let some' := t.2.1
        let good := some'.filterMap Prod.snd
        let scaled := (some'.filter fun p => p.2.isNone).map Prod.fst
        let es1 := es.map fun el =>
          if el.st = .live ∧ lineOf el.addr ∈ scaled then { el with st := .trapped }
          else if el.st = .live ∧ lineOf el.addr ∈ some'.map Prod.fst ∧ el.addr % op.z ≠ 0 then
            { el with st := .addrError }
          else el
        let bad := (es1.zip es).filter fun p => decide (p.1.st = .addrError ∧ p.2.st = .live)
        let told := e.elems.map Elem.idx
        let beyond := if op.elems.isEmpty then es.filter fun el => el.st = .addrError ∧ el.idx ∉ told else []
        let trapped := ((es1.zip es).filter fun p => decide (p.1.st = .trapped ∧ p.2.st ≠ .trapped)).map Prod.fst
        let op1 := { op with
          elems := es1, lines := op.lines ++ good, done := op.done + some'.length, flags := fl
          placed := t.2.2.isNone, faulted := t.2.2.isSome }
        let s1 := { t.1 with ops := tput t.1.ops o op1 }
        let s2 := drainElemRecord (drainElemRecord s1 c o e op.entry 7 (bad.map Prod.fst) false) c o e op.entry 8 beyond false
        let s3 := match trapped.head? with
          | some el => formatTrap s2 e.warp 0 e.slices el.addr
          | none => s2
        let sent := (liveElems es1).filter fun el => decide (lineOf el.addr ∈ good.map OpLine.va)
        let s4 := engineWrites s3 o { op1 with lines := good } (2000000000 + c) sent
        match t.2.2 with
        | none => s4
        | some (k, va) =>
          drainElemRecord s4 c o e op.entry k ((liveElems es1).filter fun el => lineOf el.addr = lineOf va) true

/-- R333: system software replays a drain's fault; what an entry disabled at its issue kept from being sampled,
the tile's record or the maximum's, is sampled when the drain goes on (R64). -/
def replayDrain (s : State) (o : Nat) (op : Op) : State :=
  let late := match tfind (clusterAt s op.cluster).mx op.entry with
    | some e => if op.placed then recPub e.recordMax && e.sampleMax.isNone else recPub e.record && op.sample.isNone
    | none => false
  modOp s o fun x => { x with faulted := false, resample := late }

/-- R64, R333: samples the version of a replayed drain's record. -/
def resampleDrain (s : State) (o : Nat) (op : Op) : State :=
  let smp := sampleVersion s op.die op.core o op.record true
  modCluster (modOp smp.1 o fun x => { x with sample := smp.2, resample := false }) op.cluster fun x =>
    { x with mx := tmod x.mx op.entry fun e => { e with sample := smp.2 } }

/-- R333: system software aborts a drain: what it has not sent is dropped. A fault of the maximum word ends
the maximum. -/
def abortDrain (s : State) (o : Nat) (op : Op) : State :=
  let sent := ((firstMet op.z op.elems).take op.done).map lineOf
  let s1 := modOp s o fun x => { x with
    elems := x.elems.map fun el => if el.st = .live ∧ lineOf el.addr ∉ sent then { el with st := .dropped } else el
    placed := true, faulted := false, flags := x.flags ||| flagOOB }
  if op.placed then modCluster s1 op.cluster fun x => { x with mx := tmod x.mx op.entry fun e => { e with maxDone := true } }
  else s1

/-! ## Completion (R313, R325) -/

/-- R288, R313, R334: frees an entry: its flags, then 128 bytes at its barrier object. -/
def completeTile (s : State) (c i : Nat) (e : MxEntry) (fl : BitVec 6) : State :=
  let free := fun x : Cluster => { x with
    mx := tdel x.mx i
    cell := if x.cell = some i then none else x.cell
    drain := if x.drain = some i then none else x.drain }
  boArrived (modCluster (lateFlags s e.warp fl) c free) c e.bo 128

/-- R325: sends the maximum of a drain to its word; a fault waits for system software. Its records name no lane (DESIGN
CHOICE, notes/assumptions/84.md). -/
def sendMax (s : State) (c i o : Nat) (op : Op) (e : MxEntry) (mx : Nat) : State :=
  let base := accessBase s e.recordMax e.sampleMax true
  let el := elemAt e.recordMax base 4 1 0 (e.param 6) []
  let finish := fun (s : State) => modCluster s c fun x => { x with mx := tmod x.mx i fun e => { e with maxDone := true } }
  if el.st = .outOfBounds then finish (modOp s o fun x => { x with flags := x.flags ||| flagOOB })
  else if el.st = .addrError then finish (drainRecord s c o e i 8 el.addr 0 false)
  else if recPub e.recordMax && e.sampleMax.isNone then
    if op.resample then
      if writerHeld s e.recordMax then s
      else
        let smp := sampleVersion s op.die op.core (o + 1) e.recordMax true
        modCluster (modOp smp.1 o fun x => { x with resample := false }) c fun x =>
          { x with mx := tmod x.mx i fun e => { e with sampleMax := smp.2 } }
    else drainRecord (modOp s o fun x => { x with faulted := true }) c o e i 6 el.addr 0 true
  else if !shadowFree s e.sampleMax then s
  else
    match placeRanges s op.walker .write [] [(el.addr, 1)] with
    | (s1, _, .error (k, va)) => drainRecord (modOp s1 o fun x => { x with faulted := true }) c o e i k va 0 true
    | (s1, _, .ok ls) =>
      if el.addr % 4 ≠ 0 then finish (drainRecord s1 c o e i 7 el.addr 0 false)
      else if ls.any fun l => l.attr.fmt ≠ 0 then finish (formatTrap s1 e.warp 0 e.slices el.addr)
      else
        let op1 := { op with lines := op.lines ++ ls }
        let pa := physOf ls el.addr
        finish (sendReq { s1 with ops := tput s1.ops o op1 }
          (engineReq s1 o op1 (2000000000 + c) .atomic pa [(pa, leBytes 4 mx, 0)] (2 + 32 + 128)))

/-- R82, R325: the magnitude of a value that a drain has written; of a NaN that of the canonical one. -/
def writtenMagnitude (v : Nat) : Nat := if (fdecode v).isNan then qnan else v % 2 ^ 31

/-- R325: a drain whose writes have been performed merges its maximum, and then completes. -/
def settleDrain (s : State) (c i : Nat) (e : MxEntry) : State :=
  let o := e.op.getD 0
  match tfind s.ops o with
  | none => s
  | some op =>
    if !op.placed || op.faulted || outstanding s o then s
    else
      let written := op.elems.filter fun el => el.st = .live
      let mx := (written.map fun el => writtenMagnitude (el.code.getD 0)).foldl max 0
      if e.wantsMax && !e.maxDone && !written.isEmpty then sendMax s c i o op e mx
      else
        let s1 := endOp (unsample (unsample s o) (o + 1)) o
        let s2 := completeTile s1 c i e (op.flags ||| boundsFlags op.elems)
        if e.marks then countPublish s2 (recEntry e.record) else s2

def execMatrixCommandCompletion (s : State) : Out :=
  let c := subject s 0
  let i := subject s 1
  match tfind (clusterAt s c).mx i with
  | none => .next s
  | some e =>
    if !e.granted || e.held then .next s
    else if e.opcode = 0xE6 then .next (settleDrain s c i e)
    else if engineClock s c < e.ends then .next s
    else
      let r := if e.mask = 0 then (storeOf s c, 0) else runCells (storeOf s c) e
      .next (completeTile (modStore s c fun _ => r.1) c i e r.2)

/-! ## Records (R336) -/

/-- R336: a command record's 128 bytes. -/
def mxRecordBytes (s : State) (e : MxEntry) (slot : Nat) : List Byte :=
  let ver := fun x : Option (Nat × Nat) => match x with
    | some (_, v) => v
    | none => 0
  let done := match e.op.bind (tfind s.ops) with
    | some op => op.done
    | none => e.ends
  leBytes 4 e.word.toNat ++ leBytes 4 e.mask.toNat ++ leBytes 4 slot ++
  leBytes 4 (if e.opcode = 0xE6 then done else 0) ++ leBytes 4 (ver e.sample) ++ leBytes 4 (ver e.sampleMax) ++
  leBytes 8 0 ++ e.par.flatMap (fun v => leBytes 4 v.toNat) ++ e.st.flatMap (fun v => leBytes 4 v.toNat) ++
  padTo 32 (e.cb.flatMap fun v => leBytes 2 v.toNat)

/-- R335: an entry taken off the table, as it is reissued: a drain goes on from its lines sent, and the elements
of those lines, and those whose address error has been posted, are not taken again. -/
def mxSuspend (s : State) (e : MxEntry) : State × MxEntry :=
  let o := e.op.getD 0
  match tfind s.ops o with
  | none => (s, { e with granted := false, ends := if e.opcode = 0xE6 then e.ends else 0 })
  | some op =>
    let sent := ((firstMet op.z op.elems).take op.done).map lineOf
    let kept := op.elems.filter fun el => decide (lineOf el.addr ∈ sent ∨ el.st = .addrError)
    ({ s with ops := tdel s.ops o }, { e with
      granted := false, ends := op.done, elems := if op.elems.isEmpty then e.elems else kept
      flags := if op.elems.isEmpty then e.flags else op.flags })

end Sys2Proof.Machine
end

