-- ==== Sys2Proof/Machine/Reduce.lean ====
section
/-!
DEFINITION. Reduction pages (R271 to R273), update units (R275 to R277) and collectives (R418 to R424 of
spec/13_links_and_collectives.md).
-/

namespace Sys2Proof.Machine

/-! ## Collective descriptors (R418) -/

/-- A field of a descriptor's 64 bytes. -/
def cdField (b : List Byte) (lo n : Nat) : Nat := efield (leNat b) lo n

def cdKind (b : List Byte) : Nat := cdField b 0 2
def cdCode (b : List Byte) : Nat := cdField b 2 2
def cdZero (b : List Byte) : Bool := decide (cdField b 4 1 = 1)
def cdValid (b : List Byte) : Bool := decide (cdField b 5 1 = 1)
def cdPer (b : List Byte) : Nat := cdField b 16 8
def cdSize (b : List Byte) : Nat := cdField b 32 16
def cdRank (b : List Byte) : Nat := cdField b 48 16
def cdSrc (b : List Byte) : Nat := cdField b 64 64
def cdBlocks (b : List Byte) : Nat := cdField b 128 32
def cdRes (b : List Byte) : Nat := cdField b 192 64
def cdGroup (b : List Byte) : Nat := cdField b 256 64
def cdDone (b : List Byte) : Nat := cdField b 320 64

/-- R418: whether a descriptor may be named by a header. -/
def cdGood (b : List Byte) : Bool :=
  cdValid b && decide (cdKind b ≤ 1 ∧ (cdCode b = 1 ∨ cdCode b = 2) ∧ 1 ≤ cdPer b ∧
    1 ≤ cdSize b ∧ cdSize b * cdPer b ≤ 65535 ∧ cdRank b < cdSize b ∧
    cdSrc b % 4096 = 0 ∧ 1 ≤ cdBlocks b ∧ cdRes b % 4096 = 0 ∧ cdDone b % 4 = 0)

/-- R419: the blocks that this device owns. -/
def cdOwned (b : List Byte) : List Nat := (List.range (cdBlocks b)).filter fun k => k % cdSize b = cdRank b

/-- A collective descriptor of a context. -/
def collective (s : State) (c d : Nat) : List Byte :=
  tget (tget s.contexts c default).collectives d (List.replicate 64 0)

/-- The present epoch of a descriptor, and whether it has completed on this device. -/
def collEpoch (s : State) (c d : Nat) : Nat := tget (tget s.contexts c default).epochs d 0
def collDone (s : State) (c d : Nat) : Bool :=
  decide (collEpoch s c d ≤ tget (tget s.contexts c default).epochDone d 0)

/-! ## Result lines and the end of an epoch (R422) -/

/-- R422: the lines whose writing, or completion, ends an epoch. -/
def epochNeeds (b : List Byte) : Nat := 32 * (if cdKind b = 0 then cdBlocks b else (cdOwned b).length)

/-- The offset and the value of a result line in flight. -/
def resultLine (op : Op) : Nat × List Byte :=
  match op.elems with
  | e :: _ => (e.offset, e.data)
  | [] => (0, [])

/-- A result line stops at a translation fault, which is posted and waits for system software; the spec does not say so
(notes/assumptions/71.md). -/
def resultHeld (s : State) (o : Nat) (op : Op) (write : Bool) (f : Nat × Nat) : State :=
  postRecord (modOp s o fun x => { x with faulted := true }) op.ctx op.die
    (faultRecord f.1 write false true false 0 0 op.die 127 f.2 0 0 0) (.op o)

/-- R422: with its last line the epoch completes: the done word is written, and the launch retires. -/
def finishEpoch (s : State) (o d : Nat) (op : Op) : State :=
  let b := collective s op.ctx d
  let ended := { s with ops := tdel s.ops o }
  if collDone s op.ctx d || tget (tget s.contexts op.ctx default).epochLines d 0 < epochNeeds b then ended
  else
    match vwrite s op.ctx op.die (cdDone b) (leBytes 4 (collEpoch s op.ctx d)) with
    | (s1, some f) => resultHeld s1 o op true f
    | (s1, none) => modCtx { s1 with ops := tdel s1.ops o } op.ctx fun x =>
        { x with epochDone := tput x.epochDone d (collEpoch s op.ctx d) }

/-- R422: counts a line of the epoch as written or completed. -/
def countResult (s : State) (o d : Nat) (op : Op) : State :=
  let s1 := modCtx s op.ctx fun x => { x with epochLines := tput x.epochLines d (tget x.epochLines d 0 + 1) }
  finishEpoch (modOp s1 o fun x => { x with code := 1 }) o d op

/-- R422: writes a result line into the device's own result region. -/
def writeOwnResult (s : State) (o d : Nat) (op : Op) : State :=
  let l := resultLine op
  match vwrite s op.ctx op.die (cdRes (collective s op.ctx d) + l.1) l.2 with
  | (s1, none) => countResult s1 o d op
  | (s1, some f) => resultHeld s1 o op true f

/-- R422: sends a completed line to the members, from `op.done` on, and then writes it here. `fuel` bounds the
members. -/
def sendResults (o d e : Nat) : Nat → State → State
  | 0, s => s
  | fuel + 1, s =>
    match tfind s.ops o with
    | none => s
    | some op =>
      let b := collective s op.ctx d
      let n := op.done
      if cdKind b ≠ 0 ∨ cdSize b ≤ n then writeOwnResult s o d op
      else if n = cdRank b then sendResults o d e fuel (modOp s o fun x => { x with done := n + 1 })
      else
        match vread s op.ctx op.die (cdGroup b + 4 * n) 4 with
        | (s1, .error f) => resultHeld s1 o op false f
        | (s1, .ok m) =>
          let l := resultLine op
          sendResults o d e fuel (modOp (sendMessage s1 op.die
            { kind := 6, vc := 2, dst := leNat m % 2 ^ 18, src := s.device, ctx := op.ctx, line := l.1 / 128, code := 0
              tag := 0, desc := d, epoch := e, arg := 0, mask := BitVec.allOnes 128, data := l.2 }) o fun x =>
            { x with done := n + 1 })

/-- Takes a result line on from where it stands. -/
def runResult (s : State) (o : Nat) : State :=
  match tfind s.ops o with
  | none => s
  | some op =>
    match op.collective with
    | none => s
    | some (d, e) =>
      if op.code = 0 then sendResults o d e (cdSize (collective s op.ctx d) + 1) s else finishEpoch s o d op

/-- System software resumes a result line at its fault; with `abort` the access at which it stopped is left out. -/
def resumeResult (s : State) (o : Nat) (op : Op) (abort : Bool) : State :=
  let free := modOp s o fun x => { x with faulted := false }
  match op.collective with
  | none => s
  | some (d, _) =>
    let b := collective s op.ctx d
    if !abort then runResult free o
    else if op.code ≠ 0 then
      modCtx { s with ops := tdel s.ops o } op.ctx fun x => { x with epochDone := tput x.epochDone d (collEpoch s op.ctx d) }
    else if cdKind b = 0 ∧ op.done < cdSize b then runResult (modOp free o fun x => { x with done := op.done + 1 }) o
    else countResult free o d op

/-- Puts a result line of an epoch in flight: to be sent from member `done` on, or with code 1 only awaited. -/
def startResult (s : State) (c d e die done code offset : Nat) (v : List Byte) : State :=
  let r := addOp s { (default : Op) with
    kind := .result, die := die, ctx := c, collective := some (d, e), code := code, done := done
    elems := [{ (default : Elem) with offset := offset, data := v }] }
  runResult r.2 r.1

/-- R422: what the home does, in the same step, when an owned line completes. -/
def completeOwned (s : State) (line : Nat) (t : CollTag) : State :=
  let v := mbytes s.mem line 128
  let s1 := if cdZero (collective s t.ctx t.desc) then homeWrite s line (List.replicate 128 0) none else s
  startResult s1 t.ctx t.desc t.epoch (homeOf s line / 96) 0 0 t.offset v

/-! ## Contributions (R272, R273) -/

/-- R271: one element of a contribution. -/
def redElem (code m v : Nat) : Nat := if code = 2 then (m + v) % 2 ^ 32 else rneAdd m v

/-- R272: adds a contribution to a line, element after element. -/
def addContribution (s : State) (code line : Nat) (img : BitVec 128 × List Byte) (by' : Option Nat) :
    State :=
  let old := mbytes s.mem line 128
  let new := (List.range 32).flatMap fun e =>
    let on := (List.range 4).map fun i => img.1.getLsbD (4 * e + i)
    let m := (old.drop (4 * e)).take 4
    if on.any id then
      let v := (List.range 4).map fun i => if img.1.getLsbD (4 * e + i) then lget img.2 (4 * e + i) 0 else 0
      leBytes 4 (redElem code (leNat m) (leNat v))
    else m
  homeWrite s line new none by'

/-- R275: the update descriptor that a line belongs to, the lowest-numbered first. -/
def descOf (s : State) (line : Nat) : Option (Nat × UpdateDesc) :=
  s.updates.find? fun p => p.2.valid && decide (p.2.gbase ≤ line ∧ line < p.2.gbase + 128 * p.2.lines)

/-- R273, R276: the update step of a completed line starts: it locks the line and takes its sums. -/
def startUpdate (s : State) (line : Nat) : State :=
  match descOf s line with
  | none => s
  | some (d, ud) =>
    let g := (List.range 32).map fun e => mword s.mem (line + 4 * e)
    let s1 := modHomeLine (homeWrite s line (List.replicate 128 0) none) line fun h =>
      { h with locked := some d }
    { s1 with steps := tput s1.steps line ⟨d, (line - ud.gbase) / 128, line, g, none, false⟩ }

/-- R273: counts a performed contribution, and completes the line at its target. -/
def countLine (s : State) (code line : Nat) : State :=
  let h := homeLine s line
  let n := h.counter + 1
  if 0 < h.target ∧ n = h.target then
    let s1 := modHomeLine s line fun h => { h with counter := 0 }
    match h.tag with
    | some t => completeOwned s1 line t
    | none => if code = 3 then startUpdate s1 line else s1
  else modHomeLine s line fun h => { h with counter := if h.target = 0 then min 65535 n else n }

/-- R272, R273: a contribution is performed and counted. -/
def contribute (s : State) (r : Req) : State :=
  countLine (addContribution s r.code r.line (lineImage r.parts) (reqWarp s r)) r.code r.line

/-! ## The overflow area (R423, R424) -/

/-- R423: an overflow entry's bytes. -/
def overflowBytes (e : Overflow) (next : Nat) : List Byte :=
  let img := lineImage e.req.parts
  leBytes 8 next ++ leBytes 2 e.desc ++ leBytes 2 e.ctx ++ leBytes 4 e.epoch ++ leBytes 8 e.req.line ++
    leBytes 8 e.req.code ++ leBytes 16 img.1.toNat ++ leBytes 80 0 ++ img.2

/-- R423: writes the entries of a home slice's list, each with the address of the next. -/
def writeOverflow (s : State) (home : Nat) : State :=
  let l := s.overflow.filter fun e => e.home = home
  let next := (l.map Overflow.addr).tail ++ [0]
  (l.zip next).foldl (fun s p => physWrite s p.1.ctx (home / 96) p.1.addr (overflowBytes p.1 p.2)) s

/-- R418, R420, R424: takes entries off the overflow lists; where one frees, an exhaustion is over. -/
def dropOverflow (s : State) (out : Overflow → Bool) : State :=
  let homes := ((s.overflow.filter out).map Overflow.home).dedup
  homes.foldl writeOverflow { s with
    overflow := s.overflow.filter (fun e => !out e), overflowFull := s.overflowFull && !s.overflow.any out }

/-- Ends a contribution at its home, acknowledged with a status. -/
def ackContribution (s : State) (id : Nat) (r : Req) (status : Nat) : State :=
  match r.remote with
  | some m => reply (doneReq s id) m 5 status []
  | none => dropOwn (doneReq s id) (tget s.ops r.op default) r.line

/-- R421: what becomes of a contribution, by its descriptor and epoch and its line's tag. -/
def performContribution (s : State) (id : Nat) (r : Req) : State :=
  let c := reqCtx r
  let die := homeOf s r.line / 96
  let record := fun kind desc epoch =>
    linkRecord kind (if r.remote.isSome then r.src - portSrc 0 else 63) die 0 0 true 0 (match r.remote with
      | some m => m.src
      | none => 0x3FFFF) desc epoch 0
  match r.collective with
  | none => ackContribution (contribute s r) id r 0
  | some (d, e) =>
    let perform := ackContribution (contribute s r) id r 0
    let keep := match freeOverflow s with
      | some a =>
        let s1 := { s with overflow := s.overflow ++ [⟨r.home, a, d, c, e, r⟩] }
        ackContribution (writeOverflow s1 r.home) id r 0
      | none =>
        if s.overflowFull then s
        else { postRecord s c die (record 0x74 d e) .none with overflowFull := true }
    match (homeLine s r.line).tag with
    | some t =>
      if t.ctx = c ∧ t.desc = d then
        if e = t.epoch then perform
        else if e < t.epoch then postRecord (ackContribution s id r 1) c die (record 0x73 d e) .none
        else keep
      else keep
    | none => keep

def execContribution (s : State) : Out := atHome [.contribution] performContribution s

/-! ## The start of a collective (R420) -/

/-- R420: performs, in list order, the overflow entries of a line that carry its new tag. -/
def replayOverflow (s : State) (line : Nat) (t : CollTag) : State :=
  let mine := fun e : Overflow =>
    decide (e.req.line = line ∧ e.ctx = t.ctx ∧ e.desc = t.desc ∧ e.epoch = t.epoch)
  let l := s.overflow.filter mine
  l.foldl (fun s e => contribute s e.req) (dropOverflow s mine)

/-- R420: arms one owned line. -/
def armLine (s : State) (line : Nat) (t : CollTag) (target : Nat) : State :=
  replayOverflow (modHomeLine s line fun h => { h with target := target, counter := 0, tag := some t })
    line t

/-- R419, R420: a die arms owned lines from the list on; a line that does not translate ends it with its offset, kind
and address, one that the translation sends to another device is not armed, and one that the die cannot reach sticks. -/
def armLines (s : State) (c die d e : Nat) (b : List Byte) : List Nat → State × Option (Nat × Nat × Nat)
  | [] => (s, none)
  | off :: r =>
    match translate s (dieWalker c die) (cdSrc b + off) .write with
    | (s1, .error k) => (s1, some (off, k, cdSrc b + off))
    | (s1, .ok t) =>
      let line := lineOf t.pa
      armLines (if isRemote line then s1
        else if lineOpen s1 die line then armLine s1 line ⟨c, d, e, off⟩ (cdSize b * cdPer b)
        else stick s1 c die [line]) c die d e b r

/-- R419, R420: the offsets of the lines that this device owns. -/
def ownedLines (b : List Byte) : List Nat :=
  (cdOwned b).flatMap fun k => (List.range 32).map fun i => 4096 * k + 128 * i

/-- R420: raises the epoch of a descriptor and begins to count it. -/
def raiseEpoch (s : State) (c d : Nat) : State :=
  modCtx s c fun x => { x with
    epochs := tput x.epochs d (tget x.epochs d 0 + 1), epochLines := tput x.epochLines d 0 }

/-! ## The update step (R276, R277) -/

/-- R276: the hyperparameters, masters, moments and gradients of one element give new ones. -/
def updateElem (alg : Nat) (hyp : List Nat) (w m v gr : Nat) : Nat × Nat × Nat :=
  let p := fun i => lget hyp i 0
  let lr := p 0
  let b1 := p 1
  let b2 := p 2
  let eps := p 3
  let wd := p 4
  let g := rneMul (p 5) gr
  if alg = 0 then
    let g1 := rneAdd g (rneMul wd w)
    let m1 := rneAdd (rneMul b1 m) g1
    (rneSub w (rneMul lr m1), m1, v)
  else
    let one := 0x3F800000
    let m1 := rneAdd (rneMul b1 m) (rneMul (rneSub one b1) g)
    let v1 := rneAdd (rneMul b2 v) (rneMul (rneSub one b2) (rneMul g g))
    let w1 := rneSub w (rneMul lr (rneMul wd w))
    (rneSub w1 (rneMul lr (rneDiv m1 (rneAdd (rneSqrt v1) eps))), m1, v1)

/-- R276: the rows of masters and moments that a step reads and writes. -/
def updateRows (ud : UpdateDesc) (j : Nat) : List (Nat × Nat) :=
  [(ud.master + 128 * j, 128), (ud.mom1 + 128 * j, 128)] ++ (if ud.alg = 1 then [(ud.mom2 + 128 * j, 128)] else [])

/-- The sending unit of an update step. -/
def updateSrc (line : Nat) : Nat := 1000000 + line / 128

/-- R277: a step waits at a fault, its gradients held. -/
def faultUpdate (s : State) (st : UpdateStep) (ud : UpdateDesc) (kind va : Nat) (write : Bool) : State :=
  let home := homeOf s st.line
  let s1 := { s with steps := tput s.steps st.line { st with waiting := true } }
  postRecord s1 ud.ctx (home / 96)
    (faultRecord kind write false true false 0 (384 + home % 96) (home / 96) st.desc va 0 0 0)
    (.update st.line)

/-- R276, R277: the step ends and the line is unlocked. -/
def endUpdate (s : State) (line : Nat) : State :=
  modHomeLine { s with steps := tdel s.steps line } line fun h => { h with locked := none }

/-- R276: the start of a step: its hyperparameters are translated and read, in one read. -/
def beginUpdate (s : State) (st : UpdateStep) (ud : UpdateDesc) : State :=
  let die := homeOf s st.line / 96
  if (tfind s.contexts ud.ctx).isNone then
    postRecord (endUpdate s st.line) ud.ctx die
      (faultRecord 1 false false false false 0 (384 + homeOf s st.line % 96) die st.desc ud.hyp 0 0 0) .none
  else
    match placeRanges s (dieWalker ud.ctx die) .read [] [(ud.hyp, 24)] with
    | (s1, _, .error (k, va)) => faultUpdate s1 st ud k va false
    | (s1, _, .ok ls) =>
      let op : Op := { unitOp .update die 0 ud.ctx with lines := ls }
      let id := addOp s1 op
      engineReads { id.2 with steps := tput id.2.steps st.line { st with op := some id.1 } } id.1 op (updateSrc st.line) ls

/-- The words at a virtual address that an operation has read. -/
def gotWords (op : Op) (va n : Nat) : List Nat := (List.range n).map fun i => leNat (gotBytes op (va + 4 * i) 4)

/-- R276: with its hyperparameters read a step translates every other address and samples its version; a replay runs from
here (R277). -/
def translateUpdate (s : State) (st : UpdateStep) (ud : UpdateDesc) (o : Nat) (op : Op) : State :=
  let e := pubAt s ud.pub
  let u := dieWalker ud.ctx op.die
  let out := (shadowBase e e.version.toNat + 2 * (ud.out + 32 * st.j), 64)
  if !e.enabled then faultUpdate s st ud 6 e.back0 true
  else if publishWaits e then s
  else
    match placeRanges s u .read [] (updateRows ud st.j) with
    | (s1, _, .error (k, va)) => faultUpdate s1 st ud k va false
    | (s1, _, .ok reads) =>
      match placeRanges s1 u .write [] (updateRows ud st.j ++ [out]) with
      | (s2, _, .error (k, va)) => faultUpdate s2 st ud k va true
      | (s2, _, .ok writes) =>
        if !shadowFree s2 (some (ud.pub, e.version.toNat)) then s
        else
          modOp (setPub s2 ud.pub { e with writers := e.writers ++ [(o, e.version)] }) o fun x => { x with
            code := 1, sample := some (ud.pub, e.version.toNat), lines := (op.lines ++ reads ++ writes).dedup
            par := (gotWords op ud.hyp 6).map (BitVec.ofNat 32) }

/-- R276: an element's new values, from the words that have been read for it, as its writes. -/
def computeUpdate (s : State) (st : UpdateStep) (ud : UpdateDesc) (op : Op) : List Elem :=
  let e := op.done
  let at' := fun base => (gotWords op (base + 128 * st.j + 4 * e) 1).headD 0
  let v := (op.sample.map Prod.snd).getD 0
  let p := updateElem ud.alg (op.par.map BitVec.toNat) (at' ud.master) (at' ud.mom1)
    (if ud.alg = 1 then at' ud.mom2 else 0) (lget st.grads e 0).toNat
  let row := fun (base x : Nat) =>
    { (default : Elem) with idx := e, addr := base + 128 * st.j + 4 * e, data := leBytes 4 x }
  (if ud.alg = 1 then [row ud.mom2 p.2.2] else []) ++ [row ud.master p.1, row ud.mom1 p.2.1,
    { (default : Elem) with
      idx := e, addr := shadowBase (pubAt s ud.pub) v + 2 * (ud.out + 32 * st.j) + 2 * e
      data := leBytes 2 ((fRound rneBf (fdecode p.1) 0).bits / 65536) }]

/-- R276: the lines of the masters and moments of a step's present element. -/
def updateReads (st : UpdateStep) (ud : UpdateDesc) (op : Op) : List OpLine :=
  op.lines.filter fun l => (updateRows ud st.j).any fun r => decide (l.va = lineOf (r.1 + 4 * op.done))

/-- R276, R277: the next thing that the update step of a line does: read its hyperparameters; translate; and for each
element in turn read its masters and moments, write its new values and wait until they are performed; or end. -/
def execUpdateStepCompletion (s : State) : Out :=
  let line := subject s 0
  match tfind s.steps line with
  | none => .next s
  | some st =>
    let ud := tget s.updates st.desc default
    if st.waiting then .next s
    else
      match st.op with
      | none => .next (beginUpdate s st ud)
      | some o =>
        let op := tget s.ops o default
        let phase := fun s n => modOp s o fun x => { x with code := n }
        if outstanding s o then .next s
        else if op.code = 0 then .next (translateUpdate s st ud o op)
        else if 32 ≤ op.done then .next (endUpdate (countPublish (endOp (unsample s o) o) ud.pub) line)
        else if op.code = 1 then
          .next (engineReads (phase s 2) o op (updateSrc st.line) (updateReads st ud op))
        else
          .next (engineWrites (modOp (phase s 1) o fun x => { x with done := op.done + 1 }) o op (updateSrc st.line)
            (computeUpdate s st ud op))

end Sys2Proof.Machine
end

