-- ==== Sys2Proof/Machine/Graphs.lean ====
section
/-!
DEFINITION. The task-graph machine's graphs (spec/12_task_graph_machine.md): headers and node tables
(R127, R128, R378 to R380), readiness and completion (R382), result words and system calls (R392, R393),
work graphs (R395 to R398), the frame budget (R399), index chunks and the failure of a die (R400, R401).
-/

namespace Sys2Proof.Machine

def graphAt (s : State) (g : Nat) : Graph := tget s.graphs g default
def nodeAt (s : State) (g n : Nat) : Node := tget (graphAt s g).nodes n default
def modGraph (s : State) (g : Nat) (f : Graph → Graph) : State := { s with graphs := tmod s.graphs g f }
def modNode (s : State) (g n : Nat) (f : Node → Node) : State :=
  modGraph s g fun x => { x with nodes := tmod x.nodes n f }

def dieAt (s : State) (d : Nat) : Die := lget s.perDie d default
def modDie (s : State) (d : Nat) (f : Die → Die) : State := { s with perDie := lmod s.perDie d f }

/-- The clock of a die's reticle field B. -/
def clockB (s : State) (d : Nat) : Nat := (lget s.islands (3 * d + 1) default).clock

/-- R400, R443: the task-graph machine of a die runs. -/
def tgmRuns (s : State) (d : Nat) : Bool :=
  decide (d < s.dies) && (dieAt s d).ready.getLsbD 3 && !(dieAt s d).failed

/-- R400: the leader. -/
def leaderDie (s : State) : Nat := ((List.range s.dies).find? (tgmRuns s)).getD 0

/-- R400, R401, R426: the die that leads a graph: where the die-to-die link has gone down, the die whose view of
the graph this is (notes/assumptions/73.md); of a persistent launch its own die while it runs. -/
def leaderOf (s : State) (y : Graph) : Nat :=
  match y.owner, y.persistent with
  | some d, _ => d
  | none, some d => if tgmRuns s d then d else leaderDie s
  | none, none => leaderDie s

/-- R401, R407: whether a die still works for a graph: it has not failed, or it holds this view of the graph. -/
def aliveFor (s : State) (y : Graph) (d : Nat) : Bool :=
  match y.owner with
  | some o => decide (d = o)
  | none => !(dieAt s d).failed

/-! ## Headers (R127, R128, R379) -/

/-- Word `i` of some bytes. -/
def wordAt (b : List Byte) (i : Nat) : Nat := leNat ((b.drop (4 * i)).take 4)

/-- R127. -/
def headerOf (addr : Nat) (b : List Byte) : Header :=
  let w := wordAt b
  let f := fun i lo n => efield (w i) lo n
  { addr := addr
    w := [f 1 0 3, f 1 3 3, f 1 6 2, f 1 8 7, f 1 15 7, f 1 22 7]
    tlevel := f 2 0 3
    carve := lget [0, 96, 192, 384] (f 2 3 2) 0
    cohort := ebit (w 2) 8
    idem := ebit (w 2) 9
    collective := if ebit (w 2) 11 then some (f 3 0 16) else none
    prio := f 2 12 4
    ceil := f 2 16 8
    entry := w 4 + 2 ^ 32 * w 5
    save := w 6 + 2 ^ 32 * w 7
    count := w 8 + 2 ^ 32 * w 9
    args := BitVec.ofNat 64 (w 10 + 2 ^ 32 * w 11) }

def Header.width (h : Header) (i : Nat) : Nat := lget h.w i 0

/-- The widths of the fields below F`k`, together. -/
def Header.below (h : Header) (k : Nat) : Nat := (h.w.take k).sum

/-- R127: the number of indices to run. -/
def Header.total (h : Header) : Nat :=
  if h.count = 0 then 2 ^ (h.width 4 + h.width 5) else h.count

/-- R128: whether a header is rejected. -/
def headerBad (s : State) (c : Nat) (b : List Byte) : Bool :=
  let w := wordAt b
  let h := headerOf 0 b
  let reserved := efield (w 0) 24 8 ≠ 0 ∨ efield (w 1) 29 3 ≠ 0 ∨ efield (w 2) 5 3 ≠ 0 ∨ ebit (w 2) 10 ∨
    efield (w 2) 24 8 ≠ 0 ∨ efield (w 3) 16 16 ≠ 0 ∨ w 12 ≠ 0 ∨ w 13 ≠ 0 ∨ w 14 ≠ 0
  decide (efield (w 0) 0 24 ≠ 0x1C480 ∨ ((List.range 16).map w).sum % 2 ^ 32 ≠ 0 ∨ reserved) ||
    decide (h.width 0 ≠ 5 ∨ 5 < h.width 1 ∨ 2 < h.width 2 ∨ 64 < h.w.sum) ||
    decide (h.tlevel = 1 ∨ h.tlevel = 7 ∨ 2 ^ (h.width 4 + h.width 5) < h.count) ||
    decide (h.entry % 4 ≠ 0 ∨ 2 ^ 57 ≤ h.entry ∨ h.save % 2048 ≠ 0 ∨ 2 ^ 57 ≤ h.save) ||
    decide (h.tlevel = 0 ∧ h.save ≠ 0) ||
    (match h.collective with
      | none => false
      | some d => decide (1024 ≤ d) || !cdGood (collective s c d))

/-- R33, R379: the clusters of the reserved partitions. -/
def reservedClusters (s : State) : Nat :=
  (s.perDie.map fun d => match d.partition with
    | some (n, _) => n
    | none => 0).sum

/-- R2, R33, R379: whether a header's launch cannot be run by its context; twice cx.clusters is its clusters on both dies
of a package. -/
def headerTooBig (s : State) (c : Nat) (h : Header) : Bool :=
  match tfind s.contexts c with
  | none => true
  | some cx =>
    decide (127 < h.ceil) ||
      decide (h.tlevel = 0 ∧ 768 - h.carve < 2 ^ h.width 1 * (h.ceil + 1)) ||
      (h.cohort && decide (cx.clusters < 2 ^ h.width 3 ∨
        s.dies * cx.clusters - reservedClusters s < h.total * 2 ^ h.width 3))

/-- R379: reads and checks a header for a die; a rejection answers its code. -/
def readHeader (s : State) (c die addr : Nat) : State × Except Nat Header :=
  match vread s c die addr 64 with
  | (s1, .error _) => (s1, .error 1)
  | (s1, .ok b) =>
    if headerBad s1 c b then (s1, .error 1)
    else if headerTooBig s1 c (headerOf addr b) then (s1, .error 2)
    else (s1, .ok (headerOf addr b))

/-! ## Node tables (R378, R380) -/

def newNode (s : State) : Node :=
  { (default : Node) with
    partials := List.replicate s.dies 0, input := List.replicate s.dies [], placedAt := List.replicate s.dies 0
    batchCount := List.replicate s.dies 0 }

def newGraph (s : State) (c : Nat) : Graph :=
  { (default : Graph) with
    ctx := c, left := List.replicate s.dies 0, exhausted := List.replicate s.dies false
    windowNo := (List.range s.dies).map fun d => clockB s d / 1024
    windowUsed := List.replicate s.dies false, poolUsed := List.replicate s.dies 0
    owner := if s.dieLinkLost then some 0 else none }

/-- R380: the node that a record of 128 bytes describes. -/
def nodeOf (s : State) (addr : Nat) (b : List Byte) : Node :=
  let w := wordAt b
  let f := fun i lo n => efield (w i) lo n
  { newNode s with
    addr := addr, kind := f 0 0 2, comb := f 0 2 2, prio := f 0 4 4
    succ := (List.range (min 6 (f 0 8 3))).map fun k => w (4 + k)
    npred := f 0 16 8, timeout := f 1 0 16, bmap := f 1 16 12
    tiles := (List.range (min 4 (f 1 28 3))).map fun k =>
      { addr := w (16 + 4 * k) + 2 ^ 32 * efield (w (17 + 4 * k)) 0 25, dir := efield (w (17 + 4 * k)) 30 2
        cluster := w (18 + 4 * k), bytes := w (19 + 4 * k) }
    hdrAddr := w 2 + 2 ^ 32 * w 3 }

/-- R380: whether a record breaks the layout, apart from the edges into it. -/
def nodeBad (count : Nat) (b : List Byte) : Bool :=
  let w := wordAt b
  let f := fun i lo n => efield (w i) lo n
  let succ := (List.range (f 0 8 3)).map fun k => w (4 + k)
  let tiles := List.range (f 1 28 3)
  decide (f 0 0 2 = 3 ∨ f 0 2 2 = 3 ∨ f 0 8 3 = 7 ∨ f 0 11 5 ≠ 0 ∨ f 0 24 8 ≠ 0 ∨ 4 < f 1 28 3 ∨ f 1 31 1 ≠ 0) ||
    decide (w 2 % 64 ≠ 0) || (List.range 4).any (fun i => decide (w (12 + i) ≠ 0)) ||
    succ.any (fun x => decide (count ≤ x)) ||
    tiles.any fun k => decide (efield (w (17 + 4 * k)) 25 5 ≠ 0 ∨ efield (w (17 + 4 * k)) 30 2 = 3 ∨
      w (19 + 4 * k) % 16 ≠ 0)

/-- R378: whether a descriptor is refused. -/
def graphBad (b : List Byte) : Bool :=
  let w := wordAt b
  decide (w 0 % 128 ≠ 0 ∨ efield (w 2) 0 16 = 0 ∨ w 4 % 8 ≠ 0 ∨ 131072 < w 4 ∨ efield (w 2) 17 15 ≠ 0 ∨
    efield (w 5) 16 16 ≠ 0) || (List.range 6).any fun i => decide (w (10 + i) ≠ 0)

/-- R380: how many edges lead into node `k`. -/
def edgesInto (l : List Node) (k : Nat) : Nat := (l.flatMap Node.succ).count k

/-- R378: the graph that a descriptor and its node table make. -/
def graphOf (s : State) (c addr : Nat) (b : List Byte) (nodes : List Node) : Graph :=
  let w := wordAt b
  { newGraph s c with
    addr := addr, background := ebit (w 2) 16, budget := w 3, pool := if w 4 = 0 then 131072 else w 4
    frame := efield (w 5) 0 16, fgraph := w 6 + 2 ^ 32 * w 7, done := w 8 + 2 ^ 32 * w 9
    left := List.replicate s.dies (w 3), nodes := (List.range nodes.length).zip nodes }

/-- R378, R380: reads a graph for a die; no graph where it is refused. -/
def readGraph (s : State) (c die addr : Nat) : State × Option Graph :=
  match vread s c die addr 64 with
  | (s1, .error _) => (s1, none)
  | (s1, .ok b) =>
    let count := efield (wordAt b 2) 0 16
    let base := wordAt b 0 + 2 ^ 32 * wordAt b 1
    if graphBad b then (s1, none)
    else
      match vread s1 c die base (128 * count) with
      | (s2, .error _) => (s2, none)
      | (s2, .ok t) =>
        let recs := (List.range count).map fun k => (t.drop (128 * k)).take 128
        let nodes := (List.range count).map fun k => nodeOf s2 (base + 128 * k) (lget recs k [])
        if recs.any (nodeBad count) ||
            (List.range count).any fun k => decide (edgesInto nodes k ≠ (lget nodes k default).npred) then
          (s2, none)
        else (s2, some (graphOf s2 c addr b nodes))

/-! ## The frame budget (R399) -/

/-- R399: whether a warp of a graph is resident on a die. -/
def residentOn (s : State) (g d : Nat) : Bool :=
  s.warps.any fun p => decide (p.2.ident.graph = g ∧ p.2.die = d)

/-- R399: the end of one window: the count falls if a warp of the graph was resident in it. -/
def endWindow (s : State) (g d : Nat) : State :=
  let x := graphAt s g
  let here := residentOn s g d
  let n := lget x.left d 0
  let used := (lget x.windowUsed d false || here) && decide (0 < n)
  modGraph s g fun x => { x with
    windowNo := lmod x.windowNo d (· + 1), windowUsed := lmod x.windowUsed d fun _ => here
    left := if used then lmod x.left d (· - 1) else x.left }

/-- R399: the windows of field B's clock that have ended; `n` bounds how many. -/
def endWindows (g d : Nat) : Nat → State → State
  | 0, s => s
  | n + 1, s => if lget (graphAt s g).windowNo d 0 < clockB s d / 1024 then endWindows g d n (endWindow s g d) else s

/-- R393, R376: whether a record of a context would find its die's record buffer full. -/
def bufferFull (s : State) (c d : Nat) : Bool :=
  match tfind s.contexts c with
  | none => false
  | some cx => decide (2 ^ cx.fqlog ≤ cx.fqTail - cx.fqHead ∧ 256 ≤ bufferedOn s d)

/-- R376, R399: the record of a die's first exhaustion in a frame, which waits for room. -/
def tellExhausted (s : State) (g d : Nat) : State :=
  let x := graphAt s g
  if x.budget ≠ 0 ∧ lget x.left d 0 = 0 ∧ lget x.exhausted d false = false ∧ !bufferFull s x.ctx d then
    postRecord (modGraph s g fun x => { x with exhausted := lmod x.exhausted d fun _ => true }) x.ctx d
      (graphRecord 0x66 0 0 d 0 x.addr x.frames 0) .none
  else s

/-- R399: brings the budget of a graph on a die up to the present. -/
def budgetTick (s : State) (g d : Nat) : State :=
  let x := graphAt s g
  if x.background then tellExhausted (endWindows g d (clockB s d / 1024 - lget x.windowNo d 0) s) g d else s

/-- Brings every budget up to the present, as when a clock has moved. -/
def budgetTicks (s : State) : State :=
  s.graphs.foldl (fun s p => (List.range s.dies).foldl (fun s d => budgetTick s p.1 d) s) s

def execBudgetWindowEnd (s : State) : Out := .next (budgetTick s (subject s 1) (subject s 0))

/-- R399: a frame event of a background graph. -/
def frameReset (s : State) (g : Nat) : State :=
  modGraph s g fun x => { x with
    left := x.left.map fun _ => x.budget, exhausted := x.exhausted.map fun _ => false, frames := x.frames + 1 }

/-- R378, R399: frame events of the background graphs that `which` names. -/
def frameEvents (s : State) (which : Graph → Bool) : State :=
  s.graphs.foldl (fun s p => if p.2.background && !p.2.complete && which p.2 then frameReset s p.1 else s) s

/-- R399: whether a die may start no warp of a node at present. -/
def budgetHeld (s : State) (g n d : Nat) : Bool :=
  let x := graphAt s g
  x.background && decide (lget x.left d 0 = 0) && decide (d ∉ (nodeAt s g n).started)

/-! ## Batches (R396) -/

/-- R396: what a die's queue of a consumer node holds becomes a launchable batch. -/
def formBatch (s : State) (g n d : Nat) : State :=
  let l := lget (nodeAt s g n).input d []
  if l.isEmpty then s
  else
    let id := newId s
    modNode id.2 g n fun x => { x with batches := x.batches ++ [⟨d, l, id.1⟩], input := lmod x.input d fun _ => [] }

/-- R395, R396: places a record at the tail of a consumer node's queue. -/
def placeEmitted (s : State) (g n d : Nat) (v : List Word) : State :=
  let x := nodeAt s g n
  let old := lget x.input d []
  let s1 := modGraph s g fun y => { y with poolUsed := lmod y.poolUsed d (· + 1) }
  let s2 := modNode s1 g n fun x => { x with
    input := lmod x.input d fun _ => old ++ [v]
    placedAt := if old.isEmpty then lmod x.placedAt d fun _ => clockB s d else x.placedAt }
  if old.length + 1 = 8 ∨ x.resolved = x.npred then formBatch s2 g n d else s2

/-- R396: a partial batch whose time-out has passed. -/
def execBatchTimeout (s : State) : Out :=
  let d := subject s 0
  let g := subject s 1
  let n := subject s 2
  let x := nodeAt s g n
  if x.timeout ≠ 0 ∧ (lget x.input d []).isEmpty = false ∧ lget x.placedAt d 0 + 64 * x.timeout ≤ clockB s d then
    .next (formBatch s g n d)
  else .next s

/-! ## Readiness and completion (R382) -/

/-- Posts a record of the task-graph machine for a graph. -/
def postGraph (s : State) (g : Graph) (kind code addr val : Nat) : State :=
  postRecord s g.ctx (leaderOf s g) (graphRecord kind code 0 (leaderOf s g) 0 addr val 0) .none

/-- The address by which records name a node: a plain launch's header. -/
def nodeName (g : Graph) (x : Node) : Nat := if g.plain then x.hdrAddr else x.addr

/-- R379, R398: a node becomes ready, its header checked; with `true` it is rejected. -/
def readyNode (s : State) (g n : Nat) : State × Bool :=
  let y := graphAt s g
  let x := nodeAt s g n
  let reject := fun (s : State) (code : Nat) => (postGraph s y 0x60 code (nodeName y x) 0, true)
  match readHeader s y.ctx (leaderOf s y) x.hdrAddr with
  | (s1, .error code) => reject s1 code
  | (s1, .ok h) =>
    if x.kind = 1 ∧ (h.width 1 ≠ 0 ∨ h.width 2 ≠ 0 ∨ h.width 3 ≠ 0 ∨ h.tlevel ≠ 0 ∨ h.cohort) then reject s1 3
    else
      let id := newId s1
      (modNode id.2 g n fun x => { x with
        st := .ready, hdr := some h, prio := if y.plain then h.prio else x.prio, readySeq := id.1 }, false)

/-- R392: combines two values under nr.comb. -/
def combinePost (comb : Nat) (a b : Word) : Word :=
  match comb with
  | 0 => if a.toNat < b.toNat then b else a
  | 1 => a ||| b
  | _ => a + b

/-- R382: whether the `k`-th edge of a completed node is taken. -/
def edgeTaken (x : Node) (status : Nat) (k : Nat) : Bool :=
  decide (status = 1) && (decide (x.kind ≠ 2) || decide (efield x.bmap (2 * k) 2 = min x.result.toNat 3))

/-- R382: resolves an edge into node `m`; answers the nodes that complete by it, with their status. -/
def resolveEdge (s : State) (g m : Nat) (taken failed : Bool) : State × List (Nat × Nat) :=
  let s1 := modNode s g m fun x => { x with
    resolved := x.resolved + 1, taken := if taken then x.taken + 1 else x.taken, failed := x.failed || failed }
  let x := nodeAt s1 g m
  if x.st = .complete ∨ x.resolved < x.npred then (s1, [])
  else if x.kind = 1 then ((List.range s1.dies).foldl (fun s d => formBatch s g m d) s1, [])
  else if 0 < x.taken then
    let r := readyNode s1 g m
    (r.1, if r.2 then [(m, 2)] else [])
  else (s1, [(m, if x.failed then 4 else 3)])

/-- R382: writes a node's result and status, and ends the frame that its completion marks (R378). -/
def recordNode (s : State) (g n status : Nat) : State :=
  let y := graphAt s g
  let x := nodeAt s g n
  let v := x.partials.foldl (combinePost x.comb) 0
  let s1 := modNode s g n fun x => { x with st := .complete, status := status, result := v }
  if y.plain then s1
  else
    let s2 := (vwrite s1 y.ctx (leaderOf s y) (x.addr + 0x28) (leBytes 4 v.toNat ++ leBytes 4 status)).1
    frameEvents s2 fun z => decide (z.frame = n + 1 ∧ z.fgraph = y.addr ∧ z.ctx = y.ctx ∧ z.owner = y.owner)

/-- R382: completes nodes and what completes by them; `fuel` bounds the work by the number of nodes. -/
def settleNodes (g : Nat) : Nat → State → List (Nat × Nat) → State
  | 0, s, _ => s
  | _, s, [] => s
  | fuel + 1, s, (n, status) :: r =>
    let s1 := recordNode s g n status
    let x := nodeAt s1 g n
    let res := ((List.range x.succ.length).zip x.succ).foldl (fun (acc : State × List (Nat × Nat)) p =>
      let e := resolveEdge acc.1 g p.2 (edgeTaken x status p.1) (decide (status = 2))
      (e.1, acc.2 ++ e.2)) (s1, [])
    settleNodes g fuel res.1 (r ++ res.2)

/-- R382: writes a graph's completion word: 2 when a node has status 2, else 1. -/
def writeDone (s : State) (g : Nat) : State :=
  let y := graphAt s g
  let v := leBytes 4 (if y.nodes.any fun p => decide (p.2.status = 2) then 2 else 1)
  if y.plain then physWrite s y.ctx (leaderOf s y) y.done v else (vwrite s y.ctx (leaderOf s y) y.done v).1

/-- R382: with its last node, a graph is complete and its completion word written. -/
def finishGraph (s : State) (g : Nat) : State :=
  let y := graphAt s g
  if y.complete || y.nodes.any fun p => decide (p.2.st ≠ .complete) then s
  else writeDone (modGraph s g fun y => { y with complete := true }) g

/-- Completes a node with a status. -/
def completeNode (s : State) (g n status : Nat) : State :=
  finishGraph (settleNodes g ((graphAt s g).nodes.length + 1) s [(n, status)]) g

/-- R379, R382: a node that waits for nothing becomes ready, or completes where its header is refused. -/
def startNode (s : State) (g n : Nat) : State :=
  let r := readyNode s g n
  if r.2 then completeNode r.1 g n 2 else r.1

/-- R382, R398: makes ready the nodes of a submitted graph that wait for nothing, consumers first. -/
def startGraph (s : State) (g : Nat) : State :=
  let l := (graphAt s g).nodes
  let first := (l.filter fun p => p.2.kind = 1) ++ l.filter fun p => decide (p.2.kind ≠ 1 ∧ p.2.npred = 0)
  first.foldl (fun s p => startNode s g p.1) s

/-- R378: submits a graph; a refused one posts its record and runs no node. -/
def submitGraph (s : State) (c addr : Nat) : State :=
  let y := newGraph s c
  match readGraph s c (leaderOf s y) addr with
  | (s1, none) => postGraph s1 y 0x60 3 addr 0
  | (s1, some y) =>
    let id := newId s1
    startGraph { id.2 with graphs := tput id.2.graphs id.1 y } id.1

/-- R378: submits a plain launch as a graph of one index node. -/
def submitLaunch (s : State) (c hdr done : Nat) (persistent : Option Nat) : State :=
  let id := newId s
  let n := { newNode s with hdrAddr := hdr }
  let y := { newGraph s c with plain := true, done := done, nodes := [(0, n)], persistent := persistent }
  startGraph { id.2 with graphs := tput id.2.graphs id.1 y } id.1

/-! ## What a node still waits for (R382, R398, R400) -/

/-- The cohorts of a node on dies that work for its graph. -/
def cohortsOf (s : State) (g n : Nat) : List (Nat × Cohort) :=
  s.cohorts.filter fun p => decide (p.2.graph = g ∧ p.2.node = n) && aliveFor s (graphAt s g) p.2.die

/-- R400: a die still has indices of a chunk to dispatch. -/
def Chunk.undispatched (k : Chunk) : Bool := decide (k.nextIndex < k.first + k.count) || !k.pending.isEmpty

/-- R400: a chunk is acknowledged when every warp of every cohort of its indices has ended. -/
def chunkAcked (s : State) (g n : Nat) (k : Chunk) : Bool :=
  !k.undispatched && !((cohortsOf s g n).any fun p => p.2.template.isNone && decide (p.2.die = k.die ∧
    k.first ≤ p.2.index ∧ p.2.index < k.first + k.count))

/-- Tile copies of a node that are under way (R383), and its collective's start (R420). -/
def nodeOps (s : State) (g n : Nat) : List (Nat × Op) :=
  s.ops.filter fun p => (p.2.kind == .tileCopy || p.2.kind == .start) &&
    decide (p.2.par.take 2 = [BitVec.ofNat 32 g, BitVec.ofNat 32 n])

/-- R382, R398, R422: nothing of a node's work is left but its out-operands. -/
def nodeDone (s : State) (g n : Nat) : Bool :=
  let y := graphAt s g
  let x := nodeAt s g n
  let alive := aliveFor s y
  decide (x.st = .ready) && (cohortsOf s g n).isEmpty && x.posts.isEmpty &&
    (match x.hdr with
      | none => false
      | some h =>
        if x.kind = 1 then
          decide (x.resolved = x.npred) && !(x.batches.any fun b => alive b.die) &&
            (List.range s.dies).all fun d => !alive d || (lget x.input d []).isEmpty
        else decide (h.total ≤ x.counter) && x.redo.isEmpty && x.chunks.all (chunkAcked s g n)) &&
    (match x.collective with
      | none => true
      | some (d, e) => decide (e ≤ tget (tget s.contexts y.ctx default).epochDone d 0))

/-! ## POST and SYSC (R392, R393) -/

/-- R392: sends a value to the machine for the warp's node. -/
def postValue (v : State → Warp → BitVec 8 → Word) (f : Form) (s : State) : Out :=
  issue f (passing fun s k sl =>
    let w := warpAt s k
    modNode s w.ident.graph w.ident.node fun x => { x with posts := x.posts ++ [⟨w.die, k, v s w sl⟩] }) s

def execPost (h : BitVec 2) (a : BitVec 7) (s : State) : Out :=
  postValue (fun s w sl => warpOperand s w sl a.toNat) { reads := [a.toNat], hold := h.toNat, a := a.toNat } s
def execPostImm (i : BitVec 15) (s : State) : Out := postValue (fun _ _ _ => i.setWidth 32) {} s

/-- R392: the oldest value on its way on a die reaches its node's partial value; a warp that has ended waits for the
last of its own (R382). -/
def execPostArrival (s : State) : Out :=
  let d := subject s 0
  let l := s.graphs.flatMap fun p => p.2.nodes.filterMap fun x =>
    (x.2.posts.find? fun v => v.die = d).map fun v => (p.1, x.1, v)
  match l with
  | [] => .next s
  | (g, n, v) :: _ =>
    .next (reap (modNode s g n fun x => { x with
      posts := x.posts.erase v, partials := lmod x.partials d fun p => combinePost x.comb p v.value }) v.warp)

/-- R393: a system call. -/
def systemCall (n : State → Warp → BitVec 8 → Nat) (f : Form) (s : State) : Out :=
  issue { f with drains := true } (fun s k sl =>
    let w := warpAt s k
    let y := graphAt s w.ident.graph
    if !released w sl 5 then .wait s .other
    else if bufferFull s w.ident.ctx w.die then .trap 23 4 false
    else passing (fun s _ _ => postRecord s w.ident.ctx w.die
      (graphRecord 0x65 0 w.core w.die w.slot (nodeName y (tget y.nodes w.ident.node default)) (n s w sl)
        (gangPc w sl).toNat) .none) s k sl) s

def execSysc (n : BitVec 12) (s : State) : Out := systemCall (fun _ _ _ => n.toNat) {} s
def execSyscReg (h : BitVec 2) (a : BitVec 7) (s : State) : Out :=
  systemCall (fun s w sl => (warpOperand s w sl a.toNat).toNat)
    { reads := [a.toNat], hold := h.toNat, a := a.toNat } s

/-! ## EMIT (R394, R395) -/

/-- R395, R396: whether a graph may place another record on a die. -/
def poolRoom (s : State) (g d : Nat) : Bool :=
  let x := graphAt s g
  decide (lget x.poolUsed d 0 < x.pool) &&
    decide ((s.graphs.map fun p => lget p.2.poolUsed d 0).sum < 131072)

/-- R395: places records while there is room; answers those left. -/
def placeRecords (g n d : Nat) : State → List (List Word) → State × List (List Word)
  | s, [] => (s, [])
  | s, v :: r => if poolRoom s g d then placeRecords g n d (placeEmitted s g n d v) r else (s, v :: r)

/-- R395: whether an EMIT of some gang is the one that the gang is at. -/
def Emitter.of (x : Emitter) (s : State) (k : Nat) (sl : BitVec 8) : Bool :=
  decide (x.warp = k ∧ x.slices = sl ∧ x.pc = gangPc (warpAt s k) sl)

/-- R391, R395: a warp that issues again some day: it is resident, or saved and not stopped for good. -/
def goesOn (s : State) (k : Nat) : Bool :=
  (tfind s.warps k).isSome || (tfind s.saved k).any fun v => !v.stopped

/-- R395: an EMIT goes on: it places what it can once no EMIT of another warp that first waited before it waits on its
die, resident or saved. -/
def pumpEmit (e : Emitter) (s : State) (k : Nat) (sl : BitVec 8) : Eff :=
  let g := (warpAt s k).ident.graph
  let l := (graphAt s g).emitters
  let mine := fun x : Emitter => x.of s k sl
  let before := (l.takeWhile fun x => !mine x).filter fun x => decide (x.die = e.die ∧ x.warp ≠ k) && goesOn s x.warp
  if before.isEmpty then
    match placeRecords g e.node e.die s e.records with
    | (s1, []) => passing (fun s _ _ => modGraph s g fun x => { x with emitters := x.emitters.filter fun y => !mine y }) s1 k sl
    | (s1, r) => .wait (modGraph s1 g fun x => { x with
        emitters := x.emitters.map fun y =>
          if mine y then { y with records := r, begun := y.begun || decide (r.length < y.records.length) } else y }) .other
  else .wait s .other

/-- R395: EMIT, its slot given by `slot`. -/
def emitEff (slot : State → Warp → BitVec 8 → Nat) (d : BitVec 7) (s : State) (k : Nat) (sl : BitVec 8) : Eff :=
  let w := warpAt s k
  let g := w.ident.graph
  let y := graphAt s g
  match y.emitters.find? fun x => x.of s k sl with
  | some e => pumpEmit e s k sl
  | none =>
    let i := slot s w sl
    let c := (tget y.nodes w.ident.node default).succ[i]?
    let good := match c with
      | none => false
      | some n => (nodeAt s g n).kind == 1 && decide ((nodeAt s g n).status ≠ 2)
    if y.plain || w.self then .trap 23 2 false
    else if 8 ≤ i then .trap 23 3 false
    else if !good then .trap 23 1 false
    else if !released w sl 3 then .wait s .other
    else
      let e : Emitter := ⟨w.die, k, sl, gangPc w sl, c.getD 0, (gangLanes w sl).map fun l => (groupRegs d 4).map fun f => srcReg s w f l, false⟩
      if e.records.isEmpty then passing (fun s _ _ => s) s k sl
      else pumpEmit e (modGraph s g fun x => { x with emitters := x.emitters ++ [e] }) k sl

def execEmit (d : BitVec 7) (k : BitVec 3) (s : State) : Out :=
  issue { reads := groupRegs d 4, drains := true } (emitEff (fun _ _ _ => k.toNat) d) s
def execEmitReg (h : BitVec 2) (d a : BitVec 7) (s : State) : Out :=
  issue { reads := groupRegs d 4 ++ [a.toNat], drains := true, hold := h.toNat, a := a.toNat }
    (emitEff (fun s w sl => (warpOperand s w sl a.toNat).toNat) d) s

/-! ## Index chunks (R400) -/

/-- Only one die's machine can hold a copy of a graph's counters. -/
def alone (s : State) (y : Graph) : Bool :=
  y.owner.isSome || decide (((List.range s.dies).filter (tgmRuns s)).length ≤ 1)

/-- R400: the chunk that the counter gives next: first index and count. -/
def nextChunk (x : Node) : Option (Nat × Nat) :=
  match x.redo, x.hdr with
  | p :: _, _ => some p
  | [], some h => if x.counter < h.total then some (x.counter, min 64 (h.total - x.counter)) else none
  | [], none => none

/-- R400: hands a chunk to a die; the node takes its turn behind the others (R386). -/
def handOut (s : State) (g n d : Nat) : State :=
  let x := nodeAt s g n
  match nextChunk x with
  | none => modNode s g n fun x => { x with requests := x.requests.erase d, mirroring := none }
  | some (first, count) =>
    let id := newId s
    modNode id.2 g n fun x => { x with
      requests := x.requests.erase d, mirroring := none, readySeq := id.1
      counter := if x.redo.isEmpty then x.counter + count else x.counter
      mirror := if x.redo.isEmpty then x.counter + count else x.mirror
      redo := x.redo.tail
      chunks := x.chunks ++ [⟨d, first, count, first, 0, [], id.1⟩] }

/-- R400: the leader serves the first request: the write to the other die's copy goes out, and once it is
acknowledged the chunk is handed out. -/
def execChunkHandout (s : State) : Out :=
  let g := subject s 0
  let n := subject s 1
  let x := nodeAt s g n
  if x.st ≠ .ready then .next s
  else
    match x.mirroring, x.requests with
    | some (d, true), _ => .next (handOut s g n d)
    | some (d, false), _ => .next (if alone s (graphAt s g) then handOut s g n d else s)
    | none, d :: _ =>
      .next (if alone s (graphAt s g) then handOut s g n d
        else modNode s g n fun x => { x with mirroring := some (d, false) })
    | none, [] => .next s

/-- R400: the oldest mirror write on its way to a die arrives, and is acknowledged. -/
def execMirrorWrite (s : State) : Out :=
  let d := subject s 0
  let waits := fun x : Node => match x.mirroring with
    | some (_, false) => true
    | _ => false
  let l := (s.graphs.filter fun p => leaderOf s p.2 ≠ d).flatMap fun p =>
    (p.2.nodes.filter fun x => waits x.2).map fun x => (p.1, x.1)
  if !tgmRuns s d ∨ !s.dieLink then .next s
  else
    match l with
    | [] => .next s
    | (g, n) :: _ =>
      .next (modNode s g n fun x => { x with
        mirroring := x.mirroring.map fun p => (p.1, true)
        mirror := match x.redo, nextChunk x with
          | [], some (first, count) => first + count
          | _, _ => x.mirror })

/-! ## The failure of a die (R401) -/

/-- R401: what becomes of a chunk of a failed die; `v` is the die that goes on. -/
def loseChunk (s : State) (g n v first count : Nat) : State :=
  let y := graphAt s g
  let x := nodeAt s g n
  match x.hdr with
  | none => s
  | some h =>
    if h.idem then modNode s g n fun x => { x with redo := x.redo ++ [(first, count)] }
    else modNode (postRecord s y.ctx v (graphRecord 0x63 0 0 v 0 (nodeName y x) first 0) .none) g n fun x =>
      { x with lost := true }

/-- R401: the chunks of a node that a die holds unacknowledged. -/
def deadChunks (s : State) (g n d : Nat) : List Chunk :=
  (nodeAt s g n).chunks.filter fun k => decide (k.die = d) && !chunkAcked s g n k

/-- R401: a node when die `d` has failed with the chunks `dead`, die `v` goes on, and `led` where die `d` was its
leader. What the failed die's template warps have not frozen is to be started again, and its clusters hold no operand of the node any more. -/
def loseDie (d v : Nat) (led : Bool) (s : State) (g n : Nat) (dead : List Chunk) : State :=
  let x := nodeAt s g n
  let begun := fun u : UnitState => match u with
    | .started c => decide ((tget s.cohorts c default).die = d)
    | _ => false
  if x.st ≠ .ready then s
  else
    let s1 := dead.foldl (fun s k => loseChunk s g n v k.first k.count)
      (modNode s g n fun x => { x with
        chunks := x.chunks.filter fun k => k.die ≠ d, requests := x.requests.filter (· ≠ d)
        openOn := x.openOn.filter (· / 72 ≠ d), primed := x.primed.filter (· / 72 ≠ d)
        units := x.units.filter fun u => !begun u.2 })
    match x.mirroring with
    | none => s1
    | some (e, acked) =>
      -- The copy that survives says that the chunk was handed out.
      let s2 := modNode s1 g n fun x => { x with mirroring := none }
      if e = d ∧ acked ∧ led then
        match nextChunk x with
        | some (first, count) =>
          loseChunk (modNode s2 g n fun y => { y with
            counter := if x.redo.isEmpty then y.mirror else y.counter
            redo := y.redo.erase (first, count) }) g n v first count
        | none => s2
      else s2

/-- The address by which a record names a graph: a plain launch's header. -/
def graphName (y : Graph) : Nat := if y.plain then (tget y.nodes 0 default).hdrAddr else y.addr

/-- R401: a die that has become the leader of the incomplete graphs `gs` tells each of their contexts; the record's
address is that of the first of them (notes/assumptions/74.md). -/
def elect (s : State) (v : Nat) (gs : List Nat) : State :=
  (gs.map fun g => (graphAt s g).ctx).dedup.foldl (fun s c =>
    let held := s.graphs.filter fun p => decide (p.2.ctx = c ∧ leaderOf s p.2 = v) && !p.2.complete
    let first := (held.filter fun p => p.1 ∈ gs).head?.map Prod.snd
    postRecord s c v (graphRecord 0x64 v 0 v 0 ((first.map graphName).getD 0) held.length 0) .none) s

/-- R401: die `d` fails: its chunks are judged before it is marked, and a new leader reports. -/
def failDie (s : State) (d : Nat) : State :=
  let live := s.graphs.filter fun p => !p.2.complete && p.2.owner.isNone
  let s1 := live.foldl (fun s p => p.2.nodes.foldl (fun s x =>
    loseDie d (1 - d) (decide (leaderOf s p.2 = d)) s p.1 x.1 (deadChunks s p.1 x.1 d)) s) s
  elect (modDie s1 d fun x => { x with failed := true }) (1 - d)
    ((live.filter fun p => decide (leaderOf s p.2 = d)).map Prod.fst)

/-- R407: a graph parts into the views of the two dies: its number stays with die 0, and die 1's warps, cohorts and
operations go with its view, whose number is the next. -/
def splitGraph (s : State) (g : Nat) : State :=
  let y := graphAt s g
  let id := newId s
  let view := fun d : Nat => { y with
    owner := some d, emitters := y.emitters.filter fun e => e.die = d
    nodes := y.nodes.map fun x => (x.1, { x.2 with posts := x.2.posts.filter fun v => v.die = d }) }
  let moved := fun w : Warp =>
    if w.ident.graph = g ∧ w.die = 1 then { w with ident := { w.ident with graph := id.1 } } else w
  { id.2 with
    graphs := tput (tput id.2.graphs g (view 0)) id.1 (view 1)
    warps := s.warps.map fun p => (p.1, moved p.2)
    saved := s.saved.map fun p => (p.1, { p.2 with rest := moved p.2.rest })
    cohorts := s.cohorts.map fun p =>
      (p.1, if p.2.graph = g ∧ p.2.die = 1 then { p.2 with graph := id.1 } else p.2)
    ops := s.ops.map fun p =>
      (p.1, if (p.2.kind == .tileCopy || p.2.kind == .start) && decide (p.2.die = 1 ∧ p.2.par.head? = some (BitVec.ofNat 32 g))
        then { p.2 with par := BitVec.ofNat 32 id.1 :: p.2.par.tail } else p.2) }

/-- R401, R407: the dies take each other as failed: each goes on with its own view of every graph. -/
def partGraph (s : State) (g : Nat) : State :=
  let y := graphAt s g
  let dead := fun d => y.nodes.map fun x => (x.1, deadChunks s g x.1 d)
  let lose := fun (s : State) (view d : Nat) => (dead d).foldl (fun s x =>
    loseDie d (1 - d) (decide (leaderOf s { y with owner := none } = d)) s view x.1 x.2) s
  lose (lose (splitGraph s g) g 1) s.fresh 0

def partGraphs (s : State) : State :=
  let live := s.graphs.filter fun p => !p.2.complete && p.2.owner.isNone
  let s1 := live.foldl (fun s p => partGraph s p.1) s
  let led := fun d => (live.filter fun p => leaderOf s p.2 = d).map Prod.fst
  let views := (s1.graphs.filter fun p => p.2.owner = some 1 ∧ s.fresh ≤ p.1).map Prod.fst
  let gains := ((live.map Prod.fst).zip views).filterMap fun p => if p.1 ∈ led 0 then some p.2 else none
  elect (elect s1 0 (led 1)) 1 gains

/-- R401: a heartbeat of a die reaches the other. -/
def execHeartbeat (s : State) : Out :=
  let d := subject s 0
  if tgmRuns s d && !(dieAt s d).stopped && s.dieLink then
    .next (modDie s d fun x => { x with lastHeartbeat := clockB s (1 - d) })
  else .next s

/-- R401: a die whose machine has sent no heartbeat for 65,536 mc. -/
def execDieFailure (s : State) : Out :=
  let d := subject s 0
  if s.dies = 2 ∧ s.dieLink ∧ tgmRuns s 0 ∧ tgmRuns s 1 ∧ d < 2 ∧
      (dieAt s d).lastHeartbeat + 65536 ≤ clockB s (1 - d) then .next (failDie s d)
  else .next s

/-! ## Headroom (R385, R444) -/

/-- R444: an island's headroom at a mean current. -/
def headroom (amps : Nat) : Nat := 1450 - amps

/-- R444, R446: what an island that runs reads of its sensors: what they show is free, but for a temperature that would
have halved its clock, or ended that, or have tripped it; a mean current below 1,400 A ends a halving. -/
def readSensors (a t : Nat) (x : Island) : Island :=
  if x.st = 0 ∨ x.st = 3 then x
  else
    let amps := a % 2048
    { x with
      amps := amps, head := headroom amps, temp := if x.throttledHeat then 100 + t % 20 else t % 105
      throttledCurrent := x.throttledCurrent && decide (1400 ≤ amps), holding := decide (headroom amps < x.threshold) }

/-- R385, R444: a die's machine reads the headroom of its fields. -/
def execHeadroomReading (s : State) : Out :=
  let d := subject s 0
  .next ((List.range 3).foldl (fun s i =>
    let a := draw s
    let t := draw a.2
    { t.2 with islands := lmod t.2.islands (3 * d + i) (readSensors a.1 t.1) }) s)

end Sys2Proof.Machine
end

