-- ==== Sys2Proof/Machine/Pool.lean ====
section
/-!
DEFINITION. What leaves its cluster with a workgroup, as the save pool holds it (R390, R391): the records of a
workgroup, of its commands, of a core and of a cluster.
-/

namespace Sys2Proof.Machine

/-! ## What leaves with a workgroup (R390, R391) -/

/-- R391: one barrier as eight bytes. -/
def barrierBytes (b : Barrier) : List Byte :=
  leBytes 8 (b.latched.getD 0 + 256 * b.arrived + (if b.phase then 65536 else 0))

def barrierArea (t : Tbl Barrier) : List Byte := (List.range 16).flatMap fun n => barrierBytes (tget t n default)

/-- The address of a saved warp's area. -/
def savedAddr (s : State) (k : Nat) : Nat := ((tfind s.saved k).map Saved.addr).getD 0

/-- R391: the 4 KiB record of a workgroup. -/
def groupRecord (s : State) (g : Nat) (sv : SavedGroup) (inCohort : Bool) (ext crec clus : Nat) : List Byte :=
  let x := groupAt s g
  let w := ((x.warps.map Prod.snd).findSome? (anyWarp s)).getD default
  let n := nodeAt s w.ident.graph w.ident.node
  let h := n.hdr.getD default
  let tmpl := ((x.nested.bind (tfind s.images)).map Image.addr).getD 0
  let m : Memory := mputNat [] 0 8 n.addr
  let m := mputNat m 8 8 (w.ident.wid.toNat / 2 ^ h.below 2 * 2 ^ h.below 2)
  let m := mputNat m 0x10 4 (x.warps.length + x.core % 4 * 64 + sv.cluster % 72 * 256 + sv.die * 2 ^ 15 +
    (if inCohort then 2 ^ 16 else 0))
  let m := mputNat m 0x14 4 (sv.copies.length + sv.hash.length * 64 + sv.mx.length * 2 ^ 12 + sv.objects.length * 2 ^ 18)
  let m := mputNat (mputNat (mputNat m 0x18 8 ext) 0x20 8 crec) 0x28 8 clus
  let m := mstore m 0x30 (barrierArea x.bars)
  let m := mstore m 0x100 ((List.range 8).flatMap fun k =>
    (tget x.cb k (List.replicate 16 0)).flatMap fun v => leBytes 2 v.toNat)
  let m := x.warps.foldl (fun m p => mputNat m (0x200 + 8 * p.1) 8 (savedAddr s p.2)) m
  let m := mputNat m 0x300 8 tmpl
  let m := ((List.range sv.copies.length).zip sv.copies).foldl (fun m p => mstore m (0x400 + 64 * p.1) (copyRecord p.2.2)) m
  mbytes m 0 0x1000

/-- R391: the area of the hash records, matrix records and barrier objects. -/
def extBytes (s : State) (sv : SavedGroup) : List Byte :=
  let slot := fun k => match anyWarp s k with
    | some w => w.slot
    | none => 0
  sv.hash.flatMap (fun c => hashRecordBytes c (slot c.warp)) ++ sv.mx.flatMap (fun e => mxRecordBytes s e (slot e.warp)) ++
    sv.objects.flatMap fun o => leBytes 4 o.1 ++ leBytes 12 0 ++ o.2

/-- R391: the operation record of an access-processor operation. -/
def apOpRecord (op : Op) : List Byte :=
  leBytes 4 op.word.toNat ++ leBytes 4 op.dst ++ leBytes 4 op.done ++ leBytes 4 (lget op.par 0 0).toNat ++
    leBytes 4 (lget op.par 1 0).toNat ++ leBytes 12 0 ++ leBytes 16 op.record.toNat ++ leBytes 16 0

/-- R391: a queue's entries, 64 of 128 bytes. -/
def queueBytes (q : Queue) : List Byte :=
  padTo 0x2000 (q.entries.flatMap fun e => (List.range 32).flatMap fun l => leBytes 4 (lget e.words l 0).toNat)

/-- R371, R391: the core record, of a context's access-processor work as it left its core. -/
def coreRecord (sv : SavedGroup) : List Byte :=
  let unit := fun u => lget sv.units u newUnit
  mbytes (unit 0).dmem 0 0x2000 ++ mbytes (unit 1).dmem 0 0x2000 ++
    ((List.range 16).flatMap fun i =>
      let y := lget (unit (i / 8)).ctxs (i % 8) default
      apSaveBytes y (unit (i / 8)).dmem (i / 8) (i % 8) y.st) ++
    (List.range 4).flatMap (fun q => queueBytes (lget sv.queues q default)) ++
    padTo 0x100 ((List.range 4).flatMap fun q =>
      let y := lget sv.queues q default
      leBytes 4 0 ++ leBytes 4 (poppable y) ++ leBytes 4 (y.entries.length - poppable y) ++
        leBytes 4 ((y.openGroup.map fun o => o.records + 256).getD 0)) ++
    sv.ops.flatMap fun p => apOpRecord p.2

/-- R280, R391: a hash slot as 512 bytes: level descriptors, then the records. -/
def slotBytes (x : HashSlot) : List Byte :=
  padTo 512 (padTo 256 (x.levels.flatMap fun d => leBytes 16 d.toNat) ++ leBytes 16 x.table.toNat ++
    leBytes 16 x.grad.toNat ++ leBytes 4 x.replica ++ leBytes 4 x.stride ++ leBytes 4 (if x.valid then 1 else 0))

/-- R391: the cluster record. -/
def clusterRecord (sv : SavedGroup) : List Byte :=
  (List.range 4).flatMap (fun i => slotBytes (lget sv.slots i default)) ++ sv.regions.flatMap Prod.snd

/-- Writes bytes to the save pool for a unit of a die, if the pool has room: the address and the state. -/
def writeRecord (s : State) (c die : Nat) (b : List Byte) : Nat × State :=
  if b.isEmpty then (0, s)
  else
    match poolTake s c b.length 64 with
    | none => (0, s)
    | some (a, s1) => (a, (vwrite s1 c die a b).1)

/-- R391: the record of a cohort of several workgroups lies behind those of its last workgroup saved: whether a
saved workgroup is part of such a cohort. -/
def inCohort (s : State) (g : Nat) : Bool := decide (1 < (tget s.cohorts (groupAt s g).cohort default).nwg)

/-- R391: writes the records of a saved workgroup to the save pool: the workgroup record, the area of commands and
objects, the core record and the cluster record. -/
def writeGroupRecords (s : State) (g c : Nat) : State :=
  match tfind s.savedGroups g with
  | none => s
  | some sv =>
    let ext := writeRecord s c sv.die (extBytes s sv)
    let crec := if sv.hasCore then writeRecord ext.2 c sv.die (coreRecord sv) else (0, ext.2)
    let clus := writeRecord crec.2 c sv.die (clusterRecord sv)
    let wr := writeRecord clus.2 c sv.die (groupRecord clus.2 g sv (inCohort clus.2 g) ext.1 crec.1 clus.1)
    { wr.2 with savedGroups := tput wr.2.savedGroups g { sv with addrs := [wr.1, ext.1, crec.1, clus.1] } }

/-- R299, R390, R391: what a saved workgroup keeps has changed: its area and its cluster record are written anew,
and its record, where it lies, names them. -/
def rewriteGroupRecords (s : State) (g c : Nat) (f : SavedGroup → SavedGroup) : State :=
  match tfind s.savedGroups g with
  | none => s
  | some old =>
    let sv := f old
    let a := fun i => lget sv.addrs i 0
    let s1 := poolFree (poolFree s c (a 1)) c (a 3)
    let ext := writeRecord s1 c sv.die (extBytes s1 sv)
    let clus := writeRecord ext.2 c sv.die (clusterRecord sv)
    let s2 := if a 0 = 0 then clus.2
      else (vwrite clus.2 c sv.die (a 0) (groupRecord clus.2 g sv (inCohort clus.2 g) ext.1 (a 2) clus.1)).1
    { s2 with savedGroups := tput s2.savedGroups g { sv with
        addrs := [a 0, ext.1, a 2, clus.1] ++ sv.addrs.drop 4 } }

end Sys2Proof.Machine
end

