-- ==== Sys2Proof/Machine/Placement.lean ====
section
/-!
DEFINITION. The escapement (spec/12_task_graph_machine.md): the needs of work (R384, R389), the start of
template warps, cohorts, batches and of a cohort launch (R26, R32, R33, R151, R153, R397, R426), tile
operands (R383), the start of a collective (R420), pre-emption (R387, R169), the records of a workgroup that
leaves its cluster (R390, R391, R248, R299, R300, R335, R371) and its return (R388).
-/

namespace Sys2Proof.Machine

/-! ## What a place must offer (R384) -/

/-- What one workgroup needs of its core: the core within the cluster, warp slots, initial granules, and the
innermost images of its warps. -/
structure Need where
  f2 : Nat
  warps : Nat
  granules : Nat
  images : List Nat
  /-- R303, R335, R248: matrix commands and copies to be reissued there. -/
  tiles : Nat := 0
  copies : Nat := 0
  deriving DecidableEq, Repr, Inhabited

/-- What a cohort needs of a cluster; `fresh` where its cores' access processors must be free (R371). -/
structure Wants where
  graph : Nat
  node : Nat
  ctx : Nat
  carve : Nat
  tiles : List Tile
  needs : List Need
  /-- The one cluster to which it may return (R390). -/
  pinned : Option Nat
  fresh : Bool
  persistent : Bool
  /-- R286, R300: hash commands to be reissued on the cluster. -/
  hash : Nat := 0
  deriving DecidableEq, Repr, Inhabited

/-- The images of a chain, at most three deep (R158). -/
def chainOf (s : State) : Nat → Nat → List Nat
  | 0, _ => []
  | n + 1, k => match tfind s.images k with
    | none => []
    | some im => k :: (match im.parent with
      | none => []
      | some p => chainOf s n p)

/-- R341: all four queues of a core are empty and every access-processor context is idle. -/
def apFree (s : State) (c : Nat) : Bool :=
  (queuesOf (coreAt s c)).all (fun q => q.entries.isEmpty) &&
    (unitsOf (coreAt s c)).all fun u => u.ctxs.all fun x => decide (x.st = .idle)

/-- R154, R226, R341, R384: whether a core has room for a workgroup. -/
def coreFits (s : State) (die core : Nat) (w : Wants) (n : Need) : Bool :=
  let k := coreKey die core
  let c := coreAt s k
  let here := warpsOn s die core
  let images := ((n.images.flatMap (chainOf s 4)).dedup).filter fun i => i ∉ c.images
  let room := freeGranules (modCore s k fun x => { x with carve := w.carve }) die core
  let size := (images.map fun i => imageGranules (tget s.images i default)).sum
  decide (here.length + n.warps ≤ 128 ∧ c.images.length + images.length ≤ 8 ∧ n.granules + size ≤ room) &&
    decide (n.copies = 0 ∨ (copiesOn s die core).length + n.copies ≤ 32) &&
    (decide (c.carve = w.carve) || here.isEmpty) && (apFree s k || (decide (c.ctx = w.ctx) && !w.fresh))

/-- Whether two ranges of a cluster's store overlap. -/
def overlap (a b : Tile) : Bool :=
  decide (a.cluster < b.cluster + b.bytes ∧ b.cluster < a.cluster + a.bytes)

/-- R390: the addresses of the barrier objects that a saved workgroup's records name. -/
def SavedGroup.objectAddrs (v : SavedGroup) : List Nat :=
  (v.copies.map (fun p => p.2.param 2) ++ v.hash.map HashCommand.bo ++ v.mx.map MxEntry.bo).dedup

/-- R390: the barrier objects that workgroups of other nodes have left in place on a cluster to which they return. -/
def objectsOn (s : State) (c g n : Nat) : List Tile :=
  (s.savedGroups.filter fun p =>
    let co := tget s.cohorts (groupAt s p.1).cohort default
    p.2.pinned && decide (clusterKey p.2.die p.2.cluster = c ∧ (co.graph, co.node) ≠ (g, n))).flatMap fun p =>
      p.2.objectAddrs.map fun a => ⟨0, 2, a, 16⟩

/-- R383, R390: the regions that other nodes use on a cluster: their operands and their barrier objects. -/
def regionsOn (s : State) (c g n : Nat) : List Tile :=
  objectsOn s c g n ++ s.graphs.flatMap fun p => (p.2.nodes.filter fun x => decide ((p.1, x.1) ≠ (g, n)) &&
    (decide (c ∈ x.2.openOn) || (nodeOps s p.1 x.1).any fun o => o.2.cluster = c)).flatMap fun x => x.2.tiles

/-- R384: the clusters of a die that a context occupies. -/
def occupied (s : State) (c die : Nat) : List Nat :=
  ((s.warps.filter fun p => decide (p.2.ident.ctx = c ∧ p.2.die = die)).map fun p => p.2.core / 4).dedup

/-- R303, R335: whether a cluster's engines have room for the commands that would be reissued on it. -/
def enginesFit (s : State) (k : Nat) (w : Wants) : Bool :=
  let x := clusterAt s k
  let n := (w.needs.map Need.tiles).sum
  decide ((w.hash = 0 ∨ x.hashQueue.length + w.hash ≤ 16) ∧ (n = 0 ∨ x.mx.length + n ≤ 32)) &&
    w.needs.all fun q => decide (q.tiles = 0 ∨ (x.mx.filter fun e => e.2.core % 4 = q.f2).length + q.tiles ≤ 16)

/-- The context of a workgroup. -/
def groupCtx (s : State) (g : Nat) : Nat := (tget s.cohorts (groupAt s g).cohort default).ctx

/-- R19, R389, R390: whether a cluster holds work of another context: its warps, commands and operations, operand
regions that a node of it still uses, and what a workgroup that must return there has left in place. -/
def foreign (s : State) (die cl ctx : Nat) : Bool :=
  let k := clusterKey die cl
  let x := clusterAt s k
  (s.warps.any fun p => decide (p.2.clusterOf = k ∧ p.2.ident.ctx ≠ ctx)) ||
    x.hashQueue.any (fun e => decide (e.ctx ≠ ctx)) || x.mx.any (fun e => decide (e.2.ctx ≠ ctx)) ||
    (s.ops.any fun p => p.2.kind.engine && decide (p.2.cluster = k ∧ p.2.ctx ≠ ctx)) ||
    (s.graphs.any fun p => decide (p.2.ctx ≠ ctx) && p.2.nodes.any fun n => decide (k ∈ n.2.openOn)) ||
    s.savedGroups.any fun p => p.2.pinned && decide (clusterKey p.2.die p.2.cluster = k ∧ groupCtx s p.1 ≠ ctx)

/-- R425: whether a cluster belongs to a reserved partition. -/
def inPartition (s : State) (die cl : Nat) : Bool :=
  match (dieAt s die).partition with
  | none => false
  | some (n, _) => decide (72 - n ≤ cl)

/-- R425 to R427: whether a warp belongs to the partition of its die: it is one of a persistent launch. -/
def ofPartition (s : State) (w : Warp) : Bool := (graphAt s w.ident.graph).persistent.isSome && inPartition s w.die (w.core / 4)

/-- R425: whether a die's partition is reserved for a context and holds no warp of other work. -/
def partitionOpen (s : State) (die ctx : Nat) : Bool :=
  ((dieAt s die).partition.any fun p => decide (p.2 = ctx)) &&
    s.warps.all fun p => decide (p.2.die ≠ die) || !inPartition s die (p.2.core / 4) || ofPartition s p.2

/-- R385, R443: whether the field of a cluster takes work. -/
def fieldOpen (s : State) (die cl : Nat) : Bool :=
  !(lget s.islands (3 * die + cl / 24) default).holding && (dieAt s die).ready.getLsbD (4 + cl / 24)

/-- R384: whether a cluster meets a cohort's needs, apart from its field. -/
def clusterFits (s : State) (die : Nat) (w : Wants) (cl : Nat) : Bool :=
  let occ := occupied s w.ctx die
  let limit := ((tfind s.contexts w.ctx).map Context.clusters).getD 0
  let regions := regionsOn s (clusterKey die cl) w.graph w.node
  decide (inPartition s die cl = w.persistent) && (!w.persistent || partitionOpen s die w.ctx) && (w.pinned.isNone || decide (w.pinned = some cl)) &&
    !foreign s die cl w.ctx && (decide (cl ∈ occ ∨ occ.length < limit) || w.persistent) &&
    !(w.tiles.any fun t => regions.any (overlap t)) && enginesFit s (clusterKey die cl) w &&
    w.needs.all fun n => coreFits s die (4 * cl + n.f2) w n

/-- R384: the cluster that a cohort takes. -/
def findCluster (s : State) (die : Nat) (w : Wants) : Option Nat :=
  (List.range 72).find? fun cl => fieldOpen s die cl && clusterFits s die w cl

/-! ## Preparing clusters and cores (R226, R341, R389) -/

/-- R280: a cluster's hash slots that belong to a context, the others not valid. -/
def slotsFor (s : State) (k ctx : Nat) : List HashSlot :=
  (slotsOf (clusterAt s k)).map fun x => if x.ctx = ctx ∧ x.valid then x else default

/-- R299: what a context's slots hold on a cluster goes into the records of its workgroups saved there. -/
def keepSlots (s : State) (k ctx : Nat) : State :=
  let slots := slotsFor s k ctx
  let here := s.savedGroups.filter fun p => decide (clusterKey p.2.die p.2.cluster = k ∧ groupCtx s p.1 = ctx)
  if slots.all fun x => !x.valid then s
  else here.foldl (fun s p => rewriteGroupRecords s p.1 ctx fun v => { v with
    slots := (List.range 4).map fun i => if (lget slots i default).valid then lget slots i default else lget v.slots i default }) s

/-- R299, R389: a cluster whose last work belonged to another context is cleared, that context's slots kept. -/
def claimCluster (s : State) (k ctx : Nat) : State :=
  if (clusterAt s k).ctx = ctx then s
  else modCluster (keepSlots s k (clusterAt s k).ctx) k fun x => { x with ctx := ctx, store := [], slots := List.replicate 4 default }

/-- R226, R341: a core takes the carve-out and the context of the work placed on it. -/
def claimCore (s : State) (k ctx carve : Nat) : State :=
  let image := ((tfind s.contexts ctx).map Context.image).getD []
  modCore s k fun x =>
    let x1 := if carve < x.carve then { x with cache := [] } else x
    let x2 := { x1 with carve := carve }
    if x.ctx = ctx then x2
    else { x2 with
      ctx := ctx, queues := List.replicate 4 default
      units := List.replicate 2 ⟨image, [], List.replicate 8 default, 7⟩ }

/-- R155: an image's chain is fetched into a core's template store. The core holds the image as it was frozen: a
slot in memory that software has written over since is not looked at (DESIGN CHOICE, notes/assumptions/67.md). -/
def fetchChain (s : State) (k image : Nat) : State :=
  modCore s k fun x => { x with images := (chainOf s 4 image).foldl addOnce x.images }

/-! ## Starting warps (R29, R151, R153) -/

/-- R29: the lowest free slot of a core, and the port with the fewest warps. -/
def freeSlot (s : State) (die core : Nat) : Nat :=
  let l := warpsOn s die core
  ((List.range 128).find? fun i => !(l.any fun p => p.2.slot = i)).getD 0
def freePort (s : State) (die core : Nat) : Nat :=
  let n := fun p => ((warpsOn s die core).filter fun w => w.2.port = p).length
  (List.range 4).foldl (fun b p => if n p < n b then p else b) 0

/-- A slice at the start of a warp. As the last issue of a gang that has never issued (R31) it has the step in which
the warp is placed (DESIGN CHOICE, notes/assumptions/67.md). -/
def newSlice (s : State) (pc : VAddr) : Slice :=
  { (default : Slice) with pc := pc, active := 15, latches := List.replicate 3 ⟨[], 0⟩, lastIssue := s.now }

/-- R151: a warp that is not stamped, at its start. -/
def newWarp (s : State) (id : Ident) (die core : Nat) (pc : VAddr) (self : Bool) : Warp :=
  { (default : Warp) with
    ident := id, die := die, core := core, slot := freeSlot s die core, port := freePort s die core
    ceil := id.ceil0, self := self, priv := toBits 1024 (List.range id.ceil0)
    gen := (List.range 32).map fun l => (l, startGen (id.wid.toNat + l))
    slices := List.replicate 8 (newSlice s pc) }

/-- R153: a warp as it starts from an image. -/
def stampWarp (w : Warp) (k : Nat) (im : Image) : Warp :=
  let v := takeImage w k im
  { v with self := false, slices := v.slices.map fun x => { x with pc := im.pc } }

/-- What a warp of a workgroup is started as. -/
structure Start where
  ident : Ident
  pc : VAddr
  image : Option Nat
  self : Bool
  deriving DecidableEq, Repr, Inhabited

/-- Starts a warp on its core: an acquire at a scope (R382, R397). -/
def startWarp (s : State) (die core scope : Nat) (x : Start) : State :=
  let id := newId s
  let w := newWarp id.2 x.ident die core x.pc x.self
  let s1 := match x.image.bind fun i => (tfind s.images i).map fun im => (i, im) with
    | some (i, im) => fetchChain { id.2 with warps := tput id.2.warps id.1 (stampWarp { w with placed := id.1 } i im) }
        w.coreOf i
    | none => { id.2 with warps := tput id.2.warps id.1 { w with placed := id.1 } }
  let s2 := acquire (modGroup s1 x.ident.group fun g => { g with warps := tput g.warps x.ident.f1 id.1 }) die core scope
  let s3 := modCore s2 w.coreOf fun c => { c with starved := false }
  modGraph s3 x.ident.graph fun g => { g with windowUsed := lmod g.windowUsed die fun _ => true }

/-- What the launch gives a warp. -/
def identOf (s : State) (g n : Nat) (h : Header) (group wid f1 : Nat) (batch : Bool) : Ident :=
  let x := nodeAt s g n
  { ctx := (graphAt s g).ctx, graph := g, node := n, group := group, wid := BitVec.ofNat 64 wid, f1 := f1
    prio := x.prio, args := h.args, ceil0 := 8 * (h.ceil + 1), save := h.save, tlevel := h.tlevel
    unitShift := h.below h.tlevel, collective := x.collective, batch := batch }

/-- A cohort to be started: its index and F3, and for each workgroup its F2 and the image of its warps;
`unit` for a template warp alone. -/
structure Plan where
  index : Nat
  f3 : Nat
  groups : List (Nat × Option Nat)
  unit : Option Nat
  deriving DecidableEq, Repr, Inhabited

/-- R23: the identifier of a workgroup's first lane. -/
def widOf (h : Header) (index f3 f2 : Nat) : Nat :=
  index * 2 ^ h.below 4 + f3 * 2 ^ h.below 3 + f2 * 2 ^ h.below 2

def Plan.warps (p : Plan) (h : Header) : Nat := if p.unit.isSome then 1 else 2 ^ h.width 1

/-- R384: what a plan needs. -/
def planWants (s : State) (g n : Nat) (h : Header) (p : Plan) : Wants :=
  let y := graphAt s g
  { graph := g, node := n, ctx := y.ctx, carve := h.carve, tiles := (nodeAt s g n).tiles
    needs := p.groups.map fun q =>
      { f2 := q.1, warps := p.warps h, images := q.2.toList
        granules := if q.2.isSome then 0 else p.warps h * (h.ceil + 1) }
    pinned := none, fresh := false, persistent := y.persistent.isSome }

/-- Starts a workgroup of a cohort. -/
def startGroup (s : State) (g n : Nat) (h : Header) (die cl co : Nat) (p : Plan) (q : Nat × Option Nat) : State :=
  let core := 4 * cl + q.1
  let y := graphAt s g
  let id := newId (claimCore s (coreKey die core) y.ctx h.carve)
  let s1 := { id.2 with groups := tput id.2.groups id.1 { (default : Group) with
    cohort := co, die := die, core := core, names := List.range (p.warps h) } }
  (List.range (p.warps h)).foldl (fun s f1 =>
    let wid := widOf h p.index p.f3 q.1 + f1 * 2 ^ h.below 1
    startWarp s die core 5 ⟨identOf s g n h id.1 wid f1 false, BitVec.ofNat 57 h.entry, q.2, p.unit.isSome⟩) s1

/-- R383, R399: the die has started a warp of the node, on a cluster whose operands have been copied. -/
def markStarted (s : State) (g n die cl : Nat) : State :=
  modNode s g n fun x => { x with
    started := addOnce x.started die, primed := x.primed.filter (· ≠ clusterKey die cl) }

/-- R32: starts a cohort, all its workgroups at once. -/
def startCohort (s : State) (g n : Nat) (h : Header) (die cl : Nat) (p : Plan) : State :=
  let y := graphAt s g
  let id := newId (claimCluster s (clusterKey die cl) y.ctx)
  let co : Cohort := { (default : Cohort) with
    die := die, cluster := cl, ctx := y.ctx, graph := g, node := n, index := p.index, f3 := p.f3
    nwg := p.groups.length, template := p.unit }
  let s1 := markStarted { id.2 with cohorts := tput id.2.cohorts id.1 co } g n die cl
  let s2 := match p.unit with
    | none => s1
    | some u => modNode s1 g n fun x => { x with units := tput x.units u (.started id.1) }
  p.groups.foldl (fun s q => startGroup s g n h die cl id.1 p q) s2

/-! ## Tile operands (R383) -/

/-- Bytes of the store from an address on; none lie beyond its end. -/
def storeRead (s : State) (c a n : Nat) : List Byte := mbytes (clusterAt s c).store a n
def storeWrite (s : State) (c a : Nat) (b : List Byte) : State :=
  modStore s c fun m => mstore m a (b.take (0x800000 - a))

/-- The node that a tile copy or a start serves. -/
def opNode (op : Op) : Nat × Nat := ((lget op.par 0 0).toNat, (lget op.par 1 0).toNat)
/-- Whether a tile copy takes operands out of the cluster. -/
def tileOut (op : Op) : Bool := decide (lget op.par 2 0 = 1)

/-- The end of a node's tile copies on a cluster. -/
def endTiles (s : State) (o : Nat) (op : Op) : State :=
  let p := opNode op
  modNode { s with ops := tdel s.ops o } p.1 p.2 fun x => { x with
    openOn := if tileOut op then x.openOn.erase op.cluster else addOnce x.openOn op.cluster
    primed := if tileOut op then x.primed else addOnce x.primed op.cluster }

/-- R383: copies operands on, up to a line at a time; `fuel` bounds the lines. -/
def runTiles (o : Nat) : Nat → State → State
  | 0, s => s
  | fuel + 1, s =>
    match tfind s.ops o with
    | none => s
    | some op =>
      let tiles := (nodeAt s (opNode op).1 (opNode op).2).tiles
      if tiles.length ≤ op.entry then endTiles s o op
      else
        let t := lget tiles op.entry default
        let next := fun s => modOp s o fun x => { x with entry := x.entry + 1, done := 0 }
        if t.dir = 2 then
          runTiles o fuel (next (if tileOut op then s else storeWrite s op.cluster t.cluster (List.replicate t.bytes 0)))
        else if decide (t.dir = 1) != tileOut op || decide (t.bytes ≤ op.done) then runTiles o fuel (next s)
        else
          let a := t.addr + op.done
          let n := min (128 - a % 128) (t.bytes - op.done)
          let r := if tileOut op then vwrite s op.ctx op.die a (storeRead s op.cluster (t.cluster + op.done) n)
            else match vread s op.ctx op.die a n with
              | (s1, .ok b) => (storeWrite s1 op.cluster (t.cluster + op.done) b, none)
              | (s1, .error f) => (s1, some f)
          match r with
          | (s1, none) => runTiles o fuel (modOp s1 o fun x => { x with done := x.done + n })
          | (s1, some (kind, va)) =>
            postRecord (modOp s1 o fun x => { x with faulted := true }) op.ctx op.die
              (faultRecord kind (tileOut op) true true false 0 0 op.die 127 va 0 0 0) (.op o)

/-- How many lines the operands of a node have, and a little more. -/
def tileFuel (s : State) (g n : Nat) : Nat :=
  ((nodeAt s g n).tiles.map fun t => t.bytes / 16 + 4).sum + 4

/-- R383: begins the copies of a node's operands on a cluster, in or out; they go on by `continueTiles`. -/
def startTiles (s : State) (g n die cl : Nat) (out : Bool) : State :=
  let id := newId (if out then s else claimCluster s (clusterKey die cl) (graphAt s g).ctx)
  let op : Op := { unitOp .tileCopy die (4 * cl) (graphAt s g).ctx with
    placed := false, par := [BitVec.ofNat 32 g, BitVec.ofNat 32 n, if out then 1 else 0] }
  { id.2 with ops := tput id.2.ops id.1 op }

/-- R383: a tile copy goes on. -/
def continueTiles (s : State) (o : Nat) (op : Op) : State :=
  runTiles o (tileFuel s (opNode op).1 (opNode op).2) s

/-- R248, R383: system software resumes a tile copy at its fault: it goes on, or with `abort` the rest of the
operand is zero toward the cluster and dropped toward memory. -/
def resumeTiles (s : State) (o : Nat) (op : Op) (abort : Bool) : State :=
  let p := opNode op
  let t := lget (nodeAt s p.1 p.2).tiles op.entry default
  let s1 := if abort && !tileOut op then
      storeWrite s op.cluster (t.cluster + op.done) (List.replicate (t.bytes - op.done) 0) else s
  runTiles o (tileFuel s p.1 p.2) (modOp s1 o fun x => { x with
    faulted := false, done := if abort then t.bytes else x.done })

/-! ## The start of a collective (R420) -/

/-- R420: arms the owned lines from where the start stands; with the last of them it ends. An epoch that has no
line to complete on the device is complete (R422). -/
def runStart (s : State) (o : Nat) : State :=
  match tfind s.ops o with
  | none => s
  | some op =>
    match op.collective with
    | none => s
    | some (d, e) =>
      let b := collective s op.ctx d
      let l := ownedLines b
      match armLines s op.ctx op.die d e b (l.drop op.done) with
      | (s1, none) => startResult { s1 with ops := tdel s1.ops o } op.ctx d e op.die (cdSize b) 1 0 []
      | (s1, some (off, kind, va)) =>
        postRecord (modOp s1 o fun x => { x with faulted := true, done := l.idxOf off }) op.ctx op.die
          (faultRecord kind true false true false 0 0 op.die 127 va 0 0 0) (.op o)

/-- R420: begins the epoch that a node's launch carries. -/
def startCollective (s : State) (g n die d : Nat) : State :=
  let c := (graphAt s g).ctx
  let id := newId (raiseEpoch s c d)
  let e := collEpoch id.2 c d
  let op : Op := { unitOp .start die 0 c with
    collective := some (d, e), par := [BitVec.ofNat 32 g, BitVec.ofNat 32 n] }
  runStart (modNode { id.2 with ops := tput id.2.ops id.1 op } g n fun x => { x with collective := some (d, e) }) id.1

/-- R420: a start goes on after its fault; with `abort` the line at which it stopped stays unarmed. -/
def resumeStart (s : State) (o : Nat) (abort : Bool) : State :=
  runStart (modOp s o fun x => { x with faulted := false, done := if abort then x.done + 1 else x.done }) o

/-- What must happen before the first warp of a node starts on a cluster: `some` where something else than
the start takes this step, or the start must wait. -/
def beforeStart (s : State) (g n : Nat) (h : Header) (die cl : Nat) : Option (Option State) :=
  let x := nodeAt s g n
  let ops := nodeOps s g n
  if ops.any (fun p => p.2.kind == .start) then some none
  else
    match h.collective, x.collective with
    | some d, none =>
      some (if collDone s (graphAt s g).ctx d then some (startCollective s g n die d) else none)
    | _, _ =>
      let k := clusterKey die cl
      if x.tiles.isEmpty ∨ k ∈ x.openOn then none
      else if ops.any (fun p => p.2.cluster = k ∨ (p.2.die = die ∧ !tileOut p.2)) then some none
      else some (some (startTiles s g n die cl false))

/-- R383, R384: the cluster that a cohort of a node takes: the one for which its operands have been copied, while it
still meets its needs. -/
def chooseCluster (s : State) (g n die : Nat) (w : Wants) : Option Nat :=
  let ready := (nodeAt s g n).primed.filter fun k => decide (k / 72 = die)
  ((ready.map (· % 72)).find? fun cl => fieldOpen s die cl && clusterFits s die w cl).orElse fun _ => findCluster s die w

/-- R384: places a planned cohort on a die, if some cluster meets its needs now. -/
def placePlan (s : State) (g n : Nat) (h : Header) (die : Nat) (p : Plan) : Option State :=
  match chooseCluster s g n die (planWants s g n h p) with
  | none => none
  | some cl =>
    match beforeStart s g n h die cl with
    | some r => r
    | none => some (startCohort s g n h die cl p)

/-! ## Index nodes (R25, R26, R153, R384) -/

/-- R26: the template units that the workgroups of a cohort belong to, by F2. -/
def unitsFor (h : Header) (index f3 : Nat) : List (Nat × Nat) :=
  (List.range (2 ^ h.width 2)).map fun f2 => (f2, widOf h index f3 f2 / 2 ^ h.below h.tlevel)

/-- R26, R153: the cohort of an index and F3, its workgroups stamped from their frozen units; workgroups of
units that have ended are not started. `none` while a unit has not frozen or ended. -/
def cohortPlan (x : Node) (h : Header) (index f3 : Nat) : Option Plan :=
  if h.tlevel = 0 then some ⟨index, f3, (List.range (2 ^ h.width 2)).map fun f2 => (f2, none), none⟩
  else
    let us := unitsFor h index f3
    if us.any (fun p => match tfind x.units p.2 with
      | some (.frozen _) => false
      | some .ended => false
      | _ => true) then none
    else some ⟨index, f3, us.filterMap fun p => match tfind x.units p.2 with
      | some (.frozen i) => some (p.1, some i)
      | _ => none, none⟩

/-- R151: the template warp of the first unit of a cohort that has not started. -/
def templatePlan (x : Node) (h : Header) (index f3 : Nat) : Option Plan :=
  if h.tlevel = 0 then none
  else
    match (unitsFor h index f3).find? fun p => (tfind x.units p.2).isNone with
    | none => none
    | some (_, u) =>
      let wid := u * 2 ^ h.below h.tlevel
      let field := fun i => wid / 2 ^ h.below i % 2 ^ h.width i
      some ⟨wid / 2 ^ h.below 4, field 3, [(field 2, none)], some u⟩

/-- The next cohort of a chunk after an index and F3 (R384). -/
def stepCohort (h : Header) (index f3 : Nat) : Nat × Nat :=
  if f3 + 1 < 2 ^ h.width 3 then (index, f3 + 1) else (index + 1, 0)

/-- What a chunk's dispatch does next. -/
inductive Dispatch where
  /-- Nothing can be done before a template freezes, or nothing is left. -/
  | idle
  /-- Places this plan; the chunk then stands as given. -/
  | place (p : Plan) (after : Chunk)
  deriving Repr, Inhabited

/-- R384: the chunk's next work: a passed-over cohort whose templates have frozen, or the next cohort. -/
def nextDispatch (x : Node) (h : Header) (k : Chunk) : Dispatch :=
  match k.pending.find? fun q => (cohortPlan x h q.1 q.2).isSome with
  | some q =>
    match cohortPlan x h q.1 q.2 with
    | some p => .place p { k with pending := k.pending.erase q }
    | none => .idle
  | none =>
    if k.first + k.count ≤ k.nextIndex then .idle
    else
      let at' := (k.nextIndex, k.nextF3)
      let nx := stepCohort h at'.1 at'.2
      let on := { k with nextIndex := nx.1, nextF3 := nx.2 }
      match cohortPlan x h at'.1 at'.2, templatePlan x h at'.1 at'.2 with
      | some p, _ => .place p on
      | none, some t =>
        -- With its last unit started the cohort is passed over until its units freeze.
        let missing := ((unitsFor h at'.1 at'.2).map Prod.snd).dedup.filter fun u => (tfind x.units u).isNone
        .place t (if missing.length = 1 then { on with pending := k.pending ++ [at'] } else k)
      | none, none => .idle

/-- Puts a chunk as it stands after a dispatch into its node. -/
def setChunk (s : State) (g n : Nat) (k : Chunk) : State :=
  modNode s g n fun x => { x with chunks := x.chunks.map fun c => if c.seq = k.seq then k else c }

/-- R384: dispatches the next work of a chunk on its die. A cohort with no workgroup left to start counts as
dispatched. -/
def dispatchChunk (s : State) (g n : Nat) (h : Header) (k : Chunk) : Option State :=
  match nextDispatch (nodeAt s g n) h k with
  | .idle => none
  | .place p after =>
    if p.groups.isEmpty then some (setChunk s g n after)
    else
      match placePlan s g n h k.die p with
      | none => none
      | some s1 =>
        -- Only the start of the plan itself moves the chunk on.
        if s1.cohorts.length = s.cohorts.length then some s1 else some (setChunk s1 g n after)

/-- Every cohort of a chunk, in order. -/
def chunkCohorts (h : Header) (k : Chunk) : List (Nat × Nat) :=
  (List.range k.count).flatMap fun i => (List.range (2 ^ h.width 3)).map fun f => (k.first + i, f)

/-- R33, R426: the clusters that the cohorts of a launch take together, if there is one for each. -/
def assignAll (s : State) (g n : Nat) (h : Header) : List (Nat × Plan) → Option (List (Nat × Plan × Nat))
  | [] => some []
  | (die, p) :: r =>
    if p.groups.isEmpty then assignAll s g n h r
    else
      match chooseCluster s g n die (planWants s g n h p) with
      | none => none
      | some cl => (assignAll (startCohort s g n h die cl p) g n h r).map ((die, p, cl) :: ·)

/-- R33, R383, R420, R426: places every cohort of a launch at once, if there is room for all of them, or takes a step
toward it: its collective starts, and operands are copied in, cluster by cluster, before the cohorts start. The answer says whether they have started. -/
def placeAll (s : State) (g n : Nat) (h : Header) (l : List (Nat × Plan)) : Option (State × Bool) :=
  match assignAll s g n h l with
  | none => none
  | some places =>
    match places.filterMap fun q => beforeStart s g n h q.1 q.2.2 with
    | [] => some (places.foldl (fun s q => startCohort s g n h q.1 q.2.2 q.2.1) s, true)
    | waits => (waits.findSome? id).map fun s1 => (s1, false)

/-- Whether a launch starts all its cohorts together (R33, R426). -/
def together (s : State) (g : Nat) (h : Header) : Bool := h.cohort || (graphAt s g).persistent.isSome

/-- R33, R426: the cohorts of a launch that starts together, once all its indices have been handed out. -/
def launchCohorts (s : State) (g n : Nat) (h : Header) : List (Nat × Nat × Nat) :=
  let x := nodeAt s g n
  if x.counter < h.total ∨ !x.redo.isEmpty then []
  else x.chunks.flatMap fun k => if k.undispatched then (chunkCohorts h k).map fun q => (k.die, q) else []

/-- R33, R399: starts the templates and then, together, the cohorts of such a launch. -/
def dispatchLaunch (s : State) (g n : Nat) (h : Header) : Option State :=
  let x := nodeAt s g n
  let l := launchCohorts s g n h
  if l.any fun q => budgetHeld s g n q.1 then none
  else
  match l.findSome? fun q => (templatePlan x h q.2.1 q.2.2).map fun p => (q.1, p) with
  | some (die, p) => placePlan s g n h die p
  | none =>
    let plans := l.filterMap fun q => (cohortPlan x h q.2.1 q.2.2).map fun p => (q.1, p)
    if l.isEmpty ∨ plans.length < l.length then none
    else (placeAll s g n h plans).map fun r => if !r.2 then r.1 else modNode r.1 g n fun x => { x with
      chunks := x.chunks.map fun k => { k with nextIndex := k.first + k.count, pending := [] } }

/-- R425, R426: whether the cohorts of a persistent launch fit into its context's partition with nothing else there. -/
def partitionFits (s : State) (g n : Nat) (h : Header) (die : Nat) : Bool :=
  let part := match (dieAt s die).partition with
    | some (n, c) => if c = (graphAt s g).ctx then n else 0
    | none => 0
  let s0 := { s with
    warps := s.warps.filter fun p => !(decide (p.2.die = die ∧ 72 - part ≤ p.2.core / 4))
    cores := s.cores.filter fun p => !(decide (die * 288 + 4 * (72 - part) ≤ p.1 ∧ p.1 < die * 288 + 288))
    clusters := s.clusters.filter fun p => !(decide (die * 72 + (72 - part) ≤ p.1 ∧ p.1 < die * 72 + 72))
    ops := [], savedGroups := []
    graphs := s.graphs.map fun p => (p.1, { p.2 with
      nodes := p.2.nodes.map fun x => (x.1, { x.2 with openOn := [], primed := [] }) }) }
  let count := h.total * 2 ^ h.width 3
  decide (count ≤ part * 512) && (fill s0 part count).isSome
where
  /-- Places `count` equal cohorts in a hypothetical state, lowest cluster first, whatever the headroom. -/
  fill (s : State) (part : Nat) : Nat → Option State
    | 0 => some s
    | k + 1 =>
      let p : Plan := ⟨0, 0, (List.range (2 ^ h.width 2)).map fun f2 => (f2, none), none⟩
      let w := { planWants s g n h p with tiles := [] }
      let w1 := if h.tlevel = 0 then w else { w with needs := w.needs.map fun q => { q with granules := 0 } }
      match ((List.range part).map (72 - part + ·)).find? (clusterFits s die w1) with
      | none => none
      | some cl => fill (startCohort s g n h die cl p) part k

/-! ## Batches (R397) -/

/-- R397: starts a batch as one warp. -/
def startBatch (s : State) (g n : Nat) (h : Header) (cl : Nat) (b : Batch) : State :=
  let y := graphAt s g
  let x := nodeAt s g n
  let core := 4 * cl
  let c := newId (claimCluster s (clusterKey b.die cl) y.ctx)
  let gr := newId (claimCore c.2 (coreKey b.die core) y.ctx h.carve)
  let co : Cohort := { (default : Cohort) with
    die := b.die, cluster := cl, ctx := y.ctx, graph := g, node := n, nwg := 1, batch := true }
  let s1 := { gr.2 with
    cohorts := tput gr.2.cohorts c.1 co
    groups := tput gr.2.groups gr.1 { (default : Group) with
      cohort := c.1, die := b.die, core := core, names := [0] } }
  let wid := (2 * lget x.batchCount b.die 0 + b.die) % 2 ^ (h.width 4 + h.width 5) * 32
  let k := s1.fresh
  let s2 := startWarp s1 b.die core 3 ⟨identOf s g n h gr.1 wid 0 true, BitVec.ofNat 57 h.entry, none, false⟩
  let nrec := b.records.length
  let s3 := modWarp s2 k fun w =>
    let w1 := (List.range (min 8 nrec)).foldl (fun w i => (List.range 4).foldl (fun w j =>
      (List.range 4).foldl (fun w r => setPhys w r (4 * i + j) (lget (lget b.records i []) r 0)) w) w) w
    (List.range 8).foldl (fun w i => if i < nrec then w
      else modSliceW w i fun x => { x with ended := true, active := 0 }) w1
  let s4 := markStarted s3 g n b.die cl
  modGraph (modNode s4 g n fun x => { x with
    batches := x.batches.erase b, batchCount := lmod x.batchCount b.die (· + 1) }) g fun y => { y with
      poolUsed := lmod y.poolUsed b.die (· - nrec) }

/-- R384, R397: places a batch, if some cluster meets its needs. -/
def placeBatch (s : State) (g n : Nat) (h : Header) (b : Batch) : Option State :=
  let p : Plan := ⟨0, 0, [(0, none)], none⟩
  match chooseCluster s g n b.die (planWants s g n h p) with
  | none => none
  | some cl =>
    match beforeStart s g n h b.die cl with
    | some r => r
    | none => some (startBatch s g n h cl b)

end Sys2Proof.Machine
end

