-- ==== Sys2Proof/Machine/Preempt.lean ====
section
/-!
DEFINITION. Pre-emption and return (R169, R270, R299, R300, R335, R371, R387 to R391), the order of
dispatch (R386), and the events of the task-graph machine that place, pre-empt, save and complete.
-/

namespace Sys2Proof.Machine

/-! ## Before a warp can be saved (R169) -/

/-- The kinds of operation that a gang waits for at its instruction until they leave the core. -/
def OpKind.waitsAtPc (k : OpKind) : Bool :=
  k == .atomic || k == .routine || k == .cacheop || k == .cacheopRange || k == .waitm || k == .waitmCluster

/-- R61, R169, step 3: whether an operation of a warp keeps it from being saved. One that waits at a fault does so
while lanes of it that did not fault are still to come back. -/
def blocksSave (s : State) (o : Nat) (op : Op) : Bool :=
  !(op.kind == .copy || op.kind == .planes || op.kind == .image || op.kind == .prefetch ||
    (op.faulted && !outstanding s o) || op.kind == .waitm || op.kind == .waitmCluster || (op.kind.waitsAtPc && !op.placed))

/-- R169: every access of a warp has returned, been acknowledged, or faulted into its operand log. -/
def warpQuiet (s : State) (k : Nat) : Bool := !((opsOf s k).any fun p => blocksSave s p.1 p.2)

/-- Operations that the saved warp's instruction makes again: those that had not left the core. -/
def droppedAtSave (op : Op) : Bool :=
  op.kind == .prefetch || (op.kind.waitsAtPc && !op.placed)

/-- Nothing is left of an operation, nor of its count where the instruction is to be issued again. -/
def abandonOp (s : State) (o : Nat) : State :=
  let s0 := match (tfind s.ops o).bind Op.warp with
    | some k => updateWarp s k (uncount o)
    | none => s
  abandonReqs (forgetBehind (endOp (unsample s0 o) o) (.op o)) o

/-- R270: the monitors and the operation of a WAITM that is issued afresh. -/
def dropWaitm (s : State) (o : Nat) : State :=
  abandonOp { s with monitors := s.monitors.filter fun m => !(decide (m.op = o) && m.remote.isNone) } o

/-- R388: whether a saved slice keeps its warp from returning: it sleeps, or waits in WAITM. -/
def sliceSleeps (s : State) (x : Slice) : Bool :=
  x.ended || (match x.wait with
    | .sleep _ => true
    | .held o => match tfind s.ops o with
      | some op => (op.kind == .waitm || op.kind == .waitmCluster) && op.placed
      | none => false
    | _ => false)

/-- R388. -/
def mayReturn (s : State) (w : Warp) : Bool := w.slices.any fun x => !sliceSleeps s x

/-! ## Saving a workgroup (R248, R299, R300, R335, R371, R390) -/

/-- The workgroups, other than `g`, of the same node with a warp resident on a cluster. -/
def nodeStays (s : State) (g cl : Nat) (id : Ident) : Bool :=
  s.warps.any fun p => decide (p.2.ident.graph = id.graph ∧ p.2.ident.node = id.node ∧ p.2.ident.group ≠ g ∧
    p.2.clusterOf = cl)

/-- R390: the barrier objects that a saved workgroup's records name. -/
def namedObjects (s : State) (cl : Nat) (sv : SavedGroup) : List (Nat × List Byte) :=
  sv.objectAddrs.map fun a => (a, storeRead s cl a 16)

/-- R300, R335, R371: whether a workgroup's engine commands, and with the context's last warps on its core the
access processors, let its last resident warp be saved. -/
def groupQuiet (s : State) (k : Nat) (w : Warp) : Bool :=
  let g := w.ident.group
  let last := !(s.warps.any fun p => decide (p.2.ident.group = g ∧ p.1 ≠ k))
  let lastOnCore := !((warpsOn s w.die w.core).any fun p => p.1 ≠ k)
  let x := clusterAt s w.clusterOf
  let sending := fun c : HashCommand => c.opcode = 0xEA && (c.op.isSome || c.served || decide (0 < c.unacked))
  let hash := x.hashQueue.any fun c => decide (c.group = g) && (decide (c.opcode = 0xE8) || sending c)
  let mx := x.mx.any fun e => decide (e.2.group = g) && e.2.granted &&
    !((e.2.op.bind (tfind s.ops)).any fun op => op.faulted && !outstanding s (e.2.op.getD 0))
  let ap := (unitsOf (coreAt s w.coreOf)).any (fun u => u.ctxs.any fun y => y.fetching.isSome) ||
    s.ops.any fun p => (p.2.kind == .gather || p.2.kind == .scatter || p.2.kind == .bag) && (!p.2.faulted || outstanding s p.1) &&
      decide (p.2.die = w.die ∧ p.2.core = w.core)
  !(last && (hash || mx)) && !(last && lastOnCore && ap)

/-- What waits behind the records of a context's parked access-processor contexts, renamed. -/
def renamePark (s : State) (ctx : Nat) (f : Resumable → Resumable) : State :=
  modCtx s ctx fun x => { x with
    behind := x.behind.map fun b => (b.1, f b.2)
    waiting := x.waiting.map fun w => { w with behind := f w.behind } }

/-- R371: takes a core's access-processor work off it, with the last warps of workgroup `g`. -/
def takeCore (s : State) (c g : Nat) : State × List ApUnit × List Queue × List (Nat × Op) :=
  let x := coreAt s c
  -- A context that is not parked has its record written, where that can be.
  let s1 := (List.range 16).foldl (fun s i =>
    let y := apCtx s c (i / 8) (i % 8)
    if y.st = .idle ∨ y.st = .parked then s
    else (vwrite s x.ctx (c / 288) (apSpill s c (i / 8) (i % 8)) (apSaveRecord s c (i / 8) (i % 8) y.st)).1) s
  let ops := s1.ops.filter fun p => (p.2.kind == .gather || p.2.kind == .scatter || p.2.kind == .bag) &&
    decide (coreKey p.2.die p.2.core = c)
  let parked := fun r : Resumable => match r with
    | .park k u y => if k = c then .savedPark g u y else r
    | r => r
  let s2 := renamePark (ops.foldl (fun s p => forgetBehind { s with ops := tdel s.ops p.1 } (.op p.1)) s1) x.ctx parked
  (modCore s2 c fun y => { y with
      queues := List.replicate 4 default
      units := (unitsOf y).map fun u => { u with ctxs := List.replicate 8 default } },
    (unitsOf x).map fun u => { u with ctxs := u.ctxs.map fun y => { y with pend := none } }, (queuesOf x).map fun q => { q with holding := [] }, ops)

/-- R300, R335: takes a workgroup's commands off its cluster's engines. -/
def takeCommands (s : State) (c g : Nat) : State × List HashCommand × List MxEntry :=
  let x := clusterAt s c
  let cmds := x.hashQueue.filter fun h => decide (h.group = g)
  let ops := cmds.filterMap HashCommand.op
  let headGone := match x.hashQueue with
    | h :: _ => decide (h.group = g)
    | [] => false
  let s1 := ops.foldl abandonOp (if headGone then forgetBehind s (.hash c) else s)
  let mine := x.mx.filter fun e => decide (e.2.group = g)
  let m := mine.foldl (fun (acc : State × List MxEntry) e =>
    let r := mxSuspend (forgetBehind acc.1 (.op (e.2.op.getD 0))) e.2
    (r.1, acc.2 ++ [r.2])) (s1, [])
  (modCluster m.1 c fun y => { y with
      hashQueue := y.hashQueue.filter fun h => decide (h.group ≠ g)
      hashHeld := y.hashHeld && !headGone
      mx := y.mx.filter fun e => decide (e.2.group ≠ g)
      drain := if mine.any (fun e => y.drain = some e.1) then none else y.drain },
    cmds.map HashCommand.anew, m.2 |> sortBy fun a b => decide (a.seq ≤ b.seq))

/-- R390: the operand regions of a node, as they stand on a cluster. -/
def regionBytes (s : State) (cl g n : Nat) : List (Nat × List Byte) :=
  (nodeAt s g n).tiles.map fun t => (t.cluster, storeRead s cl t.cluster t.bytes)

/-- R390: no workgroup of the node is left on the cluster: what its cohort keeps goes with it, into the records that
are written already. -/
def carryRegions (s : State) (co cl : Nat) (id : Ident) : State :=
  let mine := s.savedGroups.filter fun p => decide ((groupAt s p.1).cohort = co)
  let carried := fun v : SavedGroup => { v with
    pinned := false, objects := namedObjects s cl v, regions := regionBytes s cl id.graph id.node }
  let s1 := mine.foldl (fun s p =>
    if p.2.addrs.isEmpty then { s with savedGroups := tmod s.savedGroups p.1 carried }
    else rewriteGroupRecords s p.1 id.ctx carried) s
  if s1.savedGroups.any (fun p => p.2.pinned && decide (clusterKey p.2.die p.2.cluster = cl) &&
      (groupWarps s p.1).any fun k => (anyWarp s k).any fun w => decide (w.ident.graph = id.graph ∧ w.ident.node = id.node))
  then s1
  else modNode s1 id.graph id.node fun x => { x with openOn := x.openOn.erase cl }

/-- R391: the record of a cohort of several workgroups that has been saved whole. -/
def writeCohortRecord (s : State) (co g : Nat) (id : Ident) : State :=
  let x := tget s.cohorts co default
  let gs := (s.groups.filter fun p => p.2.cohort = co).map Prod.fst
  if x.nwg < 2 ∨ gs.any (fun k => (tfind s.savedGroups k).isNone) then s
  else
    let addr := fun k => (((tfind s.savedGroups k).map SavedGroup.addrs).getD []).headD 0
    let tmpl := ((x.nested.bind (tfind s.images)).map Image.addr).getD 0
    let r := writeRecord s id.ctx x.die (padTo 1024 (padTo 32 (gs.flatMap fun k => leBytes 8 (addr k)) ++
      barrierArea x.bars ++ leBytes 8 tmpl))
    { r.2 with savedGroups := tmod r.2.savedGroups g fun v => { v with addrs := v.addrs ++ [r.1] } }

/-- R391: a workgroup's last resident warp `w` has been saved. -/
def saveGroup (s : State) (w : Warp) : State :=
  let g := w.ident.group
  let cl := w.clusterOf
  let copies := s.ops.filter fun p => (p.2.kind == .copy || p.2.kind == .planes) && decide (p.2.group = g)
  let s1 := copies.foldl (fun s p => forgetBehind (abandonReqs { s with ops := tdel s.ops p.1 } p.1) (.op p.1)) s
  let slots := slotsFor s1 cl w.ident.ctx
  let cmds := takeCommands s1 cl g
  let leaves := (warpsOn s w.die w.core).isEmpty
  let core := if leaves then takeCore cmds.1 w.coreOf g else (cmds.1, [], [], [])
  let id := newId core.1
  let sv : SavedGroup := {
    addrs := [], cluster := w.core / 4, die := w.die, pinned := true, copies := copies, hash := cmds.2.1
    mx := cmds.2.2, objects := [], regions := [], slots := slots, hasCore := leaves
    units := core.2.1, queues := core.2.2.1, ops := core.2.2.2, seq := id.1 }
  let s2 := { id.2 with savedGroups := tput id.2.savedGroups g sv }
  let co := (groupAt s2 g).cohort
  let s3 := if nodeStays s2 g cl w.ident then s2 else carryRegions s2 co cl w.ident
  writeCohortRecord (writeGroupRecords s3 g w.ident.ctx) co g w.ident

/-- R169, R387: whether the save pool has room for a warp's area, once its nested templates have been written there. -/
def areaFits (s : State) (w : Warp) : Bool :=
  (poolTake (saveChain s w.ident.ctx w.die 4 w.image) w.ident.ctx (144 * 1024) 1024).isSome

/-- R169: whether some slice of a warp holds a valid latch entry, also as the warp would stand once its work past an
incomplete fence is discarded. -/
def holdsLatch (w : Warp) : Bool := w.slices.any latched || w.spec.any fun sp => sp.before.any latched

/-- R169, R270: a warp that the machine has chosen is saved once everything of it has come back. Without room for its
area it is not saved, and goes on. -/
def execWarpSave (s : State) : Out :=
  let k := subject s 0
  match tfind s.warps k with
  | none => .next s
  | some w =>
    if !w.stopping || holdsLatch w then .next s
    else if w.spec.isSome then
      -- Work past the fence is discarded (R58): the warp stands at its FENCE again, as it is saved.
      .next (backToFence s k)
    else if !warpQuiet s k || !groupQuiet s k w then .next s
    else if !areaFits s w then .next (modWarp s k fun w => { w with stopping := false })
    else
      let s1 := ((opsOf s k).filter fun p => droppedAtSave p.2).foldl (fun s p => abandonOp s p.1) s
      let w1 := warpAt s1 k
      let s2 := (removeWarp s1 k (mayReturn s1 w1) false).1
      .next (if s2.warps.any (fun p => decide (p.2.ident.group = w.ident.group)) then s2 else saveGroup s2 w1)

/-! ## The return of a saved warp (R388) -/

/-- R371: what waits behind the records of the parked contexts of a saved workgroup's core waits for them where they are
now. -/
def movePark (s : State) (ctx g new : Nat) : State :=
  renamePark s ctx fun r => match r with
    | .savedPark k u x => if k = g then .park new u x else r
    | r => r

/-- R8, R365: the queues of a core with their open groups by another field's clock, which shows `new` while that of the
field they left shows `old`. -/
def rebaseQueues (old new : Nat) (l : List Queue) : List Queue :=
  l.map fun q => { q with openGroup := q.openGroup.map fun g => { g with closes := new + (g.closes - old) } }

/-- R299: the hash slots of a saved workgroup are put back, with their tags invalid; those that are still in place on the
cluster that it left stay as they are. -/
def restoreSlots (s : State) (k : Nat) (sv : SavedGroup) : State :=
  (List.range 4).foldl (fun s i =>
    let v := lget sv.slots i default
    let stays := decide (clusterKey sv.die sv.cluster = k) && (slotAt s k i).valid
    if !v.valid then s else modSlot s k i fun x => { (if stays then x else v) with tag := none }) s

/-- R388: puts a workgroup's regions, objects, slots, copies, commands and access-processor state back. -/
def restoreGroup (s : State) (g die cl : Nat) : State :=
  match tfind s.savedGroups g with
  | none => s
  | some sv =>
    let x := groupAt s g
    let co := tget s.cohorts x.cohort default
    let k := clusterKey die cl
    let core := 4 * cl + x.core % 4
    let carve := match (nodeAt s co.graph co.node).hdr with
      | some h => h.carve
      | none => 0
    let s1 := claimCore (claimCluster s k co.ctx) (coreKey die core) co.ctx carve
    let s2 := (sv.regions ++ sv.objects).foldl (fun s r => storeWrite s k r.1 r.2) s1
    let s3 := if sv.regions.isEmpty then s2
      else modNode s2 co.graph co.node fun n => { n with openOn := addOnce n.openOn k }
    let s4 := restoreSlots s3 k sv
    let s5 := sv.copies.foldl (fun s p =>
      let op := { p.2 with core := core, die := die, cluster := k, entry := (freeCopy s die core).getD p.2.entry }
      reissueCopy { s with ops := tput s.ops p.1 op } p.1) s4
    let s5' := modCluster s5 k fun y => { y with
      hashQueue := y.hashQueue ++ sv.hash.map fun c => { c with die := die, core := core } }
    let s6 := (sv.hash.filter fun c => c.opcode = 0xE9).foldl (fun s _ => acceptLook s k) s5'
    -- A cluster is chosen only where every command finds its entry (`enginesFit`).
    let s7 := sv.mx.foldl (fun s e =>
      match freeEntry s k core with
      | none => s
      | some i => modCluster s k fun y => { y with
          mx := tput y.mx i { e with die := die, core := core, accepted := engineClock s k } }) s6
    let s8 := if !sv.hasCore then s7
      else { modCore (movePark s7 co.ctx g (coreKey die core)) (coreKey die core) (fun y => { y with
          units := sv.units
          queues := rebaseQueues (clockOf s7 sv.die (4 * sv.cluster + x.core % 4)) (clockOf s7 die core) sv.queues }) with
        ops := sv.ops.foldl (fun t p => tput t p.1 { p.2 with core := core, die := die, faulted := false }) s7.ops }
    let s9 := (sv.addrs.filter (· ≠ 0)).foldl (fun s a => poolFree s co.ctx a) s8
    modGroup { s9 with savedGroups := tdel s9.savedGroups g } g fun y => { y with die := die, core := core }

/-- R169, R270: a saved warp returns to a core: an acquire at system scope. What is left of a sleep runs by the clock of
its new field (R8). -/
def restoreWarp (s : State) (k die core : Nat) : State :=
  match tfind s.saved k with
  | none => s
  | some sv =>
    let held := ((opsOf s k).filter fun p => p.2.kind == .waitm || p.2.kind == .waitmCluster).map Prod.fst
    let s0 := held.foldl (fun s o => dropWaitm s o) s
    let sv := (tfind s0.saved k).getD sv
    let r := readSave s0 sv
    let left := clockOf s sv.rest.die sv.rest.core
    let again := fun x : Slice => match x.wait with
      | .sleep due => { x with wait := .sleep (clockOf s die core + (due - left)) }
      | .held _ => { x with wait := .ready }
      | .fetch => { x with wait := .ready }
      | _ => x
    let id := newId r.1
    let s1 := id.2
    let w := { r.2 with
      die := die, core := core, slot := freeSlot s1 die core, port := freePort s1 die core, stopping := false
      placed := id.1, slices := r.2.slices.map again }
    let s2 := { s1 with saved := tdel s1.saved k, warps := tput s1.warps k w }
    let s3 := match w.image with
      | some i => fetchChain s2 w.coreOf i
      | none => s2
    -- What waits at a fault goes on from the new core, and later accesses follow it there (R45).
    let s3 := { s3 with ops := s3.ops.map fun p =>
      (p.1, if p.2.warp = some k && !p.2.kind.engine then { p.2 with die := die, core := core, cluster := w.clusterOf } else p.2) }
    let s4 := (List.range 8).foldl (fun s i => forgetBehind s (.fetch k (BitVec.ofNat 8 (2 ^ i)))) s3
    let s5 := acquire (poolFree s4 w.ident.ctx sv.addr) die core 5
    let s6 := modCore s5 w.coreOf fun c => { c with starved := false }
    modGraph s6 w.ident.graph fun g => { g with windowUsed := lmod g.windowUsed die fun _ => true }

/-- The saved warps of a workgroup that may return with it: all but those that only system software returns. -/
def savedOf (s : State) (g : Nat) : List (Nat × Saved) :=
  s.saved.filter fun p => p.2.rest.ident.group = g && !p.2.stopped

/-- What the return of some saved warps of a workgroup needs of its core. -/
def returnNeed (s : State) (g : Nat) (l : List (Nat × Saved)) : Need :=
  { f2 := (groupAt s g).core % 4, warps := l.length
    granules := (l.map fun p => (privGranules p.2.rest).length).sum
    images := (l.filterMap fun p => p.2.rest.image).dedup
    tiles := ((tfind s.savedGroups g).map fun v => v.mx.length).getD 0
    copies := ((tfind s.savedGroups g).map fun v => v.copies.length).getD 0 }

/-- R384, R388: what the return of a whole cohort needs. -/
def returnWants (s : State) (co : Nat) (gs : List Nat) : Wants :=
  let x := tget s.cohorts co default
  let saved := gs.filterMap (tfind s.savedGroups)
  { graph := x.graph, node := x.node, ctx := x.ctx
    carve := ((nodeAt s x.graph x.node).hdr.map Header.carve).getD 0
    tiles := (nodeAt s x.graph x.node).tiles
    needs := gs.map fun g => returnNeed s g (savedOf s g)
    pinned := (saved.find? SavedGroup.pinned).map SavedGroup.cluster
    fresh := saved.any SavedGroup.hasCore, persistent := false, hash := (saved.map fun v => v.hash.length).sum }

/-- R388: returns a whole cohort to a cluster: what the records hold first, then the warps. The workgroup saved last
comes last: its hash slots are the newest (R299). -/
def restoreCohort (s : State) (co die cl : Nat) (gs : List Nat) : State :=
  let order := sortBy (fun a b => decide ((tget s.savedGroups a default).seq ≤ (tget s.savedGroups b default).seq)) gs
  let s1 := order.foldl (fun s g => restoreGroup s g die cl) s
  let s2 := modCohort s1 co fun x => { x with cluster := cl }
  gs.foldl (fun s g => (savedOf s g).foldl (fun s p => restoreWarp s p.1 die (groupAt s g).core) s) s2

/-! ## The dispatch order (R386) -/

/-- Work of the ready pool. -/
inductive Work where
  | returns (cohort : Nat) (groups : List Nat)
  | warp (k : Nat)
  | batch (g n : Nat) (b : Batch)
  | chunk (g n : Nat) (k : Chunk)
  | launch (g n : Nat)
  deriving Repr, Inhabited

structure Item where
  work : Work
  prio : Nat
  kind : Nat
  background : Bool
  seq : Nat
  deriving Repr, Inhabited

/-- R386: whether one item goes before another. -/
def Item.before (a b : Item) : Bool :=
  decide (b.prio < a.prio) || (decide (a.prio = b.prio) && (decide (a.kind < b.kind) ||
    (decide (a.kind = b.kind) && ((!a.background && b.background) ||
      (a.background == b.background && decide (a.seq ≤ b.seq))))))

/-- R388: restorable work of a die. -/
def returnItems (s : State) (die : Nat) : List Item :=
  (s.cohorts.filter fun p => decide (p.2.die = die)).flatMap fun p =>
    let gs := (s.groups.filter fun g => g.2.cohort = p.1).map Prod.fst
    let l := gs.flatMap (savedOf s)
    let here := s.warps.any fun w => decide (w.2.ident.group ∈ gs)
    let item := fun w (v : List (Nat × Saved)) => (⟨w, (v.map fun q => q.2.rest.ident.prio).foldl max 0, 0,
      (graphAt s p.2.graph).background, ((v.filter fun q => q.2.restorable).map fun q => q.2.seq).foldl min s.fresh⟩ : Item)
    if here then
      if 1 < p.2.nwg then []
      else (l.filter fun q => q.2.restorable).map fun q => item (.warp q.1) [q]
    else if l.any (fun q => q.2.restorable) then [item (.returns p.1 gs) l]
    else []

/-- R396, R399: consumer batches of a die. -/
def batchItems (s : State) (die : Nat) : List Item :=
  s.graphs.flatMap fun p => p.2.nodes.flatMap fun x =>
    let top := (p.2.emitters.map fun e => (nodeAt s p.1 (((anyWarp s e.warp).map fun w => w.ident.node).getD 0)).prio).foldl max x.2.prio
    if x.2.st ≠ .ready ∨ budgetHeld s p.1 x.1 die ∨ !aliveFor s p.2 die then []
    else (x.2.batches.filter fun b => b.die = die).map fun b => ⟨.batch p.1 x.1 b, top, 1, p.2.background, b.seq⟩

/-- R386: chunks of index nodes that a die holds, and launches that start together. -/
def chunkItems (s : State) (die : Nat) : List Item :=
  s.graphs.flatMap fun p => p.2.nodes.flatMap fun x =>
    match x.2.hdr with
    | none => []
    | some h =>
      if x.2.st ≠ .ready ∨ x.2.kind = 1 ∨ budgetHeld s p.1 x.1 die ∨ !aliveFor s p.2 die then []
      else if together s p.1 h then
        if (launchCohorts s p.1 x.1 h).any (fun q => q.1 = die) then
          [⟨.launch p.1 x.1, x.2.prio, 2, p.2.background, x.2.readySeq⟩]
        else []
      else (x.2.chunks.filter fun k => decide (k.die = die) && k.undispatched).map fun k =>
        ⟨.chunk p.1 x.1 k, x.2.prio, 2, p.2.background, k.seq⟩

/-- R386: the ready pool of a die, in dispatch order. -/
def readyPool (s : State) (die : Nat) : List Item :=
  sortBy Item.before (returnItems s die ++ batchItems s die ++ chunkItems s die)

/-- Places an item on a die, or takes a step toward it; `none` where it must wait. -/
def placeItem (s : State) (die : Nat) (i : Item) : Option State :=
  match i.work with
  | .returns co gs =>
    (findCluster s die (returnWants s co gs)).map fun cl => restoreCohort s co die cl gs
  | .warp k =>
    match tfind s.saved k with
    | none => none
    | some sv =>
      let g := groupAt s sv.rest.ident.group
      let w := { returnWants s g.cohort [] with fresh := false }
      if fieldOpen s die (g.core / 4) && coreFits s die g.core w (returnNeed s sv.rest.ident.group [(k, sv)]) then
        some (restoreWarp s k die g.core)
      else none
  | .batch g n b => (nodeAt s g n).hdr.bind fun h => placeBatch s g n h b
  | .chunk g n k => (nodeAt s g n).hdr.bind fun h => dispatchChunk s g n h k
  | .launch g n => (nodeAt s g n).hdr.bind fun h => dispatchLaunch s g n h

/-- R401, R443, R449: whether a die's escapement works. -/
def dispatches (s : State) (die : Nat) : Bool := tgmRuns s die && !(dieAt s die).stopped

/-- R384, R386: the first work of the ready pool that can be placed is placed. Where its placement meets lines that
cannot be reached yet, work behind it may be placed first: a free choice. -/
def execEscapementPlacement (s : State) : Out :=
  let die := subject s 0
  if !dispatches s die then .next s
  else
    let d := draw s
    match (readyPool d.2 die).filterMap (placeItem d.2 die) with
    | [] => .next s
    | s1 :: r => .next (if s1.stuck.isEmpty || decide (d.1 % 2 = 0) then s1 else (r.find? (·.stuck.isEmpty)).getD s1)

/-! ## Pre-emption (R387) -/

/-- R387: the warps that go together when one is chosen (R32). -/
def victimSet (s : State) (k : Nat) : List Nat :=
  let w := warpAt s k
  let co := cohortOf s w
  if 1 < (tget s.cohorts co default).nwg then
    (s.warps.filter fun p => cohortOf s p.2 = co).map Prod.fst
  else [k]

/-- R387: whether the save pool of a context has room for the areas of `n` warps. -/
def poolHolds (c : Nat) : Nat → State → Bool
  | 0, _ => true
  | n + 1, s => match poolTake s c (144 * 1024) 1024 with
    | none => false
    | some (_, s1) => poolHolds c n s1

/-- R387: whether a warp is held in EMIT while a batch of the queue that it feeds waits for room. -/
def emitVictim (s : State) (k : Nat) : Bool :=
  s.graphs.any fun p => p.2.emitters.any fun e => decide (e.warp = k) &&
    (nodeAt s p.1 e.node).batches.any fun b => decide (b.die = e.die)

/-- R387: whether a warp may be chosen for a piece of work of a priority. -/
def victimOk (s : State) (die prio k : Nat) : Bool :=
  let l := victimSet s k
  let w := warpAt s k
  poolHolds w.ident.ctx l.length s && l.all fun j =>
    let v := warpAt s j
    decide (v.die = die) && (decide (v.ident.prio < prio) || emitVictim s j) && !ofPartition s v && !v.ended

/-- R387: the victims on a die for work of a priority, the first to go first. -/
def victims (s : State) (die prio : Nat) : List Nat :=
  (sortBy (fun a b => decide (a.2.ident.prio < b.2.ident.prio) ||
      (decide (a.2.ident.prio = b.2.ident.prio) && decide (b.2.placed ≤ a.2.placed)))
    (s.warps.filter fun p => decide (p.2.die = die) && victimOk s die prio p.1)).map Prod.fst

/-- R387: makes the machine stop a warp and what goes with it. -/
def stopWarps (s : State) (l : List Nat) : State :=
  l.foldl (fun s k => modWarp s k fun w => { w with stopping := true }) s

/-- The machine as it would be with some warps saved: what leaves a cluster or a core with them is gone too. -/
def vacated (s : State) (gone : List Nat) : State :=
  let warps := s.warps.filter fun p => p.1 ∉ gone
  let leaves := fun g => (s.warps.any fun p => decide (p.2.ident.group = g)) && !(warps.any fun p => decide (p.2.ident.group = g))
  let bare := fun c => (s.warps.any fun p => decide (p.2.coreOf = c)) && !(warps.any fun p => decide (p.2.coreOf = c))
  let read := fun c => (warps.filter fun p => p.2.coreOf = c).filterMap (fun p => p.2.image) ++ nestedOn { s with warps := warps } c
  let empty := fun k => (s.warps.any fun p => decide (p.2.clusterOf = k)) && !(warps.any fun p => decide (p.2.clusterOf = k))
  { s with
    warps := warps
    ops := s.ops.filter fun p => !(p.2.kind.engine && (leaves p.2.group || empty p.2.cluster))
    clusters := s.clusters.map fun p => (p.1, { p.2 with
      hashQueue := p.2.hashQueue.filter fun c => !leaves c.group, mx := p.2.mx.filter fun e => !leaves e.2.group })
    cores := s.cores.map fun p =>
      let c := { p.2 with images := p.2.images.filter fun i => (read p.1).any fun r => chainHas s 4 (some r) i }
      (p.1, if bare p.1 then { c with
        queues := List.replicate 4 default
        units := c.units.map fun u => { u with ctxs := List.replicate 8 default } } else c)
    graphs := s.graphs.map fun p => (p.1, { p.2 with nodes := p.2.nodes.map fun x => (x.1, { x.2 with
      openOn := x.2.openOn.filter fun k => !(s.warps.any fun v => decide (v.2.ident.graph = p.1 ∧ v.2.ident.node = x.1 ∧
        v.2.clusterOf = k ∧ v.1 ∈ gone)) || (warps.any fun v => decide (v.2.ident.graph = p.1 ∧ v.2.ident.node = x.1 ∧
        v.2.clusterOf = k)) || s.savedGroups.any fun v => v.2.pinned && decide (clusterKey v.2.die v.2.cluster = k) }) }) }

/-- R387: the head of the ready pool cannot be placed: the first victim is chosen, if the head could be placed
once the victims were gone. -/
def execPreemption (s : State) : Out :=
  let die := subject s 0
  match readyPool s die with
  | [] => .next s
  | i :: _ =>
    if !dispatches s die || (s.warps.any fun p => p.2.stopping && decide (p.2.die = die)) || (placeItem s die i).isSome then
      .next s
    else
      match victims s die i.prio with
      | [] => .next s
      | k :: r =>
        let gone := (k :: r).flatMap (victimSet s)
        if (placeItem (vacated s gone) die i).isSome then
          .next (stopWarps s (victimSet s k))
        else .next s

/-! ## Chunk requests (R400) -/

/-- R400: what a die would place first of a node's next chunk, if it had it. -/
def nextPlan (s : State) (g n : Nat) (h : Header) : Option Plan :=
  let x := nodeAt s g n
  (nextChunk x).bind fun c => (templatePlan x h c.1 0).or (some ⟨c.1, 0, (List.range (2 ^ h.width 2)).map fun f2 =>
    (f2, match (unitsFor h c.1 0).find? fun p => p.1 = f2 with
      | some p => match tfind x.units p.2 with
        | some (.frozen i) => if h.tlevel = 0 then none else some i
        | _ => none
      | none => none), none⟩)

/-- R387, R400: whether a die could place a cohort of a node's next chunk, as it stands or by pre-emption (DEDUCED,
notes/assumptions/75.md). -/
def couldPlace (s : State) (die g n : Nat) (h : Header) : Bool :=
  match nextPlan s g n h with
  | none => false
  | some p =>
    let w := planWants s g n h p
    let gone := (victims s die (nodeAt s g n).prio).flatMap (victimSet s)
    (findCluster s die w).isSome || (!gone.isEmpty && (findCluster (vacated s gone) die w).isSome)

/-- R400: the chunks of a node that a die holds and has not acknowledged. -/
def heldChunks (s : State) (g n die : Nat) : List Chunk :=
  (nodeAt s g n).chunks.filter fun k => decide (k.die = die) && !chunkAcked s g n k

/-- R426: whether a die may work for a graph's launch. -/
def mayRun (s : State) (y : Graph) (die : Nat) : Bool :=
  dispatches s die && aliveFor s y die && (y.persistent.isNone || decide (y.persistent = some die))

/-- R33, R400: a launch whose cohorts start together has been handed out to every die that may run it, and not whole: it
could not start if no die asked for more (DEDUCED, notes/assumptions/75.md). -/
def needsMore (s : State) (g n : Nat) (h : Header) : Bool :=
  together s g h && ((List.range s.dies).filter (mayRun s (graphAt s g))).all fun d =>
    (heldChunks s g n d).any Chunk.undispatched

/-- R400: a die asks for a chunk of a node. -/
def execChunkRequest (s : State) : Out :=
  let die := subject s 0
  let g := subject s 1
  let n := subject s 2
  let y := graphAt s g
  let x := nodeAt s g n
  match x.hdr with
  | none => .next s
  | some h =>
    let mine := heldChunks s g n die
    let asked := decide (die ∈ x.requests) || x.mirroring.any fun m => decide (m.1 = die)
    let item : Item := ⟨.launch g n, x.prio, 2, y.background, x.readySeq⟩
    let next := ((readyPool s die).takeWhile fun i => i.before item).all fun i => (placeItem s die i).isNone
    let turn := !(s.graphs.any fun p => p.2.nodes.any fun z => decide (z.2.st = .ready ∧ z.2.kind ≠ 1 ∧ (p.1, z.1) ≠ (g, n)) &&
      mayRun s p.2 die && (nextChunk z.2).isSome && !(z.2.chunks.any fun k => decide (k.die = die) && k.undispatched) &&
      (z.2.hdr.any fun h => couldPlace s die p.1 z.1 h) &&
      (⟨.launch p.1 z.1, z.2.prio, 2, p.2.background, z.2.readySeq⟩ : Item).before item)
    if mayRun s y die ∧ x.st = .ready ∧ x.kind ≠ 1 ∧ !asked ∧ (nextChunk x).isSome ∧ couldPlace s die g n h ∧ next ∧ turn ∧
        ((mine.length < 2 ∧ !(mine.any Chunk.undispatched)) ∨ needsMore s g n h) then
      .next (modNode s g n fun x => { x with requests := x.requests ++ [die] })
    else .next s

/-! ## Completion (R382, R383) -/

/-- R383: whether no further warp of a node is to start on a die, as far as the machine knows. -/
def noMore (s : State) (g n die : Nat) : Bool :=
  let x := nodeAt s g n
  match x.hdr with
  | none => false
  | some h =>
    if x.kind = 1 then
      decide (x.resolved = x.npred) && (lget x.input die []).isEmpty && !(x.batches.any fun b => decide (b.die = die))
    else decide (h.total ≤ x.counter) && x.redo.isEmpty && decide (die ∉ x.requests) &&
      !(x.mirroring.any fun m => decide (m.1 = die)) && !(x.chunks.any fun k => decide (k.die = die) && k.undispatched)

/-- R383: the clusters that the last warp of a node has left, whose out-operands are still to be copied. -/
def leftClusters (s : State) (g n : Nat) : List Nat :=
  (nodeAt s g n).openOn.filter fun k => noMore s g n (k / 72) &&
    !(s.cohorts.any fun p => decide (p.2.graph = g ∧ p.2.node = n ∧ clusterKey p.2.die p.2.cluster = k)) &&
    !((nodeOps s g n).any fun p => decide (p.2.cluster = k))

/-- R382, R383: out-operands are copied from the clusters that the last warp of a node has left; and a node of which
nothing is left completes. -/
def execNodeCompletion (s : State) : Out :=
  let g := subject s 0
  let n := subject s 1
  match (tfind s.graphs g).bind fun y => tfind y.nodes n with
  | none => .next s
  | some x =>
    match leftClusters s g n with
    | k :: _ =>
      -- Operands copied for a cohort that never started there are not copied back.
      .next (if k ∈ x.primed then modNode s g n fun x => { x with
          openOn := x.openOn.erase k, primed := x.primed.erase k }
        else startTiles s g n (k / 72) (k % 72) true)
    | [] =>
      .next (if nodeDone s g n && (nodeOps s g n).isEmpty && x.openOn.isEmpty then
        completeNode s g n (if x.lost then 2 else 1) else s)

/-- R426: a persistent launch is rejected where its cohorts do not fit into its partition. -/
def checkPersistent (s : State) (g : Nat) : State :=
  let x := nodeAt s g 0
  match x.hdr, (graphAt s g).persistent with
  | some h, some die =>
    if partitionFits s g 0 h die then s
    else completeNode (postGraph s (graphAt s g) 0x60 2 x.hdrAddr 0) g 0 2
  | _, _ => s

end Sys2Proof.Machine
end

