-- ==== Sys2Proof/Machine/Links.lean ====
section
/-!
DEFINITION. The links as events (spec/13_links_and_collectives.md): flits and messages that arrive (R409 to
R417, R421, R422), ports and the die-to-die link that go down and come up (R407, R411), and what becomes of
the requests that are lost with them (R429).
-/

namespace Sys2Proof.Machine

/-! ## Records of the links (R428) -/

/-- The contexts with work resident on a die. -/
def residentCtxs (s : State) (die : Nat) : List Nat :=
  ((s.warps.filter fun p => p.2.die = die).map fun p => p.2.ident.ctx).dedup

/-- R407, R428: posts a record of a link to every context with work resident on a die; a port's record with
none goes to the error log. -/
def postLink (s : State) (kind port die : Nat) : State :=
  let b := linkRecord kind port die 0 0 false 0 0x3FFFF 0xFFFF 0 0
  match residentCtxs s die with
  | [] => if port = 63 then s else postError s b
  | l => l.foldl (fun s c => postRecord s c die b .none) s

/-- R409, R412, R422: a message is dropped, and its context told. -/
def dropMessage (s : State) (p : Nat) (m : Message) : State :=
  postRecord s m.ctx (p / 18)
    (linkRecord 0x76 p (p / 18) 0 0 (decide (m.kind = 2 ∨ m.kind = 3 ∨ m.kind = 4)) 0 m.src m.desc m.epoch 0) .none

/-! ## Requests that are lost (R429) -/

/-- The lost elements of an operation: those with a byte on one of some physical lines. -/
def lostElems (op : Op) (lines : List Nat) : List Elem :=
  op.elems.filter fun e => (linesOf e.addr op.size).any fun va => decide (physOf op.lines va ∈ lines)

/-- The lowest lost byte, as a virtual address. -/
def lostAddr (op : Op) (lines : List Nat) : Nat :=
  lowest ((op.lines.filter fun l => l.pa ∈ lines).map fun l =>
    match (op.elems.filter fun e => lineOf e.addr = l.va).map Elem.addr with
    | [] => l.va
    | as => lowest as)

/-- R240, R277, R298, R333, R368: the core and the warp slot by which records name who asked. -/
def recordUnit (s : State) (o : Nat) (op : Op) : Nat × Nat :=
  match op.kind with
  | .update => match s.steps.find? fun p => p.2.op = some o with
    | some (line, st) => (384 + homeOf s line % 96, st.desc)
    | none => (384, 127)
  | .refill => (511, op.cluster % 72)
  | .scatterGrad => (511, op.cluster % 72)
  | .drain => (510, op.cluster % 72)
  | .copy => (op.core, op.dst)
  | .planes => (op.core, op.dst)
  | .gather => (op.core, 96 + op.dst)
  | .scatter => (op.core, 96 + op.dst)
  | .bag => (op.core, 96 + op.dst)
  | .nodeFetch => (op.core, 96 + op.dst)
  | _ => (op.core, match op.warp.bind (tfind s.warps) with
    | some w => w.slot
    | none => 127)

/-- The warp for which an operation works. -/
def opIssuer (s : State) (o : Nat) (op : Op) : Option Nat :=
  match op.kind with
  | .drain => (tfind (clusterAt s op.cluster).mx op.entry).map MxEntry.warp
  | .scatterGrad => ((clusterAt s op.cluster).hashQueue.find? fun c => c.op = some o).map HashCommand.warp
  | _ => op.warp

/-- R239, R429: a load whose read was lost takes a log entry again, where one is free. -/
def logAgain (s : State) (k o : Nat) (op : Op) : State :=
  let w := warpAt s k
  match logOfOp w o, freeLog w with
  | [], i :: _ =>
    let e := { logEntry w o op (elemLanes op.elems) false 0 (fun _ _ => 0) with win := op.win }
    modWarp s k fun w => { w with log := tput w.log i e }
  | _, _ => s

/-- R429: a lost read of a load: it waits at a fault of kind 4, to be replayed from the operand log. -/
def loseLoad (s : State) (o k : Nat) (op : Op) (lines : List Nat) : State :=
  let lanes := elemLanes (lostElems op lines)
  let s1 := logAgain (abandonReqs s o) k o op
  opRecord (markFault s1 k o lanes) o op 4 (entryOf (warpAt s1 k) o) (lostAddr op lines) true lanes (.op o)

/-- R248, R429: a lost read of a copy: it goes on from its landed prefix when it is resumed. -/
def loseCopy (s : State) (o : Nat) (op : Op) (lines : List Nat) : State :=
  let s1 := modOp (reissueCopy (abandonReqs s o) o) o fun x => { x with faulted := true }
  opRecord s1 o op 4 op.entry (lostAddr op lines) true 0 (.op o)

/-- R368, R429: a lost read of an access processor's operation: it goes on from the first element that has
not come back. -/
def loseAp (s : State) (o : Nat) (op : Op) (lines : List Nat) : State :=
  let before := { s with remote := s.remote ++ lines.map fun l =>
    (0, { (default : RemoteReq) with req := { (default : Req) with op := o, line := l } }) }
  let n := (op.elems.takeWhile (elemBack before o op)).length
  let s1 := modOp (abandonReqs s o) o fun x => { x with
    done := min n x.done, lines := x.lines, placed := false, faulted := true }
  apFault s1 o op 4 (lostAddr op lines) (elemLanes ((op.elems.drop n).take 1)) (.op o)

/-- R369, R429: a lost fetch of a node: the context parks at it. -/
def loseFetch (s : State) (o : Nat) (op : Op) (lines : List Nat) : State :=
  let va := lostAddr op lines
  modOp (abandonReqs s o) o fun x => { x with
    faulted := true
    par := x.par.take 1 ++ [4, BitVec.ofNat 32 va, BitVec.ofNat 32 (va / 2 ^ 32)] }

/-- R298, R429: a lost read of a refill: the engine waits, and begins the refill again. -/
def loseRefill (s : State) (o : Nat) (op : Op) (lines : List Nat) : State :=
  let s1 := modOp (abandonReqs s o) o fun x => { x with lines := [], buf := [], placed := false }
  match (clusterAt s1 op.cluster).hashQueue with
  | cmd :: _ => hashFault s1 op.cluster cmd 4 (lostAddr op lines) false
  | [] => s1

/-- R277, R429: a lost read of an update step: the step waits with its gradients, and then reads again. -/
def loseUpdate (s : State) (o : Nat) (op : Op) (lines : List Nat) : State :=
  let s1 := abandonReqs s o
  match s1.steps.find? fun p => p.2.op = some o with
  | some (_, st) =>
    let ud := tget s1.updates st.desc default
    if op.code = 0 then faultUpdate (endOp s1 o) { st with op := none } ud 4 (lostAddr op lines) false
    else faultUpdate (modOp s1 o fun x => { x with code := 1 }) st ud 4 (lostAddr op lines) false
  | none => s1

/-- R429: the reads of an operation are lost. -/
def loseReads (s : State) (o : Nat) (op : Op) (lines : List Nat) : State :=
  match op.kind, op.warp with
  | .load, some k => loseLoad s o k op lines
  | .loadAcquire, some k => loseLoad s o k op lines
  | .codebook, some k => loseLoad s o k op lines
  | .copy, _ => loseCopy s o op lines
  | .planes, _ => loseCopy s o op lines
  | .gather, _ => loseAp s o op lines
  | .bag, _ => loseAp s o op lines
  | .nodeFetch, _ => loseFetch s o op lines
  | .refill, _ => loseRefill s o op lines
  | .update, _ => loseUpdate s o op lines
  | _, _ => s

/-- R429: writes, atomics, checks or contributions of an operation are lost: they end without a result. -/
def loseWrites (s : State) (o port : Nat) (op : Op) (l : List (Req × Nat)) : State :=
  let lines := l.map fun x => x.1.line
  let s1 := match opIssuer s o op with
    | some k => lateFlags s k flagOOB
    | none => s
  let coll := (l.filterMap fun x => x.1.collective).head?.getD (0xFFFF, 0)
  let unit := recordUnit s o op
  let s2 := postRecord s1 op.ctx op.die
    (linkRecord 0x75 port op.die unit.1 unit.2 (l.any fun x => decide (x.1.kind ≠ .monitor)) (lostAddr op lines)
      ((l.head?.map Prod.snd).getD 0x3FFFF) coll.1 coll.2
      (if op.kind.engine then 0 else elemLanes (lostElems op lines))) .none
  if op.kind = .waitm then settleWaitm (wakeSaved s2 o) o else s2

/-- R429: what becomes of one operation whose requests, each with the device it went to, are lost. -/
def loseOp (s : State) (o port : Nat) (l : List (Req × Nat)) : State :=
  match tfind s.ops o with
  | none => s
  | some op =>
    let reads := l.filter fun x => x.1.kind = .load
    let writes := l.filter fun x => x.1.kind ≠ .load
    let s1 := if writes.isEmpty then s else loseWrites s o port op writes
    if reads.isEmpty then s1
    else match tfind s1.ops o with
      | some op1 => loseReads s1 o op1 (reads.map fun x => x.1.line)
      | none => s1

/-- R429: lost requests, taken off their lists already, end operation by operation. -/
def loseAll (s : State) (port : Nat) (l : List (Req × Nat)) : State :=
  ((l.map fun x => x.1.op).dedup).foldl (fun s o => loseOp s o port (l.filter fun x => x.1.op = o)) s

/-- Takes the requests that `gone` names off the list of those sent to other devices; a line that a unit of the device
asked for has no bytes. With them, each request and the device it went to. -/
def takeSent (s : State) (gone : RemoteReq → Bool) : State × List (Req × Nat) :=
  let l := s.remote.filter fun p => gone p.2
  let units := l.filter fun p => p.2.req.ofUnit && decide (p.2.req.kind = .load)
  ({ s with
      remote := s.remote.filter fun p => !gone p.2
      unitLines := units.foldl (fun t p => tput t p.2.req.line []) s.unitLines },
    l.map fun p => (p.2.req, p.2.device))

/-! ## Ports (R411, R429) -/

/-- R411, R429: a port goes down, with what it has not sent yet. -/
def portDown (s : State) (p : Nat) : State :=
  match tfind s.ports p with
  | none => s
  | some pt =>
    if !pt.up then s
    else
      let s1 := modPort s p fun x => { x with
        up := false, unacked := [], txWait := [], txBytes := [], rxBytes := [] }
      let l := takeSent (postLink s1 0x70 p (p / 18)) fun x => decide (x.port = p)
      loseAll l.1 p l.2

def execPortDown (s : State) : Out := .next (portDown s (subject s 0))

/-- R429, R442: a port has trained, which posts record 0x71; its sequence numbers and its credits are at their start
(notes/assumptions/20.md). -/
def portStart (s : State) (p : Nat) : State :=
  let s1 := { s with ports := tput s.ports p { (default : Port) with
    up := true, lastAccept := portClock s p, owed := List.replicate 3 0
    credits := (List.range 3).map fun v => 5 + Config.startCredits v } }
  postLink s1 0x71 p (p / 18)

/-- R442, R446: whether an island is powered. -/
def islandOn (s : State) (i : Nat) : Bool :=
  let st := (lget s.islands i default).st
  decide (st = 1 ∨ st = 2)

/-- R15, R409, R446: whether the reticle field that holds the lanes of a port runs: A those of a die's first nine ports, C
those of the others. -/
def portField (s : State) (p : Nat) : Bool := islandOn s (3 * (p / 18) + (if p % 18 < 9 then 0 else 2))

/-- R429: a port whose retraining system software has asked for comes up again, while its field runs. -/
def execPortUp (s : State) : Out :=
  let p := subject s 0
  match tfind s.ports p with
  | some pt => .next (if pt.retraining && !pt.up && portField s p then portStart s p else s)
  | none => .next s

/-- R411: ports that have accepted no flit for 4,096 mc go down. -/
def portTimeouts (s : State) : State :=
  (s.ports.filter fun p => p.2.up && decide (p.2.lastAccept + 4096 ≤ portClock s p.1)).foldl
    (fun s p => portDown s p.1) s

/-- R411: resends every flit from a sequence number on; where one of them has been resent 16 times already, the port
goes down. -/
def resend (s : State) (p seq : Nat) : State :=
  match tfind s.ports p with
  | none => s
  | some pt =>
    let before := pt.unacked.takeWhile fun x => x.seq ≠ seq
    let l := pt.unacked.drop before.length
    if l.isEmpty || !pt.up then s
    else if l.any fun x => decide (16 ≤ x.resent) then portDown s p
    else
      let s1 := modPort s p fun x => { x with
        unacked := before ++ l.map fun y => { y with resent := y.resent + 1 } }
      { s1 with outbox := s1.outbox ++ l.map fun x => (p, x.bytes) }

def execRetryRequest (s : State) : Out := .next (resend s (subject s 0) (subject s 1))

/-! ## Flits that arrive (R411, R412) -/

/-- R411, R412, R414: what a flit acknowledges and the credits it returns; what waited for either goes. -/
def takeAck (s : State) (p : Nat) (f : List Byte) : State :=
  let ack := leNat ((f.drop 2).take 2) % 4096
  let cred := leNat ((f.drop 2).take 2) / 4096
  let vc := leNat ((f.drop 4).take 1) % 4
  let s1 := modPort s p fun x =>
    let rest := x.unacked.dropWhile fun y => y.seq ≠ ack
    { x with
      credits := lmod x.credits vc fun n => n + 4 * cred
      lastAccept := portClock s p
      unacked := if rest.isEmpty then x.unacked else rest.drop 1 }
  pumpPorts s1

/-- R411: asks for the next flit expected. -/
def askRetry (s : State) (p : Nat) : State := sendControl s p 2 (tget s.ports p default).expected

/-- R409, R412: whether a message that arrives is dropped. -/
def badMessage (s : State) (m : Message) : Bool :=
  decide (6 < m.kind ∨ m.vc ≠ messageChannel m.kind ∨ m.dst ≠ s.device ∨ (m.kind = 4 ∧ m.code = 0))

/-- R411: an accepted data flit: its messages join those that have arrived, and it is acknowledged. -/
def acceptFlit (s : State) (p : Nat) (pt : Port) (f : List Byte) : State :=
  let bytes := pt.rxBytes ++ (f.drop 8).take 240
  let r := takeMessages (bytes.length + 1) bytes
  let s1 := modPort s p fun x => { x with
    expected := (x.expected + 1) % 4096, rxBytes := r.2, lastAccept := portClock s p }
  let s2 := r.1.foldl (fun s m =>
    if badMessage s m then dropMessage (owe s p m) p m else { s with inbox := s.inbox ++ [(p, m)] }) s1
  sendControl s2 p 0 (tget s2.ports p default).nextSeq

/-- R411. -/
def execDataFlitReceive (p : Nat) (f : List Byte) (s : State) : Out :=
  match tfind s.ports p with
  | none => .next s
  | some pt =>
    let type := leNat (f.take 2) / 4096
    let seq := leNat (f.take 2) % 4096
    let good := decide (f.length = 256 ∧ leNat ((f.drop 248).take 8) = (crc64 (f.take 248)).toNat)
    if !pt.up then .next s
    else if type = 1 then
      if good ∧ seq = pt.expected then .next (acceptFlit (takeAck s p f) p pt f) else .next (askRetry s p)
    else if !good ∨ 3 ≤ type then .next s
    else if type = 2 then .next (resend (takeAck s p f) p seq)
    else .next (takeAck s p f)

/-! ## Messages that arrive (R416, R417) -/

/-- R417, R424: the port at which a message is the next of its channel, while the channel is not held. -/
def arrival (s : State) (m : Message) : Option Nat :=
  ((s.inbox.filter fun x => x.2 = m).map Prod.fst).find? fun p =>
    ((s.inbox.find? fun x => decide (x.1 = p ∧ x.2.vc = m.vc)).map Prod.snd == some m) &&
      !(decide (m.vc = 0) && (heldArrivals s).any fun q => decide (q.2.src = portSrc p))

/-- Takes a message of a kind from its port, whose credits go back to the peer (R412), and does what it asks. -/
def onMessage (kind : Nat) (f : State → Nat → Message → State) (m : Message) (s : State) : Out :=
  match arrival s m with
  | some p => .next (if m.kind = kind then f (owe { s with inbox := s.inbox.erase (p, m) } p m) p m else s)
  | none => .next s

/-- R416: the request of another device that a message makes at its line's home slice. -/
def remoteRequest (s : State) (p : Nat) (m : Message) (kind : ReqKind) (code : Nat)
    (parts : List (Nat × List Byte × Nat)) : Req :=
  let line := m.line * 128
  { kind := kind, home := homeOf s line, src := portSrc p, op := 0, line := line, parts := parts, code := code
    collective := if m.desc = 0xFFFF then none else some (m.desc, m.epoch), remote := some m, far := (0, 0)
    ctx := m.ctx }

/-- What a home slice performs for a request of each kind. -/
def performReq (kind : ReqKind) : State → Nat → Req → State :=
  match kind with
  | .load => performLoad
  | .store => performStore
  | .atomic | .cacheop => performAtomic
  | .routine => performRoutine
  | .monitor => performMonitor
  | .contribution => performContribution

/-- R256, R416: a request of another device goes to the line's home slice, which performs it in the same step if
it is next there; else it waits, and a home-slice row performs it. -/
def remoteReq (s : State) (p : Nat) (m : Message) (kind : ReqKind) (code : Nat)
    (parts : List (Nat × List Byte × Nat)) : State :=
  serveReq [kind] (performReq kind) (sendReq s (remoteRequest s p m kind code parts)) (newId s).1

/-- The bytes of a message as a request carries them. -/
def messageParts (m : Message) : List (Nat × List Byte × Nat) :=
  (bitsOf 128 m.mask).map fun i => (m.line * 128 + i, [lget m.data i 0], 0)

def execReadMessage (m : Message) (s : State) : Out :=
  onMessage 0 (fun s p m => remoteReq s p m .load 0 []) m s

def execWriteMessage (m : Message) (s : State) : Out :=
  onMessage 2 (fun s p m => remoteReq s p m .store 0 (messageParts m)) m s

/-- R412, R416: atomics, routines, WAITM checks and CACHEOPs. -/
def execAtomicMessage (m : Message) (s : State) : Out :=
  onMessage 3 (fun s p m =>
    let l := Config.atomicOf m.data
    remoteReq s p m (kindOfAtomic (lget l 0 0)) (lget l 1 0)
      (partsOf (m.line * 128) l.length (l.drop 2))) m s

def execContributionMessage (m : Message) (s : State) : Out :=
  onMessage 4 (fun s p m => remoteReq s p m .contribution m.code (messageParts m)) m s

/-- The request that a message answers. -/
def answered (s : State) (m : Message) : Option (Nat × RemoteReq) :=
  s.remote.find? fun x => decide (x.1 % 65536 = m.tag ∧ x.2.device = m.src)

/-- R50, R254, R416: the data of a load that another device has answered: for a unit of the device, the line that it
waits for; else what was held of the line goes, and unless an acquire has come since the request (R55), the line
takes its place where it may. -/
def remoteLoaded (s : State) (x : RemoteReq) (b : List Byte) : State :=
  let r := x.req
  let op := tget s.ops r.op default
  if r.ofUnit then { s with unitLines := tput s.unitLines r.line b }
  else if (tfind s.ops r.op).isNone then s
  else
    let now := copyClock s op.die r.line
    let d := draw (dropOwn s op r.line)
    let s1 := if copyServes s r.op op r.line && !x.stale && decide (d.1 % 2 = 0) then addCopy d.2 op.die r.line now b
      else d.2
    let s2 := gotLine s1 r.op r.line b
    if x.stale then s2 else fillLoaded s2 op r.line now b

/-- The lane results that a response carries. -/
def pairsOf : List Nat → List (Nat × Nat)
  | l :: v :: r => (l, v) :: pairsOf r
  | _ => []

/-- R416: a response returns to its requester. -/
def execReadResponse (m : Message) (s : State) : Out :=
  onMessage 1 (fun s _ m =>
    match answered s m with
    | none => s
    | some (id, x) =>
      let s1 := pumpPorts { s with remote := tdel s.remote id }
      let own := dropOwn s1 (tget s1.ops x.req.op default) x.req.line
      if x.req.kind ≠ .load ∧ (tfind s1.ops x.req.op).isNone then s1
      else match x.req.kind with
      | .load => remoteLoaded s1 x m.data
      | .monitor => settleWaitm (wakeSaved own x.req.op) x.req.op
      | _ => giveResults own x.req.op (pairsOf (Config.resultsOf m.data))) m s

/-- R50, R227, R416: what a store to another device's line leaves of the line when it is acknowledged: no copy of its die,
and of a warp's store, its core's own line as the store made it. -/
def remoteStored (s : State) (r : Req) : State :=
  match tfind s.ops r.op with
  | none => s
  | some op =>
    if op.kind = .store ∨ op.kind = .storeRelease then
      updateOwnCopy (dropCopies s op.die r.line) (coreKey op.die op.core) r.line r.parts
    else dropOwn s op r.line

/-- R50, R416: an acknowledgement ends the request it answers. -/
def execAcknowledgement (m : Message) (s : State) : Out :=
  onMessage 5 (fun s _ m =>
    match answered s m with
    | none => s
    | some (id, x) =>
      remoteStored (pumpPorts { s with remote := tdel s.remote id }) x.req) m s

/-- R422: a result line is written, unless no started and incomplete epoch awaits it. -/
def execResultLine (m : Message) (s : State) : Out :=
  onMessage 6 (fun s p m =>
    let b := collective s m.ctx m.desc
    if cdGood b && decide (cdKind b = 0 ∧ 0 < m.epoch ∧ m.epoch = collEpoch s m.ctx m.desc) &&
        !collDone s m.ctx m.desc then
      startResult s m.ctx m.desc m.epoch (p / 18) 65536 0 (m.line * 128) m.data
    else dropMessage s p m) m s

/-! ## The die-to-die link goes down (R407) -/

/-- R429: a lost request other than a read may have been performed at its home. -/
def maybePerform (s : State) (id : Nat) (r : Req) : State :=
  let d := draw s
  let done := { d.2 with reqs := tdel d.2.reqs id }
  if d.1 % 2 = 1 ∨ (homeLine s r.line).locked.isSome then done
  else
    match r.kind with
    | .store => { performStore d.2 id r with reqs := tdel d.2.reqs id }
    | .contribution => { performContribution d.2 id r with reqs := tdel d.2.reqs id }
    | .atomic => { (atomLanes r.code none (reqWarp s r) d.2 r.parts).1 with reqs := tdel d.2.reqs id }
    | .routine =>
      let code := tget (tget s.contexts (reqCtx r) default).routines r.code []
      { (routineLanes code r.line (reqWarp s r) d.2 r.parts).1 with reqs := tdel d.2.reqs id }
    | _ => done

/-- R407, R429: a PUBLISH or a version fence on its way to an entry of the other die is lost, as a store is. -/
def losePublish (s : State) (p o : Nat) : State :=
  let op := tget s.ops o default
  let unit := recordUnit s o op
  let s1 := setPub s p { pubAt s p with waiting := (pubAt s p).waiting.filter fun x => x.1 ≠ o }
  let s2 := match op.warp with
    | some k => lateFlags s1 k flagOOB
    | none => s1
  endPublish (postRecord s2 op.ctx op.die
    (linkRecord 0x75 63 op.die unit.1 unit.2 true 0 0x3FFFF 0xFFFF 0 0) .none) o

/-- R407: those on their way across the die-to-die link: entry and operation. -/
def crossedPublishes (s : State) : List (Nat × Nat) :=
  s.publish.flatMap fun p => (p.2.waiting.map Prod.fst).filterMap fun o =>
    if o ≠ 0 ∧ (tget s.ops o default).die ≠ pubHome s p.1 / 96 then some (p.1, o) else none

/-- R407: takes off their lists the requests under way across the die-to-die link; with them the monitors that wait at a
home of the other die, whose checks have not been answered. No other device is concerned (R428). -/
def takeCrossed (s : State) : State × List (Req × Nat) :=
  let l := s.reqs.filter fun p => decide (p.2.home < 1000 ∧ p.2.home / 96 ≠ reqDie s p.2)
  let s1 := l.foldl (fun s p => if p.2.kind = .load then { s with reqs := tdel s.reqs p.1 } else maybePerform s p.1 p.2) s
  let across := fun m : Monitor => m.remote.isNone && !m.cluster && decide (m.home / 96 ≠ (tget s.ops m.op default).die)
  let waits := (s1.monitors.filter across).map fun m =>
    { (default : Req) with kind := .monitor, op := m.op, line := lineOf m.addr }
  ({ s1 with monitors := s1.monitors.filter fun m => !across m },
    ((l.map Prod.snd).filter (fun r => r.remote.isNone) ++ waits).map fun r => (r, 0x3FFFF))

/-- R407, R429: every request that was sent across the die-to-die link and not answered is lost, of one instruction or
operation all at once. -/
def loseAcross (s : State) : State :=
  let l := takeCrossed s
  let m := takeSent l.1 fun x => decide (x.port / 18 ≠ reqDie s x.req)
  (crossedPublishes m.1).foldl (fun s x => losePublish s x.1 x.2) (loseAll m.1 63 (l.2 ++ m.2))

/-- R401, R407: the link goes down, and each die takes the other as failed. -/
def linkDown (s : State) : State :=
  if s.dies < 2 ∨ !s.dieLink then s
  else
    let both := tgmRuns s 0 && tgmRuns s 1
    let s1 := (List.range 2).foldl (fun s d =>
      postLink (modDie s d fun x => { x with ready := x.ready &&& ~~~4 }) 0x72 63 d)
      { s with dieLink := false, dieLinkLost := true }
    let s2 := loseAcross s1
    if both then partGraphs s2 else s2

def execDieToDieLinkDown (s : State) : Out := .next (linkDown s)

end Sys2Proof.Machine
end

