-- ==== Sys2Proof/Machine/Lines.lean ====
section
/-!
DEFINITION. The translation of an operation's lines (R221, R225), whatever the operation is, and the
resumption of what waits behind a fault record: replay or abort (R153, R239, R240, R248, R258, R277, R298,
R333, R368, R369, R420).
-/

namespace Sys2Proof.Machine

/-! ## Translation (R225) -/

/-- The warp of an operation, while it is resident. -/
def residentWarp (s : State) (op : Op) : Option Nat := op.warp.filter fun k => (tfind s.warps k).isSome

/-- Translates the lines that an operation has not reached, and sends its requests or posts its faults. -/
def translateOp (s : State) (o : Nat) (op : Op) : State :=
  let logged := match residentWarp s op with
    | some k => translateLogged s o k op
    | none => s
  let held := match residentWarp s op with
    | some k => translateHeld s o k op
    | none => s
  match op.kind with
  | .load => logged
  | .store => logged
  | .loadAcquire => logged
  | .storeRelease => logged
  | .codebook => logged
  | .prefetch => translatePrefetch s o op
  | .atomic => held
  | .routine => held
  | .waitm => held
  | .cacheop => held
  | .copy => translateCopy s o op
  | .planes => translateCopy s o op
  | .drain => translateDrain s o op
  | .gather => translateAp s o op
  | .scatter => translateAp s o op
  | .bag => translateAp s o op
  | .nodeFetch => translateFetch s o op
  | .result => runResult s o
  | .tileCopy => continueTiles s o op
  | _ => s

/-- R64: the elements that a replayed operation has still to perform, formed again from a base; those that a copy
forms as it goes on are formed then. -/
def reformed (op : Op) (base : Nat) : List Elem :=
  let listed := op.kind == .gather || op.kind == .scatter || op.kind == .bag
  let anew := fun e : Elem =>
    if listed then { apElem op.record base op.z op.n e.lane e.idx (op.kind == .bag) [] with data := e.data }
    else if op.mask.getLsbD e.lane then
      { elemAt op.record base op.z (max 1 op.n) e.lane e.idx [] with data := e.data }
    else e
  if op.kind.engine && !listed then op.elems
  else op.elems.take op.done ++ (op.elems.drop op.done).map anew

/-- R64, R239: a replayed operation whose entry was disabled at its issue samples the version now. -/
def resampled (s : State) (o : Nat) (op : Op) : State :=
  let writer := op.isWrite || op.kind.writer
  let smp := sampleVersion s op.die op.core o op.record writer
  modOp smp.1 o fun x => { x with
    sample := smp.2, resample := false, elems := reformed x (accessBase smp.1 op.record smp.2 writer) }

/-- Translates for an operation; one that samples first waits, if it writes, for a waiting PUBLISH (R64). -/
def continueOp (s : State) (o : Nat) (op : Op) : State :=
  if !op.resample then translateOp s o op
  else if (op.isWrite || op.kind.writer) && writerHeld s op.record then s
  else
    let s1 := if op.kind = .drain then resampleDrain s o op else resampled s o op
    translateOp s1 o (tget s1.ops o op)

def execLineTranslation (s : State) : Out :=
  let o := subject s 0
  match tfind s.ops o with
  | none => .next s
  | some op => .next (if op.placed || op.faulted then s else ifRoom s (continueOp s o op))

/-! ## Resumption (R441, command 0x06) -/

/-- R449: a cluster-space operation held on a storage error is aborted: loads return 0, stores are dropped. -/
def abortCluster (s : State) (o : Nat) (op : Op) : State :=
  let s1 := modOp s o fun x => { x with
    elems := x.elems.map fun e => if e.st = .live then { e with st := .dropped } else e
    faulted := false, flags := x.flags ||| flagOOB }
  match op.kind, op.warp with
  | .arrive, some k => lower (endOp (lateFlags s1 k flagOOB) o) k .cl o
  | _, some k => lateFlags s1 k flagOOB
  | _, none => s1

/-- An operation goes on from its fault, or is aborted; one that no longer waits is left alone. -/
def resumeOp (s : State) (o : Nat) (abort : Bool) : State :=
  match tfind s.ops o with
  | none => s
  | some op =>
    let free := modOp s o fun x => { x with faulted := false, fmask := 0 }
    let logged := match op.warp with
      | some k => if abort then abortLogged s o k else replayLogged s o k op
      | none => s
    let held := if abort then abortHeld s o else replayHeld s o op
    let copy := if abort then abortCopy s o op else replayCopy s o op
    let ap := if abort then abortAp s o op else replayAp s o op
    if !op.faulted then s
    else
      match op.kind with
      | .load => logged
      | .store => logged
      | .loadAcquire => logged
      | .storeRelease => logged
      | .codebook => logged
      | .atomic => held
      | .routine => held
      | .waitm => held
      | .cacheop => held
      | .copy => copy
      | .planes => copy
      | .drain => if abort then abortDrain s o op else replayDrain s o op
      | .gather => ap
      | .scatter => ap
      | .bag => ap
      | .tileCopy => resumeTiles s o op abort
      | .start => resumeStart s o abort
      | .result => resumeResult s o op abort
      | .image => if abort then modOp s o fun x => { x with faulted := false, done := 1 } else free
      | _ => if abort && op.kind.cluster then abortCluster s o op else free

/-- R240: an instruction fetch goes on, or the slice takes the instruction-address trap. -/
def resumeFetch (s : State) (k : Nat) (sl : BitVec 8) (abort : Bool) : State :=
  match anyWarp s k with
  | none => s
  | some w =>
    let waiting := toBits 8 ((bitsOf 8 sl).filter fun i => (sliceAt w i).wait = .fetch)
    let s1 := updateWarp s k fun w => (bitsOf 8 waiting).foldl (fun w i =>
      modSliceW w i fun x => { x with wait := .ready }) w
    if !abort ∨ waiting = 0 then s1
    else
      let pc := gangPc w waiting
      if (tfind s.warps k).isSome then trapGang s1 k waiting 8 (BitVec.ofNat 32 pc.toNat) false
      else lateTrap s1 k s1.fresh waiting 8 pc.toNat

/-- R333: a matrix command held on a storage error goes on, or ends without effect. -/
def resumeMatrix (s : State) (c i : Nat) (abort : Bool) : State :=
  match tfind (clusterAt s c).mx i with
  | none => s
  | some e =>
    if abort then completeTile s c i e flagOOB
    else modCluster s c fun x => { x with mx := tmod x.mx i fun e => { e with held := false } }

/-- R277: an update step goes on from its translation, or is dropped. -/
def resumeUpdate (s : State) (line : Nat) (abort : Bool) : State :=
  match tfind s.steps line with
  | none => s
  | some st =>
    if !st.waiting then s
    else if abort then
      let s1 := match st.op with
        | some o => endOp (unsample (abandonReqs s o) o) o
        | none => s
      endUpdate s1 line
    else { s with steps := tput s.steps line { st with waiting := false } }

/-- Resumes what waits behind a record: a replay, or an abort. -/
def resumeBehind (s : State) (abort : Bool) : Resumable → State
  | .none => s
  | .op o => resumeOp s o abort
  | .fetch k sl => resumeFetch s k sl abort
  | .park c u x => if abort then apAbort s c u x else apReplay s c u x
  | .savedPark g u x => resumeSaved abort s g u x
  | .update line => resumeUpdate s line abort
  | .image k =>
    match (opsOf s k).find? fun p => p.2.kind = .image with
    | some (o, _) => resumeOp s o abort
    | none => s
  | .hash c => if (clusterAt s c).hashHeld then (if abort then hashAbort s c else hashReplay s c) else s
  | .matrix c i => resumeMatrix s c i abort
  -- The unit reads 0 once (R449), or finds its write dropped.
  | .line _ _ line => if abort then { s with unitLines := tput s.unitLines line (List.replicate 128 0) } else s

end Sys2Proof.Machine
end

