-- ==== Sys2Proof/Machine/Shake.lean ====
section
/-!
DEFINITION. SHAKE256 of FIPS 202, which R452 to R454 of spec/14_host_power_bringup.md use: the permutation
KECCAK-f[1600] on 25 lanes of 64 bits, lane x + 5y, and the sponge of rate 136 bytes.
-/

namespace Sys2Proof.Machine

/-- Lane (x, y) of a state. -/
def shakeLane (st : List (BitVec 64)) (x y : Nat) : BitVec 64 := lget st (x % 5 + 5 * (y % 5)) 0

/-- The parity of column x of a state. -/
def shakeParity (st : List (BitVec 64)) (x : Nat) : BitVec 64 :=
  (st.zipIdx.filter fun p => decide (p.2 % 5 = x % 5)).foldr (fun p v => p.1 ^^^ v) 0

/-- Theta: every lane takes the parity of the column before it and the turned parity of the one after. -/
def shakeTheta (st : List (BitVec 64)) : List (BitVec 64) :=
  let mix := (List.range 5).map fun x => shakeParity st (x + 4) ^^^ (shakeParity st (x + 1)).rotateLeft 1
  st.zipIdx.map fun p => p.1 ^^^ lget mix (p.2 % 5) 0

/-- FIPS 202's walk over the 24 lanes other than (0, 0), from (1, 0) on: each lane with the amount rho turns
it by. -/
def shakeWalk : Nat → Nat → Nat → Nat → List (Nat × Nat × Nat)
  | 0, _, _, _ => []
  | n + 1, x, y, t => (x, y, (t + 1) * (t + 2) / 2) :: shakeWalk n y ((2 * x + 3 * y) % 5) (t + 1)

/-- Rho and pi: lane (x, y) of the walk, turned, becomes lane (y, 2x + 3y). -/
def shakeMove (st : List (BitVec 64)) : List (BitVec 64) :=
  (shakeWalk 24 1 0 0).foldl (fun out m =>
    out.set (m.2.1 + 5 * ((2 * m.1 + 3 * m.2.1) % 5)) ((shakeLane st m.1 m.2.1).rotateLeft (m.2.2 % 64))) st

/-- Chi: every lane against the next two of its row. -/
def shakeChi (st : List (BitVec 64)) : List (BitVec 64) :=
  st.zipIdx.map fun p =>
    p.1 ^^^ (shakeLane st (p.2 % 5 + 2) (p.2 / 5) &&& ~~~shakeLane st (p.2 % 5 + 1) (p.2 / 5))

/-- The shift register behind iota: multiplication by x modulo x^8 + x^6 + x^5 + x^4 + 1. -/
def iotaNext (r : Byte) : Byte := if r.msb then (r <<< 1) ^^^ 0x71 else r <<< 1

/-- The register after `n` shifts. -/
def iotaAfter : Nat → Byte → Byte
  | 0, r => r
  | n + 1, r => iotaAfter n (iotaNext r)

/-- Iota: the constant of a round whose register stands at `r`: bit j of the round's seven shifts falls on
bit 2^j - 1. -/
def iotaWord (r : Byte) : BitVec 64 :=
  toWide ((List.range 7).filter fun j => (iotaAfter j r).getLsbD 0)
where
  toWide (l : List Nat) : BitVec 64 := l.foldr (fun j v => v ||| (1 : BitVec 64) <<< (2 ^ j - 1)) 0

/-- `n` rounds, the register at `r` before the first. -/
def shakeRounds : Nat → Byte → List (BitVec 64) → List (BitVec 64)
  | 0, _, st => st
  | n + 1, r, st =>
    shakeRounds n (iotaAfter 7 r) (lmod (shakeChi (shakeMove (shakeTheta st))) 0 (iotaWord r ^^^ ·))

/-- KECCAK-f[1600]. -/
def shakePermute (st : List (BitVec 64)) : List (BitVec 64) := shakeRounds 24 1 st

/-- The lanes of a block of bytes. -/
def blockLanes (b : List Byte) : List (BitVec 64) :=
  (List.range 25).map fun i => BitVec.ofNat 64 (leNat ((b.drop (8 * i)).take 8))

/-- Absorbs the whole blocks of a message; `n` bounds their number. -/
def absorb : Nat → List (BitVec 64) → List Byte → List (BitVec 64)
  | 0, a, _ => a
  | n + 1, a, m =>
    if m.isEmpty then a
    else absorb n (shakePermute (List.zipWith (· ^^^ ·) a (blockLanes (m.take 136)))) (m.drop 136)

/-- The bytes of the state that the sponge gives. -/
def rateBytes (a : List (BitVec 64)) : List Byte := (a.take 17).flatMap fun l => leBytes 8 l.toNat

/-- Squeezes `n` blocks. -/
def squeeze : Nat → List (BitVec 64) → List Byte
  | 0, _ => []
  | n + 1, a => rateBytes a ++ squeeze n (shakePermute a)

/-- FIPS 202's padding of SHAKE to whole blocks: 0x1F, zeros, and bit 7 of the last byte. -/
def shakePad (m : List Byte) : List Byte :=
  let z := (136 - (m.length + 1) % 136) % 136
  let p := m ++ [0x1F] ++ List.replicate z 0
  p.set (p.length - 1) (lget p (p.length - 1) 0 ||| 0x80)

/-- SHAKE256 with `n` bytes of output. -/
def shake256 (m : List Byte) (n : Nat) : List Byte :=
  let p := shakePad m
  (squeeze (n / 136 + 1) (absorb (p.length / 136 + 1) (List.replicate 25 0) p)).take n

end Sys2Proof.Machine
end

