-- ==== Sys2Proof/Machine/Slh.lean ====
section
/-!
DEFINITION. SLH-DSA of FIPS 205 over SHAKE256, which R452 and R454 of spec/14_host_power_bringup.md name: the parameter
sets SHAKE-256s and SHAKE-128f, in their pure form with an empty context string. The algorithms are those of the standard
(PRESUMED, notes/assumptions/93.md); a node, a key or a link of a chain is a string of n bytes.
-/

namespace Sys2Proof.Machine

/-- A parameter set: the bytes of a node, the height of one of the trees of the hypertree, its layers, and the height and
the number of the FORS trees. -/
structure Slh where
  n : Nat
  height : Nat
  layers : Nat
  a : Nat
  k : Nat
  deriving DecidableEq, Repr

def slhShake256s : Slh := ⟨32, 8, 8, 14, 22⟩
def slhShake128f : Slh := ⟨16, 3, 22, 6, 33⟩

/-- A number in big-endian bytes, and back. -/
def beBytes (n v : Nat) : List Byte := (leBytes n v).reverse
def beNat (b : List Byte) : Nat := leNat b.reverse

/-- One tree of a key's structure: the public seed, the bytes of a node, the layer and the tree's number. -/
structure SlhTree where
  seed : List Byte
  n : Nat
  layer : Nat
  tree : Nat

/-- The standard's tweakable hashes, over an address of the tree: its type and its three last words. -/
def SlhTree.hash (t : SlhTree) (type x y z : Nat) (m : List Byte) : List Byte :=
  shake256 (t.seed ++ (beBytes 4 t.layer ++ beBytes 12 t.tree ++ beBytes 4 type ++ beBytes 4 x ++ beBytes 4 y ++ beBytes 4 z) ++ m)
    t.n

/-! ## WOTS+ -/

/-- The digits that a node's chains sign: its half bytes, and three digits of their checksum. -/
def wotsDigits (m : List Byte) : List Nat :=
  let d := m.flatMap fun b => [b.toNat / 16, b.toNat % 16]
  let c := (d.map fun x => 15 - x).sum
  d ++ [c / 256 % 16, c / 16 % 16, c % 16]

/-- `steps` links of chain `i` of a leaf's key, from link `j` on. -/
def wotsChain (t : SlhTree) (leaf i : Nat) : Nat → Nat → List Byte → List Byte
  | 0, _, x => x
  | steps + 1, j, x => wotsChain t leaf i steps (j + 1) (t.hash 0 leaf i j x)

def wotsSecret (t : SlhTree) (secret : List Byte) (leaf i : Nat) : List Byte := t.hash 5 leaf i 0 secret

/-- A leaf: the public key of its chains' ends. -/
def wotsLeaf (t : SlhTree) (leaf : Nat) (ends : List (List Byte)) : List Byte := t.hash 1 leaf 0 0 ends.flatten

def wotsKey (t : SlhTree) (secret : List Byte) (leaf : Nat) : List Byte :=
  wotsLeaf t leaf ((List.range (2 * t.n + 3)).map fun i => wotsChain t leaf i 15 0 (wotsSecret t secret leaf i))

def wotsSign (t : SlhTree) (secret : List Byte) (leaf : Nat) (m : List Byte) : List (List Byte) :=
  (wotsDigits m).zipIdx.map fun d => wotsChain t leaf d.2 d.1 0 (wotsSecret t secret leaf d.2)

/-- The leaf that a signature of a node gives. -/
def wotsFrom (t : SlhTree) (leaf : Nat) (sig : List (List Byte)) (m : List Byte) : List Byte :=
  wotsLeaf t leaf ((wotsDigits m).zipIdx.map fun d => wotsChain t leaf d.2 (15 - d.1) d.1 (lget sig d.2 []))

/-! ## Trees -/

/-- The root above a node, by the other children on its path. -/
def slhClimb (t : SlhTree) (type key : Nat) : List (List Byte) → Nat → Nat → List Byte → List Byte
  | [], _, _, x => x
  | y :: r, z, i, x =>
    slhClimb t type key r (z + 1) (i / 2) (t.hash type key (z + 1) (i / 2) (if i % 2 = 0 then x ++ y else y ++ x))

/-- A node of a tree of the hypertree, by height and number. -/
def xmssNode (t : SlhTree) (secret : List Byte) : Nat → Nat → List Byte
  | 0, i => wotsKey t secret i
  | z + 1, i => t.hash 2 0 (z + 1) i (xmssNode t secret z (2 * i) ++ xmssNode t secret z (2 * i + 1))

def xmssSign (t : SlhTree) (secret : List Byte) (height leaf : Nat) (m : List Byte) : List (List Byte) :=
  wotsSign t secret leaf m ++ (List.range height).map fun j => xmssNode t secret j (leaf / 2 ^ j ^^^ 1)

/-- The root that a signature of a node gives. -/
def xmssFrom (t : SlhTree) (leaf : Nat) (sig : List (List Byte)) (m : List Byte) : List Byte :=
  slhClimb t 2 0 (sig.drop (2 * t.n + 3)) 0 leaf (wotsFrom t leaf sig m)

/-- The hypertree's signature of a node, from a layer on; the first number counts the layers left. -/
def hyperSign (g : Slh) (seed secret : List Byte) : Nat → Nat → Nat → Nat → List Byte → List (List Byte)
  | 0, _, _, _, _ => []
  | r + 1, layer, tree, leaf, m =>
    let t : SlhTree := ⟨seed, g.n, layer, tree⟩
    let sig := xmssSign t secret g.height leaf m
    sig ++ hyperSign g seed secret r (layer + 1) (tree / 2 ^ g.height) (tree % 2 ^ g.height) (xmssFrom t leaf sig m)

/-- The hypertree's root that a signature gives. -/
def hyperFrom (g : Slh) (seed : List Byte) : Nat → Nat → Nat → Nat → List (List Byte) → List Byte → List Byte
  | 0, _, _, _, _, m => m
  | r + 1, layer, tree, leaf, sig, m =>
    let size := 2 * g.n + 3 + g.height
    hyperFrom g seed r (layer + 1) (tree / 2 ^ g.height) (tree % 2 ^ g.height) (sig.drop size)
      (xmssFrom ⟨seed, g.n, layer, tree⟩ leaf (sig.take size) m)

/-! ## FORS -/

def forsSecret (t : SlhTree) (secret : List Byte) (key i : Nat) : List Byte := t.hash 6 key 0 i secret

def forsNode (t : SlhTree) (secret : List Byte) (key : Nat) : Nat → Nat → List Byte
  | 0, i => t.hash 3 key 0 i (forsSecret t secret key i)
  | z + 1, i => t.hash 3 key (z + 1) i (forsNode t secret key z (2 * i) ++ forsNode t secret key z (2 * i + 1))

/-- The leaves, by number over all trees, that digits choose. -/
def forsLeaves (g : Slh) (digits : List Nat) : List Nat := digits.zipIdx.map fun d => d.2 * 2 ^ g.a + d.1

def forsSign (g : Slh) (t : SlhTree) (secret : List Byte) (key : Nat) (digits : List Nat) : List (List Byte) :=
  (forsLeaves g digits).flatMap fun i =>
    forsSecret t secret key i :: (List.range g.a).map fun j => forsNode t secret key j (i / 2 ^ j ^^^ 1)

/-- The FORS public key that a signature gives. -/
def forsFrom (g : Slh) (t : SlhTree) (key : Nat) (digits : List Nat) (sig : List (List Byte)) : List Byte :=
  t.hash 4 key 0 0 ((forsLeaves g digits).zipIdx.flatMap fun x =>
    let part := (sig.drop ((g.a + 1) * x.2)).take (g.a + 1)
    slhClimb t 3 key (part.drop 1) 0 x.1 (t.hash 3 key 0 x.1 (lget part 0 [])))

/-! ## Keys and signatures -/

/-- What a digest chooses: the digits of the FORS trees, the tree of the bottom layer, and its leaf. -/
structure SlhChoice where
  digits : List Nat
  tree : Nat
  leaf : Nat

/-- The digest of a message under a public key, and what it chooses. -/
def slhChoice (g : Slh) (r pk m : List Byte) : SlhChoice :=
  let digit := (g.k * g.a + 7) / 8
  let above := g.height * (g.layers - 1)
  let tree := (above + 7) / 8
  let leaf := (g.height + 7) / 8
  let b := shake256 (r ++ pk ++ m) (digit + tree + leaf)
  let v := beNat (b.take digit)
  { digits := (List.range g.k).map fun i => v / 2 ^ (8 * digit - g.a * (i + 1)) % 2 ^ g.a
    tree := beNat ((b.drop digit).take tree) % 2 ^ above
    leaf := beNat (b.drop (digit + tree)) % 2 ^ g.height }

/-- A message in the pure form, with an empty context string. -/
def slhPure (m : List Byte) : List Byte := [0, 0] ++ m

/-- The public key of three seeds, of `n` bytes each: the secret seed, the seed of the randomiser, the public seed. -/
def slhPublic (g : Slh) (seeds : List Byte) : List Byte :=
  let seed := (seeds.drop (2 * g.n)).take g.n
  seed ++ xmssNode ⟨seed, g.n, g.layers - 1, 0⟩ (seeds.take g.n) g.height 0

/-- The signature of a message by the key of three seeds; `random` is what hedges it. -/
def slhSign (g : Slh) (seeds random m : List Byte) : List Byte :=
  let secret := seeds.take g.n
  let pk := slhPublic g seeds
  let seed := pk.take g.n
  let r := shake256 ((seeds.drop g.n).take g.n ++ random ++ slhPure m) g.n
  let c := slhChoice g r pk (slhPure m)
  let t : SlhTree := ⟨seed, g.n, 0, c.tree⟩
  let fors := forsSign g t secret c.leaf c.digits
  r ++ fors.flatten ++
    (hyperSign g seed secret g.layers 0 c.tree c.leaf (forsFrom g t c.leaf c.digits fors)).flatten

/-- Whether a signature of a message verifies under a public key. -/
def slhVerifies (g : Slh) (pk m sig : List Byte) : Bool :=
  let count := 1 + g.k * (g.a + 1) + g.layers * (2 * g.n + 3 + g.height)
  let nodes := (List.range count).map fun i => (sig.drop (g.n * i)).take g.n
  let seed := pk.take g.n
  let c := slhChoice g (lget nodes 0 []) pk (slhPure m)
  let fors := forsFrom g ⟨seed, g.n, 0, c.tree⟩ c.leaf c.digits ((nodes.drop 1).take (g.k * (g.a + 1)))
  decide (sig.length = g.n * count ∧ pk.length = 2 * g.n) &&
    hyperFrom g seed g.layers 0 c.tree c.leaf (nodes.drop (1 + g.k * (g.a + 1))) fors == pk.drop g.n

end Sys2Proof.Machine
end

