-- ==== Sys2Proof/Machine/Host.lean ====
section
/-!
DEFINITION. The Cralia host layer (R436 to R441, R448 to R454 of spec/14_host_power_bringup.md): the host
control page, the command rings, and the commands 0x01 to 0x14. How operands lie in a command is the model's
choice (notes/assumptions/31.md): operand i is the i-th 64-bit field of cm.arg, and what is longer than its
field lies at the host physical address that the field holds.
-/

namespace Sys2Proof.Machine

/-! ## The host control page (R439) -/

def ringOf (s : State) (r : Nat) : Ring := lget s.rings r default
def modRing (s : State) (r : Nat) (f : Ring → Ring) : State := { s with rings := lmod s.rings r f }

/-- R443: a bit of a die's ready map. -/
def readyBit (s : State) (d i : Nat) : Bool := (dieAt s d).ready.getLsbD i
def setReady (s : State) (d i : Nat) : State :=
  modDie s d fun x => { x with ready := x.ready ||| (1 : BitVec 32) <<< i }
def clearReady (s : State) (d i : Nat) : State :=
  modDie s d fun x => { x with ready := x.ready &&& ~~~((1 : BitVec 32) <<< i) }

/-- R443: the host page can be reached. -/
def pageOpen (s : State) : Bool := readyBit s 0 1

/-- A 64-bit number with its low or its high word replaced. -/
def putHalf (old : Nat) (high : Bool) (v : Nat) : Nat :=
  if high then old % 2 ^ 32 + v % 2 ^ 32 * 2 ^ 32 else old / 2 ^ 32 * 2 ^ 32 + v % 2 ^ 32

/-- R439: what a register read of a word of the page gives. -/
def hostRegister (s : State) (offset : Nat) : Nat :=
  let r := ringOf s ((offset - 0x100) / 32)
  if !pageOpen s then 0
  else if offset = 0 then if readyBit s 0 0 then s.device else 0
  else if offset = 4 then (dieAt s 0).ready.toNat
  else if offset = 8 then if s.dieLink then (dieAt s 1).ready.toNat else 0
  else if 0x100 ≤ offset ∧ offset < 0x300 then
    match offset % 32 with
    | 0 => r.base % 2 ^ 32
    | 4 => r.base / 2 ^ 32
    | 8 => r.log + (if r.enabled then 256 else 0)
    | 16 => r.tail % 2 ^ 32
    | 20 => r.head % 2 ^ 32
    | _ => 0
  else if offset = 0x300 then s.errBase % 2 ^ 32
  else if offset = 0x304 then s.errBase / 2 ^ 32
  else if offset = 0x308 then s.errLog
  else if offset = 0x30C then s.errHead % 2 ^ 32
  else if offset = 0x310 then s.errTail % 2 ^ 32
  else 0

/-- R439: a write of hc.ren: a ring is enabled with its counts at 0, or disabled; a bad base or size is
ignored, and so is a change of size while it stays enabled. -/
def execRingEnable (s : State) : Out :=
  let r := subject s 0
  let v := subject s 1
  let x := ringOf s r
  let on := decide (v / 256 % 2 = 1)
  let k := v % 16
  if !pageOpen s ∨ (on ∧ x.enabled) then .next s
  else if !on then .next (modRing s r fun x => { x with enabled := false, log := k, awaits := none })
  else if x.base % 4096 ≠ 0 ∨ k < 4 ∨ 12 < k then .next s
  else .next (modRing s r fun x => { x with enabled := true, log := k, tail := 0, head := 0, awaits := none })

/-- R438, R439: a doorbell: the count of commands written to a ring. -/
def execRingDoorbell (s : State) : Out :=
  if pageOpen s then .next (modRing s (subject s 0) fun x => { x with tail := subject s 1 % 2 ^ 32 })
  else .next s

/-- R439: the error records that system software has consumed. -/
def execErrorLogHead (s : State) : Out :=
  if pageOpen s then .next (flushErrors (s.errWaiting.length + 1) { s with errHead := subject s 0 }) else .next s

/-- R12, R439: a write of a word of the page that has no behaviour of its own. -/
def execHostRegisterWrite (s : State) : Out :=
  let offset := subject s 0
  let v := subject s 1
  let r := (offset - 0x100) / 32
  if !pageOpen s then .next s
  else if 0x100 ≤ offset ∧ offset < 0x300 ∧ (offset % 32 = 0 ∨ offset % 32 = 4) then
    .next (modRing s r fun x => if x.enabled then x else { x with base := putHalf x.base (decide (offset % 32 = 4)) v })
  else if offset = 0x300 ∨ offset = 0x304 then
    .next { s with errBase := putHalf s.errBase (decide (offset = 0x304)) v }
  else if offset = 0x308 then
    let k := v % 32
    if k = 0 ∨ (7 ≤ k ∧ k ≤ 20) then .next (flushErrors (s.errWaiting.length + 1) { s with errLog := k }) else .next s
  else .next s

/-! ## Commands (R438, R440) -/

structure Command where
  code : Nat
  die : Nat
  ctx : Nat
  done : Nat
  clean : Bool
  arg : List Nat
  deriving Repr, Inhabited

/-- R440: the fields of a command's 64 bytes. -/
def commandOf (b : List Byte) : Command :=
  let v := leNat b
  { code := efield v 0 8, die := efield v 8 1, ctx := efield v 32 16, done := efield v 64 64
    clean := decide (efield v 9 23 = 0 ∧ efield v 48 16 = 0)
    arg := (List.range 6).map fun i => efield v (128 + 64 * i) 64 }

def Command.op (c : Command) (i : Nat) : Nat := lget c.arg i 0

/-- R438: the next command of a ring. -/
def nextCommand (s : State) (r : Nat) : Option Command :=
  let x := ringOf s r
  if x.enabled && decide (x.head % 2 ^ 32 ≠ x.tail) then
    some (commandOf (mbytes s.mem (hostPa (x.base + 64 * (x.head % 2 ^ x.log))) 64))
  else none

/-- Bytes of host memory that an operand names. -/
def hostBytes (s : State) (a n : Nat) : List Byte := mbytes s.mem (hostPa a) n

/-- Writes host memory. -/
def hostWrite (s : State) (a : Nat) (b : List Byte) : State := homeWrite s (hostPa a) b none

/-- R438 to R440: a command's completion word, the ring's head, and the event that tells of it. -/
def finishCommand (s : State) (r : Nat) (c : Command) (status : Nat) : State :=
  let s1 := hostWrite s (c.done / 4 * 4) (leBytes 4 status)
  let s2 := modRing s1 r fun x => { x with head := (x.head + 1) % 2 ^ 32, awaits := none }
  sendEvent s2 3 r (ringOf s2 r).head

/-- R440: the commands that act for the context that cm.ctx names. -/
def contextCommand (code : Nat) : Bool := code ∈ [2, 3, 5, 6, 7, 8, 10, 12, 14, 15]

/-- R440: a command that is malformed whatever its operands. -/
def commandBad (s : State) (c : Command) : Bool := !c.clean || decide (c.done % 4 ≠ 0 ∨ s.dies ≤ c.die)

/-- R438, R440, R443: a command that is refused whatever its operands. -/
def commandRefused (s : State) (c : Command) : Bool :=
  (decide (c.die = 1) && !s.dieLink) || !readyBit s c.die 3 ||
    (contextCommand c.code && (tfind s.contexts c.ctx).isNone)

/-- Performs the next command of a ring, if it has the code and the form `mine`: malformed, refused, or run;
`none` means that it waits. -/
def hostCommand (code : Nat) (mine : Command → Bool) (bad : State → Command → Bool)
    (run : State → Nat → Command → Option (State × Nat)) (s : State) : Out :=
  let r := subject s 0
  match nextCommand s r with
  | none => .next s
  | some c =>
    if c.code ≠ code || !mine c then .next s
    else if commandBad s c || bad s c then .next (finishCommand s r c 2)
    else if commandRefused s c then .next (finishCommand s r c 3)
    else match run s r c with
      | some (s1, status) => .next (finishCommand s1 r c status)
      | none => .next s

/-- A command of one form, performed at once. -/
def plainCommand (code : Nat) (bad : State → Command → Bool) (run : State → Command → State × Nat) (s : State) :
    Out :=
  hostCommand code (fun _ => true) bad (fun s _ c => some (run s c)) s

/-! ## Contexts and launches -/

/-- R375: whether a context descriptor breaks its layout. -/
def contextBad (b : List Byte) : Bool :=
  let v := leNat b
  let id := efield v 64 16
  decide (efield v 81 15 ≠ 0 ∨ efield v 103 25 ≠ 0 ∨ efield v 197 59 ≠ 0 ∨ efield v 416 96 ≠ 0) ||
    (decide (id ≠ 0) && decide (efield v 0 12 ≠ 0 ∨ efield v 51 13 ≠ 0 ∨ efield v 96 7 = 0 ∨ 72 < efield v 96 7 ∨
      efield v 128 12 ≠ 0 ∨ efield v 192 5 < 7 ∨ 20 < efield v 192 5 ∨ efield v 256 2 ≠ 0 ∨ efield v 313 7 ≠ 0 ∨
      efield v 320 16 ≠ 0))

/-- R375: writes a context descriptor; its queue, tables and images stay. -/
def putContext (s : State) (b : List Byte) : State :=
  let v := leNat b
  let id := efield v 64 16
  if id = 0 then s
  else
    let old := tget s.contexts id default
    { s with contexts := tput s.contexts id { old with
        tbase := efield v 0 64, fence := ebit v 80, clusters := efield v 96 7, fq := efield v 128 64
        fqlog := efield v 192 5, tvec := BitVec.ofNat 57 (efield v 256 57), save := efield v 320 64
        savesz := efield v 384 32 } }

/-- R375: it takes effect when no warp of the context is resident. -/
def execWriteContextDescriptor (s : State) : Out :=
  hostCommand 0x01 (fun _ => true) (fun s c => contextBad (hostBytes s (c.op 0) 64)) (fun s _ c =>
    let b := hostBytes s (c.op 0) 64
    if s.warps.any fun p => p.2.ident.ctx = efield (leNat b) 64 16 then none else some (putContext s b, 1)) s

/-- The completion word of a plain launch is its command's. A launch that completes as it is submitted has
written it last (notes/assumptions/41.md). -/
def launchStatus (s : State) (g : Nat) : Nat :=
  let y := graphAt s g
  if y.complete && y.nodes.any fun p => decide (p.2.status = 2) then 2 else 1

/-- R378. -/
def execSubmitLaunch (s : State) : Out :=
  plainCommand 0x02 (fun _ c => decide (c.op 0 % 64 ≠ 0)) (fun s c =>
    let s1 := submitLaunch s c.ctx (c.op 0) (hostPa c.done) none
    (s1, launchStatus s1 s.fresh)) s

/-- R378. -/
def execSubmitGraph (s : State) : Out :=
  plainCommand 0x03 (fun _ c => decide (c.op 0 % 64 ≠ 0)) (fun s c => (submitGraph s c.ctx (c.op 0), 1)) s

/-- R399: a frame event of the host layer. -/
def execFrameEvent (s : State) : Out :=
  plainCommand 0x04 (fun _ _ => false) (fun s _ => (frameEvents s fun g => decide (g.frame = 0), 1)) s

/-- R426. -/
def execPersistentLaunch (s : State) : Out :=
  plainCommand 0x0F (fun s c => decide (c.op 0 % 64 ≠ 0 ∨ s.dies ≤ c.op 1)) (fun s c =>
    let s1 := checkPersistent (submitLaunch s c.ctx (c.op 0) (hostPa c.done) (some (c.op 1))) s.fresh
    (s1, launchStatus s1 s.fresh)) s

/-! ## Translations and records -/

/-- R437: whether an address range of the invalidate command, 0 for the whole context, meets a page or line. -/
def inRange (start len a n : Nat) : Bool := decide (len = 0 ∨ (a < start + len ∧ start < a + n))

/-- R67, R437: whether an operation, or a unit's own request, still has to perform accesses that it has translated:
requests of it are under way, or it is an update step, which writes element after element and does not wait at a fault. A
WAITM check that waits at another device is begun again instead (`renewChecks`). -/
def stillUses (s : State) (o : Nat) : Bool :=
  let mine := fun (id : Nat) (r : Req) => decide (r.op = o ∨ id = o)
  (s.reqs.any fun p => mine p.1 p.2) || (s.remote.any fun p => mine p.1 p.2.req && decide (p.2.req.kind ≠ .monitor)) ||
    ((tfind s.ops o).any fun op => op.kind == .update) && !(s.steps.any fun p => decide (p.2.op = some o) && p.2.waiting)

/-- The lanes of a WAITM that wait for a write of an element in a range. -/
def waitingLanes (s : State) (o : Nat) (op : Op) (hit : Nat → Nat → Bool) : BitVec 32 :=
  elemLanes (op.elems.filter fun e => hit e.addr 4 && ((s.monitors.any fun m =>
      decide (m.op = o ∧ m.lane = e.lane) && m.remote.isNone) ||
    s.remote.any fun p => decide (p.2.req.op = o) && p.2.req.parts.any fun x => x.2.2 = e.lane))

/-- R67, R437: the lanes of a WAITM that wait for writes of a range translate again and are checked again at their new
homes. A saved warp's WAITM is issued afresh, as the warp may now return (R270; DEDUCED, notes/assumptions/91.md). -/
def renewCheck (hit : Nat → Nat → Bool) (s : State) (o : Nat) (op : Op) : State :=
  let lanes := waitingLanes s o op hit
  let forget := fun r : Req => decide (r.op = o) && r.parts.all fun x => lanes.getLsbD x.2.2
  let s1 := { s with
    monitors := s.monitors.filter fun m => !(decide (m.op = o) && m.remote.isNone && lanes.getLsbD m.lane)
    remote := s.remote.map fun p =>
      (p.1, if forget p.2.req then { p.2 with req := { p.2.req with op := 0 }, stale := true } else p.2) }
  if lanes = 0 then s
  else if (op.warp.bind (tfind s.warps)).isNone then wakeSaved s o
  else modOp s1 o fun x => { x with mask := x.mask ||| lanes, placed := false, lines := x.lines.filter fun l => !hit l.va 128 }

def renewChecks (s : State) (c : Nat) (hit : Nat → Nat → Bool) : State :=
  (s.ops.filter fun p => decide (p.2.kind = .waitm ∧ p.2.ctx = c)).foldl (fun s p => renewCheck hit s p.1 p.2) s

/-- R437: cached translations of the range go; the command ends once the accesses that used them have been
performed or have faulted. -/
def execInvalidateTranslations (s : State) : Out :=
  hostCommand 0x05 (fun _ => true) (fun _ _ => false) (fun s r c =>
    let hit := inRange (c.op 0) (c.op 1)
    let s1 := { s with tlb := s.tlb.filter fun t => !(decide (t.ctx = c.ctx) && hit t.base t.attr.size) }
    match (ringOf s r).awaits with
    | none => none
    | some l => if l.any fun o => stillUses s o then none else some (renewChecks s1 c.ctx hit, 1)) (begin' s)
where
  /-- The first time, the translations go, and the operations and the units' requests that used them are noted; of a
  unit's request it is not known which page of its context it lies on. -/
  begin' (s : State) : State :=
    let r := subject s 0
    match nextCommand s r with
    | none => s
    | some c =>
      if c.code ≠ 0x05 ∨ commandBad s c ∨ commandRefused s c ∨ (ringOf s r).awaits.isSome then s
      else
        let hit := inRange (c.op 0) (c.op 1)
        let uses := (s.ops.filter fun p => decide (p.2.ctx = c.ctx) && stillUses s p.1 &&
          p.2.lines.any fun l => hit l.va 128).map Prod.fst
        let units := ((s.reqs.filter fun p => p.2.ofUnit && decide (p.2.ctx = c.ctx)).map Prod.fst) ++
          (s.remote.filter fun p => p.2.req.ofUnit && decide (p.2.req.ctx = c.ctx)).map Prod.fst
        let s1 := { s with tlb := s.tlb.filter fun t => !(decide (t.ctx = c.ctx) && hit t.base t.attr.size) }
        modRing s1 r fun x => { x with awaits := some (uses ++ units) }

/-- Resumes a fault-queue record. -/
def resumeRecord (abort : Bool) (s : State) (c : Command) : State × Nat :=
  let b := tget (tget s.contexts c.ctx default).behind (c.op 0) .none
  (resumeBehind (modCtx s c.ctx fun x => { x with behind := tput x.behind (c.op 0) .none }) abort b, 1)

def execResumeRecordReplay (s : State) : Out :=
  hostCommand 0x06 (fun c => decide (c.op 1 ≠ 1)) (fun _ c => decide (1 < c.op 1))
    (fun s _ c => some (resumeRecord false s c)) s
def execResumeRecordAbort (s : State) : Out :=
  hostCommand 0x06 (fun c => decide (c.op 1 = 1)) (fun _ _ => false)
    (fun s _ c => some (resumeRecord true s c)) s

/-- R376. -/
def execFaultQueueHead (s : State) : Out :=
  plainCommand 0x07 (fun _ _ => false) (fun s c =>
    let s1 := modCtx s c.ctx fun x => { x with fqHead := c.op 0 }
    (flushRecords ((tget s1.contexts c.ctx default).waiting.length + 1) s1 c.ctx, 1)) s

/-! ## Tables -/

/-- R453: extends a measurement register of a die. -/
def extendMeasure (s : State) (d i : Nat) (x : List Byte) : State :=
  modDie s d fun y => { y with measures := lmod y.measures i fun m => shake256 (m ++ x) 64 }

/-- R265, R453: a routine of n words; a rejected one leaves its slot not valid. -/
def execWriteRoutineSlot (s : State) : Out :=
  plainCommand 0x08 (fun _ c => decide (64 ≤ c.op 0 ∨ c.op 1 = 0 ∨ 16 < c.op 1)) (fun s c =>
    let b := hostBytes s (c.op 2) (4 * c.op 1)
    let l := (List.range (c.op 1)).map fun i => BitVec.ofNat 32 (wordAt b i)
    if routineOk l then
      (extendMeasure (modCtx s c.ctx fun x => { x with routines := tput x.routines (c.op 0) l }) c.die 3 b, 1)
    else (modCtx s c.ctx fun x => { x with routines := tdel x.routines (c.op 0) }, 3)) s

/-- R275: whether an update descriptor is malformed. -/
def updateBad (b : List Byte) : Bool :=
  let v := leNat b
  decide (2 ≤ efield v 97 2 ∨ efield v 99 5 ≠ 0 ∨ efield v 416 96 ≠ 0 ∨ efield v 0 7 ≠ 0 ∨ efield v 51 13 ≠ 0)

def execWriteUpdateDescriptor (s : State) : Out :=
  plainCommand 0x09 (fun s c => decide (64 ≤ c.op 0) || updateBad (hostBytes s (c.op 1) 64)) (fun s c =>
    let v := leNat (hostBytes s (c.op 1) 64)
    let d : UpdateDesc :=
      { gbase := efield v 0 64, lines := efield v 64 32, valid := ebit v 96, alg := efield v 97 2
        pub := efield v 104 8, ctx := efield v 112 16, master := efield v 128 64, mom1 := efield v 192 64
        mom2 := efield v 256 64, hyp := efield v 320 64, out := efield v 384 32 }
    ({ s with updates := tput s.updates (c.op 0) d }, 1)) s

/-- R341, R453: the instruction-store image of a context. -/
def execWriteAccessProcessorImage (s : State) : Out :=
  plainCommand 0x0A (fun _ c => decide (16384 < c.op 1)) (fun s c =>
    let b := hostBytes s (c.op 0) (c.op 1)
    (extendMeasure (modCtx s c.ctx fun x => { x with image := mstore [] 0 b }) c.die 2 b, 1)) s

/-- R62: the backings, the version and the enable bit of a publish entry. -/
def execWritePublishEntry (s : State) : Out :=
  plainCommand 0x0B (fun _ c => decide (256 ≤ c.op 0 ∨ 2 ^ 32 ≤ c.op 3 ∨ 1 < c.op 4)) (fun s c =>
    (setPub s (c.op 0) { pubAt s (c.op 0) with
      back0 := c.op 1, back1 := c.op 2, version := BitVec.ofNat 32 (c.op 3), enabled := decide (c.op 4 = 1) }, 1)) s

/-- R418: whether a resident launch of a context carries a descriptor. -/
def carried (s : State) (c d : Nat) : Bool :=
  s.graphs.any fun g => decide (g.2.ctx = c) && g.2.nodes.any fun n =>
    decide (n.2.st = .ready) && (n.2.hdr.bind Header.collective) == some d

/-- R418. -/
def execWriteCollectiveDescriptor (s : State) : Out :=
  plainCommand 0x0C (fun _ c => decide (1024 ≤ c.op 0)) (fun s c =>
    let d := c.op 0
    if carried s c.ctx d || !collDone s c.ctx d then (s, 3)
    else
      let s1 := modCtx s c.ctx fun x => { x with
        collectives := tput x.collectives d (hostBytes s (c.op 1) 64)
        epochs := tdel x.epochs d, epochLines := tdel x.epochLines d, epochDone := tdel x.epochDone d }
      (dropOverflow s1 fun e => decide (e.ctx = c.ctx ∧ e.desc = d), 1)) s

/-! ## System areas (R278, R414, R415, R423) -/

def areaCommand (mine : Nat → Bool) (bad : Command → Bool) (run : State → Command → State) (s : State) : Out :=
  hostCommand 0x0D (fun c => mine (c.op 0)) (fun _ c => bad c) (fun s _ c => some (run s c, 1)) s

def execSetRouteTable (s : State) : Out :=
  areaCommand (fun k => decide (k = 0)) (fun c => decide (2 ^ 48 ≤ c.op 1))
    (fun s c => { s with routeTable := some (c.op 1) }) s
def execSetApertureTable (s : State) : Out :=
  areaCommand (fun k => decide (k = 1)) (fun c => decide (2 ^ 49 ≤ c.op 1))
    (fun s c => { s with apertureTable := some (c.op 1) }) s
/-- R423, R424: the area's size in bytes, entries of 256. An exhaustion is over where the new area has a free entry. -/
def execSetOverflowArea (s : State) : Out :=
  areaCommand (fun k => decide (k = 2))
    (fun c => decide (2 ^ 48 ≤ c.op 1 ∨ c.op 2 / 256 < 1024 ∨ 2 ^ 20 < c.op 2 / 256))
    (fun s c =>
      let s1 := { s with overflowArea := some (c.op 1, c.op 2 / 256) }
      { s1 with overflowFull := s.overflowFull && (freeOverflow s1).isNone }) s
def execSetCompressionMetadata (s : State) : Out :=
  areaCommand (fun k => decide (3 ≤ k)) (fun c => decide (3 < c.op 0 ∨ 2 ^ 48 ≤ c.op 1))
    (fun s c => { s with metadata := some (c.op 1, c.op 2) }) s

/-! ## The partition (R425, R427) -/

def execPartitionReserve (s : State) : Out :=
  hostCommand 0x0E (fun c => decide (c.op 0 ≠ 1))
    (fun s c => decide (1 < c.op 0 ∨ s.dies ≤ c.op 1 ∨ c.op 2 = 0 ∨ 16 < c.op 2))
    (fun s _ c => some (if (dieAt s (c.op 1)).partition.isSome then (s, 3)
      else (modDie s (c.op 1) fun x => { x with partition := some (c.op 2, c.ctx) }, 1))) s

/-- R427: refused while a warp of the partition is resident. -/
def execPartitionRelease (s : State) : Out :=
  hostCommand 0x0E (fun c => decide (c.op 0 = 1)) (fun s c => decide (s.dies ≤ c.op 1))
    (fun s _ c =>
      let d := c.op 1
      match (dieAt s d).partition with
      | some (_, x) =>
        let used := s.warps.any fun p => decide (p.2.die = d) && ofPartition s p.2
        some (if x ≠ c.ctx ∨ used then (s, 3) else (modDie s d fun y => { y with partition := none }, 1))
      | none => some (s, 3)) s

/-! ## Fields, ports and status -/

/-- R385, R445: an island's operating point and dispatch threshold. -/
def execFieldControl (s : State) : Out :=
  plainCommand 0x10 (fun _ c => decide (2 < c.op 0 ∨ 3 < c.op 1)) (fun s c =>
    ({ s with islands := lmod s.islands (3 * c.die + c.op 0) fun x =>
        { x with point := c.op 1, threshold := c.op 2 } }, 1)) s

/-- R429: a port that is down is to be retrained. -/
def execRetrainPort (s : State) : Out :=
  plainCommand 0x11 (fun s c => decide (18 * s.dies ≤ c.op 0)) (fun s c =>
    let old := tget s.ports (c.op 0) default
    (if old.up then s else { s with ports := tput s.ports (c.op 0) { old with retraining := true } }, 1)) s

/-- R444: an island's status word. -/
def islandWord (x : Island) : Nat :=
  x.st % 4 + x.point % 4 * 2 ^ 2 + (if x.throttledCurrent || x.throttledHeat then 2 ^ 4 else 0) +
    x.amps % 2 ^ 11 * 2 ^ 5 + x.head % 2 ^ 11 * 2 ^ 16 + x.temp % 2 ^ 8 * 2 ^ 32

/-- R444: the ready maps, then the islands' status words (notes/assumptions/31.md). -/
def execReadStatus (s : State) : Out :=
  plainCommand 0x12 (fun _ _ => false) (fun s c =>
    let maps := (List.range 2).flatMap fun d => leBytes 4 (if d < s.dies then (dieAt s d).ready.toNat else 0)
    (hostWrite s (c.op 0) (maps ++ (s.islands.take (3 * s.dies)).flatMap fun x => leBytes 8 (islandWord x)), 1)) s

/-! ## Storage errors (R448 to R451) -/

/-- R449: nothing is held any more at a line, or at a word of a cluster store. -/
def releaseLine (s : State) (e : HeldError) : State :=
  let same := fun x : HeldError => decide (x.struct = e.struct ∧ x.unit = e.unit ∧ x.line = e.line)
  let held := s.errors.filter same
  held.foldl (fun s x => resumeBehind s false x.behind) { s with errors := s.errors.filter fun x => !same x }

/-- R450: the data of a scrub go to the line in one step, and what was held there goes on, in order. -/
def scrub (s : State) (e : HeldError) (b : List Byte) : State :=
  if e.struct = 4 ∨ e.struct = 5 then
    let s1 := modHomeLine (homeWrite s e.line b none) e.line fun h => { h with poison := none }
    { s1 with errors := s1.errors.filter fun x => !(decide ((x.struct = 4 ∨ x.struct = 5) ∧ x.line = e.line)) }
  else if e.struct = 6 then releaseLine (storeWrite s e.unit e.line b) e
  else resumeBehind { s with errors := s.errors.filter (· ≠ e) } false e.behind

/-- R449: one request held at a poisoned line is aborted: loads return 0, stores are dropped. -/
def abortReq (s : State) (id : Nat) (r : Req) : State :=
  let op := tget s.ops r.op default
  let s1 := match r.remote, opIssuer s r.op op with
    | none, some k => lateFlags s k flagOOB
    | _, _ => s
  match r.kind, r.remote with
  | .load, some m => reply (doneReq s1 id) m 1 0 (List.replicate 128 0)
  | .load, none => gotLine (doneReq s1 id) r.op r.line (List.replicate 128 0)
  | .store, some m => reply (doneReq s1 id) m 5 1 []
  | .contribution, some m => reply (doneReq s1 id) m 5 1 []
  | .monitor, none => settleWaitm (doneReq s1 id) r.op
  | _, some m => reply (doneReq s1 id) m 1 0 (Config.resultBytes [])
  | _, none => doneReq s1 id

/-- R450: aborts what is held behind one error record; a poisoned line stays poisoned. -/
def abortError (s : State) (e : HeldError) : State :=
  let s1 := { s with errors := s.errors.filter (· ≠ e) }
  match e.req with
  | some id => match tfind s1.reqs id with
    | some r => abortReq s1 id r
    | none => s1
  | none => resumeBehind s1 true e.behind

def errorCommand (mine : Command → Bool) (bad : Command → Bool) (run : State → Command → HeldError → State)
    (s : State) : Out :=
  hostCommand 0x13 mine (fun _ c => bad c) (fun s _ c =>
    match s.errors.find? fun e => e.pos = c.op 0 with
    | some e => some (run s c e, 1)
    | none => some (s, 1)) s

def execScrubReplay (s : State) : Out :=
  errorCommand (fun c => decide (c.op 1 ≠ 1)) (fun c => decide (1 < c.op 1))
    (fun s c e => scrub s e (hostBytes s (c.op 2) 128)) s
def execScrubAbort (s : State) : Out :=
  errorCommand (fun c => decide (c.op 1 = 1)) (fun _ => false) (fun s _ e => abortError s e) s

/-- R449: what an error is held behind, by the structure and what the report names: of a queue entry that an access
processor's context uses, and of that processor's own storage, the context. -/
def errorBehind (s : State) (e : ErrorReport) : Resumable :=
  let cl := clusterKey e.die e.unit
  let core := coreKey e.die e.unit
  if e.struct = 10 ∨ (e.struct = 7 ∧ e.target < 16 ∧ (tfind s.cores core).isSome) then .park core (e.target / 8) (e.target % 8)
  else if (tfind s.ops e.target).isSome then .op e.target
  else if (tfind s.steps e.loc).isSome then .update e.loc
  else if (tfind (clusterAt s cl).mx e.target).isSome then .matrix cl e.target
  else if (clusterAt s cl).hashQueue.isEmpty then .none else .hash cl

/-- R448: the context for which what is held works. -/
def behindCtx (s : State) : Resumable → Nat
  | .op o => (tget s.ops o default).ctx
  | .update line => ((tfind s.steps line).map fun x => (tget s.updates x.desc default).ctx).getD 0
  | .matrix c i => ((tfind (clusterAt s c).mx i).bind fun x => anyWarp s x.warp).elim 0 fun w => w.ident.ctx
  | .hash c => ((clusterAt s c).hashQueue.head?.bind fun x => anyWarp s x.warp).elim 0 fun w => w.ident.ctx
  | .park c _ _ => (coreAt s c).ctx
  | _ => 0

/-- The context that an error touches, 0 for none (R448). -/
def errorCtx (s : State) (e : ErrorReport) : Nat :=
  match e.struct with
  | 1 => (anyWarp s e.target).elim 0 fun w => w.ident.ctx
  | 2 | 3 => (coreAt s (coreKey e.die e.unit)).ctx
  | 4 | 5 | 11 => 0
  | _ => behindCtx s (errorBehind s e)

/-- Posts the record of an error (R448, R451); of HBM4, its stack and the field in which that lies are those of the
line (R15). -/
def errorPost (s : State) (e : ErrorReport) (kind save : Nat) : State :=
  let at' := if e.struct = 5 then errorPlace 5 (homeOf s e.loc) else (e.field, e.unit)
  postErrorFor s (errorCtx s e) e.die
    (errorRecord kind e.struct e.die at'.1 at'.2 (errorCtx s e) e.loc e.syndrome (correctedIn s e.struct) save)

/-- R449: counts and reports an error that the device has put right by itself. -/
def reportCorrected (s : State) (e : ErrorReport) : State :=
  errorPost { s with corrected := tput s.corrected e.struct (correctedIn s e.struct + 1) } e 0x80 0

def execCorrectedError (e : ErrorReport) (s : State) : Out :=
  .next (if errorRoom s then reportCorrected s e else s)

/-- R449: holds what an error touches. A context that a queue entry holds up keeps its state in its core: the rule has
only errors of the access processor itself write its save record (DESIGN CHOICE, notes/assumptions/92.md). -/
def holdBehind (s : State) (keep : Bool) : Resumable → State
  | .op o => modOp s o fun x => { x with faulted := true }
  | .update line => { s with steps := tmod s.steps line fun x => { x with waiting := true } }
  | .matrix c i => modCluster s c fun x => { x with mx := tmod x.mx i fun e => { e with held := true } }
  | .hash c => modCluster s c fun x => { x with hashHeld := true }
  | .park c u x =>
    let s1 := dropFetch s c u x
    let park := fun (s : State) kept => settleGroups (modApCtx s c u x fun y => { y with st := .parked, keptState := kept }) c
    if keep then park s1 true
    else
      let w := vwrite s1 (coreAt s c).ctx (c / 288) (apSpill s c u x) (apSaveRecord s1 c u x .parked)
      park w.1 w.2.isSome
  | _ => s

/-- R449: an uncorrectable error, by structure. -/
def execUncorrectableError (e : ErrorReport) (s : State) : Out :=
  let held := fun (s : State) (line : Nat) (b : Resumable) =>
    let unit := if e.struct = 6 then clusterKey e.die e.unit else e.unit
    { s with errors := s.errors ++ [⟨nextErrorPos s, e.struct, unit, line, b, none⟩] }
  let behind := errorBehind s e
  if !errorRoom s then .next s
  else
    match e.struct with
    | 1 =>
      if (tfind s.warps e.target).isNone then .next s
      else
        let r := removeWarp s e.target false true
        .next (errorPost r.1 e 0x82 r.2)
    | 2 => .next (reportCorrected s e)
    | 3 =>
      let s1 := modCore s (coreKey e.die e.unit) fun x => { x with cache := x.cache.filter fun l => l.pa ≠ lineOf e.loc }
      .next (reportCorrected s1 e)
    | 4 => .next (errorPost (poison (held s (lineOf e.loc) .none) e) e 0x81 0)
    | 5 => .next (errorPost (poison (held s (lineOf e.loc) .none) e) e 0x81 0)
    | 11 => .next (errorPost (modDie s e.die fun x => { x with stopped := true }) e 0x83 0)
    | _ =>
      let keep := decide (e.struct = 7)
      let save := match behind with
        | .park c u x => if keep then 0 else apSpill s c u x
        | _ => 0
      .next (errorPost (holdBehind (held s (lineOf e.loc) behind) keep behind) e 0x81 save)
where
  poison (s : State) (e : ErrorReport) : State :=
    modHomeLine s e.loc fun h => { h with poison := some (e.struct, e.syndrome) }

/-! ## Attestation (R454) -/

/-- R454: the ASCII string `cralia-id`. -/
def identityText : List Byte := [0x63, 0x72, 0x61, 0x6C, 0x69, 0x61, 0x2D, 0x69, 0x64]

/-- R454: the three seeds of a die's identity key, 16 bytes each, under a firmware image. -/
def identitySeeds (d n : Nat) : List Byte :=
  shake256 (Config.pufResponse d ++ Config.helperData n ++ identityText) 48

/-- R454: a report of a die: everything before its signature, then the signature. -/
def attestation (s : State) (d : Nat) (nonce : List Byte) : List Byte :=
  let seeds := identitySeeds d s.firmware
  let body := leBytes 4 s.device ++ leBytes 4 d ++ leBytes 8 (Config.imageVersion s.firmware) ++
    (dieAt s d).measures.flatten ++ nonce ++ slhPublic slhShake128f seeds
  body ++ padTo 17088 (slhSign slhShake128f seeds (padTo 16 (Config.signRandom s.free)) body)

/-- R453, R454: operand 2 is 0, or the register from m4 to m7 that the measurement at operand 3 extends. -/
def execAttestationReport (s : State) : Out :=
  plainCommand 0x14 (fun _ c => decide (c.op 2 ≠ 0 ∧ (c.op 2 < 4 ∨ 7 < c.op 2))) (fun s c =>
    let s1 := if c.op 2 = 0 then s else extendMeasure s c.die (c.op 2) (hostBytes s (c.op 3) 64)
    let b := attestation s1 c.die (hostBytes s (c.op 0) 32)
    (hostWrite { s1 with free := s1.free + 1 } (c.op 1) b, 1)) s

end Sys2Proof.Machine
end

