-- ==== Sys2Proof/Machine/BringUp.lean ====
section
/-!
DEFINITION. Bring-up of the package (R442, R443), firmware verification and measurement (R452, R453), and the
islands' own protection (R446) of spec/14_host_power_bringup.md.
-/

namespace Sys2Proof.Machine

/-! ## Step 1 (R442) -/

/-- Memory that keeps its contents while the package has no power: the host's. -/
def hostMemory (m : Memory) : Memory := m.filter fun c => 2 ^ 48 ≤ c.1

/-- R442: step 1: everything volatile is lost; islands B are powered and the management blocks leave reset.
What the host has been told stays told, and numbers once given are not given again. -/
def restart (s : State) : State :=
  let d := draw s
  { State.reset with
    dies := s.dies
    mem := hostMemory s.mem
    perDie := State.reset.perDie.take s.dies
    islands := ((List.range (3 * s.dies)).map fun i =>
      { (default : Island) with threshold := 60, st := if i % 3 = 1 then 1 else 0 })
    events := s.events, outbox := s.outbox, firmware := d.1
    fresh := s.fresh, free := d.2.free, now := s.now, turn := s.turn, issuer := s.issuer
    fetched := s.fetched, held := s.held }

def execPowerOn (s : State) : Out := .next (restart s)

/-- R438, R443, R452: a bring-up command is refused like any other, but by a die whose firmware failed. -/
def bringUpRefused (s : State) (c : Command) : Bool :=
  (decide (c.die = 1) && !s.dieLink) || !(readyBit s c.die 3 || readyBit s c.die 15)

/-- R442: the completion word is written before step 1 begins. -/
def execBringUpPackage (s : State) : Out :=
  let r := subject s 0
  match nextCommand s r with
  | none => .next s
  | some c =>
    if c.code ≠ 0x15 then .next s
    else if commandBad s c then .next (finishCommand s r c 2)
    else if bringUpRefused s c then .next (finishCommand s r c 3)
    else .next (restart (finishCommand s r c 1))

/-! ## Steps 2 to 4 -/

/-- R15: a die's field B, in which its management block, task-graph machine, die-to-die port and attach lie, runs. -/
def fieldB (s : State) (d : Nat) : Bool := islandOn s (3 * d + 1)

/-- R435: the attach is ready when at least one module has trained; a module that has not trained by then stays down. -/
def execHostAttachTrained (s : State) : Out :=
  let n := min 4 (subject s 0)
  if n = 0 ∨ !fieldB s 0 ∨ readyBit s 0 1 then .next s
  else .next { setReady s 0 1 with hostModules := n }

/-- R452: whether the firmware image verifies. -/
def imageVerifies (n : Nat) : Bool :=
  decide (shake256 (padTo 64 (Config.imageKey n)) 64 = Config.keyDigest ∧ Config.imageDevice n % 2 ^ 18 ≠ 0x3FFFF) &&
    slhVerifies slhShake256s (padTo 64 (Config.imageKey n)) (Config.imageBody n)
      (padTo 29792 (Config.imageSignature n))

/-- R442: die 0 verifies once the attach has trained, die 1 once the die-to-die link has. -/
def mayVerify (s : State) (d : Nat) : Bool :=
  decide (d < s.dies) && fieldB s d && !(dieAt s d).verified && !readyBit s d 15 &&
    (if d = 0 then readyBit s 0 1 else s.dieLink)

/-- R452, R453: a die verifies its image: it is measured, or the die runs nothing further. -/
def execFirmwareVerify (s : State) : Out :=
  let d := subject s 0
  let n := s.firmware
  if !mayVerify s d then .next s
  else if imageVerifies n then
    let image := Config.imageBody n ++ padTo 29792 (Config.imageSignature n)
    .next (modDie (extendMeasure (extendMeasure s d 0 (shake256 image 64)) d 1 (Config.imageConfig n)) d
      fun x => { x with verified := true })
  else .next (setReady s d 15)

/-- R413, R442: a die loads its configuration. -/
def execConfigurationLoad (s : State) : Out :=
  let d := subject s 0
  if !(dieAt s d).verified ∨ !fieldB s d then .next s
  else .next { setReady s d 0 with device := Config.imageDevice s.firmware % 2 ^ 18 }

/-- R407, R442: the die-to-die link trains; one that has gone down stays down. -/
def execDieToDieLinkTrained (s : State) : Out :=
  if s.dies < 2 ∨ !(dieAt s 0).verified ∨ s.dieLink ∨ s.dieLinkLost ∨ (dieAt s 0).failed ∨ (dieAt s 1).failed ∨
      !fieldB s 0 ∨ !fieldB s 1 then .next s
  else .next (setReady (setReady { s with dieLink := true } 0 2) 1 2)

/-- R442: step 4, once step 3 has finished on the die. -/
def execTgmStart (s : State) : Out :=
  let d := subject s 0
  if d < s.dies ∧ fieldB s d ∧ readyBit s d 0 ∧ (s.dies < 2 ∨ s.dieLink) then
    .next (modDie (setReady s d 3) d fun x => { x with lastHeartbeat := clockB s (1 - d) })
  else .next s

/-! ## Steps 5 and 6 -/

/-- R442, R444: an island is powered, which B has been since step 1; then its clusters and home slices are initialised, and
it is ready. -/
def execFieldPowerUp (s : State) : Out :=
  let d := subject s 0
  let f := subject s 1
  let x := lget s.islands (3 * d + f) default
  let put := fun (s : State) g => { s with islands := lmod s.islands (3 * d + f) g }
  if !readyBit s d 3 ∨ 3 ≤ f then .next s
  else if x.st = 0 then .next (put s fun x => { x with st := 1, clock := 0 })
  else if x.st = 1 then .next (put (setReady s d (4 + f)) fun x => { x with st := 2 })
  else .next s

/-- R442: the fields of a die are all ready. -/
def fieldsUp (s : State) (d : Nat) : Bool := readyBit s d 4 && readyBit s d 5 && readyBit s d 6

/-- R442, R443: an HBM4 stack is trained, its storage initialised. -/
def execHbmStackTrained (s : State) : Out :=
  let d := subject s 0
  let k := subject s 1
  if fieldsUp s d ∧ k < 8 then .next (setReady s d (7 + k)) else .next s

/-- R442: a system port trains at bring-up. -/
def execSystemPortTrained (s : State) : Out :=
  let p := subject s 0
  if p < 18 * s.dies ∧ fieldsUp s (p / 18) ∧ (tfind s.ports p).isNone then .next (portStart s p) else .next s

/-! ## Protection of the islands (R446) -/

def modIsland (s : State) (i : Nat) (f : Island → Island) : State := { s with islands := lmod s.islands i f }

/-- R446: a current above the limit for 64 cycles; fs.amps and fs.head tell of the mean over 256 mc alone. -/
def execCurrentThrottle (s : State) : Out :=
  if subject s 1 ≤ 1450 then .next s
  else .next (modIsland s (subject s 0) fun x => { x with throttledCurrent := decide (x.st ≠ 0 ∧ x.st ≠ 3) })

/-- R446: a mean current over 256 mc below the limit of a halving's end. -/
def execCurrentThrottleEnd (s : State) : Out :=
  let a := subject s 1
  if 1400 ≤ a then .next s
  else .next (modIsland s (subject s 0) fun x => { x with throttledCurrent := false, amps := a, head := headroom a })

/-- The cores of an island. -/
def islandCore (i k : Nat) : Bool := decide (islandOf (k / 288) (k % 288) = i)

/-- R15: a home slice of this device lies in an island. -/
def islandHome (i home : Nat) : Bool := decide (home < 1000 ∧ home / 96 * 3 + home % 96 / 32 = i)

/-- R446: a warp of a tripped island is lost; its context is told. -/
def loseWarp (s : State) (k : Nat) (w : Warp) : State :=
  let s1 := ((opsOf s k).map Prod.fst).foldl (fun s o => abandonReqs (endOp (unsample s o) o) o) s
  let i := islandOf w.die w.core
  postErrorFor { s1 with warps := tdel s1.warps k } w.ident.ctx w.die
    (errorRecord 0x82 1 w.die (i % 3) w.core w.ident.ctx 0 0 (correctedIn s 1) 0)

/-- R376, R446: the warps of an island that has tripped are lost, each as there is room for its record. -/
def loseWarps (s : State) (i : Nat) : State :=
  (s.warps.filter fun p => islandCore i p.2.coreOf).foldl (fun s p => ifRoom s (loseWarp s p.1 p.2)) s

/-- An engine of an island works at an operation: of its cores, its clusters, or its home slices. -/
def islandOp (s : State) (i : Nat) (p : Nat × Op) : Bool :=
  match p.2.kind with
  | .drain | .refill | .scatterGrad => islandCore i (coreKey (p.2.cluster / 72) (p.2.cluster % 72 * 4))
  | .update => s.steps.any fun x => decide (x.2.op = some p.1) && islandHome i (homeOf s x.1)
  | .start | .result | .tileCopy => decide (p.2.die * 3 + 1 = i)
  | k => (k.engine || p.2.warp.isNone) && islandCore i (coreKey p.2.die p.2.core)

/-- R446: what the home slices of an island hold is lost with it. A request at one of them stays unanswered, and so does a
WAITM check whose monitor is lost. -/
def dropHomes (s : State) (i : Nat) : State :=
  let gone := fun m : Monitor => !m.cluster && islandHome i m.home
  let check := fun m : Monitor =>
    let op := tget s.ops m.op default
    { (default : Req) with
      kind := .monitor, home := m.home, op := m.op, line := lineOf m.addr, src := coreKey op.die op.core, ctx := op.ctx }
  let checks := (s.monitors.filter fun m => gone m && m.remote.isNone).foldl (fun t m =>
    tput t (s.fresh + t.length) (check m)) s.reqs
  { s with
    homeLines := s.homeLines.filter fun p => !islandHome i (homeOf s p.1)
    copies := s.copies.filter fun x => !(decide (x.die * 3 + copySlice x.die x.pa % 96 / 32 = i))
    steps := s.steps.filter fun p => !islandHome i (homeOf s p.1)
    overflow := s.overflow.filter fun e => !islandHome i e.home
    publish := s.publish.filter fun p => !islandHome i (pubHome s p.1)
    monitors := s.monitors.filter fun m => !gone m
    reqs := checks
    fresh := s.fresh + checks.length }

/-- R15: with its field B a die loses its management block and task-graph machine, its end of the die-to-die link, and the
host attach (notes/assumptions/34.md). -/
def dropFieldB (s : State) (d : Nat) : State :=
  let s1 := linkDown (modDie s d fun x => { x with stopped := true })
  let s2 := clearReady (clearReady s1 d 0) d 3
  if d = 0 then clearReady { s2 with rings := s2.rings.map fun x => { x with enabled := false, awaits := none } } 0 1
  else s2

/-- R446: an island loses its rail, and its state, until the next bring-up. The system lanes of fields A and C lie in
them (R409). -/
def dropIsland (s : State) (i t : Nat) : State :=
  let d := i / 3
  let s1 := (s.ops.filter (islandOp s i)).foldl (fun s p => abandonReqs (endOp (unsample s p.1) p.1) p.1) s
  let s2 := dropHomes { s1 with
    cores := s1.cores.filter fun p => !islandCore i p.1
    clusters := s1.clusters.filter fun p => !islandCore i (coreKey (p.1 / 72) (p.1 % 72 * 4)) } i
  let s3 := clearReady (modIsland s2 i fun x =>
    { x with st := 3, throttledCurrent := false, throttledHeat := false, temp := t }) d (4 + i % 3)
  let s4 := ((List.range 18).filter fun p => (p < 9 ∧ i % 3 = 0) ∨ (9 ≤ p ∧ i % 3 = 2)).foldl
    (fun s p => portDown s (18 * d + p)) s3
  if i % 3 = 1 then dropFieldB s4 d else s4

/-- R446: at 120 °C an island trips. While records of its warps find no room, it is not done (R376). -/
def tripIsland (s : State) (i t : Nat) : State :=
  if s.islands.length ≤ i then s
  else loseWarps (if (lget s.islands i default).st = 3 then s else dropIsland s i t) i

def execThermalTrip (s : State) : Out :=
  let i := subject s 0
  .next (if subject s 1 < 120 ∧ (lget s.islands i default).st ≠ 3 then s else tripIsland s i (subject s 1))

def execThermalThrottle (s : State) : Out :=
  let t := subject s 1
  if t < 105 then .next s
  else if 120 ≤ t then execThermalTrip s
  else .next (modIsland s (subject s 0) fun x => { x with throttledHeat := decide (x.st ≠ 0 ∧ x.st ≠ 3), temp := t })

def execThermalThrottleEnd (s : State) : Out :=
  let t := subject s 1
  if 100 ≤ t then .next s
  else .next (modIsland s (subject s 0) fun x => { x with throttledHeat := false, temp := t })

end Sys2Proof.Machine
end

