-- ==== Sys2Proof/Machine/Integer.lean ====
section
/-!
DEFINITION. Integer, logic, shift, bit-field, compare, select, move, address and predicate
instructions (R176 to R186 of spec/06_lane_datapath.md).
-/

namespace Sys2Proof.Machine

/-! ## Shared forms -/

/-- An instruction of class int: its result from the type, saturation, and the words of a, b and d. -/
def intOp (h : BitVec 2) (d a : BitVec 7) (b : Src) (acc : Bool)
    (f : Nat → Bool → Word → Word → Word → Word) (s : State) : Out :=
  let base := formAB h a b
  let form : Form := { base with
    reads := base.reads ++ (if acc then [d.toNat] else []), accepts := acceptsInt }
  laneReg form d 2 (fun s w m l =>
    let ty := modeType m
    ⟨f ty (modeSat m) (srcReg s w a.toNat l) (b.value s w ty l) (srcReg s w d.toNat l), 0, none⟩) s

/-- Exact arithmetic brought into range once. -/
def arith (f : Int → Int → Int → Int) (ty : Nat) (sat : Bool) (a b d : Word) : Word :=
  fit ty sat (f (readInt ty a) (readInt ty b) (readInt ty d))

/-- Bitwise work on the low bits of a type. -/
def bitwise (f : Nat → Nat → Nat → Nat → Nat) (ty : Nat) (_ : Bool) (a b d : Word) : Word :=
  let w := intWidth ty
  extend ty (f w (a.toNat % 2 ^ w) b.toNat (d.toNat % 2 ^ w) % 2 ^ w : Nat)

/-! ## Arithmetic (R178) -/

def execIadd (h : BitVec 2) (d a b : BitVec 7) (s : State) : Out :=
  intOp h d a (.reg b.toNat) false (arith fun x y _ => x + y) s
def execIaddi (h : BitVec 2) (d a : BitVec 7) (i : BitVec 8) (s : State) : Out :=
  intOp h d a (.imm (immSigned i)) false (arith fun x y _ => x + y) s
def execIsub (h : BitVec 2) (d a b : BitVec 7) (s : State) : Out :=
  intOp h d a (.reg b.toNat) false (arith fun x y _ => x - y) s
def execImul (h : BitVec 2) (d a b : BitVec 7) (s : State) : Out :=
  intOp h d a (.reg b.toNat) false (arith fun x y _ => x * y) s
def execImulImm (h : BitVec 2) (d a : BitVec 7) (i : BitVec 8) (s : State) : Out :=
  intOp h d a (.typed i) false (arith fun x y _ => x * y) s
def execImulh (h : BitVec 2) (d a b : BitVec 7) (s : State) : Out :=
  intOp h d a (.reg b.toNat) false (fun ty _ x y _ =>
    extend ty (readInt ty x * readInt ty y / (2 ^ intWidth ty : Int))) s
def execImad (h : BitVec 2) (d a b : BitVec 7) (s : State) : Out :=
  intOp h d a (.reg b.toNat) true (arith fun x y z => z + x * y) s
def execImin (h : BitVec 2) (d a b : BitVec 7) (s : State) : Out :=
  intOp h d a (.reg b.toNat) false (arith fun x y _ => min x y) s
def execIminImm (h : BitVec 2) (d a : BitVec 7) (i : BitVec 8) (s : State) : Out :=
  intOp h d a (.typed i) false (arith fun x y _ => min x y) s
def execImax (h : BitVec 2) (d a b : BitVec 7) (s : State) : Out :=
  intOp h d a (.reg b.toNat) false (arith fun x y _ => max x y) s
def execImaxImm (h : BitVec 2) (d a : BitVec 7) (i : BitVec 8) (s : State) : Out :=
  intOp h d a (.typed i) false (arith fun x y _ => max x y) s
def execIabs (h : BitVec 2) (d a : BitVec 7) (s : State) : Out :=
  intOp h d a (.imm 0) false (arith fun x _ _ => if x < 0 then -x else x) s

/-! ## Logic (R179) -/

def execAnd (h : BitVec 2) (d a b : BitVec 7) (s : State) : Out :=
  intOp h d a (.reg b.toNat) false (bitwise fun _ x y _ => x &&& y) s
def execAndImm (h : BitVec 2) (d a : BitVec 7) (i : BitVec 8) (s : State) : Out :=
  intOp h d a (.imm (immUnsigned i)) false (bitwise fun _ x y _ => x &&& y) s
def execOr (h : BitVec 2) (d a b : BitVec 7) (s : State) : Out :=
  intOp h d a (.reg b.toNat) false (bitwise fun _ x y _ => x ||| y) s
def execOrImm (h : BitVec 2) (d a : BitVec 7) (i : BitVec 8) (s : State) : Out :=
  intOp h d a (.imm (immUnsigned i)) false (bitwise fun _ x y _ => x ||| y) s
def execXor (h : BitVec 2) (d a b : BitVec 7) (s : State) : Out :=
  intOp h d a (.reg b.toNat) false (bitwise fun _ x y _ => x ^^^ y) s
def execXorImm (h : BitVec 2) (d a : BitVec 7) (i : BitVec 8) (s : State) : Out :=
  intOp h d a (.imm (immUnsigned i)) false (bitwise fun _ x y _ => x ^^^ y) s
def execAndn (h : BitVec 2) (d a b : BitVec 7) (s : State) : Out :=
  intOp h d a (.reg b.toNat) false (bitwise fun w x y _ => x &&& (2 ^ w - 1 - y % 2 ^ w)) s
def execNot (h : BitVec 2) (d a : BitVec 7) (s : State) : Out :=
  intOp h d a (.imm 0) false (bitwise fun w x _ _ => 2 ^ w - 1 - x) s

/-! ## Shifts and rotates (R180) -/

/-- R180: a shift amount at or above the width leaves 0, or the sign. -/
def shlBits (w x n _ : Nat) : Nat := if w ≤ n then 0 else x * 2 ^ n
def shrBits (w x n _ : Nat) : Nat := if w ≤ n then 0 else x / 2 ^ n
def sarBits (w x n _ : Nat) : Nat :=
  let v := toSigned w x
  (v / (2 ^ min n w : Int) % (2 ^ w : Int)).toNat
def rotBits (w x n _ : Nat) : Nat := x * 2 ^ (n % w) % 2 ^ w + x / 2 ^ (w - n % w)

def execShl (h : BitVec 2) (d a b : BitVec 7) (s : State) : Out :=
  intOp h d a (.reg b.toNat) false (bitwise shlBits) s
def execShlImm (h : BitVec 2) (d a : BitVec 7) (n : BitVec 5) (s : State) : Out :=
  intOp h d a (.imm (immUnsigned n)) false (bitwise shlBits) s
def execShr (h : BitVec 2) (d a b : BitVec 7) (s : State) : Out :=
  intOp h d a (.reg b.toNat) false (bitwise shrBits) s
def execShrImm (h : BitVec 2) (d a : BitVec 7) (n : BitVec 5) (s : State) : Out :=
  intOp h d a (.imm (immUnsigned n)) false (bitwise shrBits) s
def execSar (h : BitVec 2) (d a b : BitVec 7) (s : State) : Out :=
  intOp h d a (.reg b.toNat) false (bitwise sarBits) s
def execSarImm (h : BitVec 2) (d a : BitVec 7) (n : BitVec 5) (s : State) : Out :=
  intOp h d a (.imm (immUnsigned n)) false (bitwise sarBits) s
def execRot (h : BitVec 2) (d a b : BitVec 7) (s : State) : Out :=
  intOp h d a (.reg b.toNat) false (bitwise rotBits) s
def execRotImm (h : BitVec 2) (d a : BitVec 7) (n : BitVec 5) (s : State) : Out :=
  intOp h d a (.imm (immUnsigned n)) false (bitwise rotBits) s

/-! ## Bit counts and fields (R181, R182) -/

def popBits (w x : Nat) : Nat := ((List.range w).filter fun i => x.testBit i).length
def clzBits (w x : Nat) : Nat := if x = 0 then w else w - 1 - Nat.log2 x
def revBits (w x : Nat) : Nat :=
  ((List.range w).map fun i => if x.testBit i then 2 ^ (w - 1 - i) else 0).sum

def execPopc (h : BitVec 2) (d a : BitVec 7) (s : State) : Out :=
  intOp h d a (.imm 0) false (bitwise fun w x _ _ => popBits w x) s
def execClz (h : BitVec 2) (d a : BitVec 7) (s : State) : Out :=
  intOp h d a (.imm 0) false (bitwise fun w x _ _ => clzBits w x) s
def execBrev (h : BitVec 2) (d a : BitVec 7) (s : State) : Out :=
  intOp h d a (.imm 0) false (bitwise fun w x _ _ => revBits w x) s

/-- R182: BFE on the bits of a and the control word b. -/
def bfeWord (ty : Nat) (_ : Bool) (a b _ : Word) : Word :=
  let w := intWidth ty
  let q := b.toNat % 256
  let len := min (b.toNat / 256 % 256) w
  let f := a.toNat % 2 ^ w / 2 ^ q % 2 ^ len
  if len = 0 then 0 else if intSigned ty then BitVec.ofInt 32 (toSigned len f) else BitVec.ofNat 32 f

/-- R182: BFI. -/
def bfiBits (w a b d : Nat) : Nat :=
  let q := b % 256
  let n := b / 256 % 256
  ((List.range w).map fun j =>
    let v := if q ≤ j ∧ j < q + n then a.testBit (j - q) else d.testBit j
    if v then 2 ^ j else 0).sum

def execBfe (h : BitVec 2) (d a b : BitVec 7) (s : State) : Out :=
  intOp h d a (.reg b.toNat) false bfeWord s
def execBfi (h : BitVec 2) (d a b : BitVec 7) (s : State) : Out :=
  intOp h d a (.reg b.toNat) true (bitwise bfiBits) s

/-! ## Compare, select, move, address (R183 to R185) -/

/-- R119: an ICMP condition. -/
def icond (c : Nat) (x y : Int) : Bool :=
  match c with
  | 0 => decide (x = y)
  | 1 => decide (x ≠ y)
  | 2 => decide (x < y)
  | 3 => decide (x ≤ y)
  | 4 => decide (y < x)
  | _ => decide (y ≤ x)

def compareOp (h : BitVec 2) (c : BitVec 4) (p : BitVec 3) (a : BitVec 7) (b : Src) (s : State) : Out :=
  lanePred { formAB h a b with accepts := acceptsInt } p 2 (fun s w m l =>
    let ty := modeType m
    ⟨boolWord (icond c.toNat (readInt ty (srcReg s w a.toNat l)) (readInt ty (b.value s w ty l))), 0, none⟩) s

def execIcmp (h : BitVec 2) (c : BitVec 4) (p : BitVec 3) (a b : BitVec 7) (s : State) : Out :=
  compareOp h c p a (.reg b.toNat) s
def execIcmpImm (h : BitVec 2) (c : BitVec 4) (p : BitVec 3) (a : BitVec 7) (i : BitVec 8) (s : State) :
    Out :=
  compareOp h c p a (.typed i) s

/-- R184: SEL acts in every lane of the active mask. -/
def execSel (h : BitVec 2) (d a b : BitVec 7) (s : State) : Out :=
  issue { formAB h a (.reg b.toNat) with writes := [d.toNat], past := true } (passing fun s k sl =>
    let w := warpAt s k
    queueLanes s k sl (regDest s k d) 2 (fun w i => (sliceAt w i).active) fun l =>
      ⟨if guardTrue w (gangMode w sl) l then srcReg s w a.toNat l else srcReg s w b.toNat l, 0, none⟩) s

def execMov (h : BitVec 2) (d a : BitVec 7) (s : State) : Out :=
  laneReg (formAB h a (.imm 0)) d 2 (fun s w _ l => ⟨srcReg s w a.toNat l, 0, none⟩) s
def execMovi (d : BitVec 7) (i : BitVec 15) (s : State) : Out :=
  laneReg {} d 2 (fun _ _ _ _ => ⟨immSigned i, 0, none⟩) s
def execMovh (j : BitVec 2) (d : BitVec 7) (i : BitVec 15) (s : State) : Out :=
  laneReg { reads := [d.toNat] } d 2 (fun s w _ l =>
    ⟨BitVec.ofNat 32 ((j.toNat * 32768 + i.toNat) * 32768 + (srcReg s w d.toNat l).toNat % 32768), 0,
      none⟩) s
/-- R185: the product and the sum are brought into range once; the element size is the type's width in
bytes. -/
def execLea (h : BitVec 2) (d a b : BitVec 7) (s : State) : Out :=
  intOp h d a (.reg b.toNat) false (fun ty sat x y _ =>
    fit ty sat (readInt ty x + readInt ty y * (intWidth ty / 8 : Nat))) s

/-! ## Predicates (R186) -/

def execPand (d a b : BitVec 3) (x : BitVec 1) (s : State) : Out :=
  lanePred {} d 2 (fun _ w _ l =>
    ⟨boolWord (predOf w l a.toNat && (predOf w l b.toNat ^^ decide (x = 1))), 0, none⟩) s
def execPor (d a b : BitVec 3) (x : BitVec 1) (s : State) : Out :=
  lanePred {} d 2 (fun _ w _ l =>
    ⟨boolWord (predOf w l a.toNat || (predOf w l b.toNat ^^ decide (x = 1))), 0, none⟩) s
def execPnot (d a : BitVec 3) (s : State) : Out :=
  lanePred {} d 2 (fun _ w _ l => ⟨boolWord (!predOf w l a.toNat), 0, none⟩) s
def execPmov (d a : BitVec 3) (s : State) : Out :=
  lanePred {} d 2 (fun _ w _ l => ⟨boolWord (predOf w l a.toNat), 0, none⟩) s
def execPmovReg (h : BitVec 2) (d : BitVec 3) (a : BitVec 7) (s : State) : Out :=
  lanePred (formAB h a (.imm 0)) d 2 (fun s w _ l =>
    ⟨boolWord (decide (srcReg s w a.toNat l ≠ 0)), 0, none⟩) s

end Sys2Proof.Machine
end

