-- ==== Sys2Proof/Machine/Permute.lean ====
section
/-!
DEFINITION. The permute network (R203 to R212 of spec/06_lane_datapath.md).
-/

namespace Sys2Proof.Machine

/-- R203: before lanes of other slices are read, expired latch entries of every slice that the source
field names hold free values (R112). -/
def freshenAll (s : State) (k f : Nat) : State :=
  (List.range 8).foldl (fun s i => freshenLatch s k i f) s

/-- R135, R203: the registers of field `a` in the lanes that participating lanes name, a lane by its number. -/
def namedLanes (a : BitVec 7) (from' : State → Warp → BitVec 8 → Nat → Nat) (s : State) (w : Warp) (sl : BitVec 8) :
    List (Nat × Nat) :=
  if 125 ≤ a.toNat then [] else (gangLanes w sl).map fun l => (from' s w sl l, w.win + a.toNat)

/-- A permute that writes a register with latency 6: each participating lane takes the value of field `a` in the lane that
it names. -/
def permute (h : BitVec 2) (d a : BitVec 7) (b : Src) (from' : State → Warp → BitVec 8 → Nat → Nat) (s : State) : Out :=
  issue { formAB h a b with writes := [d.toNat], past := true, far := namedLanes a from' } (passing fun s k sl =>
    let s1 := freshenAll s k a.toNat
    let w := warpAt s1 k
    queueLanes s1 k sl (regDest s k d) 6 guarded fun l => ⟨srcReg s1 w a.toNat (from' s1 w sl l), 0, none⟩) s

def execVperm (h : BitVec 2) (d a b : BitVec 7) (s : State) : Out :=
  permute h d a (.reg b.toNat) (fun s w _ l => (srcReg s w b.toNat l).toNat % 32) s

/-- R205: the lane that lane `l` reads under control word `c`. -/
def shuffleSource (c : Word) (l : Nat) : Nat :=
  let k := c.toNat % 32
  let seg := 2 ^ min (c.toNat / 256 % 8) 5
  let base := l - l % seg
  let i := l - base
  match c.toNat / 32 % 4 with
  | 0 => if k ≤ i then l - k else l
  | 1 => if i + k < seg then l + k else l
  | 2 => base + (i + k) % seg
  | _ => base + (i ^^^ (k % seg))

def execVshfl (h : BitVec 2) (d a b : BitVec 7) (s : State) : Out :=
  permute h d a (.reg b.toNat) (fun s w sl l => shuffleSource (warpOperand s w sl b.toNat) l) s

def execVbfx (h : BitVec 2) (d a : BitVec 7) (m : BitVec 5) (s : State) : Out :=
  permute h d a (.imm 0) (fun _ _ _ l => l ^^^ m.toNat) s

def execVbcast (h : BitVec 2) (d a : BitVec 7) (j : BitVec 5) (s : State) : Out :=
  permute h d a (.imm 0) (fun _ _ _ _ => j.toNat) s

/-! ## Reductions and scans (R99, R100, R208) -/

/-- R100: the identity of an operation under a type, as an element: FP32 bits under a float sum,
minimum or maximum, a register word otherwise. -/
def identity (ty op : Nat) : Nat :=
  if 6 ≤ ty then
    match op with
    | 0 => 0x80000000
    | 1 => infBits false
    | 2 => infBits true
    | 3 => 0xFFFFFFFF
    | _ => 0
  else
    match op with
    | 1 => (extend ty (intMax ty)).toNat
    | 2 => (extend ty (intMin ty)).toNat
    | 3 => (extend ty (2 ^ intWidth ty - 1)).toNat
    | _ => 0

/-- R208: one combination of two elements. -/
def combine (ty op : Nat) (m : Word) (x y : Nat) (g : Word) : Rounded :=
  let word := fun n : Nat => BitVec.ofNat 32 n
  let int := fun (v : Word) => (⟨v.toNat, 0, g⟩ : Rounded)
  if 6 ≤ ty ∧ op ≤ 2 then
    let rn := modeRounding m (precOf ty)
    if op = 0 then fAdd rn (operand rn x) (operand rn y) g
    else minMaxElem (decide (op = 2)) false false rn x y 0 g
  else
    match op with
    | 0 => int (fit ty (modeSat m) (readInt ty (word x) + readInt ty (word y)))
    | 1 => int (extend ty (min (readInt ty (word x)) (readInt ty (word y))))
    | 2 => int (extend ty (max (readInt ty (word x)) (readInt ty (word y))))
    | 3 => int (bitwise (fun _ a b _ => a &&& b) ty false (word x) (word y) 0)
    | 4 => int (bitwise (fun _ a b _ => a ||| b) ty false (word x) (word y) 0)
    | _ => int (bitwise (fun _ a b _ => a ^^^ b) ty false (word x) (word y) 0)

/-- R99: one level of the pairwise tree. -/
def treeLevel (f : Nat → Nat → Word → Rounded) : List Nat → Word → List Nat × BitVec 6 × Word
  | x :: y :: r, g =>
    let c := f x y g
    let t := treeLevel f r c.gen
    (c.bits :: t.1, c.flags ||| t.2.1, t.2.2)
  | l, g => (l, 0, g)

/-- R99: the tree of `n` levels. -/
def tree (f : Nat → Nat → Word → Rounded) : Nat → List Nat → Word → Nat × BitVec 6 × Word
  | 0, l, g => (l.headD 0, 0, g)
  | n + 1, l, g =>
    let t := treeLevel f l g
    let u := tree f n t.1 t.2.2
    (u.1, t.2.1 ||| u.2.1, u.2.2)

/-- R99: the running sums of a scan whose last sum is `acc`. -/
def scan (f : Nat → Nat → Word → Rounded) : List Nat → Nat → Word → List Nat × BitVec 6 × Word
  | [], _, g => ([], 0, g)
  | x :: r, acc, g =>
    let c := f acc x g
    let t := scan f r c.bits c.gen
    (c.bits :: t.1, c.flags ||| t.2.1, t.2.2)

/-- The elements that an instruction reduces, one list for each element position: under a float sum,
minimum or maximum the float elements, a denormal read as zero under `mode.ftz` (R83), otherwise the word read at
the width of its type (R208). -/
def elementLists (ty op : Nat) (m : Word) (vals : List Word) : List (List Nat) :=
  if 6 ≤ ty ∧ op ≤ 2 then
    (List.range (if ty = 8 then 2 else 1)).map fun i => vals.map fun v =>
      flushBits (modeFtz m) (lget (elemsOf ty v) i 0)
  else [vals.map fun v => (extend ty (readInt ty v)).toNat]

def elementWord (ty op : Nat) (l : List Nat) : Word :=
  if 6 ≤ ty ∧ op ≤ 2 then packElems ty l else BitVec.ofNat 32 (l.headD 0)

/-- The values that all 32 lanes contribute (R100): the identity for a lane that does not take part. -/
def contributions (s : State) (w : Warp) (part : List Nat) (ty op f : Nat) : List Word :=
  (List.range 32).map fun l =>
    if l ∈ part then srcReg s w f l
    else
      let i := identity ty op
      if 6 ≤ ty ∧ op ≤ 2 then packElems ty [i, i] else BitVec.ofNat 32 i

def acceptsReduce (op : Nat) (m : Word) : Bool :=
  acceptsInt m && (decide (modeType m < 6 ∨ op ≠ 0) || roundsOk m)

/-- R208: VRED and VSCAN: `run` gives the word for each lane, the flags and the generator. -/
def reduceOp (h : BitVec 2) (d a : BitVec 7) (op : Nat)
    (run : Nat → Word → List Word → Word → List Word × BitVec 6 × Word) (s : State) : Out :=
  issue { formAB h a (.imm 0) with
      writes := [d.toNat], past := true, accepts := acceptsReduce op } (passing fun s k sl =>
    let w := warpAt s k
    let m := gangMode w sl
    let part := gangLanes w sl
    let low := part.headD 0
    let r := run (modeType m) m (contributions s w part (modeType m) op a.toNat) (genOf w low)
    let s1 := queueLanes s k sl (regDest s k d) 6 guarded fun l => ⟨lget r.1 l 0, r.2.1, none⟩
    if part.isEmpty then s1 else modWarp s1 k fun w => { w with gen := tput w.gen low r.2.2 }) s

/-- R208: runs one element position after another, the generator passing through. -/
def eachList (f : List Nat → Word → List Nat × BitVec 6 × Word) :
    List (List Nat) → Word → List (List Nat) × BitVec 6 × Word
  | [], g => ([], 0, g)
  | l :: r, g =>
    let a := f l g
    let b := eachList f r a.2.2
    (a.1 :: b.1, a.2.1 ||| b.2.1, b.2.2)

def execVred (h : BitVec 2) (d a : BitVec 7) (o : BitVec 3) (s : State) : Out :=
  let op := o.toNat
  reduceOp h d a op (fun ty m vals g =>
    let r := eachList (fun l g =>
      let t := tree (combine ty op m) 5 l g
      ([t.1], t.2.1, t.2.2)) (elementLists ty op m vals) g
    (List.replicate 32 (elementWord ty op (r.1.map fun l => l.headD 0)), r.2.1, r.2.2)) s

def execVscan (h : BitVec 2) (d a : BitVec 7) (e : BitVec 1) (o : BitVec 3) (s : State) : Out :=
  let op := o.toNat
  reduceOp h d a op (fun ty m vals g =>
    let r := eachList (fun l g =>
      let t := scan (combine ty op m) l.tail (l.headD 0) g
      (l.headD 0 :: t.1, t.2.1, t.2.2)) (elementLists ty op m vals) g
    let at' := fun i => elementWord ty op (r.1.map fun l => lget l i 0)
    let first := elementWord ty op (r.1.map fun _ => identity ty op)
    ((List.range 32).map fun l =>
      if e = 0 then at' l else if l = 0 then first else at' (l - 1), r.2.1, r.2.2)) s

/-! ## Indexed registers (R209, R210) -/

/-- R209: the physical register that a lane's index names. -/
def indexedReg (s : State) (w : Warp) (f l : Nat) : Nat :=
  (BitVec.ofNat 32 w.win + srcReg s w f l).toNat

/-- The registers in range that the lanes of a gang name, with their lanes. -/
def indexedRegs (s : State) (w : Warp) (sl : BitVec 8) (f : Nat) : List (Nat × Nat) :=
  ((gangLanes w sl).map fun l => (l, indexedReg s w f l)).filter fun p => decide (p.2 < w.ceil)

def execVrdi (h : BitVec 2) (d a : BitVec 7) (s : State) : Out :=
  laneReg { formAB h a (.imm 0) with far := fun s w sl => indexedRegs s w sl a.toNat } d 6 (fun s w _ l =>
    let p := indexedReg s w a.toNat l
    if p < w.ceil then ⟨physReg s w p l, 0, none⟩ else ⟨0, flagOOB, none⟩) s

/-- The largest count of the results waiting in a gang for these registers (R135). -/
def waitingFor (w : Warp) (sl : BitVec 8) (regs : List Nat) : Nat :=
  ((bitsOf 8 sl).flatMap fun i => (sliceAt w i).queue.filterMap fun r =>
    match r.dest with
    | .reg n => if n ∈ regs then some r.left else none
    | _ => none).foldl max 0

/-- R210: marks the registers that the lanes name pending, and leaves the writes in flight. -/
def startVwri (d a : BitVec 7) (s : State) (k : Nat) (sl : BitVec 8) : State :=
  let w := warpAt s k
  let l := indexedRegs s w sl a.toNat
  let o := newId s
  let elems := l.map fun p : Nat × Nat =>
    { (default : Elem) with lane := p.1, addr := p.2, data := leBytes 4 (srcReg s w d.toNat p.1).toNat }
  let op : Op := { (default : Op) with
    kind := .registerWrite, die := w.die, core := w.core, cluster := w.clusterOf, ctx := w.ident.ctx
    warp := some k, slices := sl, elems := elems, issued := clockOf s w.die w.core
    flags := if l.length < (gangLanes w sl).length then flagOOB else 0 }
  let s1 := { o.2 with ops := tput o.2.ops o.1 op }
  modWarp s1 k fun w => { w with marks := w.marks ++ l.map fun p => ⟨p.1 / 4, p.2, o.1⟩ }

/-- What VWRI finds of the registers that its lanes name in its read cycle: they, with their lanes, the granules
it copies, and its extra cycles. -/
structure VwriPlan where
  regs : List (Nat × Nat)
  granules : List Nat
  extra : Nat
  deriving DecidableEq, Repr, Inhabited

/-- R134, R210: the plan of a VWRI whose read cycle comes after `t` extra cycles, and the cycles that it needs: those that a
conflict adds, 2 for each granule, and those of results still waiting for a named register. -/
def vwriAfter (d a : BitVec 7) (s : State) (w : Warp) (sl : BitVec 8) (t : Nat) : VwriPlan × Nat :=
  let l := indexedRegs s (tickGang w sl t) sl a.toNat
  let regs := (l.map Prod.snd).dedup
  let g := copiedGranules s w regs
  (⟨l, g, t⟩, (if bankConflict [d.toNat, a.toNat] then 1 else 0) + 2 * g.length + waitingFor w sl regs)

/-- R210: the plan of a VWRI: the first read cycle from `t` on that comes after all the cycles that it needs. Where a result
lands in a during the cycles that a itself causes, the rule goes in a circle and this is its end (DESIGN CHOICE,
notes/assumptions/81.md). `n` bounds the search; 300 cycles are more than any VWRI needs. -/
def planVwri (d a : BitVec 7) (s : State) (w : Warp) (sl : BitVec 8) : Nat → Nat → VwriPlan
  | 0, t => (vwriAfter d a s w sl t).1
  | n + 1, t =>
    let p := vwriAfter d a s w sl t
    if p.2 ≤ t then p.1 else planVwri d a s w sl n (t + 1)

def execVwri (h : BitVec 2) (d a : BitVec 7) (s : State) : Out :=
  issue { reads := [d.toNat, a.toNat], hold := h.toNat, a := a.toNat, past := true, ownBanks := true }
    (fun s k sl =>
      let w := warpAt s k
      let p := planVwri d a s w sl 300 0
      if indexedPending w p.regs || orderHeld s k sl [] p.regs then .wait s .other
      else
        let ask := if p.granules.isEmpty then (true, s) else askGranules s k sl 3 p.granules.length
        if !ask.1 then .wait ask.2 .copyFault
        else passing (startVwri d a)
          (modWarp (p.granules.foldl (fun s g => privatise s k g) ask.2) k fun w => tickGang w sl p.extra) k sl)
    s

/-- R210: the writes of a VWRI, 6 mc after its read cycle. -/
def execVwriWrite (s : State) : Out :=
  let o := subject s 0
  match tfind s.ops o with
  | some op =>
    if op.kind = .registerWrite ∧ op.issued + 6 ≤ clockOf s op.die op.core then .next (performWrites s o)
    else .next s
  | none => .next s

/-! ## Votes (R211, R212) -/

def execVbal (d : BitVec 7) (p : BitVec 3) (s : State) : Out :=
  issue { writes := [d.toNat], past := true } (passing fun s k sl =>
    let w := warpAt s k
    queueLanes s k sl (regDest s k d) 6 guarded fun _ =>
      ⟨toBits 32 ((gangLanes w sl).filter fun j => predOf w j p.toNat), 0, none⟩) s

def execVvote (v : BitVec 4) (d p : BitVec 3) (s : State) : Out :=
  issue { past := true } (passing fun s k sl =>
    let w := warpAt s k
    let l := (gangLanes w sl).map fun j => predOf w j p.toNat
    let r := match v.toNat with
      | 0 => l.any id
      | 1 => l.all id
      | _ => l.all id || !(l.any id)
    queueLanes s k sl (.pred d.toNat) 6 guarded fun _ => ⟨boolWord r, 0, none⟩) s

end Sys2Proof.Machine
end

