-- ==== Sys2Proof/Machine/Dispatch.lean ====
section
/-! DEFINITION. What each instruction and event does: one arm for each constructor of `Instr`. -/

namespace Sys2Proof.Machine

open Sys2Proof

def exec (i : Instr) (s : State) : Host.Outcome State Fault Refusal :=
  match i with
  | .bra o => Sys2Proof.Machine.execBra o s
  | .brc o => Sys2Proof.Machine.execBrc o s
  | .bri h a => Sys2Proof.Machine.execBri h a s
  | .call o => Sys2Proof.Machine.execCall o s
  | .calli h a => Sys2Proof.Machine.execCalli h a s
  | .mark o => Sys2Proof.Machine.execMark o s
  | .mode h a => Sys2Proof.Machine.execMode h a s
  | .modei sel f => Sys2Proof.Machine.execModei sel f s
  | .win h a => Sys2Proof.Machine.execWin h a s
  | .wini imm => Sys2Proof.Machine.execWini imm s
  | .rds d sel => Sys2Proof.Machine.execRds d sel s
  | .rdsClockLo d => Sys2Proof.Machine.execRdsClockLo d s
  | .wrs d sel => Sys2Proof.Machine.execWrs d sel s
  | .wrsWin d => Sys2Proof.Machine.execWrsWin d s
  | .wrsFlags d => Sys2Proof.Machine.execWrsFlags d s
  | .wrsSrseed d => Sys2Proof.Machine.execWrsSrseed d s
  | .freeze l => Sys2Proof.Machine.execFreeze l s
  | .grow imm => Sys2Proof.Machine.execGrow imm s
  | .shrink imm => Sys2Proof.Machine.execShrink imm s
  | .growReg h a => Sys2Proof.Machine.execGrowReg h a s
  | .shrinkReg h a => Sys2Proof.Machine.execShrinkReg h a s
  | .donate h a n => Sys2Proof.Machine.execDonate h a n s
  | .rend k => Sys2Proof.Machine.execRend k s
  | .bar c n imm => Sys2Proof.Machine.execBar c n imm s
  | .bara c n imm => Sys2Proof.Machine.execBara c n imm s
  | .barReg h a c n => Sys2Proof.Machine.execBarReg h a c n s
  | .baraReg h a c n => Sys2Proof.Machine.execBaraReg h a c n s
  | .waitc h a p => Sys2Proof.Machine.execWaitc h a p s
  | .waitp h a p => Sys2Proof.Machine.execWaitp h a p s
  | .sleep imm => Sys2Proof.Machine.execSleep imm s
  | .trap imm => Sys2Proof.Machine.execTrap imm s
  | .iadd h d a b => Sys2Proof.Machine.execIadd h d a b s
  | .iaddi h d a imm => Sys2Proof.Machine.execIaddi h d a imm s
  | .isub h d a b => Sys2Proof.Machine.execIsub h d a b s
  | .imul h d a b => Sys2Proof.Machine.execImul h d a b s
  | .imulImm h d a imm => Sys2Proof.Machine.execImulImm h d a imm s
  | .imulh h d a b => Sys2Proof.Machine.execImulh h d a b s
  | .imad h d a b => Sys2Proof.Machine.execImad h d a b s
  | .imin h d a b => Sys2Proof.Machine.execImin h d a b s
  | .iminImm h d a imm => Sys2Proof.Machine.execIminImm h d a imm s
  | .imax h d a b => Sys2Proof.Machine.execImax h d a b s
  | .imaxImm h d a imm => Sys2Proof.Machine.execImaxImm h d a imm s
  | .iabs h d a => Sys2Proof.Machine.execIabs h d a s
  | .and h d a b => Sys2Proof.Machine.execAnd h d a b s
  | .andImm h d a imm => Sys2Proof.Machine.execAndImm h d a imm s
  | .or h d a b => Sys2Proof.Machine.execOr h d a b s
  | .orImm h d a imm => Sys2Proof.Machine.execOrImm h d a imm s
  | .xor h d a b => Sys2Proof.Machine.execXor h d a b s
  | .xorImm h d a imm => Sys2Proof.Machine.execXorImm h d a imm s
  | .andn h d a b => Sys2Proof.Machine.execAndn h d a b s
  | .not h d a => Sys2Proof.Machine.execNot h d a s
  | .shl h d a b => Sys2Proof.Machine.execShl h d a b s
  | .shlImm h d a n => Sys2Proof.Machine.execShlImm h d a n s
  | .shr h d a b => Sys2Proof.Machine.execShr h d a b s
  | .shrImm h d a n => Sys2Proof.Machine.execShrImm h d a n s
  | .sar h d a b => Sys2Proof.Machine.execSar h d a b s
  | .sarImm h d a n => Sys2Proof.Machine.execSarImm h d a n s
  | .rot h d a b => Sys2Proof.Machine.execRot h d a b s
  | .rotImm h d a n => Sys2Proof.Machine.execRotImm h d a n s
  | .popc h d a => Sys2Proof.Machine.execPopc h d a s
  | .clz h d a => Sys2Proof.Machine.execClz h d a s
  | .brev h d a => Sys2Proof.Machine.execBrev h d a s
  | .bfe h d a b => Sys2Proof.Machine.execBfe h d a b s
  | .bfi h d a b => Sys2Proof.Machine.execBfi h d a b s
  | .icmp h c p a b => Sys2Proof.Machine.execIcmp h c p a b s
  | .icmpImm h c p a imm => Sys2Proof.Machine.execIcmpImm h c p a imm s
  | .sel h d a b => Sys2Proof.Machine.execSel h d a b s
  | .mov h d a => Sys2Proof.Machine.execMov h d a s
  | .movi d imm => Sys2Proof.Machine.execMovi d imm s
  | .movh j d imm => Sys2Proof.Machine.execMovh j d imm s
  | .lea h d a b => Sys2Proof.Machine.execLea h d a b s
  | .pand d a b x => Sys2Proof.Machine.execPand d a b x s
  | .por d a b x => Sys2Proof.Machine.execPor d a b x s
  | .pnot d a => Sys2Proof.Machine.execPnot d a s
  | .pmov d a => Sys2Proof.Machine.execPmov d a s
  | .pmovReg h d a => Sys2Proof.Machine.execPmovReg h d a s
  | .fadd h d a b => Sys2Proof.Machine.execFadd h d a b s
  | .faddAbs h d a b => Sys2Proof.Machine.execFaddAbs h d a b s
  | .fsub h d a b => Sys2Proof.Machine.execFsub h d a b s
  | .fsubAbs h d a b => Sys2Proof.Machine.execFsubAbs h d a b s
  | .fmul h d a b => Sys2Proof.Machine.execFmul h d a b s
  | .fmulAbs h d a b => Sys2Proof.Machine.execFmulAbs h d a b s
  | .ffma h d a b => Sys2Proof.Machine.execFfma h d a b s
  | .ffmaNp h d a b => Sys2Proof.Machine.execFfmaNp h d a b s
  | .ffmaNd h d a b => Sys2Proof.Machine.execFfmaNd h d a b s
  | .ffmaNn h d a b => Sys2Proof.Machine.execFfmaNn h d a b s
  | .fmin h d a b => Sys2Proof.Machine.execFmin h d a b s
  | .fminNan h d a b => Sys2Proof.Machine.execFminNan h d a b s
  | .fminAbs h d a b => Sys2Proof.Machine.execFminAbs h d a b s
  | .fmax h d a b => Sys2Proof.Machine.execFmax h d a b s
  | .fmaxNan h d a b => Sys2Proof.Machine.execFmaxNan h d a b s
  | .fmaxAbs h d a b => Sys2Proof.Machine.execFmaxAbs h d a b s
  | .fcmp h c p a b => Sys2Proof.Machine.execFcmp h c p a b s
  | .fcmpZ h c p a => Sys2Proof.Machine.execFcmpZ h c p a s
  | .frcp h d a => Sys2Proof.Machine.execFrcp h d a s
  | .frsq h d a => Sys2Proof.Machine.execFrsq h d a s
  | .fsqrt h d a => Sys2Proof.Machine.execFsqrt h d a s
  | .fexp2 h d a => Sys2Proof.Machine.execFexp2 h d a s
  | .flog2 h d a => Sys2Proof.Machine.execFlog2 h d a s
  | .fsin h d a => Sys2Proof.Machine.execFsin h d a s
  | .fsinPi h d a => Sys2Proof.Machine.execFsinPi h d a s
  | .fcos h d a => Sys2Proof.Machine.execFcos h d a s
  | .fcosPi h d a => Sys2Proof.Machine.execFcosPi h d a s
  | .ftanh h d a => Sys2Proof.Machine.execFtanh h d a s
  | .ffloor h d a => Sys2Proof.Machine.execFfloor h d a s
  | .ffrac h d a => Sys2Proof.Machine.execFfrac h d a s
  | .cvt h d a t => Sys2Proof.Machine.execCvt h d a t s
  | .cvtFi h d a t => Sys2Proof.Machine.execCvtFi h d a t s
  | .cvtIf h d a t => Sys2Proof.Machine.execCvtIf h d a t s
  | .cvtIi h d a t => Sys2Proof.Machine.execCvtIi h d a t s
  | .cvtb h d a b => Sys2Proof.Machine.execCvtb h d a b s
  | .cvtbD h d a b => Sys2Proof.Machine.execCvtbD h d a b s
  | .cvts h d a b x => Sys2Proof.Machine.execCvts h d a b x s
  | .cbenc h d a => Sys2Proof.Machine.execCbenc h d a s
  | .vperm h d a b => Sys2Proof.Machine.execVperm h d a b s
  | .vshfl h d a b => Sys2Proof.Machine.execVshfl h d a b s
  | .vbfx h d a m => Sys2Proof.Machine.execVbfx h d a m s
  | .vbcast h d a j => Sys2Proof.Machine.execVbcast h d a j s
  | .vred h d a o => Sys2Proof.Machine.execVred h d a o s
  | .vscan h d a e o => Sys2Proof.Machine.execVscan h d a e o s
  | .vrdi h d a => Sys2Proof.Machine.execVrdi h d a s
  | .vwri h d a => Sys2Proof.Machine.execVwri h d a s
  | .vbal d p => Sys2Proof.Machine.execVbal d p s
  | .vvote v d p => Sys2Proof.Machine.execVvote v d p s
  | .brec h r a => Sys2Proof.Machine.execBrec h r a s
  | .ld h d a r => Sys2Proof.Machine.execLd h d a r s
  | .ldImm d r imm => Sys2Proof.Machine.execLdImm d r imm s
  | .ldx h d a r w => Sys2Proof.Machine.execLdx h d a r w s
  | .ldxImm d r w imm => Sys2Proof.Machine.execLdxImm d r w imm s
  | .st h d a r => Sys2Proof.Machine.execSt h d a r s
  | .stImm d r imm => Sys2Proof.Machine.execStImm d r imm s
  | .stx h d a r w => Sys2Proof.Machine.execStx h d a r w s
  | .stxImm d r w imm => Sys2Proof.Machine.execStxImm d r w imm s
  | .lda h d a r => Sys2Proof.Machine.execLda h d a r s
  | .ldaImm d r imm => Sys2Proof.Machine.execLdaImm d r imm s
  | .stl h d a r => Sys2Proof.Machine.execStl h d a r s
  | .stlImm d r imm => Sys2Proof.Machine.execStlImm d r imm s
  | .ldc h d a imm => Sys2Proof.Machine.execLdc h d a imm s
  | .stc h d a imm => Sys2Proof.Machine.execStc h d a imm s
  | .ldaCluster h d a imm => Sys2Proof.Machine.execLdaCluster h d a imm s
  | .stlCluster h d a imm => Sys2Proof.Machine.execStlCluster h d a imm s
  | .acpy d r t c => Sys2Proof.Machine.execAcpy d r t c s
  | .apln d r t c => Sys2Proof.Machine.execApln d r t c s
  | .arrive h a n => Sys2Proof.Machine.execArrive h a n s
  | .fence m sel => Sys2Proof.Machine.execFence m sel s
  | .publish r => Sys2Proof.Machine.execPublish r s
  | .publishVf h a r => Sys2Proof.Machine.execPublishVf h a r s
  | .pref h a r => Sys2Proof.Machine.execPref h a r s
  | .prefImm r imm => Sys2Proof.Machine.execPrefImm r imm s
  | .cbld k r imm => Sys2Proof.Machine.execCbld k r imm s
  | .atomGlobal h d a o r => Sys2Proof.Machine.execAtomGlobal h d a o r s
  | .atomCluster h d a o => Sys2Proof.Machine.execAtomCluster h d a o s
  | .redGlobal h d a o r => Sys2Proof.Machine.execRedGlobal h d a o r s
  | .redCluster h d a o => Sys2Proof.Machine.execRedCluster h d a o s
  | .atomfGlobal h d a o r => Sys2Proof.Machine.execAtomfGlobal h d a o r s
  | .atomfCluster h d a o => Sys2Proof.Machine.execAtomfCluster h d a o s
  | .acasGlobal h d a r => Sys2Proof.Machine.execAcasGlobal h d a r s
  | .acasCluster h d a => Sys2Proof.Machine.execAcasCluster h d a s
  | .atomp d r k => Sys2Proof.Machine.execAtomp d r k s
  | .waitmGlobal h d a c r => Sys2Proof.Machine.execWaitmGlobal h d a c r s
  | .waitmCluster h d a c => Sys2Proof.Machine.execWaitmCluster h d a c s
  | .atomD h d a o r => Sys2Proof.Machine.execAtomD h d a o r s
  | .redD h d a o r => Sys2Proof.Machine.execRedD h d a o r s
  | .acasD h d a r => Sys2Proof.Machine.execAcasD h d a r s
  | .cacheopArm d r => Sys2Proof.Machine.execCacheopArm d r s
  | .cacheopDisarm d r => Sys2Proof.Machine.execCacheopDisarm d r s
  | .cacheopFlush d r => Sys2Proof.Machine.execCacheopFlush d r s
  | .cacheopEvict d r => Sys2Proof.Machine.execCacheopEvict d r s
  | .cacheopPackOn d r => Sys2Proof.Machine.execCacheopPackOn d r s
  | .cacheopPackOff d r => Sys2Proof.Machine.execCacheopPackOff d r s
  | .cacheopRangeFlush h a b => Sys2Proof.Machine.execCacheopRangeFlush h a b s
  | .cacheopRangeEvict h a b => Sys2Proof.Machine.execCacheopRangeEvict h a b s
  | .hcfg d t g sel => Sys2Proof.Machine.execHcfg d t g sel s
  | .hlookRows d sel f c => Sys2Proof.Machine.execHlookRows d sel f c s
  | .hlookPlanes d sel f c => Sys2Proof.Machine.execHlookPlanes d sel f c s
  | .hgrad d sel f c => Sys2Proof.Machine.execHgrad d sel f c s
  | .bstr d k => Sys2Proof.Machine.execBstr d k s
  | .bstrImm imm k => Sys2Proof.Machine.execBstrImm imm k s
  | .bstg d e t sel m => Sys2Proof.Machine.execBstg d e t sel m s
  | .bchn d e t n m => Sys2Proof.Machine.execBchn d e t n m s
  | .btrn d e t n m => Sys2Proof.Machine.execBtrn d e t n m s
  | .btrnW d e t sel m => Sys2Proof.Machine.execBtrnW d e t sel m s
  | .bdns d e t a b f c m => Sys2Proof.Machine.execBdns d e t a b f c m s
  | .bdrn d e t n c o => Sys2Proof.Machine.execBdrn d e t n c o s
  | .btps d => Sys2Proof.Machine.execBtps d s
  | .btpsOne d k => Sys2Proof.Machine.execBtpsOne d k s
  | .qpush d q => Sys2Proof.Machine.execQpush d q s
  | .qpushN d z q => Sys2Proof.Machine.execQpushN d z q s
  | .qpushRt d => Sys2Proof.Machine.execQpushRt d s
  | .qpop d q => Sys2Proof.Machine.execQpop d q s
  | .qpopN d z q => Sys2Proof.Machine.execQpopN d z q s
  | .qstat d k => Sys2Proof.Machine.execQstat d k s
  | .apgo d u c => Sys2Proof.Machine.execApgo d u c s
  | .apstop u c => Sys2Proof.Machine.execApstop u c s
  | .apBaseInstruction w => Sys2Proof.Machine.execApBaseInstruction w s
  | .apEnvironmentCall w => Sys2Proof.Machine.execApEnvironmentCall w s
  | .qPush b a => Sys2Proof.Machine.execQPush b a s
  | .qPop b a => Sys2Proof.Machine.execQPop b a s
  | .rtSuspend a => Sys2Proof.Machine.execRtSuspend a s
  | .rtResume d => Sys2Proof.Machine.execRtResume d s
  | .gWait a => Sys2Proof.Machine.execGWait a s
  | .gIssue b a => Sys2Proof.Machine.execGIssue b a s
  | .sIssue b a => Sys2Proof.Machine.execSIssue b a s
  | .bagSum a => Sys2Proof.Machine.execBagSum a s
  | .bagMean a => Sys2Proof.Machine.execBagMean a s
  | .rtBox a d => Sys2Proof.Machine.execRtBox a d s
  | .rtTri a d => Sys2Proof.Machine.execRtTri a d s
  | .emit d k => Sys2Proof.Machine.execEmit d k s
  | .emitReg h d a => Sys2Proof.Machine.execEmitReg h d a s
  | .post h a => Sys2Proof.Machine.execPost h a s
  | .postImm imm => Sys2Proof.Machine.execPostImm imm s
  | .sysc sel => Sys2Proof.Machine.execSysc sel s
  | .syscReg h a => Sys2Proof.Machine.execSyscReg h a s
  | .dataFlitReceive port flit => Sys2Proof.Machine.execDataFlitReceive port flit s
  | .readMessage m => Sys2Proof.Machine.execReadMessage m s
  | .readResponse m => Sys2Proof.Machine.execReadResponse m s
  | .writeMessage m => Sys2Proof.Machine.execWriteMessage m s
  | .atomicMessage m => Sys2Proof.Machine.execAtomicMessage m s
  | .contributionMessage m => Sys2Proof.Machine.execContributionMessage m s
  | .acknowledgement m => Sys2Proof.Machine.execAcknowledgement m s
  | .resultLine m => Sys2Proof.Machine.execResultLine m s
  | .correctedError e => Sys2Proof.Machine.execCorrectedError e s
  | .uncorrectableError e => Sys2Proof.Machine.execUncorrectableError e s
  | .nop => Sys2Proof.Machine.execNop s
  | .exit => Sys2Proof.Machine.execExit s
  | .ret => Sys2Proof.Machine.execRet s
  | .join => Sys2Proof.Machine.execJoin s
  | .regang => Sys2Proof.Machine.execRegang s
  | .yield => Sys2Proof.Machine.execYield s
  | .sleepExpiry => Sys2Proof.Machine.execSleepExpiry s
  | .eret => Sys2Proof.Machine.execEret s
  | .resultQueueWrite => Sys2Proof.Machine.execResultQueueWrite s
  | .latchExpiry => Sys2Proof.Machine.execLatchExpiry s
  | .formatTrapEntry => Sys2Proof.Machine.execFormatTrapEntry s
  | .registerStarvation => Sys2Proof.Machine.execRegisterStarvation s
  | .instructionFetch => Sys2Proof.Machine.execInstructionFetch s
  | .clusterSpaceAccess => Sys2Proof.Machine.execClusterSpaceAccess s
  | .copyDataLanding => Sys2Proof.Machine.execCopyDataLanding s
  | .publishPerform => Sys2Proof.Machine.execPublishPerform s
  | .versionFenceArm => Sys2Proof.Machine.execVersionFenceArm s
  | .lineTranslation => Sys2Proof.Machine.execLineTranslation s
  | .loadReturn => Sys2Proof.Machine.execLoadReturn s
  | .storeAcknowledgement => Sys2Proof.Machine.execStoreAcknowledgement s
  | .homeLoad => Sys2Proof.Machine.execHomeLoad s
  | .homeStore => Sys2Proof.Machine.execHomeStore s
  | .copyInvalidation => Sys2Proof.Machine.execCopyInvalidation s
  | .cachedCopyExpiry => Sys2Proof.Machine.execCachedCopyExpiry s
  | .lineWriteBack => Sys2Proof.Machine.execLineWriteBack s
  | .homeAtomic => Sys2Proof.Machine.execHomeAtomic s
  | .atomicReturn => Sys2Proof.Machine.execAtomicReturn s
  | .routineRun => Sys2Proof.Machine.execRoutineRun s
  | .monitorCheck => Sys2Proof.Machine.execMonitorCheck s
  | .monitorRetry => Sys2Proof.Machine.execMonitorRetry s
  | .contribution => Sys2Proof.Machine.execContribution s
  | .updateStepCompletion => Sys2Proof.Machine.execUpdateStepCompletion s
  | .hcfgPerform => Sys2Proof.Machine.execHcfgPerform s
  | .hlookAccept => Sys2Proof.Machine.execHlookAccept s
  | .replicaRefill => Sys2Proof.Machine.execReplicaRefill s
  | .hgradScatter => Sys2Proof.Machine.execHgradScatter s
  | .hashCommandCompletion => Sys2Proof.Machine.execHashCommandCompletion s
  | .cellArrayGrant => Sys2Proof.Machine.execCellArrayGrant s
  | .drainPathGrant => Sys2Proof.Machine.execDrainPathGrant s
  | .matrixCommandCompletion => Sys2Proof.Machine.execMatrixCommandCompletion s
  | .ctxYield => Sys2Proof.Machine.execCtxYield s
  | .ctxEnd => Sys2Proof.Machine.execCtxEnd s
  | .apOperationCompletion => Sys2Proof.Machine.execApOperationCompletion s
  | .contextPark => Sys2Proof.Machine.execContextPark s
  | .groupCloseTimeout => Sys2Proof.Machine.execGroupCloseTimeout s
  | .postArrival => Sys2Proof.Machine.execPostArrival s
  | .escapementPlacement => Sys2Proof.Machine.execEscapementPlacement s
  | .batchTimeout => Sys2Proof.Machine.execBatchTimeout s
  | .preemption => Sys2Proof.Machine.execPreemption s
  | .warpSave => Sys2Proof.Machine.execWarpSave s
  | .nodeCompletion => Sys2Proof.Machine.execNodeCompletion s
  | .chunkRequest => Sys2Proof.Machine.execChunkRequest s
  | .chunkHandout => Sys2Proof.Machine.execChunkHandout s
  | .heartbeat => Sys2Proof.Machine.execHeartbeat s
  | .dieFailure => Sys2Proof.Machine.execDieFailure s
  | .budgetWindowEnd => Sys2Proof.Machine.execBudgetWindowEnd s
  | .headroomReading => Sys2Proof.Machine.execHeadroomReading s
  | .retryRequest => Sys2Proof.Machine.execRetryRequest s
  | .portDown => Sys2Proof.Machine.execPortDown s
  | .portUp => Sys2Proof.Machine.execPortUp s
  | .dieToDieLinkDown => Sys2Proof.Machine.execDieToDieLinkDown s
  | .writeContextDescriptor => Sys2Proof.Machine.execWriteContextDescriptor s
  | .submitLaunch => Sys2Proof.Machine.execSubmitLaunch s
  | .submitGraph => Sys2Proof.Machine.execSubmitGraph s
  | .frameEvent => Sys2Proof.Machine.execFrameEvent s
  | .invalidateTranslations => Sys2Proof.Machine.execInvalidateTranslations s
  | .resumeRecordReplay => Sys2Proof.Machine.execResumeRecordReplay s
  | .resumeRecordAbort => Sys2Proof.Machine.execResumeRecordAbort s
  | .faultQueueHead => Sys2Proof.Machine.execFaultQueueHead s
  | .writeRoutineSlot => Sys2Proof.Machine.execWriteRoutineSlot s
  | .writeUpdateDescriptor => Sys2Proof.Machine.execWriteUpdateDescriptor s
  | .writeAccessProcessorImage => Sys2Proof.Machine.execWriteAccessProcessorImage s
  | .writePublishEntry => Sys2Proof.Machine.execWritePublishEntry s
  | .writeCollectiveDescriptor => Sys2Proof.Machine.execWriteCollectiveDescriptor s
  | .setRouteTable => Sys2Proof.Machine.execSetRouteTable s
  | .setApertureTable => Sys2Proof.Machine.execSetApertureTable s
  | .setOverflowArea => Sys2Proof.Machine.execSetOverflowArea s
  | .setCompressionMetadata => Sys2Proof.Machine.execSetCompressionMetadata s
  | .partitionReserve => Sys2Proof.Machine.execPartitionReserve s
  | .partitionRelease => Sys2Proof.Machine.execPartitionRelease s
  | .persistentLaunch => Sys2Proof.Machine.execPersistentLaunch s
  | .fieldControl => Sys2Proof.Machine.execFieldControl s
  | .retrainPort => Sys2Proof.Machine.execRetrainPort s
  | .readStatus => Sys2Proof.Machine.execReadStatus s
  | .scrubReplay => Sys2Proof.Machine.execScrubReplay s
  | .scrubAbort => Sys2Proof.Machine.execScrubAbort s
  | .attestationReport => Sys2Proof.Machine.execAttestationReport s
  | .bringUpPackage => Sys2Proof.Machine.execBringUpPackage s
  | .ringDoorbell => Sys2Proof.Machine.execRingDoorbell s
  | .ringEnable => Sys2Proof.Machine.execRingEnable s
  | .errorLogHead => Sys2Proof.Machine.execErrorLogHead s
  | .hostRegisterWrite => Sys2Proof.Machine.execHostRegisterWrite s
  | .powerOn => Sys2Proof.Machine.execPowerOn s
  | .hostAttachTrained => Sys2Proof.Machine.execHostAttachTrained s
  | .firmwareVerify => Sys2Proof.Machine.execFirmwareVerify s
  | .configurationLoad => Sys2Proof.Machine.execConfigurationLoad s
  | .dieToDieLinkTrained => Sys2Proof.Machine.execDieToDieLinkTrained s
  | .tgmStart => Sys2Proof.Machine.execTgmStart s
  | .fieldPowerUp => Sys2Proof.Machine.execFieldPowerUp s
  | .hbmStackTrained => Sys2Proof.Machine.execHbmStackTrained s
  | .systemPortTrained => Sys2Proof.Machine.execSystemPortTrained s
  | .currentThrottle => Sys2Proof.Machine.execCurrentThrottle s
  | .currentThrottleEnd => Sys2Proof.Machine.execCurrentThrottleEnd s
  | .thermalThrottle => Sys2Proof.Machine.execThermalThrottle s
  | .thermalThrottleEnd => Sys2Proof.Machine.execThermalThrottleEnd s
  | .thermalTrip => Sys2Proof.Machine.execThermalTrip s
  | .vwriWrite => Sys2Proof.Machine.execVwriWrite s
  | .queueReturn => Sys2Proof.Machine.execQueueReturn s
  | .nodeFetchReturn => Sys2Proof.Machine.execNodeFetchReturn s
  | .mirrorWrite => Sys2Proof.Machine.execMirrorWrite s

end Sys2Proof.Machine
end

