-- ==== Sys2Proof/Machine/Turns.lean ====
section
/-!
DEFINITION. What acts in a step. `State.turn` says it: an issue port (R31), an access processor
(R339), a command ring (R438), or an event that a rule allows at any time. What acts next is a free choice
(notes/assumptions/3.md).
-/

namespace Sys2Proof.Machine

/-! ## Attempts -/

/-- What an attempt that met lines out of reach leaves, nothing else of it being done: other devices' lines have been
asked for (R416), and one that is poisoned holds it, with a record (R449). -/
def reach (s : State) (l : List (Nat × Nat × Nat)) : State :=
  l.dedup.foldl (fun s x => if isRemote x.2.2 then askLine x.1 x.2.1 s x.2.2 else ifRoom s (holdUnit s x.1 x.2.1 x.2.2)) s

/-- The lines that an attempt has used up are no longer held for it. -/
def spend (s : State) : State :=
  if s.used.isEmpty then s else { s with unitLines := s.unitLines.filter fun p => p.1 ∉ s.used, used := [] }

/-- What comes of an attempt that makes `s1` of `s`: it is held while a line that it needs is out of reach (R405, R416, R443,
R449), and while a record of it would find no room (R376, R439). -/
def attempt (s s1 : State) : State := if s1.stuck.isEmpty then ifRoom s (spend s1) else reach s s1.stuck

/-- Whether the attempt was held so. -/
def heldUp (s s1 : State) : Bool := !s1.stuck.isEmpty || overfull s (spend s1)

/-! ## Issue ports (R30, R31) -/

/-- R30: whether a slice may be tried. A slice that waits for something that another agent ends is not; any
other wait is tried again at its instruction. -/
def mayTry (x : Slice) : Bool :=
  match x.wait with
  | .bar _ _ | .sleep _ | .fetch | .held _ => false
  | _ => true

/-- R129: parts the gangs of a warp whose slices an event has left at different instructions. -/
def partGangs (w : Warp) : Warp := (List.range 8).foldl (fun w g => regroup w (gangOf w g)) w

/-- The gangs of a warp that its port may try, each with the step of its last issue and its lowest slice. A
warp that the machine has chosen for saving issues only in gangs that hold a valid latch entry (R169). -/
def triable (w : Warp) : List (BitVec 8) :=
  ((List.range 8).map (gangOf w)).filter fun sl => sl != 0 && (bitsOf 8 sl).all fun i =>
    mayTry (sliceAt w i) && (!w.stopping || (bitsOf 8 sl).any fun j => latched (sliceAt w j))

/-- A gang as a port sees it. -/
structure Candidate where
  warp : Nat
  slices : BitVec 8
  last : Nat
  slot : Nat

/-- R31: the gang that has waited longest goes first, then the lower slot, then the lower slice. -/
def Candidate.before (a b : Candidate) : Bool :=
  decide (a.last < b.last) || (decide (a.last = b.last) && (decide (a.slot < b.slot) ||
    (decide (a.slot = b.slot) && decide (lowSlice a.slices ≤ lowSlice b.slices))))

/-- The candidates of a port, in the order in which it tries them. The last issue of a gang is that of its lowest
slice, where a REGANG has joined it from several gangs too (DESIGN CHOICE, notes/assumptions/67.md). -/
def candidates (s : State) (die core port : Nat) : List Candidate :=
  sortBy Candidate.before (((warpsOn s die core).filter fun p => p.2.port = port).flatMap fun p =>
    (triable p.2).map fun sl => ⟨p.1, sl, (sliceAt p.2 (lowSlice sl)).lastIssue, p.2.slot⟩)

/-- R120: the instruction of a fetched word, or its refusal. -/
def runWord (w : Word) (s : State) : Out :=
  match decodeCore w.toNat with
  | .ok i => exec i s
  | .error _ => refuseWord s

/-- R241: whether a gang enters an asynchronous trap before its next issue. An EMIT that has placed part of
its records goes on first (R395). -/
def entersTrap (s : State) (k : Nat) (sl : BitVec 8) : Bool :=
  ((bitsOf 8 sl).any fun i => asyncDue (sliceAt (warpAt s k) i)) &&
    !s.graphs.any fun p => p.2.emitters.any fun e => decide (e.warp = k ∧ e.slices = sl) && e.begun

/-- One gang's attempt: an asynchronous trap, or the fetch of its word and its instruction. A trap past an
incomplete fence is held (R58). -/
def runGang (s : State) (k : Nat) (sl : BitVec 8) : Out :=
  if entersTrap s k sl then
    if (warpAt s k).spec.isSome then .next (holdGang s k sl .other) else execFormatTrapEntry s
  else
    match execInstructionFetch s with
    | .next s1 =>
      match s1.fetched with
      | some w => runWord w s1
      | none => .next s1
    | o => o

/-- One gang's turn: where it is held up, it waits. -/
def tryGang (s : State) (k : Nat) (sl : BitVec 8) : Out :=
  let s0 := { s with issuer := .gang k sl, fetched := none, held := false }
  match runGang s0 k sl with
  | .next s1 => .next (if heldUp s0 s1 then holdGang (attempt s0 s1) k sl .other else attempt s0 s1)
  | o => o

/-- R31: tries the candidates of a port until one issues. -/
def tryGangs : List Candidate → State → Out
  | [], s => .next s
  | [c], s => tryGang s c.warp c.slices
  | c :: r, s =>
    match tryGang s c.warp c.slices with
    | .next s1 => if s1.held then tryGangs r s1 else .next s1
    | o => o

/-- R162: register starvation of a core is looked for again, once a warp of it has been ready. -/
def unstarve (s : State) (c : Nat) : State :=
  if !(coreAt s c).starved then s else modCore s c fun x => { x with starved := false }

/-- R30: whether some warp of a core has a ready slice. -/
def coreReady (s : State) (c : Nat) : Bool := (warpsOn s (c / 288) (c % 288)).any fun p => hasReady p.2

/-- R30, R162: a gang of a core that holds, and would issue now, is ready: what it waited for is over. -/
def refreshWaits (s : State) (c : Nat) : State :=
  ((List.range 4).flatMap (candidates s (c / 288) (c % 288))).foldl (fun t x =>
    match tryGang s x.warp x.slices with
    | .next s1 => if s1.held then t else modGang t x.warp x.slices fun y => { y with wait := .ready }
    | _ => t) s

/-- R29: one issue opportunity of a port, whose island runs (R446). -/
def portTurn (s : State) (die core port : Nat) : Out :=
  if !islandOn s (islandOf die core) then .next s
  else
  let s1 := { s with warps := s.warps.map fun p =>
    (p.1, if p.2.die = die ∧ p.2.core = core then partGangs p.2 else p.2) }
  let c := coreKey die core
  let s2 := if coreReady s1 c then unstarve s1 c else s1
  match candidates s2 die core port with
  | [] => .next s2
  | l =>
    match tryGangs l s2 with
    | .next s3 => .next (if s3.held then s3 else unstarve s3 c)
    | o => o

/-! ## Access processors (R338, R339) -/

/-- R338, R345: the instruction of a context: its fetch, its decoding, its effect. -/
def runContext (s : State) (c u x : Nat) : Out :=
  let pc := (apCtx s c u x).pc.toNat
  if 0x4000 ≤ pc then .next (apExceptAt s c u x 0x41 pc 0 (BitVec.ofNat 32 pc))
  else
    match decodeAp (apFetch s c u x).toNat with
    | .ok i => exec i s
    | .error _ => .next (apExcept s c u x 0x40 (apFetch s c u x))

/-- A context's turn: where it is held up, it waits. -/
def tryContext (s : State) (c u x : Nat) : Out :=
  let s0 := { s with issuer := .ap c u x, fetched := some (apFetch s c u x), held := false }
  match runContext s0 c u x with
  | .next s1 => .next (if heldUp s0 s1 then { attempt s0 s1 with held := true } else attempt s0 s1)
  | o => o

/-- R339, R359: tries the ready contexts of an access processor until one issues. -/
def tryContexts (c u : Nat) : List Nat → State → Out
  | [], s => .next s
  | x :: r, s =>
    let old := (apCtx s c u x).yielded
    match tryContext (modApCtx s c u x fun y => { y with yielded := false }) c u x with
    | .next s1 =>
      if s1.held then tryContexts c u r (modApCtx s1 c u x fun y => { y with yielded := old })
      else .next (modUnit s1 c u fun y => { y with last := x })
    | o => o

def apTurn (s : State) (die core unit : Nat) : Out :=
  let c := coreKey die core
  if (tfind s.cores c).isNone || !islandOn s (islandOf die core) then .next s else tryContexts c unit (apOrder (apUnit s c unit)) s

/-! ## Command rings (R438, R440) -/

/-- R440: the instruction of a command's code and form. -/
def commandInstr (c : Command) : Option Instr :=
  match c.code with
  | 0x01 => some .writeContextDescriptor
  | 0x02 => some .submitLaunch
  | 0x03 => some .submitGraph
  | 0x04 => some .frameEvent
  | 0x05 => some .invalidateTranslations
  | 0x06 => some (if c.op 1 = 1 then .resumeRecordAbort else .resumeRecordReplay)
  | 0x07 => some .faultQueueHead
  | 0x08 => some .writeRoutineSlot
  | 0x09 => some .writeUpdateDescriptor
  | 0x0A => some .writeAccessProcessorImage
  | 0x0B => some .writePublishEntry
  | 0x0C => some .writeCollectiveDescriptor
  | 0x0D => some (match c.op 0 with
    | 0 => .setRouteTable
    | 1 => .setApertureTable
    | 2 => .setOverflowArea
    | _ => .setCompressionMetadata)
  | 0x0E => some (if c.op 0 = 1 then .partitionRelease else .partitionReserve)
  | 0x0F => some .persistentLaunch
  | 0x10 => some .fieldControl
  | 0x11 => some .retrainPort
  | 0x12 => some .readStatus
  | 0x13 => some (if c.op 1 = 1 then .scrubAbort else .scrubReplay)
  | 0x14 => some .attestationReport
  | 0x15 => some .bringUpPackage
  | _ => none

/-- The attempt of a ring or of an event. -/
def attempted (s : State) : Out → Out
  | .next s1 => .next (attempt s s1)
  | o => o

/-- R438: a ring's next command; a code without a meaning is malformed (R440). -/
def ringTurn (s : State) (r : Nat) : Out :=
  let s := { s with issuer := .event [r] }
  match nextCommand s r with
  | none => .next s
  | some c =>
    match commandInstr c with
    | some i => attempted s (exec i s)
    | none => .next (finishCommand s r c 2)

/-! ## Events -/

/-- Whether a row is a step of its own: not an instruction word, and not a part of a gang's issue. -/
def isEvent (i : Instr) : Bool :=
  match i with
  | .nop | .apBaseInstruction _ | .apEnvironmentCall _ | .formatTrapEntry | .instructionFetch => false
  | i => encode i == 0

/-- An event; one that is held up is not done yet, the failure of a link, a die or an island too (notes/assumptions/76.md).
Before register starvation is looked for, waits that are over are seen to be (R162). -/
def eventTurn (s : State) (i : Instr) (args : List Nat) : Out :=
  let s := { s with issuer := .event args }
  let c := args.getD 0 0
  let s1 := if i = .registerStarvation then
      let t := refreshWaits s c
      if coreReady t c then unstarve { t with issuer := .event args } c else { t with issuer := .event args }
    else s
  if !isEvent i then .next s
  else attempted s1 (exec i s1)

/-! ## The step -/

/-- R8: the clocks of the powered islands move. -/
def moveClocks (s : State) : State :=
  { s with islands := s.islands.zipIdx.map fun p =>
      if p.1.st = 1 ∨ p.1.st = 2 then { p.1 with clock := p.1.clock + Config.elapsed s.now p.2 } else p.1 }

/-- What every step ends with: fences that have completed (R58) and monitors whose condition holds, or has held for a
value written in the step (R268). -/
def settle (s : State) : State :=
  let s1 := checkMonitors ((s.warps.filter fun p => p.2.spec.isSome).foldl (fun s p => settleFence s p.1) s)
  { s1 with warps := s1.warps.map fun p => (p.1, if p.2.wrote.isEmpty then p.2 else { p.2 with wrote := [] }) }

/-- What has to happen by the time a clock shows (R399, R411). -/
def timeouts (s : State) : State :=
  let s1 := budgetTicks s
  ifRoom s1 (portTimeouts s1)

/-- The end of a step: its consequences, the clocks, and what acts next. -/
def endStep (s : State) : State :=
  let s1 := flushAll (timeouts (moveClocks (settle s)))
  { s1 with turn := Config.schedule s.now, now := s.now + 1 }

/-- What acts in this step. -/
def act (s : State) : Out :=
  match s.turn with
  | .port d c p => portTurn s d c p
  | .ap d c u => apTurn s d c u
  | .ring r => ringTurn s r
  | .event i args => eventTurn s i args

/-! ## Placing a word to be fetched -/

/-- A page table that maps the virtual page at 0 to the frame at 0x10000, all permissions. -/
def fetchTables (m : Memory) : Memory :=
  let m1 := mputNat (mputNat (mputNat (mputNat m 0x1000 8 0x2007) 0x2000 8 0x3007) 0x3000 8 0x4007) 0x4000 8 0x5007
  mputNat m1 0x5000 8 0x10007

/-- A slice at virtual address 0, all lanes active. -/
def fetchSlice : Slice := { (default : Slice) with active := 15, latches := List.replicate 3 ⟨[], 0⟩ }

/-- The one warp of the one workgroup of a context 1. -/
def fetchWarp : Warp :=
  { (default : Warp) with
    ident := { (default : Ident) with ctx := 1, group := 1, prio := 0, ceil0 := 128 }
    ceil := 128, priv := BitVec.ofNat 1024 (2 ^ 128 - 1), slices := List.replicate 8 fetchSlice }

end Sys2Proof.Machine
end

