-- ==== Sys2Proof/Machine/Step.lean ====
section
/-! DEFINITION. One step of the device, and the placing of a word that the next step fetches. -/

namespace Sys2Proof.Machine

/-- One step of the device. -/
def step (s : State) : Out :=
  match act { s with issuer := .none, fetched := none, held := false, stuck := [], used := [] } with
  | .next s1 => .next (endStep s1)
  | .fault f => .fault f
  | .refused r => .refused r

/-- The state with a word where the next step fetches: a core word as the only warp of context 1 on core 0
finds it, an access-processor word in context 0 of core 0's first access processor. -/
def State.withFetchWord (s : State) (nbits w : Nat) : State :=
  let v := w % 2 ^ min nbits 32
  let s1 := { s with
    contexts := tput s.contexts 1 { (default : Context) with tbase := 0x1000, clusters := 72, fqlog := 7 }
    cores := tput s.cores 0 { (default : Core) with ctx := 1 }
    clusters := tput s.clusters 0 { (default : Cluster) with ctx := 1 }
    islands := s.islands.map fun x => { x with st := 2 }
    perDie := s.perDie.map fun x => { x with ready := 0x7FFF }
    dieLink := true }
  match decodeCore v, decodeAp v with
  | .error _, .ok _ =>
    let place := fun y : ApUnit => { y with
      imem := mputNat [] 0 4 v
      ctxs := lmod y.ctxs 0 fun x => { x with st := .running, pc := 0, yielded := false, fetching := none }
      last := 7 }
    { modUnit s1 0 0 place with turn := .ap 0 0 0 }
  | _, _ =>
    { s1 with
      mem := mputNat (fetchTables s.mem) 0x10000 4 v
      tlb := []
      cohorts := tput s.cohorts 1 { (default : Cohort) with ctx := 1, nwg := 1 }
      groups := tput s.groups 1 { (default : Group) with cohort := 1, warps := [(0, 1)], names := [0] }
      warps := [(1, fetchWarp)]
      fresh := s.fresh + 2
      turn := .port 0 0 0 }

end Sys2Proof.Machine
end

