-- ==== Sys2Proof/Claims/Slices.lean ====
section
/-!
DEFINITION. When two slices agree in everything but what the issue of any instruction moves: its latch entries, its
result queues, its gang number and the time of its last issue.
-/

namespace Sys2Proof.Machine

/-- The parts of a slice that an instruction's issue does not move. -/
structure SameSlice (x y : Slice) : Prop where
  pc : x.pc = y.pc
  mode : x.mode = y.mode
  active : x.active = y.active
  stack : x.stack = y.stack
  ended : x.ended = y.ended
  handler : x.handler = y.handler
  wait : x.wait = y.wait
  tpc : x.tpc = y.tpc
  tmode : x.tmode = y.tmode
  tmask : x.tmask = y.tmask
  tcause : x.tcause = y.tcause
  tval : x.tval = y.tval
  clockHi : x.clockHi = y.clockHi
  asyncTrap : x.asyncTrap = y.asyncTrap

end Sys2Proof.Machine
end

