-- ==== Sys2Proof/Claims/Issue.lean ====
section
/-!
DEFINITION. Words that the claims about gang instructions share: when a gang issues an instruction at once
(R120, R134 to R136), the state its read cycle sees, and the rows that say what lanes compute.
-/

namespace Sys2Proof.Claims

open Sys2Proof.Machine

/-- Gang `sl` of warp `k` issues an instruction of form `f` at once: no check of R120 fails, no register that the
instruction names or reaches through an index is pending (R135, R209) or must first be reached by an access to cluster space
that the warp has in flight (R43, R45), nothing that the form waits for is missing, and the granules that its
destinations copy are there (R157). -/
structure Issues (f : Form) (s : State) (k : Nat) (sl : BitVec 8) (w : Warp) : Prop where
  issuer : s.issuer = .gang k sl
  warp : tfind s.warps k = some w
  slices : w.slices.length = 8
  fence : fenceHolds f w = false
  accepted : f.accepts (gangMode w sl) = true
  inRange : ∀ n ∈ f.named, w.win + n < w.ceil
  clear : f.clear s k sl w = true
  room : f.stall s k = false
  granted : (grantFor f s k sl w).1 = true

/-- The state that the read cycle of an instruction of form `f` sees (R133, R134). -/
def readAt (f : Form) (s : State) (k : Nat) (sl : BitVec 8) (w : Warp) : State :=
  readCycle f s (grantFor f s k sl w).2 k sl w

/-- Slice `i` of warp `k`. -/
def sliceOf (s : State) (k i : Nat) : Slice := sliceAt (warpAt s k) i

/-- What a lane instruction is: its form, where its results go, its latency, the lanes that take part, and the
result of each lane in the read cycle's state. `pre` is what the instruction does to the state it reads. -/
structure LaneRow where
  form : Form
  dest : Warp → Dest
  lat : Nat
  lanes : Warp → Nat → BitVec 4 := guarded
  pre : State → Nat → State := fun s _ => s
  res : State → Warp → BitVec 8 → Nat → LaneResult

/-- A register of the window as a destination. -/
def toReg (d : BitVec 7) (w : Warp) : Dest := .reg (w.win + d.toNat)
def toPred (p : BitVec 3) (_ : Warp) : Dest := .pred p.toNat

/-- An instruction that reads the registers of two fields, or of one. -/
def two (h : BitVec 2) (a b : BitVec 7) : Form := { reads := [a.toNat, b.toNat], hold := h.toNat, a := a.toNat, past := true }
def one (h : BitVec 2) (a : BitVec 7) : Form := { reads := [a.toNat], hold := h.toNat, a := a.toNat, past := true }
def three (h : BitVec 2) (a b d : BitVec 7) : Form :=
  { reads := [a.toNat, b.toNat, d.toNat], hold := h.toNat, a := a.toNat, past := true }

/-- What an instruction of row `row` leaves in slice `i` of its gang: at the end of the slice's result queue, the
result of the lanes that took part, which still needs `lat - 1` issue cycles (R133, R173). `r` is the read
cycle's state. -/
def Queued (row : LaneRow) (r t : State) (k : Nat) (sl : BitVec 8) (i : Nat) : Prop :=
  let w := warpAt (row.pre r k) k
  let res := fun j => row.res (row.pre r k) w sl (4 * i + j)
  ∃ e, (sliceOf t k i).queue.getLast? = some e ∧ e.dest = row.dest w ∧ e.mask = row.lanes w i ∧
    e.left = row.lat - 1 ∧ e.vals.length = 4 ∧
    (∀ j < 4, (row.lanes w i).getLsbD j = true → lget e.vals j 0 = (res j).val) ∧
    e.flags = joinFlags ((List.range 4).map fun j => if (row.lanes w i).getLsbD j then (res j).flags else 0)

/-- An instruction of a row completes: it issues at once, each slice of the gang queues its result, and goes on
at the next word (R173). -/
def LaneCompletes (i : Instr) (row : LaneRow) : Prop :=
  ∀ s k sl w, Issues row.form s k sl w →
    ∃ t, exec i s = .next t ∧ ∀ j ∈ bitsOf 8 sl,
      Queued row (readAt row.form s k sl w) t k sl j ∧ (sliceOf t k j).pc = (sliceAt w j).pc + 4

/-- Instruction `i`, of form `f`, does what `post` says wherever it issues at once and `ok` holds of the read cycle's
state: `post` relates that state, in which the warp is `w`, to the next. -/
def Does (i : Instr) (f : Form) (ok : State → Nat → BitVec 8 → Warp → Prop)
    (post : State → Nat → BitVec 8 → Warp → State → Prop) : Prop :=
  ∀ s k sl v, Issues f s k sl v →
    let r := readAt f s k sl v
    ok r k sl (warpAt r k) → ∃ t, exec i s = .next t ∧ post r k sl (warpAt r k) t

/-- Every slice of the gang goes on at the next word. -/
def stepsOn (k : Nat) (sl : BitVec 8) (w : Warp) (t : State) : Prop :=
  ∀ j ∈ bitsOf 8 sl, (sliceOf t k j).pc = (sliceAt w j).pc + 4

/-- No result waits in the gang's queues. -/
def quiet (w : Warp) (sl : BitVec 8) : Prop :=
  ∀ j ∈ bitsOf 8 sl, (sliceAt w j).queue = [] ∧ (sliceAt w j).warpQueue = []

end Sys2Proof.Claims
end

