-- ==== Sys2Proof/Claims/Flow.lean ====
section
/-!
DEFINITION. What the sequencer's instructions do to the slices of their gang (spec/05_sequencer.md), row by row, and
what taking a synchronous trap leaves in them (R166).
-/

namespace Sys2Proof.Claims

open Sys2Proof.Machine

/-- An instruction that moves each slice of its gang: when it completes, and what it makes of a slice, from the read
cycle's state. -/
structure FlowRow where
  form : Form := { past := true }
  ok : State → Warp → BitVec 8 → Prop := fun _ _ _ => True
  move : State → Warp → Nat → Slice → Slice

/-- An instruction of a row completes: every slice of the gang is as the row says, but for what every issue moves. -/
def FlowCompletes (i : Instr) (row : FlowRow) : Prop :=
  ∀ s k sl w, Issues row.form s k sl w →
    let r := readAt row.form s k sl w
    row.ok r (warpAt r k) sl →
      ∃ t, exec i s = .next t ∧ ∀ j ∈ bitsOf 8 sl,
        SameSlice (sliceOf t k j) (row.move r (warpAt r k) j (sliceOf r k j))

/-- R138: every slice of the gang has room for one more entry. -/
def roomOnStack (_ : State) (w : Warp) (sl : BitVec 8) : Prop := ∀ i ∈ bitsOf 8 sl, (sliceAt w i).stack.length < 16

/-- The top entry of every slice of the gang is of one of these kinds. -/
def topIs (p : EntryKind → Bool) (_ : State) (w : Warp) (sl : BitVec 8) : Prop :=
  ∀ i ∈ bitsOf 8 sl, ∃ e r, (sliceAt w i).stack = e :: r ∧ p e.kind = true

/-- R141: the lanes of a slice neither all branch nor all stay. -/
def diverges (w : Warp) (i : Nat) : Prop := guarded w i ≠ 0 ∧ guarded w i ≠ (sliceAt w i).active

/-- R142: the target of lane `j` of slice `i`, whose upper bits are the program counter's. -/
def laneTarget (s : State) (w : Warp) (f i j : Nat) : VAddr :=
  BitVec.ofNat 57 ((sliceAt w i).pc.toNat / 2 ^ 32 * 2 ^ 32 + (srcReg s w f (4 * i + j)).toNat)

/-- R142: the branching lanes of a slice that name the target of its lowest branching lane. -/
def agreeing (s : State) (w : Warp) (f i : Nat) : BitVec 4 :=
  toBits 4 ((bitsOf 4 (guarded w i)).filter fun j =>
    decide (srcReg s w f (4 * i + j) = srcReg s w f (4 * i + (bitsOf 4 (guarded w i)).headD 0)))

/-- R142: entries that BRI, or CALLI with `n` = 1, pushes in a slice. -/
def pushes (n : Nat) (s : State) (w : Warp) (f i : Nat) : Nat :=
  if guarded w i = 0 then 0 else (if (sliceAt w i).active &&& ~~~(agreeing s w f i) = 0 then 0 else 1) + n

/-- R142: BRI (`n` = 0) or CALLI (`n` = 1). -/
def indirectRow (n : Nat) (h : BitVec 2) (a : BitVec 7) : FlowRow where
  form := one h a
  ok := fun s w sl =>
    (∀ i ∈ bitsOf 8 sl, ∀ j ∈ bitsOf 4 (guarded w i), (srcReg s w a.toNat (4 * i + j)).toNat % 4 = 0) ∧
      ∀ i ∈ bitsOf 8 sl, (sliceAt w i).stack.length + pushes n s w a.toNat i ≤ 16
  move := fun s w i x =>
    if guarded w i = 0 then { x with pc := x.pc + 4 }
    else
      let g := agreeing s w a.toNat i
      let rest := x.active &&& ~~~g
      let low := if rest = 0 then x.stack else ⟨.pending, x.pc, rest⟩ :: x.stack
      { x with
        active := g, pc := laneTarget s w a.toNat i ((bitsOf 4 (guarded w i)).headD 0)
        stack := if n = 1 then ⟨.call, x.pc + 4, g⟩ :: low else low }

/-- R131, R143: a slice whose popped entry holds no lane that has not ended takes the next that does, of `l`. -/
def popsOn (x : Slice) (l : List StackEntry) : Slice :=
  match l.dropWhile fun e => e.mask == 0 with
  | [] => { x with stack := [], active := 0, ended := true }
  | e :: r => { x with stack := r, active := e.mask, pc := if e.kind = .mark then e.pc + 4 else e.pc }

/-- R129, R143: every slice of the gang goes on, and some entry of its stack holds a lane that has not ended. -/
def someLaneLeft (w : Warp) (sl : BitVec 8) : Prop :=
  ∀ i ∈ bitsOf 8 sl, (sliceAt w i).ended = false ∧ ∃ e ∈ (sliceAt w i).stack, e.mask ≠ 0

/-- R139 to R142. -/
inductive ControlRow : Instr → FlowRow → Prop
  | nop : ControlRow .nop
    { move := fun _ _ _ x => { x with pc := x.pc + 4 } }
  | bra {o} : ControlRow (.bra o)
    { move := fun _ _ _ x => { x with pc := x.pc + 4 + o.signExtend 57 * 4 } }
  | brc {o} : ControlRow (.brc o)
    {
      ok := fun _ w sl => ∀ i ∈ bitsOf 8 sl, diverges w i → (sliceAt w i).stack.length < 16
      move := fun _ w i x =>
        let t := guarded w i
        let dst := x.pc + 4 + o.signExtend 57 * 4
        if t = x.active then { x with pc := dst }
        else if t = 0 then { x with pc := x.pc + 4 }
        else { x with pc := x.pc + 4, active := x.active &&& ~~~t, stack := ⟨.pending, dst, t⟩ :: x.stack } }
  | bri {h a} : ControlRow (.bri h a)
    (indirectRow 0 h a)
  | calli {h a} : ControlRow (.calli h a)
    (indirectRow 1 h a)
  | call {o} : ControlRow (.call o)
    {
      ok := roomOnStack
      move := fun _ _ _ x =>
        { x with pc := x.pc + 4 + o.signExtend 57 * 4, stack := ⟨.call, x.pc + 4, x.active⟩ :: x.stack } }
  | mark {o} : ControlRow (.mark o)
    {
      ok := roomOnStack
      move := fun _ _ _ x =>
        { x with pc := x.pc + 4, stack := ⟨.mark, x.pc + 4 + o.signExtend 57 * 4, x.active⟩ :: x.stack } }
  | join : ControlRow .join
    {
      ok := fun s w sl => topIs (fun e => e != .call) s w sl ∧ someLaneLeft w sl
      move := fun _ _ _ x => match x.stack with
        | ⟨k, p, m⟩ :: r =>
          if m = 0 then popsOn x r
          else { x with stack := r, active := m, pc := if k = .pending then p else x.pc + 4 }
        | [] => x }
  | ret : ControlRow .ret
    {
      ok := fun s w sl => topIs (fun e => e == .call) s w sl ∧ someLaneLeft w sl
      move := fun _ _ _ x => match x.stack with
        | e :: r => if e.mask = 0 then popsOn x r else { x with stack := r, active := e.mask, pc := e.pc }
        | [] => x }

/-- R114: MODEI's fields, lowest bit and width. -/
def fieldOf (f : BitVec 3) : Nat × Nat :=
  match f.toNat with
  | 0 => (0, 4)
  | 1 => (4, 4)
  | 2 => (8, 3)
  | 3 => (11, 1)
  | 4 => (12, 1)
  | 5 => (13, 3)
  | 6 => (16, 4)
  | _ => (20, 3)

/-- R149: WRS to a trap register of each slice. -/
def wrsRow (d : BitVec 7) (g : Slice → Word → Slice) : FlowRow where
  form := { reads := [d.toNat] }
  move := fun s w i x => { g x (sliceOperand s w d.toNat i) with pc := x.pc + 4 }

/-- R145, R146, R149: instructions that write a slice's mode, its trap registers or what a clock read keeps. -/
inductive SliceRegRow : Instr → FlowRow → Prop
  | mode {h a} : SliceRegRow (.mode h a)
    {
      form := one h a
      move := fun s w i x => { x with
        pc := x.pc + 4
        mode := (x.mode &&& 0xFF800000) ||| (sliceOperand s w a.toNat i &&& 0x007FFFFF) } }
  | modei {v f} : SliceRegRow (.modei v f)
    {
      move := fun _ _ _ x =>
        let p := fieldOf f
        let mask : Word := BitVec.ofNat 32 ((2 ^ p.2 - 1) * 2 ^ p.1)
        { x with
          pc := x.pc + 4
          mode := (x.mode &&& ~~~mask) ||| BitVec.ofNat 32 (v.toNat % 2 ^ p.2 * 2 ^ p.1) } }
  | wrsTpcLo {d} : SliceRegRow (.wrs d 0x052)
    (wrsRow d fun x v => { x with tpc := BitVec.ofNat 57 (x.tpc.toNat / 2 ^ 32 * 2 ^ 32 + v.toNat) })
  | wrsTpcHi {d} : SliceRegRow (.wrs d 0x053)
    (wrsRow d fun x v => { x with tpc := BitVec.ofNat 57 (x.tpc.toNat % 2 ^ 32 + v.toNat * 2 ^ 32) })
  | wrsTmode {d} : SliceRegRow (.wrs d 0x054)
    (wrsRow d fun x v => { x with tmode := v &&& 0x007FFFFF })
  | wrsTmask {d} : SliceRegRow (.wrs d 0x055)
    (wrsRow d fun x v => { x with tmask := v.setWidth 4 })

/-- R166: what a synchronous trap leaves in a slice that was not in a handler: it returns to `ret`. -/
def InHandler (x y : Slice) (cause : Nat) (val : Word) (ret vec : VAddr) : Prop :=
  x.handler = true ∧ x.tcause = BitVec.ofNat 32 cause ∧ x.tval = val ∧ x.tpc = ret ∧ x.tmode = y.mode ∧
    x.tmask = y.active ∧ x.mode = 0 ∧ x.pc = vec ∧ x.active = y.active ∧ x.stack = y.stack

/-- R166: the gang takes a synchronous trap: each slice enters its handler and will return to the instruction, or
past it. -/
def Traps (i : Instr) (s : State) (k : Nat) (sl : BitVec 8) (w : Warp) (cause : Nat) (val : Word) (past : Bool) : Prop :=
  ∃ t, exec i s = .next t ∧ ∀ j ∈ bitsOf 8 sl,
    InHandler (sliceOf t k j) (sliceAt w j) cause val
      (if past then (sliceAt w j).pc + 4 else (sliceAt w j).pc) (tget s.contexts w.ident.ctx default).tvec

/-- A gang whose slices are in no handler, of a warp with no incomplete fence: its synchronous traps enter the handler
at once (R58, R166). -/
def trapsEnter (w : Warp) (sl : BitVec 8) : Prop :=
  w.spec = none ∧ ∀ j ∈ bitsOf 8 sl, (sliceAt w j).handler = false

end Sys2Proof.Claims
end

