-- ==== Sys2Proof/Claims/Memory.lean ====
section
/-!
DEFINITION. Words of the claims about the memory access unit and the home slices (spec/07_memory_unit.md,
spec/08_home_slices.md): the rows of loads, stores and atomics, and what each puts in flight.
-/

namespace Sys2Proof.Claims

open Sys2Proof.Machine

/-- R216, R63: the base that a record gives an access issued now: its own, or the backing of its entry that holds
the present version or, for a writer of an enabled entry, the other. -/
def recordBase (s : State) (br : BitVec 128) (shadow : Bool) : Nat :=
  if recPub br then
    let e := pubAt s (recEntry br)
    if shadow && e.enabled then shadowBase e e.version.toNat else frontBase e e.version.toNat
  else recBase br

/-- R214, R216: the record of a number holds no reserved swizzle code. -/
def recordOk (r : BitVec 4) (w : Warp) : Prop := recSwz (tget w.recs r.toNat 0) < 6

/-- R232 to R235: a global load or store: `n` registers from `d` on, through record `r`, the index in `ix`. -/
structure GlobalRow where
  kind : OpKind
  n : Nat
  h : BitVec 2
  d : BitVec 7
  r : BitVec 4
  ix : Src

/-- R116, R231, R238: what a load or a store names and waits for. -/
def GlobalRow.form (g : GlobalRow) : Form :=
  if g.kind.writes then
    { reads := g.ix.fields ++ groupRegs g.d g.n, hold := g.h.toNat, a := g.ix.fields.headD 0
      drains := g.kind == .storeRelease
      accepts := fun m => acceptsMem m && (!(g.kind == .storeRelease) || scopeOk m)
      stall := logStall .st (if g.n = 4 then 2 else 1) true g.r }
  else
    { reads := g.ix.fields, waits := groupRegs g.d g.n, hold := g.h.toNat, a := g.ix.fields.headD 0
      past := g.kind == .load
      accepts := fun m => acceptsMem m && (g.kind == .load || scopeOk m)
      stall := logStall .ld 1 false g.r }

inductive GlobalAccess : Instr → GlobalRow → Prop
  | ld {h d a r} : GlobalAccess (.ld h d a r) ⟨.load, 1, h, d, r, .reg a.toNat⟩
  | ldImm {d r i} : GlobalAccess (.ldImm d r i) ⟨.load, 1, 0, d, r, .imm (i.setWidth 32)⟩
  | ldx {h d a r w} : GlobalAccess (.ldx h d a r w) ⟨.load, if w = 1 then 4 else 2, h, d, r, .reg a.toNat⟩
  | ldxImm {d r w i} : GlobalAccess (.ldxImm d r w i) ⟨.load, if w = 1 then 4 else 2, 0, d, r, .imm (i.setWidth 32)⟩
  | lda {h d a r} : GlobalAccess (.lda h d a r) ⟨.loadAcquire, 1, h, d, r, .reg a.toNat⟩
  | ldaImm {d r i} : GlobalAccess (.ldaImm d r i) ⟨.loadAcquire, 1, 0, d, r, .imm (i.setWidth 32)⟩
  | st {h d a r} : GlobalAccess (.st h d a r) ⟨.store, 1, h, d, r, .reg a.toNat⟩
  | stImm {d r i} : GlobalAccess (.stImm d r i) ⟨.store, 1, 0, d, r, .imm (i.setWidth 32)⟩
  | stx {h d a r w} : GlobalAccess (.stx h d a r w) ⟨.store, if w = 1 then 4 else 2, h, d, r, .reg a.toNat⟩
  | stxImm {d r w i} : GlobalAccess (.stxImm d r w i) ⟨.store, if w = 1 then 4 else 2, 0, d, r, .imm (i.setWidth 32)⟩
  | stl {h d a r} : GlobalAccess (.stl h d a r) ⟨.storeRelease, 1, h, d, r, .reg a.toNat⟩
  | stlImm {d r i} : GlobalAccess (.stlImm d r i) ⟨.storeRelease, 1, 0, d, r, .imm (i.setWidth 32)⟩

/-- R231 to R235, R238: what the access has put in flight, as operation `r.fresh`: its elements, the count that
WAITC sees, its entries of the operand log, and for a load the pending marks of its registers. -/
def GlobalInFlight (g : GlobalRow) (r : State) (k : Nat) (sl : BitVec 8) (w : Warp) (t : State) : Prop :=
  let br := tget w.recs g.r.toNat 0
  let z := scalarSize (modeType (gangMode w sl))
  let path := if g.kind.writes then Path.st else .ld
  (∃ op, tfind t.ops r.fresh = some op ∧ op.kind = g.kind ∧ op.warp = some k ∧ op.slices = sl ∧ op.record = br ∧
    op.z = z ∧ op.n = g.n ∧ op.dst = w.win + g.d.toNat ∧ op.placed = false ∧ op.faulted = false ∧
    op.elems = (gangLanes w sl).map fun l => elemAt br (recordBase r br g.kind.writes) z g.n l (g.ix.value r w 1 l).toNat
      (if g.kind.writes then (List.range g.n).map fun j => srcReg r w (g.d.toNat + j) l else [])) ∧
  (warpAt t k).counters.get path = w.counters.get path ++ [⟨r.fresh, false⟩] ∧
  (∀ n ∈ (freeLog w).take (if g.kind.writes ∧ g.n = 4 then 2 else 1),
    ∃ e, tfind (warpAt t k).log n = some e ∧ e.op = r.fresh) ∧
  (g.kind.writes = false → ∀ i ∈ bitsOf 8 sl, ∀ j, j < g.n → ⟨i, w.win + (g.d.toNat + j), r.fresh⟩ ∈ (warpAt t k).marks) ∧
  t.mem = r.mem ∧ stepsOn k sl w t

/-- R236: LDC, STC and the cluster forms of LDA and STL. -/
inductive ClusterAccess : Instr → OpKind → BitVec 2 → BitVec 7 → BitVec 7 → BitVec 8 → Prop
  | ldc {h d a i} : ClusterAccess (.ldc h d a i) .clusterLoad h d a i
  | stc {h d a i} : ClusterAccess (.stc h d a i) .clusterStore h d a i
  | ldaCluster {h d a i} : ClusterAccess (.ldaCluster h d a i) .clusterLoadAcquire h d a i
  | stlCluster {h d a i} : ClusterAccess (.stlCluster h d a i) .clusterStoreRelease h d a i

def clusterForm (kind : OpKind) (h : BitVec 2) (d a : BitVec 7) : Form :=
  if kind.writesCluster then
    { reads := [a.toNat, d.toNat], hold := h.toNat, a := a.toNat, drains := kind == .clusterStoreRelease
      accepts := fun m => acceptsMem m && (!(kind == .clusterStoreRelease) || scopeOk m), stall := clStall }
  else
    { reads := [a.toNat], waits := [d.toNat], hold := h.toNat, a := a.toNat, past := !(kind == .clusterLoadAcquire)
      accepts := fun m => acceptsMem m && (!(kind == .clusterLoadAcquire) || scopeOk m), stall := clStall }

/-- R259, R262: a home-slice instruction in global memory: its code, bytes, data registers read, registers written. -/
structure HeldRow where
  kind : OpKind
  code : Word → Nat
  z : Nat
  /-- First data field, and how many. -/
  data : BitVec 7
  n : Nat
  dst : Nat
  /-- The field of the index. -/
  ix : BitVec 7
  r : BitVec 4
  form : Form

/-- An atomic's code: the operation, 32 for unsigned order, 64 for 64 bits, 128 where nothing returns. -/
def codeOf (op : Nat) (wide silent : Bool) (m : Word) : Nat :=
  op + (if modeType m = 1 then 32 else 0) + (if wide then 64 else 0) + (if silent then 128 else 0)

def atomicForm (h : BitVec 2) (d a : BitVec 7) (n out : Nat) (ok : Word → Bool) (stall : State → Nat → Bool) : Form :=
  { reads := a.toNat :: groupRegs d n, waits := groupRegs d out, hold := h.toNat, a := a.toNat, accepts := ok
    stall := stall }

def atomicRow (op z n out : Nat) (ok : Word → Bool) (h : BitVec 2) (d a : BitVec 7) (r : BitVec 4) : HeldRow :=
  ⟨.atomic, codeOf op (decide (z = 8)) (decide (out = 0)), z, d, n, d.toNat, a, r,
    atomicForm h d a n out ok (heldStall r)⟩

inductive HeldAccess : Instr → HeldRow → Prop
  | atom {h d a o r} : HeldAccess (.atomGlobal h d a o r) (atomicRow o.toNat 4 1 1 acceptsAtm h d a r)
  | red {h d a o r} : HeldAccess (.redGlobal h d a o r) (atomicRow o.toNat 4 1 0 acceptsAtm h d a r)
  | atomf {h d a o r} : HeldAccess (.atomfGlobal h d a o r) (atomicRow (8 + o.toNat) 4 1 1 acceptsF32 h d a r)
  | acas {h d a r} : HeldAccess (.acasGlobal h d a r) (atomicRow 16 4 2 1 (fun _ => true) h d a r)
  | atomD {h d a o r} : HeldAccess (.atomD h d a o r) (atomicRow o.toNat 8 2 2 acceptsAtm h d a r)
  | redD {h d a o r} : HeldAccess (.redD h d a o r) (atomicRow o.toNat 8 2 0 acceptsAtm h d a r)
  | acasD {h d a r} : HeldAccess (.acasD h d a r) (atomicRow 16 8 4 2 (fun _ => true) h d a r)
  | waitm {h d a c r} : HeldAccess (.waitmGlobal h d a c r)
      ⟨.waitm, fun m => c.toNat + (if modeType m = 1 then 32 else 0), 4, d, 1, 0, a, r, waitmForm h d a⟩

inductive CacheopRow : Instr → Nat → BitVec 7 → BitVec 4 → Prop
  | arm {d r} : CacheopRow (.cacheopArm d r) 0 d r
  | disarm {d r} : CacheopRow (.cacheopDisarm d r) 1 d r
  | flush {d r} : CacheopRow (.cacheopFlush d r) 2 d r
  | evict {d r} : CacheopRow (.cacheopEvict d r) 3 d r
  | packOn {d r} : CacheopRow (.cacheopPackOn d r) 4 d r
  | packOff {d r} : CacheopRow (.cacheopPackOff d r) 5 d r

/-- R256, R262: a cluster-space atomic: its operation, data registers, registers written, accepted modes. -/
inductive ClusterAtomic : Instr → Nat → Nat → Nat → (Word → Bool) → BitVec 2 → BitVec 7 → BitVec 7 → Prop
  | atom {h d a o} : ClusterAtomic (.atomCluster h d a o) o.toNat 1 1 acceptsAtm h d a
  | red {h d a o} : ClusterAtomic (.redCluster h d a o) o.toNat 1 0 acceptsAtm h d a
  | atomf {h d a o} : ClusterAtomic (.atomfCluster h d a o) (8 + o.toNat) 1 1 acceptsF32 h d a
  | acas {h d a} : ClusterAtomic (.acasCluster h d a) 16 2 1 (fun _ => true) h d a

/-- R245: what ACPY and APLN name and wait for; `t` is the direction. -/
def copyForm (planes : Bool) (d : BitVec 7) (r : BitVec 4) (t : BitVec 1) : Form :=
  { reads := groupRegs d 4, drains := true
    accepts := fun m => acceptsMem m && (!planes || decide (modeType m ≠ 6) || roundsOk m)
    stall := fun s k => !planes && decide (t = 1) && writerHeld s (tget (warpAt s k).recs r.toNat 0) }

/-- R245 to R247: what a copy needs besides: accepted parameters, the waits of its release over, and a free record;
numbers above every operation's are free. -/
def copyOk (planes : Bool) (d : BitVec 7) (r : BitVec 4) (c : BitVec 1) (s : State) (sl : BitVec 8) (w : Warp) : Prop :=
  recordOk r w ∧ (c = 1 → recPub (tget w.recs r.toNat 0) = true) ∧
    (if planes then aplnCheck else acpyCheck) (modeType (gangMode w sl)) (copyParams s w sl d) = none ∧
    released w sl 2 = true ∧ (freeCopy s w.die w.core).isSome = true

/-- R245 to R247: what a copy's issue leaves: the copy in its record, and its bytes expected by its barrier object. -/
def CopyInFlight (planes : Bool) (d : BitVec 7) (r : BitVec 4) (t c : BitVec 1) (s : State) (k : Nat) (sl : BitVec 8)
    (w : Warp) (t' : State) : Prop :=
  let p := copyParams s w sl d
  let ty := modeType (gangMode w sl)
  let m := (tget s.clusters w.clusterOf default).store
  let bytes := if planes then planeBytes ty (lget p 3 0 % 2048) else lget p 3 0 * scalarSize ty
  (∃ op, tfind t'.ops s.fresh = some op ∧ op.kind = (if planes then .planes else .copy) ∧
    op.code = t.toNat + 2 * c.toNat ∧ op.record = tget w.recs r.toNat 0 ∧ some op.entry = freeCopy s w.die w.core ∧
    op.done = 0 ∧ op.z = scalarSize ty ∧ op.par.take 4 = p.map (BitVec.ofNat 32)) ∧
  (tget t'.clusters w.clusterOf default).store =
    boSettle (mputNat m (lget p 2 0) 4 (mnat m (lget p 2 0) 4 + bytes)) (lget p 2 0) ∧
  t'.mem = s.mem ∧ stepsOn k sl w t'

/-- R258: the gang holds at the instruction for operation `o`. -/
def holdsFor (o k : Nat) (sl : BitVec 8) (w : Warp) (t : State) : Prop :=
  ∀ j ∈ bitsOf 8 sl, (sliceOf t k j).wait = .held o ∧ (sliceOf t k j).pc = (sliceAt w j).pc

/-- Nothing under way names operation `o`. -/
def unnamed (s : State) (o : Nat) : Prop :=
  (∀ p ∈ s.reqs, p.2.op ≠ o) ∧ (∀ p ∈ s.remote, p.2.req.op ≠ o) ∧ ∀ m ∈ s.monitors, m.op ≠ o

/-- R258: where every line of operation `o`, which a gang holds at, translates and nothing earlier keeps it back, its
translation is a step after which each line has its request and the gang stands at the next word; a WAITM's gang does
so at once where it reaches no line. -/
def Departs (o k : Nat) (sl : BitVec 8) (w : Warp) (t : State) : Prop :=
  ∀ op m l, let t1 := { t with issuer := .event [o] };
    tfind t.ops o = some op → placeOp t1 op = (m, l) → (∀ p ∈ l, ∃ ls fmt code, p.2 = .lines ls fmt code) →
    (let ls := (sortPlaces l).ok.flatMap Prod.snd;
      mustFollow t1 o op (op.vlines ++ ls.map OpLine.va) (ls.map OpLine.pa) = false ∧
        (op.kind = .cacheop → op.code % 8 ≤ 1 → ∀ x ∈ ls, x.attr.red ≠ 0)) →
    (op.kind.writer = true → shadowFree t op.sample = true) → (∀ e ∈ op.elems, e.st ≠ .addrError) → unnamed t o →
    (tfind t.warps k).any (fun v => !v.ended) = true →
    ∃ u, exec .lineTranslation t1 = .next u ∧ (op.kind ≠ .waitm ∨ l = [] → stepsOn k sl w u) ∧
      ∀ p ∈ l, ∀ ls fmt code, p.2 = .lines ls fmt code → ∀ x ∈ ls, ∃ id q, tfind u.reqs id = some q ∧ q.op = o ∧
        q.line = lineOf x.pa ∧ q.kind = heldReqKind op.kind

/-- R256: request `id` of `s` is performed now by its home slice, on this device. -/
structure AtItsHome (s : State) (id : Nat) (q : Req) : Prop where
  named : id ≠ 0
  issuer : s.issuer = .event [id]
  req : tfind s.reqs id = some q
  here : isRemote q.line = false
  ready : homeReady s q.home = true
  reached : cutOff s q = false ∧ linkHeld s id q = false
  sound : (homeLine s q.line).poison = none
  next : eligible s id q = true

/-- The bytes of memory after stores of these parts, the later over the earlier (R41). -/
def storedParts (m : Memory) (parts : List (Nat × List Byte × Nat)) : Memory :=
  parts.foldl (fun m p => mstore m p.1 p.2.1) m

/-- R263: what an atomic makes of memory, lane after lane, and the old value of each. -/
def atomRun (code : Nat) (m : Memory) : List (Nat × List Byte × Nat) → Memory × List (Nat × Nat)
  | [] => (m, [])
  | (pa, data, lane) :: r =>
    let n := if code / 64 % 2 = 1 then 8 else 4
    let t := atomRun code (mputNat m pa n (atomStep code (mnat m pa n) data)) r
    (t.1, (lane, mnat m pa n) :: t.2)

/-- An operation of a resident warp that goes on, everything it asked for having come back (R231). -/
structure CameBack (s : State) (o k : Nat) (op : Op) (w : Warp) : Prop where
  issuer : s.issuer = .event [o]
  inFlight : tfind s.ops o = some op
  mine : op.warp = some k
  warp : tfind s.warps k = some w
  alive : w.ended = false
  done : returned s o op = true

/-- Lanes of elements: each below 32, no two alike. -/
def lanesApart (l : List Elem) : Prop := (l.map Elem.lane).Nodup ∧ ∀ e ∈ l, e.lane < 32

end Sys2Proof.Claims
end

