-- ==== Sys2Proof/Claims/Units.lean ====
section
/-!
DEFINITION. Words of the claims about the hash engine, the matrix engine, the queues and the access processors
(spec/09_hash_engine.md, spec/10_matrix_engine.md, spec/11_access_processors.md).
-/

namespace Sys2Proof.Claims

open Sys2Proof.Machine

/-- The cluster store of cluster `c`. -/
def storeAt (s : State) (c : Nat) : Memory := (tget s.clusters c default).store

/-- R243: bytes added to those that the barrier object at `a` expects, or to those that have arrived there. -/
def expects (m : Memory) (a n : Nat) : Memory := boSettle (mputNat m a 4 (mnat m a 4 + n)) a
def arrived (m : Memory) (a n : Nat) : Memory := boSettle (mputNat m (a + 4) 4 (mnat m (a + 4) 4 + n)) a

/-- The warp operands of the quad at `d`. -/
def quadOf (s : State) (w : Warp) (sl : BitVec 8) (d : BitVec 7) : List Word := (groupRegs d 4).map (warpOperand s w sl)

/-- R287, R289, R290, R293: a command of the hash engine: its quad, what its parameters must pass, the bytes it counts
at its barrier object and where that lies. -/
structure HashRow where
  d : BitVec 7
  check : List Nat → Option (Nat × Nat)
  bytes : Warp → BitVec 8 → Nat
  bo : List Nat → Nat

inductive HashIssue : Instr → HashRow → Prop
  | hcfg {d t g x} : HashIssue (.hcfg d t g x) ⟨d, hcfgCheck, fun _ _ => 16, fun q => lget q 2 0⟩
  | rows {d x f c} : HashIssue (.hlookRows d x f c)
      ⟨d, lookCheck f c 4096, fun w sl => 8 * (c.toNat + 1) * (gangLanes w sl).length, controlBo⟩
  | planes {d x f c} : HashIssue (.hlookPlanes d x f c)
      ⟨d, lookCheck f c 2048, fun w sl => 64 * (gangLanes w sl).length, controlBo⟩
  | grad {d x f c} : HashIssue (.hgrad d x f c) ⟨d, lookCheck f c 4096, fun _ _ => 16, controlBo⟩

/-- R63, R286, R291: a hash command has been queued last, its bytes expected at its barrier object; if the engine has
accepted every HLOOK ahead of it, an HLOOK has been accepted with it, sampling its table. -/
def HashQueued (i : Instr) (g : HashRow) (r : State) (k : Nat) (sl : BitVec 8) (w : Warp) (t : State) : Prop :=
  let c := w.clusterOf
  let l := (clusterAt r c).hashQueue
  let q := (quadOf r w sl g.d).map BitVec.toNat
  (∃ l' e, (clusterAt t c).hashQueue = l' ++ [e] ∧ l'.map HashCommand.word = l.map HashCommand.word ∧
    e.word = BitVec.ofNat 32 (encode i) ∧ e.warp = k ∧ e.mask = toBits 32 (gangLanes w sl) ∧
    e.quad = quadOf r w sl g.d ∧ e.total = g.bytes w sl ∧ e.bo = g.bo q ∧ e.served = false ∧
    ((∀ x ∈ l, x.opcode = 0xE9 → x.accepted = true) → l' = l ∧ e.accepted = decide (e.opcode = 0xE9))) ∧
  storeAt t c = expects (storeAt r c) (g.bo q) (g.bytes w sl) ∧ t.mem = r.mem ∧ stepsOn k sl w t

/-- R311: a tile command's quad, its conditional bit and its tile predicate. -/
inductive TileIssue : Instr → BitVec 7 → BitVec 1 → BitVec 4 → Prop
  | bstg {d e t x m} : TileIssue (.bstg d e t x m) d e t
  | bchn {d e t n m} : TileIssue (.bchn d e t n m) d e t
  | btrn {d e t n m} : TileIssue (.btrn d e t n m) d e t
  | btrnW {d e t x m} : TileIssue (.btrnW d e t x m) d e t
  | bdns {d e t a b f c m} : TileIssue (.bdns d e t a b f c m) d e t
  | bdrn {d e t n c o} : TileIssue (.bdrn d e t n c o) d e t

/-- R311, R313: what a tile command's word names. -/
def tileForm (word : Word) (d : BitVec 7) : Form where
  reads := groupRegs d (paramCount (word.toNat / 2 ^ 24))
  drains := true

/-- R64, R303: an entry is free for a command of `w`, and no waiting PUBLISH holds the records it is to sample. -/
def tileRoom (s : State) (w : Warp) (e : MxEntry) : Prop :=
  (freeEntry s w.clusterOf w.core).isSome = true ∧
    (e.opcode = 0xE6 → writerHeld s e.record = false ∧ (e.wantsMax = true → writerHeld s e.recordMax = false))

/-- R303, R313: command `e` has taken the lowest free entry of the cluster of `w`, accepted now. -/
def TileAccepted (r : State) (w : Warp) (e : MxEntry) (t : State) : Prop :=
  ∃ n x, freeEntry r w.clusterOf w.core = some n ∧ tfind (clusterAt t w.clusterOf).mx n = some x ∧
    x.word = e.word ∧ x.mask = e.mask ∧ x.par = e.par ∧ x.st = e.st ∧ x.granted = e.granted ∧
    x.accepted = engineClock r w.clusterOf

/-- R314: a tile command that may be accepted. -/
def tileOk (e : MxEntry) (w : Warp) (sl : BitVec 8) : Prop :=
  e.check = none ∧ e.recordCheck = none ∧ boAddress e.bo = true ∧ released w sl 2 = true

/-- R338: access-processor context `x` of unit `u` of core `c` executes. -/
structure ApRuns (s : State) (c u x : Nat) : Prop where
  issuer : s.issuer = .ap c u x
  unit : u < 2
  ctx : x < 8
  ctxs : (apUnit s c u).ctxs.length = 8

/-- R338: the unit after an instruction of one of its contexts: register `rd`, the next address, the data memory, and no operands
kept for a wait; nothing else of it moves. -/
def apAfter (s : State) (c u x rd : Nat) (v : Word) (pc : Nat) (m : Memory) : ApUnit :=
  { apUnit s c u with
    dmem := m
    ctxs := lmod (apUnit s c u).ctxs x fun y =>
      { y with x := rvSet y.x rd v, pc := BitVec.ofNat 16 pc, st := .running, pend := none } }

/-- R338: an RV32IM instruction that touches no memory: its destination, its value and the next address. -/
inductive ApResult (y : ApContext) (w : Word) : Nat → Word → Nat → Prop
  | lui : rvOp w = 0x37 → ApResult y w (rvRd w) (rvImmU w) (y.pc.toNat + 4)
  | auipc : rvOp w = 0x17 → ApResult y w (rvRd w) (BitVec.ofNat 32 y.pc.toNat + rvImmU w) (y.pc.toNat + 4)
  | jal {p : Word} : rvOp w = 0x6F → p = BitVec.ofNat 32 y.pc.toNat + rvImmJ w → p.toNat % 4 = 0 → p.toNat < 0x4000 →
      ApResult y w (rvRd w) (BitVec.ofNat 32 (y.pc.toNat + 4)) p.toNat
  | jalr {p : Word} : rvOp w = 0x67 → rvF3 w = 0 → p = (rvGet y.x (rvRs1 w) + rvImmI w) &&& ~~~1 → p.toNat % 4 = 0 →
      p.toNat < 0x4000 → ApResult y w (rvRd w) (BitVec.ofNat 32 (y.pc.toNat + 4)) p.toNat
  | taken {p : Word} : rvOp w = 0x63 → rvBranch (rvF3 w) (rvGet y.x (rvRs1 w)) (rvGet y.x (rvRs2 w)) = some true →
      p = BitVec.ofNat 32 y.pc.toNat + rvImmB w → p.toNat % 4 = 0 → p.toNat < 0x4000 →
      ApResult y w 0 (BitVec.ofNat 32 (y.pc.toNat + 4)) p.toNat
  | notTaken : rvOp w = 0x63 → rvBranch (rvF3 w) (rvGet y.x (rvRs1 w)) (rvGet y.x (rvRs2 w)) = some false →
      ApResult y w 0 0 (y.pc.toNat + 4)
  | opImm : rvOp w = 0x13 → rvOpImmOk w = true →
      ApResult y w (rvRd w) (rvOpImm w (rvGet y.x (rvRs1 w))) (y.pc.toNat + 4)
  | op : rvOp w = 0x33 → rvF7 w ≠ 1 → rvAluF7 (rvF3 w) (rvF7 w) = true →
      ApResult y w (rvRd w) (rvAlu (rvF3 w) (decide (rvF7 w = 32)) (rvGet y.x (rvRs1 w)) (rvGet y.x (rvRs2 w)))
        (y.pc.toNat + 4)
  | mul : rvOp w = 0x33 → rvF7 w = 1 →
      ApResult y w (rvRd w) (rvMul (rvF3 w) (rvGet y.x (rvRs1 w)) (rvGet y.x (rvRs2 w))) (y.pc.toNat + 4)
  | fence : rvOp w = 0x0F → rvF3 w = 0 → y.outstanding = 0 → ApResult y w 0 0 (y.pc.toNat + 4)

/-- R338: the address of a load, and of a store. -/
def apLoadAt (y : ApContext) (w : Word) : Word := rvGet y.x (rvRs1 w) + rvImmI w
def apStoreAt (y : ApContext) (w : Word) : Word := rvGet y.x (rvRs1 w) + rvImmS w

/-- R338: the register value that a load makes of the number it reads. -/
def apLoaded (f3 v : Nat) : Word :=
  match f3 with
  | 0 => BitVec.ofInt 32 (toSigned 8 v)
  | 1 => BitVec.ofInt 32 (toSigned 16 v)
  | _ => BitVec.ofNat 32 v

/-- R338: bytes of a load or a store by funct3. -/
def apBytes (f3 : Nat) : Nat := if f3 % 4 = 0 then 1 else if f3 % 4 = 1 then 2 else 4

/-- R342: the context is idle for a cause. -/
def apEnded (s : State) (c u x cause : Nat) : Prop :=
  (apCtx s c u x).st = .idle ∧ dmemNat s c u (ctlBlock x + 16) 4 = cause

/-- R348: `n` more entries at the tail of a queue, all of one new reservation. -/
def reserved (a b : Queue) (res n : Nat) (complete : Bool) (words : Nat → List Word) : Prop :=
  b.entries = a.entries ++ (List.range n).map fun j => ⟨res, complete, words j⟩

end Sys2Proof.Claims
end

