-- ==== Sys2Proof/Claims/Device.lean ====
section
/-!
DEFINITION. Words of the claims about the task-graph machine, the links and the host layer
(spec/12_task_graph_machine.md, spec/13_links_and_collectives.md, spec/14_host_power_bringup.md).
-/

namespace Sys2Proof.Claims

open Sys2Proof.Machine

/-- Node `n` of graph `g` is listed. -/
def nodeListed (s : State) (g n : Nat) : Prop :=
  (tfind s.graphs g).isSome = true ∧ (tfind (graphAt s g).nodes n).isSome = true

/-- R268: whether a lane's condition holds of the word at physical address `pa`. -/
def condHolds (s : State) (code pa : Nat) (v : Word) : Bool :=
  condMet (code % 32) (decide (code / 32 = 0)) (mword s.mem pa) v

/-- R395, R396: a die's pool has room for `n` more records of a graph, one after another. -/
def roomFor (s : State) (g d n : Nat) : Prop :=
  ∀ m < n, poolRoom (modGraph s g fun y => { y with poolUsed := lmod y.poolUsed d (· + m) }) g d = true

/-- R394, R395: an EMIT to slot `slot` that may place all its records at once. -/
def emitOk (slot : Nat) (s : State) (sl : BitVec 8) (w : Warp) : Prop :=
  let g := w.ident.graph
  let y := graphAt s g
  y.plain = false ∧ w.self = false ∧ slot < 8 ∧ y.emitters = [] ∧ released w sl 3 = true ∧
    w.die < y.poolUsed.length ∧ roomFor s g w.die (gangLanes w sl).length ∧
    ∃ c, (tget y.nodes w.ident.node default).succ[slot]? = some c ∧ nodeListed s g c ∧
      (nodeAt s g c).kind = 1 ∧ (nodeAt s g c).status ≠ 2

/-- R395: its records are in the pool, and it waits no longer. -/
def Emitted (r : State) (k : Nat) (sl : BitVec 8) (w : Warp) (t : State) : Prop :=
  let g := w.ident.graph
  lget (graphAt t g).poolUsed w.die 0 = lget (graphAt r g).poolUsed w.die 0 + (gangLanes w sl).length ∧
    (graphAt t g).emitters = [] ∧ t.mem = r.mem ∧ stepsOn k sl w t

/-- R376, R405, R443, R449: a context's fault queue takes a record of a die at once. -/
def queueOpen (s : State) (c die : Nat) : Prop :=
  ∃ x, tfind s.contexts c = some x ∧ x.waiting = [] ∧ x.fqTail - x.fqHead < 2 ^ x.fqlog ∧
    lineOpen s die (x.fq + 32 * (x.fqTail % 2 ^ x.fqlog)) = true

/-- R376: the record of 32 bytes has been written to a context's fault queue, and nothing else of memory. -/
def recordPosted (s t : State) (c : Nat) (b : List Byte) : Prop :=
  let x := tget s.contexts c default
  let a := x.fq + 32 * (x.fqTail % 2 ^ x.fqlog)
  (tget t.contexts c default).fqTail = x.fqTail + 1 ∧ mbytes t.mem a 32 = b ∧
    ∀ i, i < a ∨ a + 32 ≤ i → mread t.mem i = mread s.mem i

/-- R438, R440: command `c` is the next of ring `r`, well-formed but for its operands, for a die that runs, and its
context is used where it acts for one. -/
structure Commanded (s : State) (r : Nat) (c : Command) : Prop where
  issuer : s.issuer = .event [r]
  next : nextCommand s r = some c
  ring : r < s.rings.length
  clean : c.clean = true
  aligned : c.done % 4 = 0
  die : c.die < s.dies ∧ c.die < s.perDie.length
  linked : c.die = 1 → s.dieLink = true
  ready : readyBit s c.die 3 = true
  context : contextCommand c.code = true → (tfind s.contexts c.ctx).isSome = true

/-- R438 to R440: the command of ring `r` has ended with a status: its completion word, the ring's head, the event. -/
def Finished (s t : State) (r : Nat) (c : Command) (status : Nat) : Prop :=
  mbytes t.mem (hostPa (c.done / 4 * 4)) 4 = leBytes 4 status ∧
    (ringOf t r).head = ((ringOf s r).head + 1) % 2 ^ 32 ∧ (ringOf t r).awaits = none ∧
    t.events.getLast? = some ⟨3, r, ((ringOf s r).head + 1) % 2 ^ 32⟩

/-- Command `i` of ring `r`, `c`, ends with status 1, and `post` holds of the next state. -/
def Performs (i : Instr) (s : State) (r : Nat) (c : Command) (post : State → Prop) : Prop :=
  ∃ t, exec i s = .next t ∧ Finished s t r c 1 ∧ post t

/-- R378: a plain launch submitted, its header not read yet, and what reading it gives. -/
def launchHeader (s : State) (c hdr done : Nat) (persistent : Option Nat) : State × Except Nat Header :=
  let y := { newGraph s c with
    plain := true, done := done, nodes := [(0, { newNode s with hdrAddr := hdr })], persistent := persistent }
  let u := { s with fresh := s.fresh + 1, graphs := tput s.graphs s.fresh y }
  readHeader u c (leaderOf u y) hdr

/-- R379: a launch whose header has been accepted: its node is ready. -/
def LaunchReady (y : Graph) (n : Node) (h : Header) : Prop :=
  y.complete = false ∧ n.st = .ready ∧ n.hdr = some h ∧ n.prio = h.prio ∧ n.chunks = []

/-- R379: a launch whose header has been refused: it is complete with status 2, and nothing of it is ready or starts. -/
def LaunchRefused (s t : State) (y : Graph) (n : Node) : Prop :=
  y.complete = true ∧ n.st = .complete ∧ n.status = 2 ∧ n.hdr = none ∧ n.chunks = [] ∧ n.requests = [] ∧
    tkeys t.warps = tkeys s.warps ∧ t.cohorts = s.cohorts ∧ ∀ g, g ≠ s.fresh → tfind t.graphs g = tfind s.graphs g

/-- Host memory that a command writes lies apart from its completion word. -/
def apartFromDone (c : Command) (a n : Nat) : Prop :=
  hostPa c.done + 4 ≤ hostPa a ∨ hostPa a + n ≤ hostPa c.done

/-- R407, R412: message `m` is the next of its channel at port `p`, of kind `kind`. -/
def Arrives (s : State) (p : Nat) (m : Message) (kind : Nat) : Prop := arrival s m = some p ∧ m.kind = kind

/-- R256, R416, R443: the home slice of the line of message `m`, which comes through port `p`, performs it at once. -/
structure HomeTakes (s : State) (p : Nat) (m : Message) : Prop where
  here : isRemote (m.line * 128) = false
  ready : homeReady s (homeOf s (m.line * 128)) = true
  reached : s.dieLink = true ∧ s.overflowFull = false
  sound : (homeLine s (m.line * 128)).poison = none ∧ (homeLine s (m.line * 128)).locked = none
  next : ∀ x ∈ s.reqs, x.2.line ≠ m.line * 128 ∧ ¬(x.2.src = portSrc p ∧ x.2.home = homeOf s (m.line * 128))

/-- R271, R272: the line's elements that contributions name have been added to, by its reduction code, and no other byte
of memory has changed. -/
def lineAdded (a b : Memory) (line code : Nat) (parts : List (Nat × List Byte × Nat)) : Prop :=
  (∀ e, e < 32 → let img := lineImage parts
    let on := (List.range 4).any fun i => img.1.getLsbD (4 * e + i)
    let v := leNat ((List.range 4).map fun i => if img.1.getLsbD (4 * e + i) then lget img.2 (4 * e + i) 0 else 0)
    mbytes b (line + 4 * e) 4 =
      if on then leBytes 4 (redElem code (mnat a (line + 4 * e) 4) v) else mbytes a (line + 4 * e) 4) ∧
    ∀ i, i < line ∨ line + 128 ≤ i → mread b i = mread a i

/-- R273: a line's counter after one more contribution. -/
def countedOn (h : HomeLine) : Nat :=
  if h.target = 0 then min 65535 (h.counter + 1) else if h.counter + 1 = h.target then 0 else h.counter + 1

/-- R416: a request of another device stands at the home of its line. -/
def RequestAtHome (s t : State) (p : Nat) (m : Message) (kind : ReqKind) (parts : List (Nat × List Byte × Nat)) : Prop :=
  t.inbox = s.inbox.erase (p, m) ∧ t.mem = s.mem ∧
    ∃ q, tfind t.reqs s.fresh = some q ∧ q.kind = kind ∧ q.line = m.line * 128 ∧ q.home = homeOf s (m.line * 128) ∧
      q.parts = parts ∧ q.remote = some m ∧
      q.collective = if m.desc = 0xFFFF then none else some (m.desc, m.epoch)

/-- R411: a flit of 256 bytes with a good CRC. -/
def goodFlit (f : List Byte) : Prop := f.length = 256 ∧ leNat ((f.drop 248).take 8) = (crc64 (f.take 248)).toNat

end Sys2Proof.Claims
end

