-- ==== Sys2Proof/Claims/Lane.lean ====
section
/-!
DEFINITION. What the lane instructions of spec/06_lane_datapath.md compute, row by row.
-/

namespace Sys2Proof.Claims

open Sys2Proof.Machine

/-! ## Integer, logic, shift, bit-field (R176 to R182, R185) -/

/-- A row of class int: reads `f.reads`, and gives each lane a word from the type, the saturation bit and the words
of a, b and d. -/
def intRow (f : Form) (d a : BitVec 7) (b : Src) (g : Nat → Bool → Word → Word → Word → Word) : LaneRow :=
  { form := { f with writes := [d.toNat], accepts := acceptsInt }
    dest := toReg d, lat := 2
    res := fun s w sl l =>
      let ty := modeType (gangMode w sl)
      { val := g ty (modeSat (gangMode w sl)) (srcReg s w a.toNat l) (b.value s w ty l) (srcReg s w d.toNat l) } }

/-- R176, R178: exact arithmetic on the sources at the width of the type, brought into range once. -/
def exact (g : Int → Int → Int → Int) (ty : Nat) (sat : Bool) (a b d : Word) : Word :=
  fit ty sat (g (readInt ty a) (readInt ty b) (readInt ty d))

/-- R176, R179: the low `w` bits of a word. -/
def low (ty : Nat) (a : Word) : Nat := a.toNat % 2 ^ intWidth ty

/-- R179, R182: bits computed at the width of the type, extended to the register. -/
def onBits (g : Nat → Nat → Nat → Nat → Nat) (ty : Nat) (_ : Bool) (a b d : Word) : Word :=
  extend ty (g (intWidth ty) (low ty a) b.toNat (low ty d) % 2 ^ intWidth ty : Nat)

/-- R180: a shift by a source amount, of which a rotate takes the remainder by the width. -/
def shiftLeft (w x n _ : Nat) : Nat := if n < w then x * 2 ^ n % 2 ^ w else 0
def shiftRight (w x n _ : Nat) : Nat := if n < w then x / 2 ^ n else 0
def shiftSigned (w x n _ : Nat) : Nat := (toSigned w x / (2 ^ min n w : Int) % (2 ^ w : Int)).toNat
def rotateLeft (w x n _ : Nat) : Nat := x * 2 ^ (n % w) % 2 ^ w + x / 2 ^ (w - n % w)

inductive IntegerRow : Instr → LaneRow → Prop
  | iadd {h d a b} : IntegerRow (.iadd h d a b)
    (intRow (two h a b) d a (.reg b.toNat) (exact fun x y _ => x + y))
  | iaddi {h d a i} : IntegerRow (.iaddi h d a i)
    (intRow (one h a) d a (.imm (immSigned i)) (exact fun x y _ => x + y))
  | isub {h d a b} : IntegerRow (.isub h d a b)
    (intRow (two h a b) d a (.reg b.toNat) (exact fun x y _ => x - y))
  | imul {h d a b} : IntegerRow (.imul h d a b)
    (intRow (two h a b) d a (.reg b.toNat) (exact fun x y _ => x * y))
  | imulImm {h d a i} : IntegerRow (.imulImm h d a i)
    (intRow (one h a) d a (.typed i) (exact fun x y _ => x * y))
  | imulh {h d a b} : IntegerRow (.imulh h d a b)
    (intRow (two h a b) d a (.reg b.toNat) (fun ty _ x y _ => extend ty (readInt ty x * readInt ty y / (2 ^ intWidth ty : Int))))
  | imad {h d a b} : IntegerRow (.imad h d a b)
    (intRow (three h a b d) d a (.reg b.toNat) (exact fun x y z => z + x * y))
  | imin {h d a b} : IntegerRow (.imin h d a b)
    (intRow (two h a b) d a (.reg b.toNat) (exact fun x y _ => min x y))
  | iminImm {h d a i} : IntegerRow (.iminImm h d a i)
    (intRow (one h a) d a (.typed i) (exact fun x y _ => min x y))
  | imax {h d a b} : IntegerRow (.imax h d a b)
    (intRow (two h a b) d a (.reg b.toNat) (exact fun x y _ => max x y))
  | imaxImm {h d a i} : IntegerRow (.imaxImm h d a i)
    (intRow (one h a) d a (.typed i) (exact fun x y _ => max x y))
  | iabs {h d a} : IntegerRow (.iabs h d a)
    (intRow (one h a) d a (.imm 0) (exact fun x _ _ => if x < 0 then -x else x))
  | lea {h d a b} : IntegerRow (.lea h d a b)
    (intRow (two h a b) d a (.reg b.toNat) (fun ty sat x y _ => fit ty sat (readInt ty x + readInt ty y * (intWidth ty / 8 : Nat))))

inductive LogicRow : Instr → LaneRow → Prop
  | and {h d a b} : LogicRow (.and h d a b)
    (intRow (two h a b) d a (.reg b.toNat) (onBits fun _ x y _ => x &&& y))
  | andImm {h d a i} : LogicRow (.andImm h d a i)
    (intRow (one h a) d a (.imm (immUnsigned i)) (onBits fun _ x y _ => x &&& y))
  | or {h d a b} : LogicRow (.or h d a b)
    (intRow (two h a b) d a (.reg b.toNat) (onBits fun _ x y _ => x ||| y))
  | orImm {h d a i} : LogicRow (.orImm h d a i)
    (intRow (one h a) d a (.imm (immUnsigned i)) (onBits fun _ x y _ => x ||| y))
  | xor {h d a b} : LogicRow (.xor h d a b)
    (intRow (two h a b) d a (.reg b.toNat) (onBits fun _ x y _ => x ^^^ y))
  | xorImm {h d a i} : LogicRow (.xorImm h d a i)
    (intRow (one h a) d a (.imm (immUnsigned i)) (onBits fun _ x y _ => x ^^^ y))
  | andn {h d a b} : LogicRow (.andn h d a b)
    (intRow (two h a b) d a (.reg b.toNat) (onBits fun w x y _ => x &&& (2 ^ w - 1 - y % 2 ^ w)))
  | not {h d a} : LogicRow (.not h d a)
    (intRow (one h a) d a (.imm 0) (onBits fun w x _ _ => 2 ^ w - 1 - x))
  | shl {h d a b} : LogicRow (.shl h d a b)
    (intRow (two h a b) d a (.reg b.toNat) (onBits shiftLeft))
  | shlImm {h d a n} : LogicRow (.shlImm h d a n)
    (intRow (one h a) d a (.imm (immUnsigned n)) (onBits shiftLeft))
  | shr {h d a b} : LogicRow (.shr h d a b)
    (intRow (two h a b) d a (.reg b.toNat) (onBits shiftRight))
  | shrImm {h d a n} : LogicRow (.shrImm h d a n)
    (intRow (one h a) d a (.imm (immUnsigned n)) (onBits shiftRight))
  | sar {h d a b} : LogicRow (.sar h d a b)
    (intRow (two h a b) d a (.reg b.toNat) (onBits shiftSigned))
  | sarImm {h d a n} : LogicRow (.sarImm h d a n)
    (intRow (one h a) d a (.imm (immUnsigned n)) (onBits shiftSigned))
  | rot {h d a b} : LogicRow (.rot h d a b)
    (intRow (two h a b) d a (.reg b.toNat) (onBits rotateLeft))
  | rotImm {h d a n} : LogicRow (.rotImm h d a n)
    (intRow (one h a) d a (.imm (immUnsigned n)) (onBits rotateLeft))
  | popc {h d a} : LogicRow (.popc h d a)
    (intRow (one h a) d a (.imm 0) (onBits fun w x _ _ => ((List.range w).filter fun i => x.testBit i).length))
  | clz {h d a} : LogicRow (.clz h d a)
    (intRow (one h a) d a (.imm 0) (onBits fun w x _ _ => if x = 0 then w else w - 1 - Nat.log2 x))
  | brev {h d a} : LogicRow (.brev h d a)
    (intRow (one h a) d a (.imm 0) (onBits fun w x _ _ => revBits w x))
  | bfe {h d a b} : LogicRow (.bfe h d a b)
    (intRow (two h a b) d a (.reg b.toNat) (bfeWord))
  | bfi {h d a b} : LogicRow (.bfi h d a b)
    (intRow (three h a b d) d a (.reg b.toNat) (onBits bfiBits))

/-! ## Compare, select, move, predicates (R183, R184, R186) -/

/-- A row that writes a predicate with latency 2. -/
def predRow (f : Form) (p : BitVec 3) (g : State → Warp → BitVec 8 → Nat → Bool) : LaneRow :=
  { form := f, dest := toPred p, lat := 2, res := fun s w sl l => { val := if g s w sl l then 1 else 0 } }

/-- A row that writes a register with latency 2 whatever the type. -/
def moveRow (f : Form) (d : BitVec 7) (g : State → Warp → BitVec 8 → Nat → Word) : LaneRow :=
  { form := { f with writes := [d.toNat] }, dest := toReg d, lat := 2, res := fun s w sl l => { val := g s w sl l } }

/-- R119: the six integer conditions. -/
def holds (c : Nat) (x y : Int) : Bool :=
  match c with
  | 0 => decide (x = y)
  | 1 => decide (x ≠ y)
  | 2 => decide (x < y)
  | 3 => decide (x ≤ y)
  | 4 => decide (x > y)
  | _ => decide (x ≥ y)

def compareRow (f : Form) (c : BitVec 4) (p : BitVec 3) (a : BitVec 7) (b : Src) : LaneRow :=
  predRow { f with accepts := acceptsInt } p fun s w sl l =>
    let ty := modeType (gangMode w sl)
    holds c.toNat (readInt ty (srcReg s w a.toNat l)) (readInt ty (b.value s w ty l))

inductive PredicateRow : Instr → LaneRow → Prop
  | icmp {h c p a b} : PredicateRow (.icmp h c p a b)
    (compareRow (two h a b) c p a (.reg b.toNat))
  | icmpImm {h c p a i} : PredicateRow (.icmpImm h c p a i)
    (compareRow (one h a) c p a (.typed i))
  | pand {d a b x} : PredicateRow (.pand d a b x)
    (predRow { past := true } d fun _ w _ l =>
      predOf w l a.toNat && (predOf w l b.toNat ^^ decide (x = 1)))
  | por {d a b x} : PredicateRow (.por d a b x)
    (predRow { past := true } d fun _ w _ l =>
      predOf w l a.toNat || (predOf w l b.toNat ^^ decide (x = 1)))
  | pnot {d a} : PredicateRow (.pnot d a)
    (predRow { past := true } d fun _ w _ l => !predOf w l a.toNat)
  | pmov {d a} : PredicateRow (.pmov d a)
    (predRow { past := true } d fun _ w _ l => predOf w l a.toNat)
  | pmovReg {h d a} : PredicateRow (.pmovReg h d a)
    (predRow (one h a) d fun s w _ l => decide (srcReg s w a.toNat l ≠ 0))

/-- SEL takes part in every lane of the active mask (R184). -/
inductive MovementRow : Instr → LaneRow → Prop
  | sel {h d a b} : MovementRow (.sel h d a b)
    { moveRow (two h a b) d (fun s w sl l =>
      if guardTrue w (gangMode w sl) l then srcReg s w a.toNat l else srcReg s w b.toNat l) with
        lanes := fun w i => (sliceAt w i).active }
  | mov {h d a} : MovementRow (.mov h d a)
    (moveRow (one h a) d fun s w _ l => srcReg s w a.toNat l)
  | movi {d i} : MovementRow (.movi d i)
    (moveRow { past := true } d fun _ _ _ _ => i.signExtend 32)
  | movh {j d i} : MovementRow (.movh j d i)
    (moveRow { reads := [d.toNat], past := true } d fun s w _ l =>
      BitVec.ofNat 32 (j.toNat * 2 ^ 30 + i.toNat * 2 ^ 15 + (srcReg s w d.toNat l).toNat % 2 ^ 15))

/-! ## Floating point (R187 to R195) -/

/-- A row of class flt with latency `lat`: element after element, element 0 first, the lane's generator passing
through (R98, R187). -/
def fltRow (f : Form) (d : BitVec 7) (lat : Nat) (ok : Word → Bool) (a : BitVec 7) (b : Src)
    (g : Rnd → Nat → Nat → Nat → Word → Rounded) : LaneRow :=
  { form := { f with writes := [d.toNat], accepts := fun m => acceptsFlt m && ok m }
    dest := toReg d, lat := lat
    res := fun s w sl l =>
      let m := gangMode w sl
      let ty := modeType m
      let el := fun (v : Word) (i : Nat) => lget (elemsOf ty v) i 0
      fltLane ty (genOf w l) fun i gen => g (modeRounding m (precOf ty)) (el (srcReg s w a.toNat l) i)
        (el (b.value s w ty l) i) (el (srcReg s w d.toNat l) i) gen }

/-- R83: an operand under the mode's flushing of denormals. -/
def arg (rn : Rnd) (x : Nat) : FVal := fdecodeFtz rn.ftz x

/-- R188: the result's sign cleared. -/
def unsigned (r : Rounded) : Rounded := { r with bits := r.bits % 2 ^ 31 }

def any (_ : Word) : Bool := true

/-- R190: a minimum or maximum, which rounds nothing and draws nothing. -/
def pick (big nan mag : Bool) (rn : Rnd) (x y _ : Nat) (g : Word) : Rounded :=
  let r := fMinMax big nan mag (flushBits rn.ftz x) (flushBits rn.ftz y)
  ⟨r.1, r.2, g⟩

inductive FloatRow : Instr → LaneRow → Prop
  | fadd {h d a b} : FloatRow (.fadd h d a b)
    (fltRow (two h a b) d 4 roundsOk a (.reg b.toNat) (fun rn x y _ g => fAdd rn (arg rn x) (arg rn y) g))
  | faddAbs {h d a b} : FloatRow (.faddAbs h d a b)
    (fltRow (two h a b) d 4 roundsOk a (.reg b.toNat) (fun rn x y _ g => unsigned (fAdd rn (arg rn x) (arg rn y) g)))
  | fsub {h d a b} : FloatRow (.fsub h d a b)
    (fltRow (two h a b) d 4 roundsOk a (.reg b.toNat) (fun rn x y _ g => fAdd rn (arg rn x) (arg rn y).neg g))
  | fsubAbs {h d a b} : FloatRow (.fsubAbs h d a b)
    (fltRow (two h a b) d 4 roundsOk a (.reg b.toNat) (fun rn x y _ g => unsigned (fAdd rn (arg rn x) (arg rn y).neg g)))
  | fmul {h d a b} : FloatRow (.fmul h d a b)
    (fltRow (two h a b) d 4 roundsOk a (.reg b.toNat) (fun rn x y _ g => fMul rn (arg rn x) (arg rn y) g))
  | fmulAbs {h d a b} : FloatRow (.fmulAbs h d a b)
    (fltRow (two h a b) d 4 roundsOk a (.reg b.toNat) (fun rn x y _ g => unsigned (fMul rn (arg rn x) (arg rn y) g)))
  | ffma {h d a b} : FloatRow (.ffma h d a b)
    (fltRow (three h a b d) d 4 roundsOk a (.reg b.toNat) (fun rn x y z g => fFma rn (arg rn x) (arg rn y) (arg rn z) g))
  | ffmaNp {h d a b} : FloatRow (.ffmaNp h d a b)
    (fltRow (three h a b d) d 4 roundsOk a (.reg b.toNat) (fun rn x y z g => fFma rn (arg rn x).neg (arg rn y) (arg rn z) g))
  | ffmaNd {h d a b} : FloatRow (.ffmaNd h d a b)
    (fltRow (three h a b d) d 4 roundsOk a (.reg b.toNat) (fun rn x y z g => fFma rn (arg rn x) (arg rn y) (arg rn z).neg g))
  | ffmaNn {h d a b} : FloatRow (.ffmaNn h d a b)
    (fltRow (three h a b d) d 4 roundsOk a (.reg b.toNat) (fun rn x y z g => fFma rn (arg rn x).neg (arg rn y) (arg rn z).neg g))
  | fmin {h d a b} : FloatRow (.fmin h d a b)
    (fltRow (two h a b) d 4 any a (.reg b.toNat) (pick false false false))
  | fminNan {h d a b} : FloatRow (.fminNan h d a b)
    (fltRow (two h a b) d 4 any a (.reg b.toNat) (pick false true false))
  | fminAbs {h d a b} : FloatRow (.fminAbs h d a b)
    (fltRow (two h a b) d 4 any a (.reg b.toNat) (pick false false true))
  | fmax {h d a b} : FloatRow (.fmax h d a b)
    (fltRow (two h a b) d 4 any a (.reg b.toNat) (pick true false false))
  | fmaxNan {h d a b} : FloatRow (.fmaxNan h d a b)
    (fltRow (two h a b) d 4 any a (.reg b.toNat) (pick true true false))
  | fmaxAbs {h d a b} : FloatRow (.fmaxAbs h d a b)
    (fltRow (two h a b) d 4 any a (.reg b.toNat) (pick true false true))
  | fsqrt {h d a} : FloatRow (.fsqrt h d a)
    (fltRow (one h a) d 12 roundsOk a (.imm 0) (fun rn x _ _ g => fSqrt rn (arg rn x) g))
  | ffloor {h d a} : FloatRow (.ffloor h d a)
    (fltRow (one h a) d 4 any a (.imm 0) (fun rn x _ _ g => let r := fFloor (flushBits rn.ftz x); ⟨r.1, r.2, g⟩))
  | ffrac {h d a} : FloatRow (.ffrac h d a)
    (fltRow (one h a) d 4 roundsOk a (.imm 0) (fun rn x _ _ g => fFrac rn (arg rn x) g))

/-- A float comparison, of element 0 alone, with latency 4; a signalling one raises invalid (R191). -/
def fcmpRow (f : Form) (c : BitVec 4) (p : BitVec 3) (a : BitVec 7) (b : Src) : LaneRow :=
  { form := { f with accepts := acceptsFlt }, dest := toPred p, lat := 4
    res := fun s w sl l =>
      let m := gangMode w sl
      let ty := modeType m
      let el := fun v => fdecodeFtz (modeFtz m) (lget (elemsOf ty v) 0 0)
      let r := fCmp c.toNat (el (srcReg s w a.toNat l)) (el (b.value s w ty l))
      { val := if r.1 then 1 else 0, flags := if r.2 then flagNV else 0 } }

inductive FloatCompareRow : Instr → LaneRow → Prop
  | fcmp {h c p a b} : FloatCompareRow (.fcmp h c p a b)
    (fcmpRow (two h a b) c p a (.reg b.toNat))
  | fcmpZ {h c p a} : FloatCompareRow (.fcmpZ h c p a)
    (fcmpRow (one h a) c p a (.imm 0))

/-- R192: the FP32 result of a transcendental function with latency 12, rounded once more under a BF16 type. The
result itself is open within the bounds of R193: notes/assumptions/5.md. -/
def transRow (op : Nat) (h : BitVec 2) (d a : BitVec 7) : LaneRow :=
  { form := { one h a with
      writes := [d.toNat], accepts := fun m => acceptsFlt m && (decide (modeType m = 6) || roundsOk m) }
    dest := toReg d, lat := 12
    res := fun s w sl l =>
      let m := gangMode w sl
      let ty := modeType m
      let rn := modeRounding m (precOf ty)
      fltLane ty (genOf w l) fun i gen =>
        let x := lget (elemsOf ty (srcReg s w a.toNat l)) i 0
        let r := transcend op rn (arg rn x) (Config.transcendental op x)
        if rn.prec = 24 then ⟨r.1, r.2, gen⟩
        else
          let p := fRound rn (fdecode r.1) gen
          { p with flags := p.flags ||| r.2 } }

inductive TranscendentalRow : Instr → LaneRow → Prop
  | frcp {h d a} : TranscendentalRow (.frcp h d a)
    (transRow 0x82 h d a)
  | frsq {h d a} : TranscendentalRow (.frsq h d a)
    (transRow 0x83 h d a)
  | fexp2 {h d a} : TranscendentalRow (.fexp2 h d a)
    (transRow 0x85 h d a)
  | flog2 {h d a} : TranscendentalRow (.flog2 h d a)
    (transRow 0x86 h d a)
  | fsin {h d a} : TranscendentalRow (.fsin h d a)
    (transRow 0x87 h d a)
  | fsinPi {h d a} : TranscendentalRow (.fsinPi h d a)
    (transRow 0x88 h d a)
  | fcos {h d a} : TranscendentalRow (.fcos h d a)
    (transRow 0x89 h d a)
  | fcosPi {h d a} : TranscendentalRow (.fcosPi h d a)
    (transRow 0x8A h d a)
  | ftanh {h d a} : TranscendentalRow (.ftanh h d a)
    (transRow 0x8B h d a)

/-! ## Conversions (R196 to R202) -/

/-- A row of a conversion, with latency 4. -/
def convRow (f : Form) (d : BitVec 7) (ok : Word → Bool) (g : State → Warp → Word → Nat → LaneResult) : LaneRow :=
  { form := { f with writes := [d.toNat], accepts := ok }, dest := toReg d, lat := 4
    res := fun s w sl l => g s w (gangMode w sl) l }

/-- R196: the one element of a float source, and the source types of the conversions. -/
def element0 (m : Word) (v : Word) : Nat := lget (elemsOf (modeType m) v) 0 0
def fromFloat (m : Word) : Bool := decide (modeType m = 6 ∨ modeType m = 7)
def fromInt (m : Word) : Bool := decide (modeType m ≤ 5)

inductive ConversionRow : Instr → LaneRow → Prop
  | cvt {h d a t} : ConversionRow (.cvt h d a t)
    (convRow (one h a) d (fun m => fromFloat m && roundsOk m) fun s w m l =>
      let rn := modeRounding m (precOf t.toNat)
      let r := fRound rn (arg rn (element0 m (srcReg s w a.toNat l))) (genOf w l)
      ⟨packElems t.toNat [r.bits], r.flags, some r.gen⟩)
  | cvtFi {h d a t} : ConversionRow (.cvtFi h d a t)
    (convRow (one h a) d (fun m => fromFloat m && roundsOk m) fun s w m l =>
      let rn := modeRounding m 24
      let r := fToInt rn.mode (arg rn (element0 m (srcReg s w a.toNat l))) rn.k (genBits rn (genOf w l)) 0
        (intMin t.toNat) (intMax t.toNat)
      ⟨extend t.toNat r.1, r.2, some (genNext rn (genOf w l))⟩)
  | cvtIf {h d a t} : ConversionRow (.cvtIf h d a t)
    (convRow (one h a) d (fun m => fromInt m && roundsOk m) fun s w m l =>
      let r := fRound (modeRounding m (precOf t.toNat)) (fOfInt (readInt (modeType m) (srcReg s w a.toNat l)))
        (genOf w l)
      ⟨packElems t.toNat [r.bits], r.flags, some r.gen⟩)
  | cvtIi {h d a t} : ConversionRow (.cvtIi h d a t)
    (convRow (one h a) d fromInt fun s w m l =>
      { val := fit t.toNat (modeSat m) (readInt (modeType m) (srcReg s w a.toNat l)) })
  | cvtb {h d a b} : ConversionRow (.cvtb h d a b)
    (convRow (two h a b) d
      (fun m => fromFloat m && (decide (modeType m = 7) || roundsOk m)) fun s w m l =>
        let x := (srcReg s w a.toNat l).toNat
        let y := (srcReg s w b.toNat l).toNat
        if modeType m = 7 then { val := BitVec.ofNat 32 (y % 65536 * 65536 + x % 65536) }
        else
          let rn := { modeRounding m 8 with sat := false }
          fltLane 8 (genOf w l) fun i g => fRound rn (arg rn (if i = 0 then x else y)) g)
  | cvtbD {h d a b} : ConversionRow (.cvtbD h d a b)
    (convRow (two h a b) d fromFloat fun s w m l =>
      let x := (srcReg s w a.toNat l).toNat
      let e := if (srcReg s w b.toNat l).getLsbD 0 then x / 65536 else x % 65536
      { val := BitVec.ofNat 32 (if modeType m = 6 then e * 65536 else e) })
  | cvts {h d a b x} : ConversionRow (.cvts h d a b x)
    (convRow (two h a b) d (fun m => decide (modeType m = 6)) fun s w m l =>
      let rn : Rnd := ⟨8, 5, modeSat m, modeFtz m, 32⟩
      let v := arg rn (srcReg s w a.toNat l).toNat
      let r := (srcReg s w b.toNat l).toNat
      if x = 1 then
        let p := fToInt 5 v 32 r 32 (-128) 127
        { val := extend 4 p.1, flags := p.2 }
      else
        match v with
        | .fin n q e =>
          let p := roundWith rn n q e false r
          { val := packElems 7 [p.1], flags := p.2 }
        | _ =>
          let p := fRound rn v 0
          { val := packElems 7 [p.bits], flags := p.flags })
  | cbenc {h d a} : ConversionRow (.cbenc h d a)
    (convRow (one h a) d (fun m => acceptsFlt m && decide (modeCbslot m ≤ 7)) fun s w m l =>
      let rs := (elemsOf (modeType m) (srcReg s w a.toNat l)).map fun e =>
        cbEncode (fdecodeFtz (modeFtz m) e) (codebook s w (modeCbslot m))
      { val := BitVec.ofNat 32 ((rs.map Prod.fst).foldr (fun c n => c + 16 * n) 0)
        flags := joinFlags (rs.map Prod.snd) })

/-! ## The permute network (R203 to R212) -/

/-- A row of the permute network, with latency 6: each lane takes field a of the lane that it names, of whatever slice
(a register of which is named too, R135), and a latch entry without a value gives a free one (R112). -/
def permRow (f : Form) (d a : BitVec 7) (lane : State → Warp → BitVec 8 → Nat → Nat) : LaneRow :=
  { form := { f with writes := [d.toNat], far := namedLanes a lane }, dest := toReg d, lat := 6
    pre := fun s k => freshenAll s k a.toNat
    res := fun s w sl l => { val := srcReg s w a.toNat (lane s w sl l) } }

/-- R208: a reduction or scan over the lanes that take part, the identity standing for the others (R100). -/
def overLanes (f : Form) (d a : BitVec 7) (o : BitVec 3)
    (run : Nat → Word → List Word → Word → List Word × BitVec 6 × Word) : LaneRow :=
  { form := { f with writes := [d.toNat], accepts := acceptsReduce o.toNat }, dest := toReg d, lat := 6
    res := fun s w sl l =>
      let m := gangMode w sl
      let part := gangLanes w sl
      let r := run (modeType m) m (contributions s w part (modeType m) o.toNat a.toNat) (genOf w (part.headD 0))
      { val := lget r.1 l 0, flags := r.2.1 } }

/-- R212: a vote over the lanes that take part: any, all, or all alike. -/
def voteRow (v : BitVec 4) (d p : BitVec 3) : LaneRow where
  form := { past := true }
  dest := toPred d
  lat := 6
  res := fun _ w sl _ =>
    let l := (gangLanes w sl).map fun j => predOf w j p.toNat
    let b := match v.toNat with
      | 0 => l.any id
      | 1 => l.all id
      | _ => l.all id || !l.any id
    { val := if b then 1 else 0 }

inductive PermuteRow : Instr → LaneRow → Prop
  | vperm {h d a b} : PermuteRow (.vperm h d a b)
    (permRow (two h a b) d a fun s w _ l => (srcReg s w b.toNat l).toNat % 32)
  | vshfl {h d a b} : PermuteRow (.vshfl h d a b)
    (permRow (two h a b) d a fun s w sl l => shuffleSource (warpOperand s w sl b.toNat) l)
  | vbfx {h d a m} : PermuteRow (.vbfx h d a m) (permRow (one h a) d a fun _ _ _ l => l ^^^ m.toNat)
  | vbcast {h d a j} : PermuteRow (.vbcast h d a j) (permRow (one h a) d a fun _ _ _ _ => j.toNat)
  | vbal {d p} : PermuteRow (.vbal d p)
    { form := { writes := [d.toNat], past := true }, dest := toReg d, lat := 6
      res := fun _ w sl _ => { val := toBits 32 ((gangLanes w sl).filter fun j => predOf w j p.toNat) } }
  | vvote {v d p} : PermuteRow (.vvote v d p) (voteRow v d p)
  | vred {h d a o} : PermuteRow (.vred h d a o)
    (overLanes (one h a) d a o fun ty m vals g =>
      let r := eachList (fun l g =>
        let t := tree (combine ty o.toNat m) 5 l g
        ([t.1], t.2.1, t.2.2)) (elementLists ty o.toNat m vals) g
      (List.replicate 32 (elementWord ty o.toNat (r.1.map fun l => l.headD 0)), r.2.1, r.2.2))
  | vscan {h d a e o} : PermuteRow (.vscan h d a e o)
    (overLanes (one h a) d a o fun ty m vals g =>
      let r := eachList (fun l g =>
        let t := scan (combine ty o.toNat m) l.tail (l.headD 0) g
        (l.headD 0 :: t.1, t.2.1, t.2.2)) (elementLists ty o.toNat m vals) g
      let at' := fun i => elementWord ty o.toNat (r.1.map fun l => lget l i 0)
      ((List.range 32).map fun l =>
        if e = 0 then at' l
        else if l = 0 then elementWord ty o.toNat (r.1.map fun _ => identity ty o.toNat) else at' (l - 1), r.2.1, r.2.2))

end Sys2Proof.Claims
end

