-- ==== Sys2Proof/Claims/Sequencer.lean ====
section
/-!
DEFINITION. Words of the claims about the sequencer's other instructions (spec/05_sequencer.md): special registers,
ceilings, barriers, the rendezvous, and the ends of lanes.
-/

namespace Sys2Proof.Claims

open Sys2Proof.Machine

/-- A form that reads one register and is in the drain set (R136). -/
def draining (h : BitVec 2) (a : BitVec 7) : Form := { reads := [a.toNat], hold := h.toNat, a := a.toNat, drains := true }
def plain (h : BitVec 2) (a : BitVec 7) : Form := { reads := [a.toNat], hold := h.toNat, a := a.toNat }

/-- R149: the selectors whose values are read from the state as they stand; the rest are `s.tmpl` (R150), the clock,
the budget and the registers of R308 and R310. -/
inductive Selector : Nat → (State → Warp → Nat → Nat) → Prop
  | widLo : Selector 0x000 fun _ w l => (w.ident.wid.toNat + l) % 2 ^ 32
  | widHi : Selector 0x001 fun _ w l => (w.ident.wid.toNat + l) / 2 ^ 32
  | lane : Selector 0x002 fun _ _ l => l
  | slice : Selector 0x003 fun _ _ l => l / 4
  | slot : Selector 0x004 fun _ w _ => w.slot
  | port : Selector 0x005 fun _ w _ => w.port
  | core : Selector 0x006 fun _ w _ => w.core
  | die : Selector 0x007 fun _ w _ => w.die
  | device : Selector 0x008 fun s _ _ => s.device
  | prio : Selector 0x009 fun _ w _ => w.ident.prio
  | win : Selector 0x010 fun _ w _ => w.win
  | ceil : Selector 0x011 fun _ w _ => w.ceil
  | active : Selector 0x013 fun _ w l => (sliceAt w (l / 4)).active.toNat
  | pred : Selector 0x014 fun _ w l => ((List.range 8).map fun p => if predOf w l p then 2 ^ p else 0).sum
  | stack : Selector 0x015 fun _ w l => (sliceAt w (l / 4)).stack.length
  | flags : Selector 0x020 fun _ w _ => w.flags.toNat
  | clockHi : Selector 0x031 fun _ w l => (sliceAt w (l / 4)).clockHi.toNat
  | argsLo : Selector 0x040 fun _ w _ => w.ident.args.toNat % 2 ^ 32
  | argsHi : Selector 0x041 fun _ w _ => w.ident.args.toNat / 2 ^ 32
  | tcause : Selector 0x050 fun _ w l => (sliceAt w (l / 4)).tcause.toNat
  | tval : Selector 0x051 fun _ w l => (sliceAt w (l / 4)).tval.toNat
  | tpcLo : Selector 0x052 fun _ w l => (sliceAt w (l / 4)).tpc.toNat % 2 ^ 32
  | tpcHi : Selector 0x053 fun _ w l => (sliceAt w (l / 4)).tpc.toNat / 2 ^ 32
  | tmode : Selector 0x054 fun _ w l => (sliceAt w (l / 4)).tmode.toNat
  | tmask : Selector 0x055 fun _ w l => (sliceAt w (l / 4)).tmask.toNat
  | tvecLo : Selector 0x056 fun s w _ => (tget s.contexts w.ident.ctx default).tvec.toNat % 2 ^ 32
  | tvecHi : Selector 0x057 fun s w _ => (tget s.contexts w.ident.ctx default).tvec.toNat / 2 ^ 32
  | tiles : Selector 0x800 fun _ w _ => w.tiles.toNat
  | stride {n : Nat} (h : n < 8) : Selector (0x808 + n) fun _ w _ => (tget w.strides n 0).toNat

/-- R148: RDS as a lane instruction. -/
def rdsRow (d : BitVec 7) (v : State → Warp → Nat → Nat) : LaneRow where
  form := { writes := [d.toNat], past := true }
  dest := toReg d
  lat := 2
  res := fun s w _ l => { val := BitVec.ofNat 32 (v s w l) }

/-- R98: the generator that lane `l` is seeded with. -/
def seeded (v : Word) (l : Nat) : Word :=
  let g := v ^^^ BitVec.ofNat 32 ((l + 1) * 0x9E3779B1)
  if g = 0 then 1 else g

/-- R147: what a window base must be. -/
def windowOk (w : Warp) (v : Int) : Prop := 0 ≤ v ∧ v % 4 = 0 ∧ v < w.ceil

/-- R143: what the end of lanes `x` makes of a slice. -/
def afterExit (x : Slice) (lanes : BitVec 4) : Slice :=
  let left := x.stack.map fun e => { e with mask := e.mask &&& ~~~lanes }
  if x.active &&& ~~~lanes ≠ 0 then { x with stack := left, active := x.active &&& ~~~lanes, pc := x.pc + 4 }
  else
    match left.dropWhile fun e => e.mask == 0 with
    | [] => { x with stack := [], active := 0, ended := true }
    | e :: r => { x with stack := r, active := e.mask, pc := if e.kind = .mark then e.pc + 4 else e.pc }

/-- R164: the record of the barrier with key `key` (16 and above: the cohort's) exists. -/
def barrierExists (s : State) (w : Warp) (key : Nat) : Prop :=
  ∃ g, tfind s.groups w.ident.group = some g ∧ (16 ≤ key → ∃ c, tfind s.cohorts g.cohort = some c)

/-- R163, R164: a gang's BAR or BARA on barrier `key` with count `n` is its warp's arrival: the count is in range and
agrees with the phase's, the release is over (R55), and every other slice of the warp that has not ended has executed
the barrier since the warp's last arrival. -/
def arrives (key n : Nat) (s : State) (k : Nat) (sl : BitVec 8) (w : Warp) : Prop :=
  (1 ≤ n ∧ n ≤ if key < 16 then 32 else 128) ∧ released w sl (if key < 16 then 1 else 2) = true ∧
    barrierExists s w key ∧ k ∈ barrierWarps s w key ∧
    ((getBarrier s w key).latched = none ∨ (getBarrier s w key).latched = some n) ∧
    (barCounts w key).length = 8 ∧ (∀ i ∈ bitsOf 8 sl, lget (barCounts w key) i 0 = 0) ∧
    ∀ i < 8, i ∉ bitsOf 8 sl → (sliceAt w i).ended = true ∨ 0 < lget (barCounts w key) i 0

/-- R164: an arrival that does not end the phase: the barrier counts it, and the gang waits or goes on. -/
def ArrivesEarly (waits : Bool) (i : Instr) (f : Form) (key : Nat) (n : State → Warp → BitVec 8 → Nat) : Prop :=
  Does i f (fun r k sl w => arrives key (n r w sl) r k sl w ∧ (getBarrier r w key).arrived + 1 < n r w sl)
    fun r k sl w t =>
      getBarrier t w key = ⟨(getBarrier r w key).phase, some (n r w sl), (getBarrier r w key).arrived + 1⟩ ∧
        ∀ j ∈ bitsOf 8 sl,
          if waits then (sliceOf t k j).pc = (sliceAt w j).pc ∧ (sliceOf t k j).wait = .bar (decide (16 ≤ key)) (key % 16)
          else (sliceOf t k j).pc = (sliceAt w j).pc + 4

/-- R164: the last arrival ends the phase: the barrier starts over in the other phase, and the gang goes on. -/
def ArrivesLast (i : Instr) (f : Form) (key : Nat) (n : State → Warp → BitVec 8 → Nat) : Prop :=
  Does i f (fun r k sl w => arrives key (n r w sl) r k sl w ∧ (getBarrier r w key).arrived + 1 = n r w sl)
    fun r k sl w t => getBarrier t w key = ⟨!(getBarrier r w key).phase, none, 0⟩ ∧ stepsOn k sl w t

/-- R159, R160: GROW by `n` is granted at once. -/
def growable (n : Nat) (r : State) (k : Nat) (sl : BitVec 8) (w : Warp) : Prop :=
  quiet w sl ∧ w.ceil + n ≤ 1024 ∧ (askGranules r k sl 1 (n / 8)).1 = true

/-- R160: `v` is `w` with `n` registers more, its own and zero. -/
def Grown (n : Nat) (w v : Warp) : Prop :=
  v.ceil = w.ceil + n ∧ (∀ m, w.ceil ≤ m → m < w.ceil + n → v.priv.getLsbD m = true ∧ ∀ l, l < 32 → tget v.regs (32 * m + l) 0 = 0) ∧
    ∀ m, m < w.ceil → ∀ l, l < 32 → tget v.regs (32 * m + l) 0 = tget w.regs (32 * m + l) 0

/-- R159, R160: SHRINK by `n` takes effect at once. -/
def shrinkable (n : Nat) (w : Warp) (sl : BitVec 8) : Prop :=
  quiet w sl ∧ n + 8 ≤ w.ceil ∧ n + w.win < w.ceil ∧ ∀ m ∈ w.marks, m.reg < w.ceil - n

/-- R160: `v` is `w` with `n` registers fewer. -/
def Shrunk (n : Nat) (w v : Warp) : Prop :=
  v.ceil = w.ceil - n ∧ (∀ m, w.ceil - n ≤ m → v.priv.getLsbD m = false) ∧
    ∀ m, m < w.ceil - n → ∀ l, l < 32 → tget v.regs (32 * m + l) 0 = tget w.regs (32 * m + l) 0

/-- R156, R157, R210: whether VWRI has the granules that its plan copies, and the state after it asked; and the state
that it reads after its extra cycles. -/
def vwriAsk (s : State) (k : Nat) (sl : BitVec 8) (p : VwriPlan) : Bool × State :=
  if p.granules.isEmpty then (true, s) else askGranules s k sl 3 p.granules.length
def vwriRead (s : State) (k : Nat) (sl : BitVec 8) (p : VwriPlan) : State :=
  modWarp (p.granules.foldl (fun s g => privatise s k g) (vwriAsk s k sl p).2) k fun w => tickGang w sl p.extra

/-- Some lane instruction's row. -/
def AnyLaneRow (i : Instr) (row : LaneRow) : Prop :=
  IntegerRow i row ∨ LogicRow i row ∨ PredicateRow i row ∨ MovementRow i row ∨ FloatRow i row ∨ FloatCompareRow i row ∨
    TranscendentalRow i row ∨ ConversionRow i row ∨ PermuteRow i row

end Sys2Proof.Claims
end

