-- ==== Sys2Proof/Claims/Words.lean ====
section
/-!
DEFINITION. Words of the claims about encodings and about the step (R105, R118, R120 of spec/04_encoding.md, R31,
R338, R438).
-/

namespace Sys2Proof.Claims

open Sys2Proof.Machine

/-- R338, R353: the rows whose words an access processor decodes. -/
def isApWord : Instr → Bool
  | .apBaseInstruction _ | .apEnvironmentCall _ | .qPush _ _ | .qPop _ _ | .rtSuspend _ | .rtResume _ | .ctxYield
  | .ctxEnd | .gWait _ | .gIssue _ _ | .sIssue _ _ | .bagSum _ | .bagMean _ | .rtBox _ _ | .rtTri _ _ => true
  | _ => false

/-- R105: the rows whose words a core decodes: NOP's word is 0, and no other core word is. -/
def isCoreWord (i : Instr) : Bool := decide (i = .nop) || (encode i != 0 && !isApWord i)

/-- The state in which an issue port of a core looks for a gang: slices that parted are gangs of their own (R129), and
register starvation is looked for again where some slice is ready (R162). -/
def portState (s : State) (die core : Nat) : State :=
  let s1 := { s with
    issuer := .none, fetched := none, held := false, stuck := [], used := []
    warps := s.warps.map fun p => (p.1, if p.2.die = die ∧ p.2.core = core then partGangs p.2 else p.2) }
  if coreReady s1 (coreKey die core) then unstarve s1 (coreKey die core) else s1

/-- The state in which an event is made: before register starvation is looked for, waits that are over end (R162). -/
def eventState (s : State) (i : Instr) (l : List Nat) : State :=
  let s0 := { s with issuer := .event l, fetched := none, held := false, stuck := [], used := [] }
  if i = .registerStarvation then
    let c := l.getD 0 0
    let t := { refreshWaits s0 c with issuer := .event l }
    if coreReady t c then unstarve t c else t
  else s0

/-- R338: the state in which context `x` of unit `u` of core `c` executes its word. -/
def apState (s : State) (c u x : Nat) : State :=
  let s0 := { s with issuer := .none, fetched := none, held := false, stuck := [], used := [] }
  let s1 := modApCtx s0 c u x fun y => { y with yielded := false }
  { s1 with issuer := .ap c u x, fetched := some (apFetch s1 c u x), held := false }

end Sys2Proof.Claims
end

