-- ==== Sys2Proof/Safety.lean ====
section
/-!
DEFINITION. What counts as a safe state and a safe run, in the terms that claims use: the memories keep
their canonical form, the tables their order, and the machine goes on.
-/

namespace Sys2Proof.Safety

open Sys2Proof.Machine

/-- Every memory of the device is in its canonical form: physical memory, each cluster store, and each
access processor's instruction store and data memory. -/
def memoriesWf (s : State) : Bool :=
  s.mem.wf && s.clusters.all (fun c => c.2.store.wf) &&
    s.cores.all fun c => c.2.units.all fun u => Memory.wf u.imem && Memory.wf u.dmem

/-- The device goes on from a state: its step is neither a fault nor a refusal. -/
def Continues (s : State) : Prop := ∃ t, step s = .next t

/-- The device goes on for `n` steps. -/
def ContinuesFor : Nat → State → Prop
  | 0, _ => True
  | n + 1, s => ∃ t, step s = .next t ∧ ContinuesFor n t

end Sys2Proof.Safety
end

