-- ==== Sys2Proof/Certificates/Slice0/Obligations.lean ====
section
/-!
DEFINITION. The statements for the provers. Each says what the rules of spec/ that its docstring names say of the
model; OBLIGATIONS.json lists them.
-/

open Sys2Proof Sys2Proof.Machine Sys2Proof.Claims Sys2Proof.Safety

/-- R176, R178, R185: IADD, IADDI, ISUB, IMUL, IMULH, IMAD, IMIN, IMAX, IABS and LEA, register and immediate forms. R179 to R182: logic, shifts and rotates, bit counts and bit fields, register and immediate forms. -/
def Obligations.IntegerAndLogicInstructionsComplete : Prop :=
  (∀ i row, IntegerRow i row → LaneCompletes i row) ∧
  (∀ i row, LogicRow i row → LaneCompletes i row)

/-- R183, R184, R186: comparisons and predicate logic into a predicate; SEL, MOV, MOVI and MOVH into a register. -/
def Obligations.PredicateAndMoveInstructionsComplete : Prop :=
  ∀ i row, PredicateRow i row ∨ MovementRow i row → LaneCompletes i row

/-- R187 to R191, R195: FADD, FSUB, FMUL, FFMA, FMIN, FMAX in all forms, FSQRT, FFLOOR, FFRAC and FCMP. -/
def Obligations.FloatInstructionsComplete : Prop :=
  ∀ i row, FloatRow i row ∨ FloatCompareRow i row → LaneCompletes i row

/-- R192 to R194: FRCP, FRSQ, FEXP2, FLOG2, FSIN, FCOS (and .pi) and FTANH. The FP32 result is open within R193's bounds (log 5). R196 to R202: CVT, CVT.fi, CVT.if, CVT.ii, CVTB, CVTB.d, CVTS and CBENC. -/
def Obligations.TranscendentalsAndConversionsComplete : Prop :=
  (∀ i row, TranscendentalRow i row → LaneCompletes i row) ∧
  (∀ i row, ConversionRow i row → LaneCompletes i row)

/-- R203 to R208, R211, R212: gathers, shuffles, broadcasts, reductions, scans and votes, with latency 6. R209, R210: VRDI, VWRI and the writes of a VWRI, 6 mc after its read cycle; where a result lands in a during the cycles that
a causes, which registers VWRI names is the model's choice (notes/assumptions/81.md). -/
def Obligations.PermuteInstructionsComplete : Prop :=
  (∀ i row, PermuteRow i row → LaneCompletes i row) ∧
  ((∀ h d a, LaneCompletes (.vrdi h d a) ⟨{ one h a with writes := [d.toNat], far := fun s w sl => indexedRegs s w sl a.toNat }, toReg d, 6,
      guarded, fun s _ => s, fun s w _ l =>
        if indexedReg s w a.toNat l < w.ceil then ⟨physReg s w (indexedReg s w a.toNat l) l, 0, none⟩ else ⟨0, flagOOB, none⟩⟩) ∧
    (∀ h d a, Does (.vwri h d a)
      { reads := [d.toNat, a.toNat], hold := h.toNat, a := a.toNat, past := true, ownBanks := true }
      (fun s k sl w => let p := planVwri d a s w sl 300 0
        indexedPending w p.regs = false ∧ orderHeld s k sl [] p.regs = false ∧ (vwriAsk s k sl p).1 = true)
      fun s k sl w t =>
        let r := vwriRead s k sl (planVwri d a s w sl 300 0)
        let l := indexedRegs r (warpAt r k) sl a.toNat
        (∃ op, tfind t.ops s.fresh = some op ∧ op.kind = .registerWrite ∧ op.warp = some k ∧
          op.elems = l.map (fun p => { (default : Elem) with
            lane := p.1, addr := p.2, data := leBytes 4 (srcReg r (warpAt r k) d.toNat p.1).toNat })) ∧
        (∀ p ∈ l, ⟨p.1 / 4, p.2, s.fresh⟩ ∈ (warpAt t k).marks) ∧ t.mem = s.mem ∧ stepsOn k sl w t) ∧
    ∀ s o op k w, s.issuer = .event [o] → tfind s.ops o = some op → op.kind = .registerWrite → op.warp = some k →
      tfind s.warps k = some w → op.issued + 6 ≤ clockOf s op.die op.core → lanesApart op.elems →
      ∃ t, exec .vwriWrite s = .next t ∧ tfind t.ops o = none ∧ t.mem = s.mem ∧
        (∀ m ∈ (warpAt t k).marks, m.op ≠ o) ∧ (warpAt t k).flags = w.flags ||| op.flags ∧
        (∀ e ∈ op.elems, tget (warpAt t k).regs (32 * e.addr + e.lane) 0 = BitVec.ofNat 32 (leNat e.data)) ∧
        ∀ a, (∀ e ∈ op.elems, a ≠ 32 * e.addr + e.lane) → tget (warpAt t k).regs a 0 = tget w.regs a 0)

/-- R207, whole: the word, its reserved bits, and that every participating lane writes d := a[j]. -/
def Obligations.BroadcastWritesTheNamedLane : Prop :=
  ∀ (h : BitVec 2) (d a : BitVec 7) (j : BitVec 5), d.toNat ≤ 124 →
    LaneCompletes (.vbcast h d a j) (permRow (one h a) d a fun _ _ _ _ => j.toNat) ∧
      decodeCore (0xA3 * 2 ^ 24 + h.toNat * 2 ^ 22 + d.toNat * 2 ^ 15 + a.toNat * 2 ^ 8 + j.toNat) = .ok (.vbcast h d a j) ∧
      ∀ x, 0 < x → x < 8 → decodeCore (0xA3 * 2 ^ 24 + h.toNat * 2 ^ 22 + d.toNat * 2 ^ 15 + a.toNat * 2 ^ 8 +
        x * 2 ^ 5 + j.toNat) = .error .reservedField

/-- R113's rule on p0, by which every read and write of a predicate goes. -/
def Obligations.PredicateZeroReadsTrueAndDiscardsWrites : Prop :=
  (∀ w l, predOf w l 0 = true) ∧ ∀ w l b, setPred w l 0 b = w

/-- The frame of every lane instruction, in the issue cycle itself: with nothing waiting in the gang's queues, no register, predicate, flag, special register, counter or byte of any memory changes; the result is still in the queue. -/
def Obligations.LaneInstructionsChangeNothingElse : Prop :=
  ∀ i row, AnyLaneRow i row → ∀ s k sl w, Issues row.form s k sl w → w.image = none → quiet w sl →
    ∃ t v, exec i s = .next t ∧ { t with warps := s.warps, cores := s.cores, free := s.free } = s ∧
      (∀ c, { coreAt t c with grants := (coreAt s c).grants } = coreAt s c) ∧
      (∀ j, j ≠ k → tfind t.warps j = tfind s.warps j) ∧ tfind t.warps k = some v ∧
      { v with slices := w.slices, gen := w.gen, spec := w.spec } = w ∧
      (∀ l, l ∉ gangLanes w sl → tget v.gen l 0 = tget w.gen l 0) ∧
      ∀ j, j < 8 → j ∉ bitsOf 8 sl → SameSlice (sliceAt v j) (sliceAt w j) ∧ (sliceAt v j).queue = (sliceAt w j).queue

/-- R133: a result with one issue cycle left is written at the end of that cycle, in the lanes of its mask alone, and its flags are raised then (R104). -/
def Obligations.QueuedResultsLandOnTime : Prop :=
  ∀ s k sl w, Issues { past := true } s k sl w → ∀ j ∈ bitsOf 8 sl, ∀ n m vals fl, (n < 1024 ∧ w.image = none) →
    (∀ i ∈ bitsOf 8 sl, (sliceAt w i).queue = if i = j then [⟨.reg n, m, vals, fl, 1⟩] else []) →
    ∃ t, exec .nop s = .next t ∧ (sliceOf t k j).queue = [] ∧ (warpAt t k).flags = w.flags ||| fl ∧
      (∀ c, c < 4 → m.getLsbD c = true → tget (warpAt t k).regs (32 * n + (4 * j + c)) 0 = lget vals c 0) ∧
      ∀ a, (∀ c, c < 4 → m.getLsbD c = true → a ≠ 32 * n + (4 * j + c)) →
        tget (warpAt t k).regs a 0 = tget w.regs a 0

/-- R138 to R142: NOP, BRA, BRC, BRI, CALL, CALLI, MARK, JOIN and RET move each slice's pc, active mask and stack; SameSlice says that the mode and the trap registers stay. R146, R148, R149: MODE, MODEI, and WRS to s.tpc, s.tmode and s.tmask. -/
def Obligations.ControlFlowAndModeWritesComplete : Prop :=
  (∀ i row, ControlRow i row → FlowCompletes i row) ∧
  (∀ i row, SliceRegRow i row → FlowCompletes i row)

/-- R138, R140: CALL and MARK on a full stack, JOIN and RET on an empty one or on an entry of the wrong kind; every slice of the gang traps and its stack is as before. -/
def Obligations.StackTrapsBeforeAnyEffect : Prop :=
  (∀ o s k sl w, Issues { past := true } s k sl w → trapsEnter w sl →
      (∃ i ∈ bitsOf 8 sl, (sliceAt w i).stack.length = 16) →
      Traps (.call o) s k sl w 2 1 false ∧ Traps (.mark o) s k sl w 2 1 false) ∧
    (∀ s k sl w, Issues { past := true } s k sl w → trapsEnter w sl → sl ≠ 0 →
      ((∀ i ∈ bitsOf 8 sl, (sliceAt w i).stack = []) → Traps .join s k sl w 2 2 false ∧ Traps .ret s k sl w 2 2 false) ∧
      (topIs (fun e => e == .call) s w sl → Traps .join s k sl w 2 4 false) ∧
      (topIs (fun e => e != .call) s w sl → Traps .ret s k sl w 2 3 false) ∧
      ((∀ i ∈ bitsOf 8 sl, (sliceAt w i).stack = [] ∨ ∃ e r, (sliceAt w i).stack = e :: r ∧ e.kind = .call) →
        ∃ t, exec .join s = .next t ∧ ∀ i ∈ bitsOf 8 sl, InHandler (sliceOf t k i) (sliceAt w i) 2
          (if (sliceAt w i).stack = [] then 2 else 4) (sliceAt w i).pc (tget s.contexts w.ident.ctx default).tvec) ∧
      ((∀ i ∈ bitsOf 8 sl, (sliceAt w i).stack = [] ∨ ∃ e r, (sliceAt w i).stack = e :: r ∧ e.kind ≠ .call) →
        ∃ t, exec .ret s = .next t ∧ ∀ i ∈ bitsOf 8 sl, InHandler (sliceOf t k i) (sliceAt w i) 2
          (if (sliceAt w i).stack = [] then 2 else 3) (sliceAt w i).pc (tget s.contexts w.ident.ctx default).tvec))

/-- R147, R148: WIN, WRS to s.win and WINI; a base that is negative, misaligned or not below the ceiling takes the register-range trap and changes nothing. R148, R149: RDS for every selector whose value the table states directly, RDS of s.clock.lo with the high half it latches, and WRS to s.flags, s.pred and s.srseed. -/
def Obligations.SpecialRegistersAreReadAndWritten : Prop :=
  ((∀ h a, Does (.win h a) (plain h a) (fun r _ sl w => windowOk w (warpOperand r w sl a.toNat).toNat)
      fun r k sl w t => (warpAt t k).win = (warpOperand r w sl a.toNat).toNat ∧ stepsOn k sl w t) ∧
    (∀ d, Does (.wrsWin d) { reads := [d.toNat] } (fun r _ sl w => windowOk w (warpOperand r w sl d.toNat).toNat)
      fun r k sl w t => (warpAt t k).win = (warpOperand r w sl d.toNat).toNat ∧ stepsOn k sl w t) ∧
    (∀ i : BitVec 15, Does (.wini i) {} (fun _ _ _ w => windowOk w (w.win + i.toInt))
      fun _ k sl w t => ((warpAt t k).win : Int) = w.win + i.toInt ∧ stepsOn k sl w t) ∧
    ∀ (i : BitVec 15) s k sl w, Issues {} s k sl w → trapsEnter w sl → ¬ windowOk w (w.win + i.toInt) →
      Traps (.wini i) s k sl w 1 (BitVec.ofInt 32 (w.win + i.toInt)) false ∧
        ∃ t, exec (.wini i) s = .next t ∧ (warpAt t k).win = w.win) ∧
  ((∀ (d : BitVec 7) (sel : BitVec 12) v, Selector sel.toNat v → LaneCompletes (.rds d sel) (rdsRow d v)) ∧
    (∀ d : BitVec 7, Does (.rdsClockLo d) { writes := [d.toNat], past := true } (fun _ _ _ _ => True)
      fun r k sl w t => ∀ j ∈ bitsOf 8 sl,
        Queued (rdsRow d fun s w _ => clockOf s w.die w.core) r t k sl j ∧
          (sliceOf t k j).clockHi = BitVec.ofNat 32 (clockOf r w.die w.core / 2 ^ 32)) ∧
    (∀ d : BitVec 7, Does (.wrsFlags d) { reads := [d.toNat] } (fun _ _ sl w => quiet w sl)
      fun r k sl w t => (warpAt t k).flags = (warpOperand r w sl d.toNat).setWidth 6 ∧ stepsOn k sl w t) ∧
    (∀ d : BitVec 7, Does (.wrs d 0x014) { reads := [d.toNat] } (fun _ _ sl w => quiet w sl)
      fun r k sl w t => stepsOn k sl w t ∧ ∀ l ∈ gangLanes w sl, ∀ p, 0 < p → p < 8 →
        predOf (warpAt t k) l p = (srcReg r w d.toNat l).getLsbD p) ∧
    ∀ d : BitVec 7, Does (.wrsSrseed d) { reads := [d.toNat] } (fun _ _ _ _ => True)
      fun r k sl w t => stepsOn k sl w t ∧ ∀ l ∈ gangLanes w sl,
        tget (warpAt t k).gen l 0 = seeded (srcReg r w d.toNat l) l)

/-- R166, R167: TRAP n enters the user trap with the address after it to return to. R166: a synchronous trap of a gang of which a slice is already in its handler. R167: ERET in slices that are in a handler; that the low two bits of s.tpc are cleared is the model's choice (notes/assumptions/60.md). -/
def Obligations.TrapsEnterAndReturn : Prop :=
  ((∀ (n : BitVec 15) s k sl w, Issues { drains := true } s k sl w → trapsEnter w sl →
    Traps (.trap n) s k sl w 7 (n.setWidth 32) true) ∧
  (∀ (n : BitVec 15) s k sl w, Issues { drains := true } s k sl w → w.spec = none →
    (∃ j ∈ bitsOf 8 sl, (sliceAt w j).handler = true) →
    ∃ t sv, exec (.trap n) s = .next t ∧ tfind t.warps k = none ∧ tfind t.saved k = some sv ∧
      sv.restorable = false ∧ sv.stopped = true)) ∧
  (Does .eret { drains := true, past := true } (fun _ _ sl w => ∀ j ∈ bitsOf 8 sl,
      (sliceAt w j).handler = true ∧ (sliceAt w j).tmask ≠ 0 ∧ (sliceAt w j).ended = false)
    fun _ k sl w t => ∀ j ∈ bitsOf 8 sl,
      (sliceOf t k j).pc = (sliceAt w j).tpc &&& ~~~3 ∧ (sliceOf t k j).mode = (sliceAt w j).tmode ∧
        (sliceOf t k j).active = (sliceAt w j).tmask ∧ (sliceOf t k j).handler = false ∧
        (sliceOf t k j).stack = (sliceAt w j).stack)

/-- R116, R109, R120: a lane instruction under a mode it does not accept takes the undefined-opcode trap with its word; one that names a register at or above the ceiling takes the register-range trap with such a register; a fetched word for which the decoder answers an error takes the undefined-opcode trap. -/
def Obligations.ChecksOfAnIssueTrap : Prop :=
  (∀ i row, AnyLaneRow i row → ∀ s k sl w, s.issuer = .gang k sl → tfind s.warps k = some w → w.slices.length = 8 →
      fenceHolds row.form w = false → trapsEnter w sl →
      (row.form.accepts (gangMode w sl) = false → Traps i s k sl w 0 (s.fetched.getD 0) false) ∧
      (row.form.accepts (gangMode w sl) = true → ∀ n ∈ row.form.named, w.ceil ≤ w.win + n →
        ∃ m ∈ row.form.named, w.ceil ≤ w.win + m ∧ Traps i s k sl w 1 (BitVec.ofNat 32 (w.win + m)) false)) ∧
    ∀ (w : Word) e s k sl v, s.issuer = .gang k sl → tfind s.warps k = some v → v.slices.length = 8 → trapsEnter v sl →
      s.fetched = some w → decodeCore w.toNat = .error e → ∃ t, runWord w s = .next t ∧ ∀ j ∈ bitsOf 8 sl,
        InHandler (sliceOf t k j) (sliceAt v j) 0 w (sliceAt v j).pc (tget s.contexts v.ident.ctx default).tvec

/-- R143: EXIT in each slice of the gang; with its last slice the warp ends, and with no access outstanding it is gone. R144: REGANG with every slice that has not ended at a REGANG word. -/
def Obligations.SlicesEndAndRejoin : Prop :=
  ((Does .exit { drains := true } (fun _ _ sl w => ∃ j, j < 8 ∧ j ∉ bitsOf 8 sl ∧ (sliceAt w j).ended = false)
      fun _ k sl w t => w.barSlices = [] → w.rendSlices = [] → ∀ j ∈ bitsOf 8 sl,
        SameSlice (sliceOf t k j) (afterExit (sliceAt w j) (guarded w j))) ∧
    Does .exit { drains := true } (fun r k sl w => countersZero w = true ∧ posting r k = false ∧
        ∀ j, j < 8 → (sliceAt w j).ended = true ∨
        (j ∈ bitsOf 8 sl ∧ (afterExit (sliceAt w j) (guarded w j)).ended = true))
      fun _ k _ _ t => tfind t.warps k = none) ∧
  (Does .regang { drains := true, past := true } (fun r _ sl w => sl ≠ 0 ∧ ∀ i, i < 8 → (sliceAt w i).ended = false →
      i ∈ bitsOf 8 sl ∨ atRegang r w i = true)
    fun _ k _ w t => (∀ i, i < 8 → (sliceAt w i).ended = false → (sliceOf t k i).pc = (sliceAt w i).pc + 4) ∧
      ∀ i j, i < 8 → j < 8 → (sliceAt w i).ended = false → (sliceAt w j).ended = false →
        ((sliceOf t k i).gang = (sliceOf t k j).gang ↔
          (sliceAt w i).pc = (sliceAt w j).pc ∧ (sliceAt w i).mode = (sliceAt w j).mode))

/-- R152 to R154, R158: the root freeze whose image is written at once, and the freezer of a nested template. -/
def Obligations.TemplatesFreeze : Prop :=
  (∀ l : BitVec 3, Does (.freeze l) { drains := true } (fun r k sl w => quiet w sl ∧ freezeState w sl = true ∧ countersZero w = true ∧
        w.self = true ∧ l.toNat = w.ident.tlevel ∧ w.ceil ≤ w.ident.ceil0 ∧ (∀ p ∈ r.ops, p.2.warp ≠ some k) ∧
        posting r k = false ∧ (∀ i, r.fresh ≤ i → tfind r.images i = none) ∧
        (∀ i, (groupAt r w.ident.group).nested = some i → i < r.fresh) ∧
        (∀ x i, tfind r.cohorts (cohortOf r w) = some x → x.nested = some i → i < r.fresh) ∧
        let u := w.ident.wid.toNat / 2 ^ w.ident.unitShift
        let addr := w.ident.save + u * (2048 + 128 * w.ident.ceil0)
        (vwrite r w.ident.ctx w.die addr (imageBytes (imageFrom r w (gangPc w sl) w.ident.tlevel addr none) 0)).2 = none)
      fun _ k sl w t => tfind t.warps k = none ∧ ∃ id im, tfind t.images id = some im ∧ im.pc = gangPc w sl + 4 ∧
        im.level = w.ident.tlevel ∧ im.regs = w.regs ∧ im.preds = w.preds ∧ im.recs = w.recs ∧ im.strides = w.strides ∧
        im.tiles = w.tiles ∧ im.win = w.win ∧ im.ceil = w.ceil ∧ im.modes = w.slices.map Slice.mode) ∧
    ∀ l : BitVec 3, Does (.freeze l) { drains := true } (fun r _ sl w => quiet w sl ∧ freezeState w sl = true ∧ countersZero w = true ∧
        w.self = false ∧ l.toNat ≤ 3 ∧ (∃ im, imageOf r w = some im ∧ l.toNat < im.level) ∧ nestedOf r w l.toNat = none ∧
        isFreezer w l.toNat = true ∧
        ∀ c ∈ nestedCores r w l.toNat, (tget r.cores c default).images.length < 8)
      fun _ k sl w t => stepsOn k sl w t ∧ (warpAt t k).priv = 0 ∧ ∃ id im, (warpAt t k).image = some id ∧
        tfind t.images id = some im ∧ im.parent = w.image ∧ im.map = w.priv ∧ im.regs = w.regs ∧ im.level = l.toNat

/-- R159, R160: GROW and SHRINK, immediate and register forms. -/
def Obligations.CeilingsGrowAndShrink : Prop :=
  (∀ n : BitVec 15, Does (.grow n) { drains := true } (fun r k sl w => growable n.toNat r k sl w)
      fun _ k sl w t => stepsOn k sl w t ∧ Grown n.toNat w (warpAt t k)) ∧
    (∀ h a, Does (.growReg h a) (draining h a) (fun r k sl w =>
        let n := (warpOperand r w sl a.toNat).toNat
        n ≠ 0 ∧ n % 8 = 0 ∧ growable n r k sl w)
      fun r k sl w t => stepsOn k sl w t ∧ Grown (warpOperand r w sl a.toNat).toNat w (warpAt t k)) ∧
    (∀ n : BitVec 15, Does (.shrink n) { drains := true } (fun _ _ sl w => shrinkable n.toNat w sl)
      fun _ k sl w t => stepsOn k sl w t ∧ Shrunk n.toNat w (warpAt t k)) ∧
    ∀ h a, Does (.shrinkReg h a) (draining h a) (fun r _ sl w =>
        let n := (warpOperand r w sl a.toNat).toNat
        n ≠ 0 ∧ n % 8 = 0 ∧ shrinkable n w sl)
      fun r k sl w t => stepsOn k sl w t ∧ Shrunk (warpOperand r w sl a.toNat).toNat w (warpAt t k)

/-- R161: DONATE to another warp and to the warp itself, and a REND at which the last warp of the workgroup arrives. -/
def Obligations.DonationsMeetAtTheRendezvous : Prop :=
  (∀ h a (n : BitVec 8), Does (.donate h a n) (draining h a) (fun r _ sl w =>
        let f := (warpOperand r w sl a.toNat).toNat
        f ≠ w.ident.f1 ∧ f ∈ (groupAt r w.ident.group).names ∧
          8 * (n.toNat + (w.donations.map Prod.snd).sum) + 8 ≤ w.ceil ∧
          8 * (n.toNat + (w.donations.map Prod.snd).sum) + w.win < w.ceil)
      fun r k sl w t => stepsOn k sl w t ∧ (warpAt t k).ceil = w.ceil ∧
        let f := (warpOperand r w sl a.toNat).toNat
        tget (warpAt t k).donations f 0 = tget w.donations f 0 + n.toNat) ∧
    (∀ h a (n : BitVec 8), Does (.donate h a n) (draining h a) (fun r _ sl w =>
        (warpOperand r w sl a.toNat).toNat = w.ident.f1)
      fun _ k sl w t => stepsOn k sl w t ∧ (warpAt t k).ceil = w.ceil ∧ (warpAt t k).donations = w.donations) ∧
    ∀ n : BitVec 4, Does (.rend n) { drains := true } (fun r k sl w => w.donations = [] ∧ w.ended = false ∧
        groupWarps r w.ident.group = [k] ∧ ∀ i, i < 8 → (sliceAt w i).ended = false → i ∈ bitsOf 8 sl)
      fun _ k sl w t => stepsOn k sl w t ∧ (warpAt t k).ceil = w.ceil ∧ (warpAt t k).rendArrived.getLsbD n.toNat = false

/-- R163, R164: BAR and BARA, immediate and register counts, workgroup and cohort barriers: an arrival before the last, and the last. That the pc of a slice that waits stays at the BAR is the model's reading (DEDUCED, notes/assumptions/13.md). -/
def Obligations.BarriersGatherTheirArrivals : Prop :=
  (∀ c n (m : BitVec 15), ArrivesEarly true (.bar c n m) { drains := true } (barKey c n) (fun _ _ _ => m.toNat) ∧
      ArrivesLast (.bar c n m) { drains := true } (barKey c n) (fun _ _ _ => m.toNat) ∧
      ArrivesEarly false (.bara c n m) { drains := true } (barKey c n) (fun _ _ _ => m.toNat) ∧
      ArrivesLast (.bara c n m) { drains := true } (barKey c n) (fun _ _ _ => m.toNat)) ∧
    ∀ h a c n,
      ArrivesEarly true (.barReg h a c n) (draining h a) (barKey c n) (fun r w sl => (warpOperand r w sl a.toNat).toNat) ∧
      ArrivesLast (.barReg h a c n) (draining h a) (barKey c n) (fun r w sl => (warpOperand r w sl a.toNat).toNat) ∧
      ArrivesEarly false (.baraReg h a c n) (draining h a) (barKey c n) (fun r w sl => (warpOperand r w sl a.toNat).toNat) ∧
      ArrivesLast (.baraReg h a c n) (draining h a) (barKey c n) (fun r w sl => (warpOperand r w sl a.toNat).toNat)

/-- R165: WAITC, WAITP, SLEEP and its expiry, YIELD. That the pc of a sleeping slice stays and its expiry moves it on is the model's reading (DEDUCED, notes/assumptions/13.md), and so is the clock that counts the 16 mc (notes/assumptions/45.md). -/
def Obligations.WaitsEndWhenTheirConditionHolds : Prop :=
  (∀ h a p, Does (.waitc h a p) { draining h a with past := true }
      (fun r _ sl w => countOf w (Path.ofCode p.toNat) ≤ (warpOperand r w sl a.toNat).toNat) fun _ k sl w t => stepsOn k sl w t) ∧
    (∀ h a p, Does (.waitp h a p) (draining h a) (fun r _ sl w =>
        let bo := (warpOperand r w sl a.toNat).toNat
        bo % 16 = 0 ∧ bo < 0x800000 ∧ mnat (tget r.clusters w.clusterOf default).store (bo + 8) 4 % 2 = p.toNat)
      fun _ k sl w t => stepsOn k sl w t) ∧
    Does (.sleep 0) { drains := true } (fun _ _ _ _ => True) (fun _ k sl w t => stepsOn k sl w t) ∧
    (∀ n : BitVec 15, n ≠ 0 → Does (.sleep n) { drains := true } (fun _ _ _ _ => True) fun r k sl w t =>
      ∀ j ∈ bitsOf 8 sl, (sliceOf t k j).wait = .sleep (clockOf r w.die w.core + 16 * n.toNat) ∧
        (sliceOf t k j).pc = (sliceAt w j).pc) ∧
    (∀ s k i w due, s.issuer = .event [k, i] → tfind s.warps k = some w → w.slices.length = 8 → i < 8 →
      (sliceAt w i).wait = .sleep due → due ≤ clockOf s w.die w.core →
      ∃ t, exec .sleepExpiry s = .next t ∧ (sliceOf t k i).wait = .ready ∧ (sliceOf t k i).pc = (sliceAt w i).pc + 4) ∧
    Does .yield { drains := true } (fun _ _ _ _ => True) fun _ k sl w t => stepsOn k sl w t

/-- R133, R112, R241, R240, R162: a due result, expired latch entries, an asynchronous trap, the fetch of a word, and register starvation. -/
def Obligations.SequencerEventsComplete : Prop :=
  (∀ s k j w e, s.issuer = .event [k, j] → tfind s.warps k = some w → w.slices.length = 8 → j < 8 →
      (sliceAt w j).queue = [e] → e.left = 0 →
      ∃ t, exec .resultQueueWrite s = .next t ∧ (sliceOf t k j).queue = [] ∧ (warpAt t k).flags = w.flags ||| e.flags ∧
        (∀ n, e.dest = .reg n → (∀ c, c < 4 → e.mask.getLsbD c = true →
            tget (warpAt t k).regs (32 * n + (4 * j + c)) 0 = lget e.vals c 0) ∧
          ∀ a, (∀ c, c < 4 → e.mask.getLsbD c = true → a ≠ 32 * n + (4 * j + c)) →
            tget (warpAt t k).regs a 0 = tget w.regs a 0) ∧
        (∀ p, e.dest = .pred p → 0 < p → p < 8 → ∀ c, c < 4 → e.mask.getLsbD c = true →
          predOf (warpAt t k) (4 * j + c) p = decide (lget e.vals c 0 ≠ 0)) ∧
        ((∀ n, e.dest ≠ .reg n) → (warpAt t k).regs = w.regs)) ∧
    (∀ s k j w, s.issuer = .event [k, j] → tfind s.warps k = some w → w.slices.length = 8 → j < 8 →
      ∃ t, exec .latchExpiry s = .next t ∧ ∀ (n : Nat) (v : Latch), (sliceAt w j).latches[n]? = some v →
        (sliceOf t k j).latches[n]? = some (if v.life = 0 then ⟨[], 0⟩ else v)) ∧
    (∀ s k sl w a, s.issuer = .gang k sl → tfind s.warps k = some w → w.slices.length = 8 → sl ≠ 0 →
      (∀ j ∈ bitsOf 8 sl, (sliceAt w j).asyncTrap = some a ∧ (sliceAt w j).handler = false ∧ (sliceAt w j).ended = false ∧
        latched (sliceAt w j) = false) →
      ∃ t, exec .formatTrapEntry s = .next t ∧ ∀ j ∈ bitsOf 8 sl,
        InHandler (sliceOf t k j) (sliceAt w j) a.cause a.value (sliceAt w j).pc
          (tget s.contexts w.ident.ctx default).tvec ∧ (sliceOf t k j).asyncTrap = none) ∧
    (∀ s k sl w p m m' b, s.issuer = .gang k sl → tfind s.warps k = some w →
      translate s w.walker (gangPc w sl).toNat .fetch = (m, .ok p) →
      physBytes m w.ident.ctx w.die p.pa 4 = (m', some b) → m'.stuck = [] →
      ∃ t, exec .instructionFetch s = .next t ∧ t.fetched = some (BitVec.ofNat 32 (leNat b)) ∧ t.mem = m'.mem ∧
        t.warps = m'.warps) ∧
    ∀ s c k w, s.issuer = .event [c] → warpsOn s (c / 288) (c % 288) = [(k, w)] → tfind s.warps k = some w →
      w.slices.length = 8 → (tget s.cores c default).starved = false → w.die = c / 288 → w.core = c % 288 →
      (∀ j, j < 8 → (sliceAt w j).wait = .grow ∧ (sliceAt w j).ended = false ∧ (sliceAt w j).handler = false) →
      ∃ t, exec .registerStarvation s = .next t ∧ (tget t.cores c default).starved = false ∧
        ∀ j, j < 8 → (sliceOf t k j).handler = true ∧ (sliceOf t k j).tcause = 6 ∧ (sliceOf t k j).tval = 1

/-- R216, R231 to R235, R238: LD, LDX, LDA, ST, STX and STL, register and immediate indices. R237, R242: PREF in both forms, and CBLD. -/
def Obligations.GlobalAccessesAreIssued : Prop :=
  (∀ i g, GlobalAccess i g → Does i g.form (fun _ _ sl w => recordOk g.r w ∧
      (g.kind = .storeRelease → released w sl (modeScope (gangMode w sl)) = true))
    fun r k sl w t => GlobalInFlight g r k sl w t) ∧
  ((∀ h a r, Does (.pref h a r) { reads := [a.toNat], hold := h.toNat, a := a.toNat, past := true, accepts := acceptsMem }
      (fun _ _ _ w => recordOk r w) fun s k sl w t => (∃ op, tfind t.ops s.fresh = some op ∧ op.kind = .prefetch ∧
        op.record = tget w.recs r.toNat 0 ∧ op.elems.map Elem.lane = gangLanes w sl) ∧
        (warpAt t k).counters = w.counters ∧ t.mem = s.mem ∧ stepsOn k sl w t) ∧
    (∀ r (i : BitVec 8), Does (.prefImm r i) { past := true, accepts := acceptsMem } (fun _ _ _ w => recordOk r w)
      fun s k sl w t => (∃ op, tfind t.ops s.fresh = some op ∧ op.kind = .prefetch ∧ op.record = tget w.recs r.toNat 0 ∧
        op.elems.map Elem.lane = gangLanes w sl ∧ ∀ e ∈ op.elems, e.idx = i.toNat) ∧
        (warpAt t k).counters = w.counters ∧ t.mem = s.mem ∧ stepsOn k sl w t) ∧
    ∀ c r (i : BitVec 8), Does (.cbld c r i) { stall := logStall .ld 1 false r } (fun _ _ _ w => recordOk r w)
      fun s k sl w t => let br := tget w.recs r.toNat 0
        (∃ op, tfind t.ops s.fresh = some op ∧ op.kind = .codebook ∧ op.dst = c.toNat ∧ op.z = 2 ∧ op.n = 16 ∧
          op.elems = [elemAt br (recordBase s br false) 2 16 (warpLane w sl) i.toNat []]) ∧
        (warpAt t k).counters.ld = w.counters.ld ++ [⟨s.fresh, false⟩] ∧ t.mem = s.mem ∧ stepsOn k sl w t)

/-- R216, R241: a record whose swizzle code is 6 or more. -/
def Obligations.ReservedRecordsTakeTheRecordTrap : Prop :=
  ∀ i g, GlobalAccess i g → ∀ s k sl w, Issues g.form s k sl w → trapsEnter w sl →
    ¬ recordOk g.r (warpAt (readAt g.form s k sl w) k) → Traps i s k sl w 16 1 false

/-- R133, R214, R215: BREC queues the record, its bits 63 and 62 zero, and a published record's bits 56 to 8. R133, R308, R309: BSTR and BTPS in their forms. -/
def Obligations.WarpStateWritesAreQueued : Prop :=
  ((∀ h r a, Does (.brec h r a) { reads := groupRegs a 4, hold := h.toNat, a := a.toNat } (fun _ _ sl _ => sl ≠ 0)
      fun s k sl w t => stepsOn k sl w t ∧ ∃ e, (sliceOf t k (lowSlice sl)).warpQueue.getLast? = some e ∧ e.left = 1 ∧
        e.what = .record r.toNat (cleanRecord (quadOperand s k sl a))) ∧
    ∀ a v, let c := cleanRecord v
      (a < 128 → c.getLsbD a = (v.getLsbD a && decide (a ≠ 62 ∧ a ≠ 63 ∧ (v.getLsbD 61 = true → a < 8 ∨ 57 ≤ a))))) ∧
  ((∀ d k, Does (.bstr d k) { reads := [d.toNat] } (fun _ _ sl _ => sl ≠ 0) fun s j sl w t => stepsOn j sl w t ∧
        ∃ e, (sliceOf t j (lowSlice sl)).warpQueue.getLast? = some e ∧ e.left = 1 ∧
          e.what = .stride k.toNat (warpOperand s w sl d.toNat)) ∧
    (∀ (v : BitVec 11) k, Does (.bstrImm v k) {} (fun _ _ sl _ => sl ≠ 0) fun _ j sl w t => stepsOn j sl w t ∧
        ∃ e, (sliceOf t j (lowSlice sl)).warpQueue.getLast? = some e ∧ e.left = 1 ∧
          e.what = .stride k.toNat (v.setWidth 32)) ∧
    (∀ d, Does (.btps d) { reads := [d.toNat] } (fun _ _ sl _ => sl ≠ 0) fun s j sl w t => stepsOn j sl w t ∧
        ∃ e, (sliceOf t j (lowSlice sl)).warpQueue.getLast? = some e ∧ e.left = 1 ∧
          ∀ b : BitVec 16, (writeWarpResult { w with tiles := b } e).tiles = (warpOperand s w sl d.toNat).setWidth 16) ∧
    ∀ d k, Does (.btpsOne d k) { reads := [d.toNat] } (fun _ _ sl _ => sl ≠ 0) fun s j sl w t => stepsOn j sl w t ∧
        ∃ e, (sliceOf t j (lowSlice sl)).warpQueue.getLast? = some e ∧ e.left = 1 ∧
          ∀ (b : BitVec 16) n, n < 16 → (writeWarpResult { w with tiles := b } e).tiles.getLsbD n =
            if n = k.toNat then decide (warpOperand s w sl d.toNat ≠ 0) else b.getLsbD n)

/-- R231, R233, R235, R242: the return of a load, of CBLD, and the last acknowledgement of a store. -/
def Obligations.LoadsReturnToTheirRegisters : Prop :=
  (∀ s o k op w, CameBack s o k op w → (op.kind = .load ∨ op.kind = .loadAcquire) → lanesApart op.elems →
      ∃ t, exec .loadReturn s = .next t ∧ tfind t.ops o = none ∧ t.mem = s.mem ∧
        (∀ m ∈ (warpAt t k).marks, m.op ≠ o) ∧ ((warpAt t k).flags &&& w.flags) = w.flags ∧
        (∀ e ∈ op.elems, ∀ (j : Nat) (v : Word × BitVec 6), j < op.n → (elemValue op e)[j]? = some v →
          tget (warpAt t k).regs (32 * (op.dst + j) + e.lane) 0 = v.1) ∧
        (∀ a, (∀ e ∈ op.elems, ∀ j, j < op.n → a ≠ 32 * (op.dst + j) + e.lane) →
          tget (warpAt t k).regs a 0 = tget w.regs a 0) ∧
        (op.kind = .loadAcquire → 2 ≤ modeScope op.mode → (tfind s.cores w.coreOf).isSome = true →
          (tget t.cores w.coreOf default).cache = [])) ∧
    (∀ s o k op w e, CameBack s o k op w → op.kind = .codebook → (tfind s.groups w.ident.group).isSome = true →
      op.elems = [e] →
      ∃ t, exec .loadReturn s = .next t ∧ tfind t.ops o = none ∧ t.mem = s.mem ∧ (warpAt t k).regs = w.regs ∧
        tget (tget t.groups w.ident.group default).cb op.dst [] = (elemValue op e).map fun p => p.1.setWidth 16) ∧
    (∀ s o k op w, CameBack s o k op w → (op.kind = .store ∨ op.kind = .storeRelease) →
      ∃ t, exec .storeAcknowledgement s = .next t ∧ tfind t.ops o = none ∧ t.mem = s.mem ∧
        (warpAt t k).regs = w.regs ∧ (warpAt t k).flags = w.flags ||| op.flags)

/-- R41, R254, R256, R436: a load reads its line at its home, and a store writes its lanes' bytes there, in ascending order; so does a host processor, whose accesses are the events numbered 0 (the model's choice, notes/assumptions/38.md). R53, R227, R254, R278, R416: an invalidation, the lifetime of a copy of another device's line, a write-back. -/
def Obligations.HomesServeLinesAndDropCopies : Prop :=
  ((∀ s id q op, AtItsHome s id q → q.kind = .load → q.remote = none → tfind s.ops q.op = some op →
      (∀ c ∈ s.copies, c.pa ≠ q.line) →
      ∃ t, exec .homeLoad s = .next t ∧ tfind t.reqs id = none ∧ t.mem = s.mem ∧
        ∃ op', tfind t.ops q.op = some op' ∧ ∀ n, n < 128 → tget op'.buf (q.line + n) 0 = mread s.mem (q.line + n)) ∧
    (∀ s id q, AtItsHome s id q → q.kind = .store → q.remote = none →
      ∃ t, exec .homeStore s = .next t ∧ tfind t.reqs id = none ∧ t.mem = storedParts s.mem q.parts ∧
        ∀ a, (∀ p ∈ q.parts, a < p.1 ∨ p.1 + p.2.1.length ≤ a) → mread t.mem a = mread s.mem a) ∧
    (∀ s pa, s.issuer = .event [0, pa] → ∃ t, exec .homeLoad s = .next t ∧ t.mem = s.mem) ∧
    ∀ s pa (b : List Byte), s.issuer = .event (0 :: pa :: b.map BitVec.toNat) → hostReaches s pa b.length = true →
      ∃ t, exec .homeStore s = .next t ∧ t.mem = mstore s.mem pa b) ∧
  ((∀ s n v, s.issuer = .event [n] → s.invalidations[n]? = some v →
      acrossDown s (if v.holder < 100000 then v.holder / 288 else v.holder - 100000) v.pa = false →
      behindOnLink s n v = false →
      ∃ t, exec .copyInvalidation s = .next t ∧ v ∉ t.invalidations ∧ t.mem = s.mem ∧
        (v.holder < 100000 → ∀ x ∈ (tget t.cores v.holder default).cache, x.pa ≠ v.pa) ∧
        (100000 ≤ v.holder → ∀ c ∈ t.copies, ¬ (c.die = v.holder - 100000 ∧ c.pa = v.pa))) ∧
    (∀ s h pa, s.issuer = .event [h, pa] → isRemote pa = true →
      ∃ t, exec .cachedCopyExpiry s = .next t ∧ t.mem = s.mem ∧
        (h < 100000 → (tfind s.cores h).isSome = true → ∀ x ∈ (tget t.cores h default).cache,
          x.pa = pa → copyClock s (h / 288) pa < x.filled + 65536) ∧
        (100000 ≤ h → ∀ c ∈ t.copies, c.die = h - 100000 → c.pa = pa → copyClock s c.die pa < c.filled + 65536)) ∧
    ∀ s pa, s.issuer = .event [pa] →
      ∃ t, exec .lineWriteBack s = .next t ∧ t.mem = s.mem ∧ (homeLine t pa).unwritten = false)

/-- R221, R225, R238, R239: a load whose elements all translate. -/
def Obligations.LinesTranslateBeforeTheyAreReached : Prop :=
  ∀ s o k op w l s1, s.issuer = .event [o] → tfind s.ops o = some op → op.warp = some k → tfind s.warps k = some w →
    (op.kind = .load ∨ op.kind = .loadAcquire ∨ op.kind = .codebook) → op.placed = false → op.faulted = false →
    op.resample = false → pastFence s o op 0 = false → lanesApart op.elems → s.ops.all (fun p => p.1 == o) = true → placeOp s op = (s1, l) → (∀ e ∈ op.elems, e.st ≠ .addrError) →
    (∀ p ∈ l, ∃ ls fmt code, p.2 = .lines ls fmt code) →
    ∃ t op', exec .lineTranslation s = .next t ∧ tfind t.ops o = some op' ∧ op'.placed = true ∧ op'.faulted = false ∧
      t.mem = s1.mem ∧ (∀ e ∈ (warpAt t k).log, e.2.op ≠ o) ∧
      ∀ p ∈ l, ∀ ls fmt code, p.2 = .lines ls fmt code → ∀ x ∈ ls, x ∈ op'.lines

/-- R229, R230, R236: LDC, STC and the cluster forms of LDA and STL. R256, R259, R268, R274: atomics and WAITM in cluster space, and the range forms of CACHEOP. -/
def Obligations.ClusterSpaceInstructionsAreIssued : Prop :=
  (∀ i kind h d a m, ClusterAccess i kind h d a m → Does i (clusterForm kind h d a)
      (fun _ _ sl w => kind = .clusterStoreRelease → released w sl (min 2 (modeScope (gangMode w sl))) = true)
      fun r k sl w t =>
        let z := scalarSize (modeType (gangMode w sl))
        let at' := fun l => (srcReg r w a.toNat l + 4 * m.setWidth 32).toNat
        (∃ op, tfind t.ops r.fresh = some op ∧ op.kind = kind ∧ op.warp = some k ∧ op.placed = true ∧ op.z = z ∧
          op.dst = w.win + d.toNat ∧
          op.elems = (gangLanes w sl).map fun l => { (default : Elem) with
            lane := l, addr := at' l, st := if at' l % z ≠ 0 then .addrError else .live
            data := if kind.writesCluster then leBytes z (srcReg r w d.toNat l).toNat else [] }) ∧
        (warpAt t k).counters.cl = w.counters.cl ++ [⟨r.fresh, false⟩] ∧
        (kind.writesCluster = false → ∀ j ∈ bitsOf 8 sl, ⟨j, w.win + d.toNat, r.fresh⟩ ∈ (warpAt t k).marks) ∧
        t.mem = r.mem ∧ stepsOn k sl w t) ∧
  ((∀ i n m out ok h d a, ClusterAtomic i n m out ok h d a → Does i (atomicForm h d a m out ok atStall) (fun _ _ _ _ => True)
      fun r k sl w t =>
        let at' := fun l => (srcReg r w a.toNat l).toNat
        (∃ op, tfind t.ops r.fresh = some op ∧ op.kind = .atomicCluster ∧
          op.code = codeOf n false (decide (out = 0)) (gangMode w sl) ∧ op.dst = w.win + d.toNat ∧
          op.elems = (gangLanes w sl).map fun l => { (default : Elem) with
            lane := l, addr := at' l, st := if at' l % 4 ≠ 0 then .addrError else .live
            data := (groupRegs d m).flatMap fun f => leBytes 4 (srcReg r w f l).toNat }) ∧
        (warpAt t k).counters.at' = w.counters.at' ++ [⟨r.fresh, false⟩] ∧ t.mem = r.mem ∧ stepsOn k sl w t) ∧
    (∀ h d a c, Does (.waitmCluster h d a c) (waitmForm h d a) (fun s _ sl w => gangLanes w sl ≠ [] ∧
        ∀ l ∈ gangLanes w sl, (srcReg s w a.toNat l).toNat % 4 = 0)
      fun s k sl w t => (∃ op, tfind t.ops s.fresh = some op ∧ op.kind = .waitmCluster ∧
          op.code = c.toNat + (if modeType (gangMode w sl) = 1 then 32 else 0) ∧
          op.elems.map Elem.addr = (gangLanes w sl).map fun l => (srcReg s w a.toNat l).toNat) ∧
        (warpAt t k).counters.at' = w.counters.at' ++ [⟨s.fresh, false⟩] ∧ holdsFor s.fresh k sl w t) ∧
    (∀ h d a c, Does (.waitmCluster h d a c) (waitmForm h d a) (fun s _ sl w => gangLanes w sl = [] ∧ w.ended = false ∧
        unnamed s s.fresh) fun s k sl w t => tfind t.ops s.fresh = none ∧ t.mem = s.mem ∧ stepsOn k sl w t) ∧
    ∀ h a b, (∀ i n, (i = Instr.cacheopRangeFlush h a b ∧ n = 2) ∨ (i = Instr.cacheopRangeEvict h a b ∧ n = 3) →
      Does i { reads := [a.toNat, a.toNat + 1, b.toNat], hold := h.toNat, a := a.toNat, stall := atStall }
        (fun s _ sl w => (warpOperand s w sl b.toNat).toNat ≤ 2 ^ 30)
        fun s k sl w t => (∃ op, tfind t.ops s.fresh = some op ∧ op.kind = .cacheopRange ∧ op.code = n) ∧
          (warpAt t k).counters.at' = w.counters.at' ++ [⟨s.fresh, false⟩] ∧ stepsOn k sl w t))

/-- R229, R230, R233, R243, R244: accesses of cluster space performed in the cluster store, and the end of a phase. -/
def Obligations.ClusterStoreIsReadAndWritten : Prop :=
  (∀ s o k op w, s.issuer = .event [o] → tfind s.ops o = some op → op.warp = some k → tfind s.warps k = some w →
      w.ended = false → op.faulted = false → (op.kind = .clusterLoad → pastFence s o op 0 = false) → lanesApart op.elems →
      (∀ e ∈ op.elems, e.st = .live ∧ e.addr < 0x800000 ∧ clusterFollows s o op e = false) →
      (op.kind = .arrive → ∀ e ∈ op.elems, e.idx ≤ mnat (tget s.clusters op.cluster default).store (e.addr + 12) 2) →
      ∃ t, exec .clusterSpaceAccess s = .next t ∧ t.mem = s.mem ∧
        (op.kind = .clusterStore ∨ op.kind = .clusterStoreRelease →
          tfind t.ops o = none ∧ (warpAt t k).regs = w.regs ∧
          (tget t.clusters op.cluster default).store =
            op.elems.foldl (fun m e => mstore m e.addr e.data) (tget s.clusters op.cluster default).store) ∧
        (op.kind = .clusterLoad ∨ op.kind = .clusterLoadAcquire →
          tfind t.ops o = none ∧ (tget t.clusters op.cluster default).store = (tget s.clusters op.cluster default).store ∧
          ∀ e ∈ op.elems, tget (warpAt t k).regs (32 * op.dst + e.lane) 0 =
            scalarWord (modeType op.mode) (mnat (tget s.clusters op.cluster default).store e.addr op.z)) ∧
        (op.kind = .arrive → ∀ e, op.elems = [e] →
          e.idx ≤ mnat (tget s.clusters op.cluster default).store (e.addr + 12) 2 →
          tfind t.ops o = none ∧ let m := (tget s.clusters op.cluster default).store
            (tget t.clusters op.cluster default).store =
              boSettle (mputNat m (e.addr + 12) 2 (mnat m (e.addr + 12) 2 - e.idx)) e.addr)) ∧
    ∀ m a, mnat m (a + 12) 2 = 0 → mnat m a 4 ≤ mnat m (a + 4) 4 →
      mnat (boSettle m a) a 4 = 0 ∧ mnat (boSettle m a) (a + 4) 4 = 0 ∧
        mnat (boSettle m a) (a + 8) 4 = 1 - mnat m (a + 8) 4 % 2 ∧
        mnat (boSettle m a) (a + 12) 2 = mnat m (a + 14) 2

/-- R243, R245 to R247: ACPY and APLN. R243, R244, R246: the landing of the acknowledged prefix of a copy to global memory, and the issue of ARRIVE. -/
def Obligations.CopiesAreIssuedAndLand : Prop :=
  ((∀ d r t c, Does (.acpy d r t c) (copyForm false d r t) (fun s _ sl w => copyOk false d r c s sl w)
      fun s k sl w t' => CopyInFlight false d r t c s k sl w t') ∧
    ∀ d r t c, Does (.apln d r t c) (copyForm true d r t) (fun s _ sl w => copyOk true d r c s sl w)
      fun s k sl w t' => CopyInFlight true d r t c s k sl w t') ∧
  ((∀ s o op, s.issuer = .event [o] → tfind s.ops o = some op → op.kind = .copy → op.code = 1 → op.done = 0 → op.z ≠ 0 →
      op.elems ≠ [] → op.elems.length * op.z < copyTotal false (modeType op.mode) (op.par.map BitVec.toNat) →
      (∀ e ∈ op.elems, elemBack s o op e = true ∧ e.st = .live) →
      ∃ t op', exec .copyDataLanding s = .next t ∧ tfind t.ops o = some op' ∧ op'.done = op.elems.length * op.z ∧
        t.mem = s.mem ∧ let m := (tget s.clusters op.cluster default).store
          (tget t.clusters op.cluster default).store = boSettle (mputNat m ((lget op.par 2 0).toNat + 4) 4
            (mnat m ((lget op.par 2 0).toNat + 4) 4 + op.elems.length * op.z)) (lget op.par 2 0).toNat) ∧
    ∀ h a n, Does (.arrive h a n) { reads := [a.toNat], hold := h.toNat, a := a.toNat, drains := true, stall := clStall }
      (fun s _ sl w => boAddress (warpOperand s w sl a.toNat).toNat = true ∧ released w sl 2 = true)
      fun s k sl w t => (∃ op e, tfind t.ops s.fresh = some op ∧ op.kind = .arrive ∧ op.elems = [e] ∧
          e.addr = (warpOperand s w sl a.toNat).toNat ∧ e.idx = n.toNat ∧ e.st = .live) ∧
        (warpAt t k).counters.cl = w.counters.cl ++ [⟨s.fresh, false⟩] ∧ stepsOn k sl w t)

/-- R55 to R58, R249: FENCE with its waits over, before, and before in a context whose fences are speculative. That a slice
that waits keeps its pc at the FENCE, which R171 saves as a wait of kind 9 (the model's Wait.other), is the model's reading
(DEDUCED, notes/assumptions/13.md). -/
def Obligations.FencesMakeWritesVisible : Prop :=
  ∀ m c, let f : Form := { drains := true, accepts := fun md => decide (m = 1) || scopeOk md }
    Does (.fence m c) f (fun _ _ sl w => released w sl (fenceScope m c (gangMode w sl)) = true)
      (fun _ k sl w t => stepsOn k sl w t ∧
        (2 ≤ fenceScope m c (gangMode w sl) → ∀ x, tfind t.cores w.coreOf = some x → x.cache = []) ∧
        (4 = fenceScope m c (gangMode w sl) → ∀ x ∈ t.copies, x.die = w.die → isRemote x.pa = true) ∧
        (5 = fenceScope m c (gangMode w sl) → ∀ x ∈ t.copies, x.die ≠ w.die)) ∧
    Does (.fence m c) f (fun s _ sl w => released w sl (fenceScope m c (gangMode w sl)) = false ∧
        (tget s.contexts w.ident.ctx default).fence = false)
      (fun _ k sl w t => ∀ j ∈ bitsOf 8 sl, (sliceOf t k j).wait = .other ∧ (sliceOf t k j).pc = (sliceAt w j).pc) ∧
    Does (.fence m c) f (fun s _ sl w => released w sl (fenceScope m c (gangMode w sl)) = false ∧
        (tget s.contexts w.ident.ctx default).fence = true)
      (fun _ k sl w t => stepsOn k sl w t ∧ ∃ p, (warpAt t k).spec = some p ∧ p.rolledBack = false)

/-- R62 to R66, R250: PUBLISH and its version-fence form, the publication, and the arming of a version fence. -/
def Obligations.PublishingMovesAnEntryOn : Prop :=
  (∀ r, Does (.publish r) { drains := true, stall := stStall } (fun s _ sl w => released w sl 5 = true ∧
        let br := tget w.recs r.toNat 0
        recPub br = true ∧ (pubAt s (recEntry br)).enabled = true)
      fun s k sl w t => let p := recEntry (tget w.recs r.toNat 0)
        (pubAt t p).waiting = (pubAt s p).waiting ++ [(s.fresh, none)] ∧ (pubAt t p).version = (pubAt s p).version ∧
          (warpAt t k).counters.st = w.counters.st ++ [⟨s.fresh, false⟩] ∧ t.mem = s.mem ∧ stepsOn k sl w t) ∧
    (∀ h a r, Does (.publishVf h a r) { reads := [a.toNat], hold := h.toNat, a := a.toNat, drains := true, stall := stStall }
      (fun s _ sl w => released w sl 5 = true ∧ (warpOperand s w sl a.toNat).toNat ≤ 65535 ∧
        let br := tget w.recs r.toNat 0
        recPub br = true ∧ (pubAt s (recEntry br)).enabled = true)
      fun s k sl w t => let p := recEntry (tget w.recs r.toNat 0)
        (pubAt t p).waiting = (pubAt s p).waiting ++ [(s.fresh, some (warpOperand s w sl a.toNat).toNat)] ∧
          (pubAt t p).version = (pubAt s p).version ∧ t.mem = s.mem ∧ stepsOn k sl w t) ∧
    (∀ s p o rest, s.issuer = .event [p] → (pubAt s p).waiting = (o, none) :: rest → (pubAt s p).writers = [] →
      atPublish s p o = true →
      ∃ t, exec .publishPerform s = .next t ∧ t.mem = s.mem ∧ tfind t.ops o = none ∧
        pubAt t p = { pubAt s p with version := (pubAt s p).version + 1, counter := 0, target := 0, waiting := rest }) ∧
    ∀ s p o n rest, s.issuer = .event [p] → (pubAt s p).waiting = (o, some n) :: rest → atPublish s p o = true →
      ∃ t, exec .versionFenceArm s = .next t ∧ t.mem = s.mem ∧ tfind t.ops o = none ∧ (pubAt t p).target = n ∧
        (pubAt t p).version = (pubAt s p).version ∧
        (0 < n → n ≤ (pubAt s p).counter → ∃ x ∈ (pubAt t p).waiting, x.1 = 0) ∧
        ((pubAt s p).counter < n → (pubAt t p).waiting = rest)

/-- R257 to R264, R268, R274: ATOM, RED, ATOMF, ACAS, their 64-bit forms, WAITM and ATOMP in global memory, and CACHEOP. -/
def Obligations.AtomicsHoldUntilTheyTranslate : Prop :=
  (∀ i g, HeldAccess i g → Does i g.form
      (fun _ _ _ w => recordOk g.r w ∧ (g.kind = .waitm → recPub (tget w.recs g.r.toNat 0) = false))
      fun r k sl w t => let br := tget w.recs g.r.toNat 0
        (∃ op, tfind t.ops r.fresh = some op ∧ op.kind = g.kind ∧ op.warp = some k ∧ op.slices = sl ∧
          op.code = g.code (gangMode w sl) ∧ op.z = g.z ∧ op.record = br ∧ op.placed = false ∧
          (g.kind = .atomic → op.dst = w.win + g.dst) ∧
          op.elems = (gangLanes w sl).map fun l =>
            { elemAt br (recordBase r br g.kind.writer) g.z 1 l (srcReg r w g.ix.toNat l).toNat [] with
              data := (groupRegs g.data g.n).flatMap fun f => leBytes 4 (srcReg r w f l).toNat }) ∧
        t.mem = r.mem ∧ (warpAt t k).counters.at' = w.counters.at' ++ [⟨r.fresh, false⟩] ∧ holdsFor r.fresh k sl w t ∧
        Departs r.fresh k sl w t) ∧
    (∀ d r n, Does (.atomp d r n) { reads := groupRegs d 3, waits := [d.toNat + 1], stall := heldStall r }
      (fun s _ _ w => recordOk r w ∧ (tfind (tget s.contexts w.ident.ctx default).routines n.toNat).isSome = true)
      fun s k sl w t => (∃ op, tfind t.ops s.fresh = some op ∧ op.kind = .routine ∧ op.code = n.toNat ∧
          op.dst = w.win + d.toNat + 1 ∧ op.elems.map Elem.lane = gangLanes w sl ∧
          op.elems.map Elem.idx = (gangLanes w sl).map fun l => (srcReg s w d.toNat l).toNat) ∧
        t.mem = s.mem ∧ (warpAt t k).counters.at' = w.counters.at' ++ [⟨s.fresh, false⟩] ∧ holdsFor s.fresh k sl w t ∧
        Departs s.fresh k sl w t) ∧
    ∀ i n d r, CacheopRow i n d r → Does i { reads := groupRegs d 2, stall := heldStall r }
      (fun s _ sl w => recordOk r w ∧ (n = 0 →
        let arg := (warpOperand s w sl (d.toNat + 1)).toNat
        arg % 65536 ≠ 0 ∧ arg < 2 ^ 17))
      fun s k sl w t => (∃ op e, tfind t.ops s.fresh = some op ∧ op.kind = .cacheop ∧
          op.code = n + 8 * (warpOperand s w sl (d.toNat + 1)).toNat ∧ op.elems = [e] ∧
          e.idx = (warpOperand s w sl d.toNat).toNat) ∧ t.mem = s.mem ∧
        (warpAt t k).counters.at' = w.counters.at' ++ [⟨s.fresh, false⟩] ∧ holdsFor s.fresh k sl w t ∧
        Departs s.fresh k sl w t

/-- R256, R259, R260, R263, R267, R273, R274: atomics, CACHEOP.arm and a one-lane routine at their homes, and an atomic's return. -/
def Obligations.AtomicsArePerformedAsOneStep : Prop :=
  (∀ s id q, AtItsHome s id q → q.kind = .atomic → q.remote = none →
      ∃ t, exec .homeAtomic s = .next t ∧ tfind t.reqs id = none ∧ t.mem = (atomRun q.code s.mem q.parts).1 ∧
        ∀ op, tfind s.ops q.op = some op → ∃ op', tfind t.ops q.op = some op' ∧
          op'.results = (atomRun q.code s.mem q.parts).2.foldl (fun x p => tput x p.1 (BitVec.ofNat 64 p.2)) op.results) ∧
    (∀ s id q, AtItsHome s id q → q.kind = .cacheop → q.remote = none → q.code % 8 = 0 →
      let arg := q.code / 8
      ∃ t, exec .homeAtomic s = .next t ∧ (homeLine t q.line).target = arg % 65536 ∧ (homeLine t q.line).counter = 0 ∧
        t.mem = if arg / 65536 % 2 = 1 then mstore s.mem q.line (List.replicate 128 0) else s.mem) ∧
    (∀ s id q pa data lane, AtItsHome s id q → q.kind = .routine → q.remote = none → q.parts = [(pa, data, lane)] →
      let code := tget (tget s.contexts q.ctx default).routines q.code []
      let arg := fun i => BitVec.ofNat 32 (leNat ((data.drop (4 * i)).take 4))
      let x : Tbl Word := [(10, arg 0), (11, arg 1), (12, BitVec.ofNat 32 (pa % 128)), (13, BitVec.ofNat 32 lane)]
      let p := runRoutine code (mstore [] 0 (mbytes s.mem q.line 128)) 17 0 x (mstore [] 0 (mbytes s.mem q.line 128))
      ∃ t, exec .routineRun s = .next t ∧ tfind t.reqs id = none ∧
        t.mem = mstore s.mem q.line (mbytes p.2 0 128)) ∧
    ∀ s o k op w, CameBack s o k op w → op.kind = .atomic → op.code < 64 → lanesApart op.elems →
      ∃ t, exec .atomicReturn s = .next t ∧ tfind t.ops o = none ∧ t.mem = s.mem ∧
        (∀ e ∈ op.elems, tget (warpAt t k).regs (32 * op.dst + e.lane) 0 =
          BitVec.ofNat 32 (tget op.results e.lane 0).toNat) ∧
        ∀ a, (∀ e ∈ op.elems, a ≠ 32 * op.dst + e.lane) → tget (warpAt t k).regs a 0 = tget w.regs a 0

/-- R286, R289, R290, R293: HCFG, HLOOK.rows, HLOOK.planes and HGRAD. That an HLOOK is accepted as it joins the queue, where every HLOOK ahead of it is, is the model's reading (DEDUCED, notes/assumptions/69.md). -/
def Obligations.HashCommandsAreQueued : Prop :=
  ∀ i g, HashIssue i g → Does i { reads := groupRegs g.d 4, drains := true }
      (fun r _ sl w => let q := (quadOf r w sl g.d).map BitVec.toNat
        g.check q = none ∧ boAddress (g.bo q) = true ∧ released w sl 2 = true ∧
          (clusterAt r w.clusterOf).hashQueue.length < 16)
      fun r k sl w t => HashQueued i g r k sl w t

/-- R286, R288, R289, R291 to R294: what the hash engine does for the first command of its queue. -/
def Obligations.HashEngineEventsComplete : Prop :=
  (∀ s c cmd rest, s.issuer = .event [c] → (clusterAt s c).hashQueue = cmd :: rest → cmd.opcode = 0xE8 → cmd.served = false →
      cmd.op = none →
      let q := fun i => (lget cmd.quad i 0).toNat
      let levels := (List.range (q 3 % 16 + 1)).map fun i => BitVec.ofNat 128 (mnat (storeAt s c) (q 0 + 16 * i) 16)
      (levels.all lvGood = true ∧ tableBad cmd.table (tableTop levels) = false ∧
        replicaBad (clusterAt s c) cmd.slot (q 1) (tableTop levels) = false ∧ cmd.slot < 4) →
      ∃ t, exec .hcfgPerform s = .next t ∧ t.mem = s.mem ∧ storeAt t c = storeAt s c ∧
        slotAt t c cmd.slot = ⟨cmd.ctx, true, levels, cmd.table, cmd.grad, q 1, q 3 / 128 * 128, none⟩ ∧
        (clusterAt t c).hashQueue = { cmd with served := true } :: rest) ∧
    (∀ s c cmd rest, s.issuer = .event [c] → (clusterAt s c).hashQueue = cmd :: rest → cmd.opcode = 0xE9 →
      cmd.accepted = false →
      ∃ t e, exec .hlookAccept s = .next t ∧ (clusterAt t c).hashQueue = e :: rest ∧ e.accepted = true ∧
        e.op = some s.fresh ∧ e.word = cmd.word ∧ storeAt t c = storeAt s c) ∧
    (∀ s c cmd rest, s.issuer = .event [c] → (clusterAt s c).hashQueue = cmd :: rest → cmd.opcode = 0xE9 →
      cmd.accepted = true → cmd.served = false → slotCheck cmd (slotAt s c cmd.slot) = none → cmd.mask ≠ 0 →
      tagServes cmd (slotAt s c cmd.slot) = true → (clusterAt s c).hashFree ≤ engineClock s c →
      ∃ t e, exec .hlookAccept s = .next t ∧ (clusterAt t c).hashQueue = e :: rest ∧ e.served = true ∧
        (clusterAt t c).hashFree = engineClock s c + cmd.count ∧ t.mem = s.mem ∧
        storeAt t c = (bitsOf 32 cmd.mask).foldl (fun m l =>
          writeLook m cmd l (lookLane (storeAt s c) (slotAt s c cmd.slot) cmd l).1) (storeAt s c)) ∧
    (∀ s c cmd rest o op, s.issuer = .event [c] → (clusterAt s c).hashQueue = cmd :: rest → cmd.opcode = 0xE9 →
      cmd.accepted = true → cmd.served = false → slotCheck cmd (slotAt s c cmd.slot) = none → cmd.mask ≠ 0 →
      tagServes cmd (slotAt s c cmd.slot) = false → (clusterAt s c).hashHeld = false → cmd.op = some o →
      recPub (slotAt s c cmd.slot).table = false → recBase (slotAt s c cmd.slot).table % 4 = 0 → cmd.slot < 4 →
      tfind s.ops o = some op → op.placed = true → outstanding s o = false →
      ∃ t, exec .replicaRefill s = .next t ∧ tfind t.ops o = none ∧ t.mem = s.mem ∧
        (slotAt t c cmd.slot).tag = some (cmd.version.getD 0) ∧
        let sl := slotAt s c cmd.slot
        storeAt t c = mstore (storeAt s c) sl.replica (padTo (4 * tableTop sl.levels)
          (refillBytes op (recBase sl.table) (4 * tableTop sl.levels)))) ∧
    (∀ s c cmd rest o, s.issuer = .event [c] → (clusterAt s c).hashQueue = cmd :: rest → cmd.opcode = 0xEA →
      cmd.served = false → (clusterAt s c).hashHeld = false → cmd.op = some o → outstanding s o = false →
      ∃ t e, exec .hgradScatter s = .next t ∧ (clusterAt t c).hashQueue = e :: rest ∧ e.served = true ∧ t.mem = s.mem) ∧
    (∀ s c cmd rest s1 pg ls, s.issuer = .event [c] → (clusterAt s c).hashQueue = cmd :: rest → cmd.opcode = 0xEA →
      cmd.served = false → (clusterAt s c).hashHeld = false → cmd.op = none →
      slotCheck cmd (slotAt s c cmd.slot) = none →
      gradBad (slotAt s c cmd.slot).grad (tableTop (slotAt s c cmd.slot).levels) = false →
      placeRanges s ⟨cmd.ctx, c / 72, some (1000 + c)⟩ .write [] ((tkeys ((gradAdds s c cmd (slotAt s c cmd.slot)).1.foldl
        (fun x p => tput x p.1 ()) ([] : Tbl Unit))).map fun a => (a, 4)) = (s1, pg, .ok ls) →
      ∃ t e, exec .hgradScatter s = .next t ∧ (clusterAt t c).hashQueue = e :: rest ∧ e.accepted = true ∧
        e.op = some s1.fresh ∧ e.flags = (gradAdds s c cmd (slotAt s c cmd.slot)).2 ∧ t.mem = s1.mem) ∧
    ∀ s c cmd rest, s.issuer = .event [c] → (clusterAt s c).hashQueue = cmd :: rest → cmd.served = true →
      (cmd.opcode = 0xE9 → (clusterAt s c).hashFree ≤ engineClock s c) →
      ∃ t, exec .hashCommandCompletion s = .next t ∧ (clusterAt t c).hashQueue = rest ∧
        storeAt t c = arrived (storeAt s c) cmd.bo cmd.total

/-- R303, R306, R308, R311 to R314: BSTG, BCHN, BTRN, BTRN.w, BDNS and BDRN. A command that waits for an entry is kept as it was read (notes/assumptions/72.md). -/
def Obligations.TileCommandsAreAccepted : Prop :=
  ∀ i d e t, TileIssue i d e t → let word := BitVec.ofNat 32 (encode i)
    let skips := fun w : Warp => e = 1 ∧ w.tiles.getLsbD t.toNat = false
    Does i (tileForm word d) (fun r k sl w => let en := tileEntry word r k sl d
        waitingTile word w sl = none ∧ tileOk en w sl ∧ ¬ skips w ∧ tileRoom r w en)
      (fun r k sl w t' => let en := tileEntry word r k sl d
        TileAccepted r w en t' ∧ en.mask = toBits 32 (gangLanes w sl) ∧ en.granted = false ∧
        storeAt t' w.clusterOf = expects (storeAt r w.clusterOf) en.bo 128 ∧ t'.mem = r.mem ∧ stepsOn k sl w t') ∧
    Does i (tileForm word d) (fun r _ sl w => ∃ en, waitingTile word w sl = some en ∧ tileRoom r w en)
      (fun r k sl w t' => (∀ en, waitingTile word w sl = some en → TileAccepted r w en t') ∧
        storeAt t' w.clusterOf = storeAt r w.clusterOf ∧ t'.mem = r.mem ∧ stepsOn k sl w t') ∧
    Does i (tileForm word d)
      (fun r k sl w => waitingTile word w sl = none ∧ tileOk (tileEntry word r k sl d) w sl ∧ skips w)
      (fun r k sl w t' => let en := tileEntry word r k sl d
        (clusterAt t' w.clusterOf).mx = (clusterAt r w.clusterOf).mx ∧
        storeAt t' w.clusterOf = arrived (expects (storeAt r w.clusterOf) en.bo 128) en.bo 128 ∧
        t'.mem = r.mem ∧ stepsOn k sl w t') ∧
    ∀ s k sl w, Issues (tileForm word d) s k sl w → trapsEnter w sl →
      let r := readAt (tileForm word d) s k sl w
      waitingTile word (warpAt r k) sl = none → ∀ v, (tileEntry word r k sl d).check = some v →
        Traps i s k sl w 22 (BitVec.ofNat 32 v) false

/-- R304, R305, R313, R317, R320, R322, R325: the grants of the cell array and of the drain path, and completion. -/
def Obligations.MatrixEngineEventsComplete : Prop :=
  (∀ s c n e, s.issuer = .event [c] → (clusterAt s c).cellFree ≤ engineClock s c →
      mxPick (clusterAt s c) (engineClock s c) false = some n → tfind (clusterAt s c).mx n = some e →
      ∃ t, exec .cellArrayGrant s = .next t ∧ (clusterAt t c).cell = some n ∧
        (clusterAt t c).cellFree = engineClock s c + e.occupancy ∧ storeAt t c = storeAt s c ∧ t.mem = s.mem ∧
        tfind (clusterAt t c).mx n = some { e with granted := true, ends := engineClock s c + e.occupancy }) ∧
    (∀ s c n e o, s.issuer = .event [c] → (clusterAt s c).drain = none →
      mxPick (clusterAt s c) (engineClock s c) true = some n → tfind (clusterAt s c).mx n = some e → e.op = some o →
      ∃ t op, exec .drainPathGrant s = .next t ∧ (clusterAt t c).drain = some n ∧
        tfind (clusterAt t c).mx n = some { e with granted := true } ∧ tfind t.ops o = some op ∧ op.kind = .drain ∧
        op.placed = false ∧ op.record = e.record ∧ storeAt t c = storeAt s c ∧ t.mem = s.mem) ∧
    (∀ s c n e, s.issuer = .event [c, n] → tfind (clusterAt s c).mx n = some e → e.granted = true → e.held = false →
      e.opcode ≠ 0xE6 → e.ends ≤ engineClock s c → e.mask ≠ 0 →
      ∃ t, exec .matrixCommandCompletion s = .next t ∧ tfind (clusterAt t c).mx n = none ∧
        storeAt t c = arrived (runCells (storeAt s c) e).1 e.bo 128) ∧
    ∀ s c n e o op, s.issuer = .event [c, n] → tfind (clusterAt s c).mx n = some e → e.granted = true → e.held = false →
      e.opcode = 0xE6 → e.wantsMax = false → e.op = some o → tfind s.ops o = some op → op.placed = true →
      op.faulted = false → outstanding s o = false →
      ∃ t, exec .matrixCommandCompletion s = .next t ∧ tfind (clusterAt t c).mx n = none ∧ tfind t.ops o = none ∧
        storeAt t c = arrived (storeAt s c) e.bo 128

/-- R346 to R351, R367: QPUSH, QPOP in their forms, QPUSH.rt, QSTAT, and what comes back to them. -/
def Obligations.QueueInstructionsComplete : Prop :=
  (∀ i d q n, (i = Instr.qpush d q ∧ n = 1 ∨ ∃ z : BitVec 2, i = Instr.qpushN d z q ∧ n = 2 ^ (z.toNat + 1)) →
      Does i { reads := groupRegs d n, drains := true, stall := qStall }
        (fun s _ _ w => n ≤ freeEntries (queueAt s w.coreOf q.toNat))
        fun s k sl w t => reserved (queueAt s w.coreOf q.toNat) (queueAt t w.coreOf q.toNat) s.fresh n false (fun _ => []) ∧
          (∃ op, tfind t.ops s.fresh = some op ∧ op.kind = .queuePush ∧ op.code = q.toNat ∧ op.n = n ∧
            op.par = (groupRegs d n).flatMap fun f => (List.range 32).map fun l =>
              if l ∈ gangLanes w sl then srcReg s w f l else 0) ∧
          (warpAt t k).counters.q = w.counters.q ++ [⟨s.fresh, false⟩] ∧ t.mem = s.mem ∧ stepsOn k sl w t) ∧
    (∀ i d q n, (i = Instr.qpop d q ∧ n = 1 ∨ ∃ z : BitVec 2, i = Instr.qpopN d z q ∧ n = 2 ^ (z.toNat + 1)) →
      Does i { waits := groupRegs d n, drains := true, stall := qStall }
        (fun s k sl w => n ≤ poppable (queueAt s w.coreOf q.toNat) ∧ firstHolder (queueAt s w.coreOf q.toNat) k sl = true)
        fun s k sl w t => (queueAt t w.coreOf q.toNat).entries = (queueAt s w.coreOf q.toNat).entries.drop n ∧
          (∃ op, tfind t.ops s.fresh = some op ∧ op.kind = .queuePop ∧ op.dst = w.win + d.toNat ∧ op.n = n ∧
            op.mask = toBits 32 (gangLanes w sl) ∧ op.par = ((queueAt s w.coreOf q.toNat).entries.take n).flatMap fun e =>
              (List.range 32).map fun l => lget e.words l 0) ∧
          (∀ i ∈ bitsOf 8 sl, ∀ j, j < n → ⟨i, w.win + (d.toNat + j), s.fresh⟩ ∈ (warpAt t k).marks) ∧
          (warpAt t k).counters.q = w.counters.q ++ [⟨s.fresh, false⟩] ∧ t.mem = s.mem ∧ stepsOn k sl w t) ∧
    (∀ d, Does (.qpushRt d) { reads := groupRegs d 4, drains := true, stall := qStall } (fun _ _ _ _ => True)
      fun s k sl w t => (∃ op, tfind t.ops s.fresh = some op ∧ op.kind = .queuePush ∧ op.code = 4 ∧
          op.par = (gangLanes w sl).flatMap fun l => (groupRegs d 4).map fun f => srcReg s w f l) ∧
        (warpAt t k).counters.q = w.counters.q ++ [⟨s.fresh, false⟩] ∧ t.mem = s.mem ∧ stepsOn k sl w t) ∧
    (∀ d j, Does (.qstat d j) { waits := [d.toNat] } (fun _ _ _ _ => True) fun s k sl w t =>
      (∃ op, tfind t.ops s.fresh = some op ∧ op.kind = .queueStat ∧ op.code = j.toNat ∧ op.dst = w.win + d.toNat) ∧
        (∀ i ∈ bitsOf 8 sl, ⟨i, w.win + d.toNat, s.fresh⟩ ∈ (warpAt t k).marks) ∧ t.mem = s.mem ∧ stepsOn k sl w t) ∧
    (∀ s o k op w, CameBack s o k op w → op.kind = .queuePush → op.code < 4 →
      ∃ t, exec .queueReturn s = .next t ∧ tfind t.ops o = none ∧ t.mem = s.mem ∧ (warpAt t k).regs = w.regs ∧
        ∀ (n : Nat) (e : QueueEntry), (queueAt s (coreKey op.die op.core) op.code).entries[n]? = some e →
          ((queueAt t (coreKey op.die op.core) op.code).entries[n]?).map QueueEntry.complete =
            some (if e.res = o then true else e.complete)) ∧
    ∀ s o k op w, CameBack s o k op w → op.kind = .queuePop →
      ∃ t, exec .queueReturn s = .next t ∧ tfind t.ops o = none ∧ t.mem = s.mem ∧
        (∀ l, op.mask.getLsbD l = true → ∀ j, j < op.n →
          tget (warpAt t k).regs (32 * (op.dst + j) + l) 0 = lget op.par (32 * j + l) 0) ∧
        ∀ a, (∀ l, op.mask.getLsbD l = true → ∀ j, j < op.n → a ≠ 32 * (op.dst + j) + l) →
          tget (warpAt t k).regs a 0 = tget w.regs a 0

/-- R338, R342, R344, R345, R357, R359: APGO, APSTOP, ECALL and EBREAK, ctx.yield, ctx.end and g.wait. -/
def Obligations.ContextsStartAndStop : Prop :=
  (∀ (d : BitVec 7) (u : BitVec 1) (c : BitVec 3),
      Does (.apgo d u c) { reads := groupRegs d 4, drains := true } (fun s _ sl w =>
        let v := fun i => lget (quadOf s w sl d) i 0
        released w sl 2 = true ∧ (apUnit s w.coreOf u.toNat).ctxs.length = 8 ∧
          (apCtx s w.coreOf u.toNat c.toNat).st = .idle ∧ (v 0).toNat % 4 = 0 ∧ (v 0).toNat < 0x4000 ∧
          (v 2).toNat % 512 = 0 ∧ (v 2).toNat + 2 ^ 32 * (v 3).toNat < 2 ^ 57)
      fun s k sl w t => let v := fun i => lget (quadOf s w sl d) i 0
        let y := apCtx t w.coreOf u.toNat c.toNat
        y.st = .running ∧ y.pc.toNat = (v 0).toNat ∧ (∀ r, r < 32 → rvGet y.x r = if r = 10 then v 1 else 0) ∧
          dmemNat t w.coreOf u.toNat (ctlBlock c.toNat) 4 = 0 ∧
          dmemNat t w.coreOf u.toNat (ctlBlock c.toNat + 4) 4 = (v 1).toNat ∧ stepsOn k sl w t) ∧
    (∀ u c, Does (.apstop u c) {} (fun s _ _ w => (apUnit s w.coreOf u.toNat).ctxs.length = 8 ∧
        (apCtx s w.coreOf u.toNat c.toNat).st ≠ .idle)
      fun _ k sl w t => apEnded t w.coreOf u.toNat c.toNat 1 ∧ stepsOn k sl w t) ∧
    (∀ s c u x w, ApRuns s c u x → ∃ t, exec (.apEnvironmentCall w) s = .next t ∧ apEnded t c u x 0x43) ∧
    (∀ s c u x, ApRuns s c u x → ∃ t, exec .ctxEnd s = .next t ∧ apEnded t c u x 0 ∧ t.mem = s.mem ∧
      (apCtx t c u x).pc = BitVec.ofNat 16 ((apCtx s c u x).pc.toNat + 4)) ∧
    (∀ s c u x, ApRuns s c u x → ∃ t, exec .ctxYield s = .next t ∧ t.mem = s.mem ∧
      apCtx t c u x = { apCtx s c u x with
        pc := BitVec.ofNat 16 ((apCtx s c u x).pc.toNat + 4), st := .running, yielded := true, pend := none }) ∧
    ∀ s c u x a, ApRuns s c u x → (apCtx s c u x).outstanding ≤ (rvGet (apCtx s c u x).x a.toNat).toNat →
      ∃ t, exec (.gWait a) s = .next t ∧ t.mem = s.mem ∧
        apUnit t c u = apAfter s c u x 0 0 ((apCtx s c u x).pc.toNat + 4) (apUnit s c u).dmem

/-- R12, R338, R343, R345: the RV32IM instructions of an access processor, x0, and the data-address exception of a load. -/
def Obligations.AccessProcessorsRunRv32im : Prop :=
  (∀ s c u x w rd v pc, ApRuns s c u x → ApResult (apCtx s c u x) w rd v pc →
      ∃ t, exec (.apBaseInstruction w) s = .next t ∧ t.mem = s.mem ∧
        apUnit t c u = apAfter s c u x rd v pc (apUnit s c u).dmem) ∧
    (∀ s c u x w, ApRuns s c u x → rvOp w = 0x03 → rvF3 w ∈ [0, 1, 2, 4, 5] →
      let y := apCtx s c u x
      let a := (apLoadAt y w).toNat
      let n := apBytes (rvF3 w)
      a % n = 0 → a < 0x2000 → ∃ t, exec (.apBaseInstruction w) s = .next t ∧ t.mem = s.mem ∧
        apUnit t c u = apAfter s c u x (rvRd w) (apLoaded (rvF3 w) (mnat (apUnit s c u).dmem a n)) (y.pc.toNat + 4)
          (apUnit s c u).dmem) ∧
    (∀ s c u x w, ApRuns s c u x → rvOp w = 0x23 → rvF3 w ∈ [0, 1, 2] →
      let y := apCtx s c u x
      let a := (apStoreAt y w).toNat
      let n := apBytes (rvF3 w)
      a % n = 0 → a < 0x2000 → ∃ t, exec (.apBaseInstruction w) s = .next t ∧ t.mem = s.mem ∧
        apUnit t c u = apAfter s c u x 0 0 (y.pc.toNat + 4)
          (progStore (apUnit s c u).dmem a (leBytes n (rvGet y.x (rvRs2 w)).toNat))) ∧
    (∀ s c u x w, ApRuns s c u x → (rvOp w = 0x03 ∧ rvF3 w ∈ [0, 1, 2, 4, 5] ∧
        let a := (apLoadAt (apCtx s c u x) w).toNat
        ¬ (a % apBytes (rvF3 w) = 0 ∧ a < 0x2000)) →
      ∃ t, exec (.apBaseInstruction w) s = .next t ∧ apEnded t c u x 0x42) ∧
    ∀ r : Tbl Word, rvGet r 0 = 0 ∧ ∀ v, rvSet r 0 v = r

/-- R354 to R358: q.push, q.pop, g.issue, s.issue, bag.sum, bag.mean, and the completion of their operations. -/
def Obligations.AccessProcessorOperationsComplete : Prop :=
  (∀ s c u x a b q n, ApRuns s c u x → queueWord true (apReg s c u x a) (apReg s c u x b) = .ok (q, n) →
      n ≤ freeEntries (queueAt s c q) → ∃ t, exec (.qPush b a) s = .next t ∧ t.mem = s.mem ∧
        reserved (queueAt s c q) (queueAt t c q) s.fresh n true
          (fun j => dmemWords s c u ((apReg s c u x a).toNat + 128 * j) 32) ∧
        (apCtx t c u x).pc = BitVec.ofNat 16 ((apCtx s c u x).pc.toNat + 4)) ∧
    (∀ s c u x a b q n, ApRuns s c u x → queueWord false (apReg s c u x a) (apReg s c u x b) = .ok (q, n) →
      n ≤ poppable (queueAt s c q) → ∃ t, exec (.qPop b a) s = .next t ∧ t.mem = s.mem ∧
        (queueAt t c q).entries = (queueAt s c q).entries.drop n ∧
        apUnit t c u = apAfter s c u x 0 0 ((apCtx s c u x).pc.toNat + 4) (progStore (apUnit s c u).dmem
          (apReg s c u x a).toNat (((queueAt s c q).entries.take n).flatMap fun e =>
            (List.range 32).flatMap fun l => leBytes 4 (lget e.words l 0).toNat))) ∧
    (∀ s c u x a b p, ApRuns s c u x →
      apIssue s c u x (gatherOperands s c u (apReg s c u x a) (apReg s c u x b)) = .ok p →
      let g := gatherWord p.word
      (freeApOp s c = none → ∃ t, exec (.gIssue b a) s = .next t ∧ t.mem = s.mem ∧
        apCtx t c u x = { apCtx s c u x with st := .blocked, pend := some p }) ∧
      ((freeApOp s c).isSome = true → (apCtx s c u x).outstanding < 63 → (g.2.1 ≤ freeEntries (queueAt s c g.2.2.1) → ∃ t op, exec (.gIssue b a) s = .next t ∧ t.mem = s.mem ∧
        tfind t.ops s.fresh = some op ∧ op.kind = .gather ∧ op.elems.length = p.idx.length ∧ op.n = g.2.1 ∧
        reserved (queueAt s c g.2.2.1) (queueAt t c g.2.2.1) s.fresh g.2.1 false (fun _ => []) ∧
        (apCtx t c u x).outstanding = (apCtx s c u x).outstanding + 1 ∧
        (apCtx t c u x).pc = BitVec.ofNat 16 ((apCtx s c u x).pc.toNat + 4)) ∧
      (g.2.1 ≤ poppable (queueAt s c (g.2.2.1 + 2)) → writerHeld s p.record = false →
        ∃ t op, exec (.sIssue b a) s = .next t ∧ t.mem = s.mem ∧ tfind t.ops s.fresh = some op ∧ op.kind = .scatter ∧
        op.elems.length = p.idx.length ∧ (queueAt t c (g.2.2.1 + 2)).entries = (queueAt s c (g.2.2.1 + 2)).entries.drop g.2.1 ∧
        (apCtx t c u x).outstanding = (apCtx s c u x).outstanding + 1 ∧
        (apCtx t c u x).pc = BitVec.ofNat 16 ((apCtx s c u x).pc.toNat + 4)))) ∧
    (∀ i s c u x a p, (i = Instr.bagSum a ∨ i = Instr.bagMean a) → ApRuns s c u x →
      apIssue s c u x (bagOperands s c u (apReg s c u x a)) = .ok p → (freeApOp s c).isSome = true → (apCtx s c u x).outstanding < 63 →
      let q := bitsAt p.word 10 1
      1 ≤ freeEntries (queueAt s c q) → ∃ t op, exec i s = .next t ∧ t.mem = s.mem ∧
        tfind t.ops s.fresh = some op ∧ op.kind = .bag ∧ op.elems.length = p.idx.length ∧
        op.par = [p.word, BitVec.ofNat 32 p.list, if i = Instr.bagMean a then 1 else 0] ∧
        reserved (queueAt s c q) (queueAt t c q) s.fresh 1 false (fun _ => []) ∧
        (apCtx t c u x).outstanding = (apCtx s c u x).outstanding + 1) ∧
    ∀ s o op, s.issuer = .event [o] → tfind s.ops o = some op → op.kind.ap = true → op.placed = true →
      op.faulted = false → outstanding s o = false →
      let c := coreKey op.die op.core
      (op.dst / 8 < 2 ∧ (apUnit s c (op.dst / 8)).ctxs.length = 8) →
      ∃ t, exec .apOperationCompletion s = .next t ∧ t.mem = s.mem ∧ tfind t.ops o = none ∧
        (apCtx t c (op.dst / 8) (op.dst % 8)).outstanding = (apCtx s c (op.dst / 8) (op.dst % 8)).outstanding - 1

/-- R360 to R366, R369: rt.box, rt.tri, rt.suspend, rt.resume, group closing, the return of a node or triangle, parking. -/
def Obligations.RayInstructionsComplete : Prop :=
  (∀ s c u x (a d : BitVec 5), ApRuns s c u x → (apReg s c u x a).msb = true →
      let m := (apUnit s c u).dmem
      ctlDepth m (travState x) ≤ 16 → ∃ t, exec (.rtBox a d) s = .next t ∧ t.mem = s.mem ∧
        let p := tsPop m (travState x) (ctlDepth m (travState x))
        apUnit t c u = apAfter s c u x d.toNat (BitVec.ofNat 32 p.1) ((apCtx s c u x).pc.toNat + 4)
          (setDepth m (travState x) p.2)) ∧
    (∀ i s c u x (a d : BitVec 5) (tri : Bool), (i = Instr.rtTri a d ∧ tri = true ∨ i = Instr.rtBox a d ∧ tri = false) →
      ApRuns s c u x →
      let cfg := dmemNat s c u (travState x + 0x2C) 4
      let br := apRecordAt s c u (if tri then cfg / 16 % 16 else cfg % 16)
      let n := if tri then (apReg s c u x a).toNat else (apReg s c u x a).toNat % 2 ^ 30
      let e := elemAt br (recordBase s br false) 4 (if tri then 12 else 16) 0 n []
      cfg < 2 ^ 9 → recSwz br < 6 → e.st = .live → e.addr % (if tri then 16 else 64) = 0 →
      (tri = false → (apReg s c u x a).msb = false) →
      ∃ t op, exec i s = .next t ∧ t.mem = s.mem ∧
        tfind t.ops s.fresh = some op ∧ op.kind = .nodeFetch ∧ op.elems = [e] ∧ op.entry = d.toNat ∧
        apCtx t c u x = { apCtx s c u x with fetching := some s.fresh }) ∧
    (∀ s c u x (a : BitVec 5) p, ApRuns s c u x → apIssue s c u x (suspendOperands s c u x) = .ok p →
      let q := bitsAt p.word 8 1
      ((queueAt s c q).openGroup.isSome = true ∨ 16 ≤ freeEntries (queueAt s c q)) →
      ∃ t, exec (.rtSuspend a) s = .next t ∧ t.mem = s.mem ∧ (apCtx t c u x).st = .suspended ∧
        (apCtx t c u x).pc = BitVec.ofNat 16 ((apCtx s c u x).pc.toNat + 4) ∧
        dmemNat t c u (travState x + 0x40) 4 = (apReg s c u x a).toNat) ∧
    (∀ s c u x (d : BitVec 5), ApRuns s c u x → let m := (apUnit s c u).dmem
      let b := travState x
      (ctlHeld m b = false → ∃ t, exec (.rtResume d) s = .next t ∧ t.mem = s.mem ∧
        apUnit t c u = apAfter s c u x d.toNat 0 ((apCtx s c u x).pc.toNat + 4) m) ∧
      (ctlHeld m b = true → mnat m (b + 0x44) 4 % 2 = 0 → ∃ t, exec (.rtResume d) s = .next t ∧ t.mem = s.mem ∧
        apUnit t c u = apAfter s c u x d.toNat 0 ((apCtx s c u x).pc.toNat + 4)
          (putCtl m b (ctlDepth m b) (ctlHit m b) false))) ∧
    (∀ s c q g, s.issuer = .event [c, q] → q < 4 → (queueAt s c q).openGroup = some g →
      g.closes ≤ clockOf s (c / 288) (c % 288) →
      ∃ t, exec .groupCloseTimeout s = .next t ∧ t.mem = s.mem ∧ (queueAt t c q).openGroup = none ∧
        ∀ e ∈ (queueAt t c q).entries, e.res = g.res → e.complete = true) ∧
    (∀ s o op e m v, s.issuer = .event [o] → tfind s.ops o = some op → op.kind = .nodeFetch → op.placed = true →
      op.faulted = false → outstanding s o = false → op.elems = [e] → op.dst < 16 →
      let c := coreKey op.die op.core
      let u := op.dst / 8
      let x := op.dst % 8
      (apUnit s c u).ctxs.length = 8 →
      fetchEffect (decide (op.code = 1)) (apUnit s c u).dmem (travState x) (op.param 0)
        (mstore [] 0 (gotBytes op e.addr op.size)) = some (m, v) →
      ∃ t, exec .nodeFetchReturn s = .next t ∧ t.mem = s.mem ∧ tfind t.ops o = none ∧
        (apUnit t c u).dmem = m ∧ (apCtx t c u x).fetching = none ∧
        (apCtx t c u x).x = rvSet (apCtx s c u x).x op.entry (BitVec.ofNat 32 v)) ∧
    ∀ s c u x o op, s.issuer = .event [c, u, x] → u < 2 → x < 8 → (apUnit s c u).ctxs.length = 8 →
      (apCtx s c u x).fetching = some o → tfind s.ops o = some op → op.faulted = true →
      ∃ t, exec .contextPark s = .next t ∧ (apCtx t c u x).st = .parked ∧ (apCtx t c u x).fetching = none

/-- R268, R269, R272, R273, R276: a contribution to a line, the end of an update step, a monitor's check and its retry. -/
def Obligations.HomesReduceAndMonitor : Prop :=
  (∀ s id q, AtItsHome s id q → q.kind = .contribution → q.remote = none → q.collective = none →
      (let h := homeLine s q.line;
        0 < h.target → h.counter + 1 = h.target → h.tag = none ∧ q.code ≠ 3) →
      ∃ t, exec .contribution s = .next t ∧ tfind t.reqs id = none ∧
        lineAdded s.mem t.mem q.line q.code q.parts ∧
        (homeLine t q.line).counter = countedOn (homeLine s q.line)) ∧
    (∀ s line st o op, s.issuer = .event [line] → tfind s.steps line = some st → st.waiting = false → st.op = some o →
      tfind s.ops o = some op → op.code ≠ 0 → outstanding s o = false →
      ∃ t, exec .updateStepCompletion s = .next t ∧ t.mem = s.mem ∧
        (op.done < 32 → tfind t.steps line = some st ∧ (op.code = 1 → tfind t.ops o = some { op with code := 2 } ∧
            ∀ l ∈ updateReads st (tget s.updates st.desc default) op, ∃ p ∈ t.reqs, p.2.op = o ∧ p.2.kind = .load ∧ p.2.line = l.pa) ∧
          (op.code ≠ 1 → tfind t.ops o = some { op with code := 1, done := op.done + 1 })) ∧
        (32 ≤ op.done → tfind t.steps line = none ∧ tfind t.ops o = none ∧ (homeLine t line).locked = none ∧
          let p := (tget s.updates st.desc default).pub
          (pubAt t p).counter = min 65535 ((pubAt s p).counter + 1))) ∧
    (∀ s id q pa data lane, AtItsHome s id q → q.kind = .monitor → q.remote = none → q.parts = [(pa, data, lane)] →
      let v := BitVec.ofNat 32 (leNat data);
      (condHolds s q.code pa v = false → ∃ t m, exec .monitorCheck s = .next t ∧ tfind t.reqs id = none ∧ t.mem = s.mem ∧
        t.monitors = s.monitors ++ [m] ∧ m.op = q.op ∧ m.lane = lane ∧ m.home = q.home ∧ m.addr = pa ∧ m.value = v ∧
        m.armed = decide ((s.monitors.filter fun x => decide (x.home = q.home ∧ x.cluster = false) && x.armed).length < 512)) ∧
      ∀ op k w, condHolds s q.code pa v = true → tfind s.ops q.op = some op → op.kind = .waitm → op.warp = some k →
        tfind s.warps k = some w → w.ended = false → op.placed = true → op.faulted = false →
        (∀ p ∈ s.reqs, p.2.op = q.op → p.1 = id) → (∀ p ∈ s.remote, p.2.req.op ≠ q.op) → (∀ m ∈ s.monitors, m.op ≠ q.op) →
        ∃ t, exec .monitorCheck s = .next t ∧ tfind t.ops q.op = none ∧ t.mem = s.mem ∧ t.monitors = s.monitors ∧
          ∀ j ∈ bitsOf 8 op.slices, (sliceAt w j).wait = .held q.op →
            (sliceOf t k j).pc = (sliceAt w j).pc + 4 ∧ (sliceOf t k j).wait = .ready) ∧
    ∀ s o m, s.issuer = .event [o] → s.monitors = [m] → m.op = o → m.armed = false → m.cluster = false → m.remote = none →
      let now := clockOf s (tget s.ops o default).die (tget s.ops o default).core;
      m.checked + 1024 ≤ now →
      ∃ t, exec .monitorRetry s = .next t ∧ t.mem = s.mem ∧ t.monitors =
        if condMet m.cond m.signed (mword s.mem m.addr) m.value then [] else [{ m with checked := now, armed := true }]

/-- R392 to R396: POST, SYSC, EMIT, a POST value's arrival and a partial batch's time-out. That the record of SYSC names the
node by its record's address, or a plain launch by its header's, is the model's reading (DEDUCED, notes/assumptions/39.md). -/
def Obligations.WorkIsPostedAndEmitted : Prop :=
  (∀ h a, Does (.post h a) { reads := [a.toNat], hold := h.toNat, a := a.toNat }
      (fun s _ _ w => nodeListed s w.ident.graph w.ident.node) fun s k sl w t => t.mem = s.mem ∧ stepsOn k sl w t ∧
        (nodeAt t w.ident.graph w.ident.node).posts =
          (nodeAt s w.ident.graph w.ident.node).posts ++ [⟨w.die, k, warpOperand s w sl a.toNat⟩]) ∧
    (∀ i : BitVec 15, Does (.postImm i) {} (fun s _ _ w => nodeListed s w.ident.graph w.ident.node)
      fun s k sl w t => t.mem = s.mem ∧ stepsOn k sl w t ∧ (nodeAt t w.ident.graph w.ident.node).posts =
        (nodeAt s w.ident.graph w.ident.node).posts ++ [⟨w.die, k, i.setWidth 32⟩]) ∧
    (∀ i f (num : State → Warp → BitVec 8 → Nat),
      ((∃ n : BitVec 12, i = Instr.sysc n ∧ f = { drains := true } ∧ num = fun _ _ _ => n.toNat) ∨
        ∃ h a, i = Instr.syscReg h a ∧ f = { reads := [a.toNat], drains := true, hold := h.toNat, a := a.toNat } ∧
          num = fun s w sl => (warpOperand s w sl a.toNat).toNat) →
      Does i f (fun s _ sl w => released w sl 5 = true ∧ queueOpen s w.ident.ctx w.die) fun s k sl w t =>
        stepsOn k sl w t ∧ recordPosted s t w.ident.ctx (let y := graphAt s w.ident.graph
          graphRecord 0x65 0 w.core w.die w.slot (nodeName y (tget y.nodes w.ident.node default)) (num s w sl)
            (gangPc w sl).toNat)) ∧
    (∀ d (k : BitVec 3), Does (.emit d k) { reads := groupRegs d 4, drains := true }
      (fun s _ sl w => emitOk k.toNat s sl w) Emitted) ∧
    (∀ h d a, Does (.emitReg h d a)
      { reads := groupRegs d 4 ++ [a.toNat], drains := true, hold := h.toNat, a := a.toNat }
      (fun s _ sl w => emitOk (warpOperand s w sl a.toNat).toNat s sl w) Emitted) ∧
    (∀ s d g n v rest, s.issuer = .event [d] →
      (s.graphs.flatMap fun p => p.2.nodes.filterMap fun x => (x.2.posts.find? fun v => v.die = d).map fun v =>
        (p.1, x.1, v)).head? = some (g, n, v) → nodeListed s g n → (nodeAt s g n).posts = v :: rest → v.die = d → d < (nodeAt s g n).partials.length →
      ∃ t, exec .postArrival s = .next t ∧ t.mem = s.mem ∧ (nodeAt t g n).posts = rest ∧
        lget (nodeAt t g n).partials d 0 = combinePost (nodeAt s g n).comb (lget (nodeAt s g n).partials d 0) v.value) ∧
    ∀ s d g n, s.issuer = .event [d, g, n] → nodeListed s g n → (nodeAt s g n).timeout ≠ 0 →
      lget (nodeAt s g n).input d [] ≠ [] →
      lget (nodeAt s g n).placedAt d 0 + 64 * (nodeAt s g n).timeout ≤ clockB s d →
      ∃ t, exec .batchTimeout s = .next t ∧ t.mem = s.mem ∧ lget (nodeAt t g n).input d [] = [] ∧
        (nodeAt t g n).batches = (nodeAt s g n).batches ++ [⟨d, lget (nodeAt s g n).input d [], s.fresh⟩]

/-- R385, R399 to R401, R444: budget windows, headroom, heartbeats and the failure of a die, and the handing out of index chunks.
That a die that could place a cohort by pre-emption asks too, and asks for more of a launch whose cohorts start together, is
the model's reading (notes/assumptions/75.md). -/
def Obligations.TaskGraphEventsComplete : Prop :=
  (∀ s d g x, s.issuer = .event [d, g] → tfind s.graphs g = some x → x.background = true →
      d < x.left.length → d < x.windowNo.length → d < x.exhausted.length → clockB s d / 1024 = lget x.windowNo d 0 + 1 →
      let used := lget x.windowUsed d false || residentOn s g d
      ∃ t, exec .budgetWindowEnd s = .next t ∧ lget (graphAt t g).windowNo d 0 = lget x.windowNo d 0 + 1 ∧
        lget (graphAt t g).left d 0 = (if used then lget x.left d 0 - 1 else lget x.left d 0) ∧
        (used = true → lget x.left d 0 = 1 → x.budget ≠ 0 → bufferFull s x.ctx d = false →
          lget (graphAt t g).exhausted d false = true)) ∧
    (∀ s d, s.issuer = .event [d] → 3 * d + 2 < s.islands.length →
      ∃ t, exec .headroomReading s = .next t ∧ t.mem = s.mem ∧ t.islands.length = s.islands.length ∧
        ∀ j, let x := lget t.islands j default
          let y := lget s.islands j default
          if j / 3 = d ∧ y.st ≠ 0 ∧ y.st ≠ 3 then x.head = 1450 - x.amps ∧ x.holding = decide (x.head < x.threshold) ∧
            (if y.throttledHeat then 100 ≤ x.temp ∧ x.temp < 120 else x.temp < 105) ∧
            (x.throttledCurrent = true → y.throttledCurrent = true ∧ 1400 ≤ x.amps) ∧
            x.threshold = y.threshold ∧ x.st = y.st ∧ x.clock = y.clock else x = y) ∧
    (∀ s d, s.issuer = .event [d] → tgmRuns s d = true → (dieAt s d).stopped = false → s.dieLink = true →
      ∃ t, exec .heartbeat s = .next t ∧ t.mem = s.mem ∧ (dieAt t d).lastHeartbeat = clockB s (1 - d) ∧
        ∀ j, j ≠ d → dieAt t j = dieAt s j) ∧
    (∀ s d, s.issuer = .event [d] → s.dies = 2 → s.dieLink = true → tgmRuns s 0 = true → tgmRuns s 1 = true → d < 2 →
      (dieAt s d).lastHeartbeat + 65536 ≤ clockB s (1 - d) →
      ∃ t, exec .dieFailure s = .next t ∧ (dieAt t d).failed = true ∧ (dieAt t (1 - d)).failed = false) ∧
    (∀ s die g n h, s.issuer = .event [die, g, n] → nodeListed s g n → (nodeAt s g n).hdr = some h →
      mayRun s (graphAt s g) die = true → couldPlace s die g n h = true → (nodeAt s g n).st = .ready → (nodeAt s g n).kind ≠ 1 →
      die ∉ (nodeAt s g n).requests → (nodeAt s g n).mirroring = none → (nextChunk (nodeAt s g n)).isSome = true →
      readyPool s die = [] → (∀ p ∈ s.graphs, ∀ z ∈ p.2.nodes, (p.1, z.1) ≠ (g, n) → nextChunk z.2 = none) →
      ((∀ k ∈ (nodeAt s g n).chunks, k.die ≠ die) ∨ needsMore s g n h = true) →
      ∃ t, exec .chunkRequest s = .next t ∧ t.mem = s.mem ∧ (nodeAt t g n).requests = (nodeAt s g n).requests ++ [die]) ∧
    (∀ s g n x d rest first count, s.issuer = .event [g, n] → nodeListed s g n → nodeAt s g n = x → x.st = .ready →
      x.requests = d :: rest → nextChunk x = some (first, count) →
      (x.mirroring = some (d, true) ∨ x.mirroring = none ∧ alone s (graphAt s g) = true →
        ∃ t, exec .chunkHandout s = .next t ∧ t.mem = s.mem ∧ (nodeAt t g n).requests = rest ∧
          (nodeAt t g n).mirroring = none ∧ (nodeAt t g n).chunks = x.chunks ++ [⟨d, first, count, first, 0, [], s.fresh⟩] ∧
          (nodeAt t g n).counter = if x.redo.isEmpty then x.counter + count else x.counter) ∧
      (x.mirroring = none → alone s (graphAt s g) = false →
        ∃ t, exec .chunkHandout s = .next t ∧ nodeAt t g n = { x with mirroring := some (d, false) })) ∧
    ∀ s d g n e, s.issuer = .event [d] → tgmRuns s d = true → s.dieLink = true →
      ((s.graphs.filter fun p => leaderOf s p.2 ≠ d).flatMap fun p => (p.2.nodes.filter fun x => x.2.mirroring.any fun m => !m.2).map fun x => (p.1, x.1)).head?
        = some (g, n) → nodeListed s g n → (nodeAt s g n).mirroring = some (e, false) →
      ∃ t, exec .mirrorWrite s = .next t ∧ t.mem = s.mem ∧ (nodeAt t g n).mirroring = some (e, true) ∧
        ∀ first count, (nodeAt s g n).redo = [] → nextChunk (nodeAt s g n) = some (first, count) →
          (nodeAt t g n).mirror = first + count

/-- R169, R382, R384, R386, R387: the escapement places a cohort, pre-empts, saves a warp and completes a node. -/
def Obligations.WorkIsPlacedSavedAndCompleted : Prop :=
  (∀ s die i rest g n k h p after cl, s.issuer = .event [die] → dispatches s die = true → readyPool s die = i :: rest →
      i.work = .chunk g n k → k.die = die → nodeListed s g n → (nodeAt s g n).hdr = some h →
      nextDispatch (nodeAt s g n) h k = .place p after → p.groups ≠ [] →
      chooseCluster s g n die (planWants s g n h p) = some cl → beforeStart s g n h die cl = none →
      (clusterAt s (clusterKey die cl)).ctx = (graphAt s g).ctx ∨ s.savedGroups = [] → tfind s.cohorts s.fresh = none →
      s.stuck = [] →
      ∃ t co, exec .escapementPlacement s = .next t ∧ t.mem = s.mem ∧ tfind t.cohorts s.fresh = some co ∧ co.die = die ∧
        co.cluster = cl ∧ co.graph = g ∧ co.node = n ∧ co.index = p.index ∧ co.f3 = p.f3 ∧
        (∀ c ∈ (nodeAt s g n).chunks, c.seq = k.seq → after ∈ (nodeAt t g n).chunks) ∧
        (∀ q ∈ p.groups, ∃ j v, tfind t.warps j = some v ∧ v.die = die ∧ v.core = 4 * cl + q.1 ∧
          v.ident.graph = g ∧ v.ident.node = n)) ∧
    (∀ s die i rest k r, s.issuer = .event [die] → dispatches s die = true → readyPool s die = i :: rest →
      (∀ p ∈ s.warps, p.2.stopping = true → p.2.die ≠ die) → placeItem s die i = none →
      victims s die i.prio = k :: r →
      (placeItem (vacated s ((k :: r).flatMap (victimSet s))) die i).isSome = true →
      ∃ t, exec .preemption s = .next t ∧ { t with warps := s.warps } = s ∧
        (∀ j w, j ∈ victimSet s k → tfind s.warps j = some w → tfind t.warps j = some { w with stopping := true }) ∧
        ∀ j, j ∉ victimSet s k → tfind t.warps j = tfind s.warps j) ∧
    (∀ s g n, s.issuer = .event [g, n] → nodeListed s g n → nodeDone s g n = true → nodeOps s g n = [] →
      (nodeAt s g n).openOn = [] →
      ∃ t, exec .nodeCompletion s = .next t ∧ (nodeAt t g n).st = .complete ∧
        (nodeAt t g n).status = (if (nodeAt s g n).lost then 2 else 1) ∧
        (nodeAt t g n).result = (nodeAt s g n).partials.foldl (combinePost (nodeAt s g n).comb) 0) ∧
    ∀ s k w, s.issuer = .event [k] → tfind s.warps k = some w → w.stopping = true → w.slices.any latched = false →
      w.spec = none → areaFits s w = true → warpQuiet s k = true → groupQuiet s k w = true →
      ∃ t, exec .warpSave s = .next t ∧ tfind t.warps k = none ∧ ∃ x, tfind t.saved k = some x ∧ x.cluster = w.core / 4 ∧
        x.rest.ident = w.ident

/-- R375, R376, R378, R399, R426, R437, R438, R440, R441: commands 0x01 to 0x07 and 0x0F, on a ring whose next command they are. A plain launch's completion word is its command's (notes/assumptions/41.md), operands lie as notes/assumptions/31.md says. -/
def Obligations.LaunchAndContextCommandsComplete : Prop :=
  (∀ s r c, Commanded s r c → c.code = 0x01 → contextBad (hostBytes s (c.op 0) 64) = false →
      let v := leNat (hostBytes s (c.op 0) 64);
      efield v 64 16 ≠ 0 → (∀ p ∈ s.warps, p.2.ident.ctx ≠ efield v 64 16) →
      Performs .writeContextDescriptor s r c fun t => ∃ x, tfind t.contexts (efield v 64 16) = some x ∧
        x.tbase = efield v 0 64 ∧ x.fence = ebit v 80 ∧ x.clusters = efield v 96 7 ∧ x.fq = efield v 128 64 ∧
        x.fqlog = efield v 192 5 ∧ x.tvec = BitVec.ofNat 57 (efield v 256 57) ∧ x.save = efield v 320 64 ∧
        x.savesz = efield v 384 32) ∧
    (∀ s r c s1 got, Commanded s r c → c.code = 0x02 → c.op 0 % 64 = 0 →
      launchHeader s c.ctx (c.op 0) (hostPa c.done) none = (s1, got) →
      ∃ t y n, exec .submitLaunch s = .next t ∧ tfind t.graphs s.fresh = some y ∧ y.plain = true ∧ y.ctx = c.ctx ∧
        y.done = hostPa c.done ∧ tfind y.nodes 0 = some n ∧ n.hdrAddr = c.op 0 ∧
        (∀ h, got = .ok h → LaunchReady y n h ∧ Finished s t r c 1) ∧
        ∀ code, got = .error code → LaunchRefused s t y n ∧ Finished s t r c 2) ∧
    (∀ s r c s1, Commanded s r c → c.code = 0x03 → c.op 0 % 64 = 0 →
      let got := readGraph s c.ctx (leaderOf s (newGraph s c.ctx)) (c.op 0)
      (got = (s1, none) →
        Performs .submitGraph s r c fun t => tkeys t.graphs = tkeys s1.graphs) ∧
      ∀ y, got = (s1, some y) → Performs .submitGraph s r c fun t =>
        ∃ z, tfind t.graphs s1.fresh = some z ∧ z.addr = y.addr ∧ z.ctx = y.ctx ∧ z.done = y.done ∧ z.budget = y.budget ∧
          z.background = y.background ∧ tkeys z.nodes = tkeys y.nodes) ∧
    (∀ s r c, Commanded s r c → c.code = 0x04 → Performs .frameEvent s r c fun t =>
      ∀ g y, tfind s.graphs g = some y → y.background = true → y.complete = false → y.frame = 0 →
        (∀ v ∈ (graphAt t g).left, v = y.budget) ∧ (∀ b ∈ (graphAt t g).exhausted, b = false)) ∧
    (∀ s r c, Commanded s r c → c.code = 0x05 → (ringOf s r).awaits = none →
      (∀ p ∈ s.ops, p.2.ctx = c.ctx → stillUses s p.1 = false) →
      (∀ p ∈ s.reqs, p.2.ofUnit = true → p.2.ctx ≠ c.ctx) → (∀ p ∈ s.remote, p.2.req.ofUnit = true → p.2.req.ctx ≠ c.ctx) →
      Performs .invalidateTranslations s r c fun t =>
        ∀ e ∈ t.tlb, e ∈ s.tlb ∧ ¬(e.ctx = c.ctx ∧ inRange (c.op 0) (c.op 1) e.base e.attr.size = true)) ∧
    (∀ s r c k sl w, Commanded s r c → c.code = 0x06 → c.op 1 = 0 →
      tget (tget s.contexts c.ctx default).behind (c.op 0) .none = .fetch k sl → tfind s.warps k = some w →
      Performs .resumeRecordReplay s r c fun t => tget (tget t.contexts c.ctx default).behind (c.op 0) .none = .none ∧
        ∀ j ∈ bitsOf 8 sl, (sliceAt w j).wait = .fetch →
          (sliceOf t k j).wait = .ready ∧ (sliceOf t k j).pc = (sliceAt w j).pc) ∧
    (∀ s r c line st, Commanded s r c → c.code = 0x06 → c.op 1 = 1 →
      tget (tget s.contexts c.ctx default).behind (c.op 0) .none = .update line → tfind s.steps line = some st →
      st.waiting = true →
      Performs .resumeRecordAbort s r c fun t => tfind t.steps line = none ∧
        tget (tget t.contexts c.ctx default).behind (c.op 0) .none = .none) ∧
    (∀ s r c, Commanded s r c → c.code = 0x07 → Performs .faultQueueHead s r c fun t =>
      (tget t.contexts c.ctx default).fqHead = c.op 0) ∧
    ∀ s r c s1 got, Commanded s r c → c.code = 0x0F → c.op 0 % 64 = 0 → c.op 1 < s.dies →
      launchHeader s c.ctx (c.op 0) (hostPa c.done) (some (c.op 1)) = (s1, got) →
      let fits := fun h => partitionFits (submitLaunch s c.ctx (c.op 0) (hostPa c.done) (some (c.op 1))) s.fresh 0 h (c.op 1)
      ∃ t y n, exec .persistentLaunch s = .next t ∧ tfind t.graphs s.fresh = some y ∧ y.plain = true ∧ y.ctx = c.ctx ∧
        y.persistent = some (c.op 1) ∧ y.done = hostPa c.done ∧ tfind y.nodes 0 = some n ∧
        (∀ h, got = .ok h → fits h = true → LaunchReady y n h ∧ Finished s t r c 1) ∧
        (∀ h, got = .ok h → fits h = false → y.complete = true ∧ n.st = .complete ∧ n.status = 2 ∧
          tkeys t.warps = tkeys s.warps ∧ t.cohorts = s.cohorts ∧ Finished s t r c 2) ∧
        ∀ code, got = .error code → LaunchRefused s t y n ∧ Finished s t r c 2

/-- R62, R265, R275, R278, R341, R385, R414, R415, R418, R423, R425, R427, R429, R438, R440, R441, R444, R450, R454: commands 0x08 to 0x0E and 0x10 to 0x14. How operands lie in a command, and what the descriptors and areas that they name hold, is the model's choice (notes/assumptions/30.md and 31.md); so are the records' room and the report's free parts (notes/assumptions/36.md and 48.md) and its algorithm's form (notes/assumptions/93.md). -/
def Obligations.TableAndStatusCommandsComplete : Prop :=
  (∀ s r c, Commanded s r c → c.code = 0x08 → c.op 0 < 64 → 1 ≤ c.op 1 → c.op 1 ≤ 16 →
      let l := (List.range (c.op 1)).map fun i => BitVec.ofNat 32 (wordAt (hostBytes s (c.op 2) (4 * c.op 1)) i);
      (routineOk l = true → Performs .writeRoutineSlot s r c fun t =>
        tfind (tget t.contexts c.ctx default).routines (c.op 0) = some l) ∧
      (routineOk l = false → ∃ t, exec .writeRoutineSlot s = .next t ∧ Finished s t r c 3 ∧
        tfind (tget t.contexts c.ctx default).routines (c.op 0) = none)) ∧
    (∀ s r c, Commanded s r c → c.code = 0x09 → c.op 0 < 64 → updateBad (hostBytes s (c.op 1) 64) = false →
      let v := leNat (hostBytes s (c.op 1) 64);
      Performs .writeUpdateDescriptor s r c fun t => tfind t.updates (c.op 0) = some {
        gbase := efield v 0 64, lines := efield v 64 32, valid := ebit v 96, alg := efield v 97 2, pub := efield v 104 8,
        ctx := efield v 112 16, master := efield v 128 64, mom1 := efield v 192 64, mom2 := efield v 256 64,
        hyp := efield v 320 64, out := efield v 384 32 }) ∧
    (∀ s r c, Commanded s r c → c.code = 0x0A → c.op 1 ≤ 16384 → Performs .writeAccessProcessorImage s r c fun t =>
      ∀ i, i < c.op 1 → mread (tget t.contexts c.ctx default).image i = mread s.mem (hostPa (c.op 0) + i)) ∧
    (∀ s r c, Commanded s r c → c.code = 0x0B → c.op 0 < 256 → c.op 3 < 2 ^ 32 → c.op 4 ≤ 1 →
      Performs .writePublishEntry s r c fun t => pubAt t (c.op 0) = { pubAt s (c.op 0) with
        back0 := c.op 1, back1 := c.op 2, version := BitVec.ofNat 32 (c.op 3), enabled := decide (c.op 4 = 1) }) ∧
    (∀ s r c, Commanded s r c → c.code = 0x0C → c.op 0 < 1024 → carried s c.ctx (c.op 0) = false →
      collDone s c.ctx (c.op 0) = true → Performs .writeCollectiveDescriptor s r c fun t =>
        collective t c.ctx (c.op 0) = hostBytes s (c.op 1) 64 ∧ collEpoch t c.ctx (c.op 0) = 0 ∧
          ∀ e ∈ t.overflow, ¬(e.ctx = c.ctx ∧ e.desc = c.op 0)) ∧
    (∀ s r c, Commanded s r c → c.code = 0x0D → c.op 0 = 0 → c.op 1 < 2 ^ 48 →
      Performs .setRouteTable s r c fun t => t.routeTable = some (c.op 1)) ∧
    (∀ s r c, Commanded s r c → c.code = 0x0D → c.op 0 = 1 → c.op 1 < 2 ^ 49 →
      Performs .setApertureTable s r c fun t => t.apertureTable = some (c.op 1)) ∧
    (∀ s r c, Commanded s r c → c.code = 0x0D → c.op 0 = 2 → c.op 1 < 2 ^ 48 → 1024 ≤ c.op 2 / 256 → c.op 2 / 256 ≤ 2 ^ 20 →
      Performs .setOverflowArea s r c fun t => t.overflowArea = some (c.op 1, c.op 2 / 256)) ∧
    (∀ s r c, Commanded s r c → c.code = 0x0D → c.op 0 = 3 → c.op 1 < 2 ^ 48 →
      Performs .setCompressionMetadata s r c fun t => t.metadata = some (c.op 1, c.op 2)) ∧
    (∀ s r c, Commanded s r c → c.code = 0x0E → c.op 0 = 0 → c.op 1 < s.dies → c.op 1 < s.perDie.length → 1 ≤ c.op 2 →
      c.op 2 ≤ 16 →
      ((dieAt s (c.op 1)).partition = none → Performs .partitionReserve s r c fun t =>
        (dieAt t (c.op 1)).partition = some (c.op 2, c.ctx)) ∧
      ((dieAt s (c.op 1)).partition ≠ none → ∃ t, exec .partitionReserve s = .next t ∧ Finished s t r c 3 ∧
        t.perDie = s.perDie)) ∧
    (∀ s r c n, Commanded s r c → c.code = 0x0E → c.op 0 = 1 → c.op 1 < s.dies → c.op 1 < s.perDie.length →
      (dieAt s (c.op 1)).partition = some (n, c.ctx) →
      ((∀ p ∈ s.warps, p.2.die = c.op 1 → ofPartition s p.2 = false) →
        Performs .partitionRelease s r c fun t => (dieAt t (c.op 1)).partition = none) ∧
      ∀ p ∈ s.warps, p.2.die = c.op 1 → ofPartition s p.2 = true →
        ∃ t, exec .partitionRelease s = .next t ∧ Finished s t r c 3 ∧ t.perDie = s.perDie) ∧
    (∀ s r c, Commanded s r c → c.code = 0x10 → c.op 0 ≤ 2 → c.op 1 ≤ 3 → 3 * c.die + c.op 0 < s.islands.length →
      Performs .fieldControl s r c fun t => lget t.islands (3 * c.die + c.op 0) default =
        { lget s.islands (3 * c.die + c.op 0) default with point := c.op 1, threshold := c.op 2 }) ∧
    (∀ s r c, Commanded s r c → c.code = 0x11 → c.op 0 < 18 * s.dies → (tget s.ports (c.op 0) default).up = false →
      Performs .retrainPort s r c fun t => tfind t.ports (c.op 0) =
        some { tget s.ports (c.op 0) default with retraining := true }) ∧
    (∀ s r c, Commanded s r c → c.code = 0x12 →
      let b := (List.range 2).flatMap (fun d => leBytes 4 (if d < s.dies then (dieAt s d).ready.toNat else 0)) ++
        (s.islands.take (3 * s.dies)).flatMap fun x => leBytes 8 (islandWord x);
      apartFromDone c (c.op 0) b.length →
      Performs .readStatus s r c fun t => mbytes t.mem (hostPa (c.op 0)) b.length = b) ∧
    (∀ s r c e, Commanded s r c → c.code = 0x13 → c.op 1 = 0 → (s.errors.find? fun e => e.pos = c.op 0) = some e →
      (e.struct = 4 ∨ e.struct = 5) → (hostPa c.done + 4 ≤ e.line ∨ e.line + 128 ≤ hostPa c.done) →
      Performs .scrubReplay s r c fun t => mbytes t.mem e.line 128 = hostBytes s (c.op 2) 128 ∧
        (homeLine t e.line).poison = none ∧ e ∉ t.errors) ∧
    (∀ s r c e id q, Commanded s r c → c.code = 0x13 → c.op 1 = 1 → (s.errors.find? fun e => e.pos = c.op 0) = some e →
      e.req = some id → tfind s.reqs id = some q → q.remote = none → q.kind = .store →
      (∀ k, opIssuer s q.op (tget s.ops q.op default) = some k → (tfind s.warps k).isSome = true) →
      Performs .scrubAbort s r c fun t => tfind t.reqs id = none ∧ e ∉ t.errors ∧
        ∀ a, (a < hostPa c.done ∨ hostPa c.done + 4 ≤ a) → mread t.mem a = mread s.mem a) ∧
    ∀ s r c, Commanded s r c → c.code = 0x14 → c.op 2 = 0 →
      let b := attestation s c.die (hostBytes s (c.op 0) 32);
      apartFromDone c (c.op 1) b.length →
      Performs .attestationReport s r c fun t => mbytes t.mem (hostPa (c.op 1)) b.length = b

/-- R438 to R440: a malformed command, a code that no command has, the doorbell, ring enable, the error-log head and the words
of the host page. The 32-bit halves of a base are as notes/assumptions/32.md says; that the status of a misaligned completion
word goes to the aligned word below it, and an absent die is malformed, as notes/assumptions/33.md says. -/
def Obligations.RefusedCommandsAndRegistersComplete : Prop :=
  (∀ s r c i, s.issuer = .event [r] → nextCommand s r = some c → r < s.rings.length → commandInstr c = some i →
      (c.clean = false ∨ c.done % 4 ≠ 0 ∨ s.dies ≤ c.die) →
      ∃ t, exec i s = .next t ∧ Finished s t r c 2 ∧ t.contexts = s.contexts ∧ t.graphs = s.graphs ∧ t.perDie = s.perDie ∧
        ∀ a, (a < hostPa (c.done / 4 * 4) ∨ hostPa (c.done / 4 * 4) + 4 ≤ a) → mread t.mem a = mread s.mem a) ∧
    (∀ s r c, nextCommand s r = some c → commandInstr c = none → r < s.rings.length →
      ∃ t, ringTurn s r = .next t ∧ Finished s t r c 2 ∧ t.contexts = s.contexts ∧ t.graphs = s.graphs ∧ t.perDie = s.perDie) ∧
    (∀ s r v, s.issuer = .event [r, v] → pageOpen s = true → r < s.rings.length →
      ∃ t, exec .ringDoorbell s = .next t ∧ (ringOf t r).tail = v % 2 ^ 32 ∧ { t with rings := s.rings } = s) ∧
    (∀ s r v, s.issuer = .event [r, v] → pageOpen s = true → r < s.rings.length →
      ∃ t, exec .ringEnable s = .next t ∧ { t with rings := s.rings } = s ∧
        (v / 256 % 2 = 0 → (ringOf t r).enabled = false) ∧
        (v / 256 % 2 = 1 → (ringOf s r).enabled = true → t = s) ∧
        (v / 256 % 2 = 1 → (ringOf s r).enabled = false → (ringOf s r).base % 4096 = 0 → 4 ≤ v % 16 → v % 16 ≤ 12 →
          (ringOf t r).enabled = true ∧ (ringOf t r).log = v % 16 ∧ (ringOf t r).head = 0 ∧ (ringOf t r).tail = 0)) ∧
    (∀ s v, s.issuer = .event [v] → pageOpen s = true →
      ∃ t, exec .errorLogHead s = .next t ∧ t.errHead = v ∧ (s.errWaiting = [] → t.mem = s.mem)) ∧
    ∀ s off v, s.issuer = .event [off, v] → pageOpen s = true →
      ∃ t, exec .hostRegisterWrite s = .next t ∧
        (∀ r, r < s.rings.length → r < 16 → (ringOf s r).enabled = false →
          (off = 0x100 + 32 * r → (ringOf t r).base % 2 ^ 32 = v % 2 ^ 32 ∧ (ringOf t r).base / 2 ^ 32 = (ringOf s r).base / 2 ^ 32) ∧
          (off = 0x104 + 32 * r → (ringOf t r).base % 2 ^ 32 = (ringOf s r).base % 2 ^ 32 ∧
            (ringOf t r).base / 2 ^ 32 = v % 2 ^ 32)) ∧
        (off = 0x300 → t.errBase % 2 ^ 32 = v % 2 ^ 32 ∧ t.errBase / 2 ^ 32 = s.errBase / 2 ^ 32) ∧
        (off = 0x304 → t.errBase % 2 ^ 32 = s.errBase % 2 ^ 32 ∧ t.errBase / 2 ^ 32 = v % 2 ^ 32) ∧
        (off = 0x308 → 7 ≤ v % 32 → v % 32 ≤ 20 → t.errLog = v % 32)

/-- R411, R413, R435, R442, R443, R452, R453: the steps of bring-up, from power-on to the training of stacks and ports, and the command that begins it again.
What is lost and what bytes read then is as notes/assumptions/2.md and 34.md say, a port's numbers at training as 4.md, which
requests wait as 35.md, and which parts of an image are open as 48.md; SLH-DSA is as 93.md says. -/
def Obligations.BringUpEventsComplete : Prop :=
  (∀ s, ∃ t, exec .powerOn s = .next t ∧ t.warps = [] ∧ t.contexts = [] ∧ t.ops = [] ∧ t.dieLink = false ∧
      (∀ a, mread t.mem a = if 2 ^ 48 ≤ a then mread s.mem a else unwritten) ∧
      (∀ d b, b < 32 → readyBit t d b = false) ∧
      ∀ i, i < 3 * s.dies → ∃ x, t.islands[i]? = some x ∧ x.st = (if i % 3 = 1 then 1 else 0) ∧ x.threshold = 60) ∧
    (∀ s r c, s.issuer = .event [r] → nextCommand s r = some c → c.code = 0x15 → r < s.rings.length → c.clean = true →
      c.done % 4 = 0 → c.die < s.dies →
      ((c.die = 1 ∧ s.dieLink = false) ∨ (readyBit s c.die 3 = false ∧ readyBit s c.die 15 = false) →
        ∃ t, exec .bringUpPackage s = .next t ∧ Finished s t r c 3 ∧ t.warps.map Prod.fst = s.warps.map Prod.fst ∧
          t.contexts = s.contexts ∧ t.perDie = s.perDie) ∧
      ((c.die = 1 → s.dieLink = true) → (readyBit s c.die 3 = true ∨ readyBit s c.die 15 = true) →
      ∃ t, exec .bringUpPackage s = .next t ∧ mbytes t.mem (hostPa c.done) 4 = leBytes 4 1 ∧ t.warps = [] ∧
        t.contexts = [] ∧ t.dieLink = false ∧ ∀ d b, b < 32 → readyBit t d b = false)) ∧
    (∀ s n, s.issuer = .event [n] → 0 < n → fieldB s 0 = true → readyBit s 0 1 = false → s.perDie ≠ [] →
      ∃ t, exec .hostAttachTrained s = .next t ∧ readyBit t 0 1 = true ∧ t.hostModules = min 4 n) ∧
    (∀ s d, s.issuer = .event [d] → mayVerify s d = true → d < s.perDie.length → (dieAt s d).measures.length = 8 →
      (imageVerifies s.firmware = true → ∃ t, exec .firmwareVerify s = .next t ∧ (dieAt t d).verified = true ∧
        (let n := s.firmware
        lget (dieAt t d).measures 0 [] = shake256 (lget (dieAt s d).measures 0 [] ++
          shake256 (Config.imageBody n ++ padTo 29792 (Config.imageSignature n)) 64) 64 ∧
        lget (dieAt t d).measures 1 [] = shake256 (lget (dieAt s d).measures 1 [] ++ Config.imageConfig n) 64)) ∧
      (imageVerifies s.firmware = false → ∃ t, exec .firmwareVerify s = .next t ∧ readyBit t d 15 = true ∧
        (dieAt t d).verified = (dieAt s d).verified)) ∧
    (∀ s d, s.issuer = .event [d] → d < s.perDie.length → (dieAt s d).verified = true → fieldB s d = true →
      ∃ t, exec .configurationLoad s = .next t ∧ readyBit t d 0 = true ∧
        t.device = Config.imageDevice s.firmware % 2 ^ 18) ∧
    (∀ s, s.dies = 2 → s.perDie.length = 2 → (dieAt s 0).verified = true → s.dieLink = false →
      s.dieLinkLost = false → (dieAt s 0).failed = false → (dieAt s 1).failed = false → fieldB s 0 = true →
      fieldB s 1 = true →
      ∃ t, exec .dieToDieLinkTrained s = .next t ∧ t.dieLink = true ∧ readyBit t 0 2 = true ∧ readyBit t 1 2 = true) ∧
    (∀ s d, s.issuer = .event [d] → d < s.dies → d < s.perDie.length → readyBit s d 0 = true →
      fieldB s d = true → (s.dies < 2 ∨ s.dieLink = true) →
      ∃ t, exec .tgmStart s = .next t ∧ readyBit t d 3 = true ∧ (dieAt t d).lastHeartbeat = clockB s (1 - d)) ∧
    (∀ s d f, s.issuer = .event [d, f] → readyBit s d 3 = true → f < 3 → 3 * d + f < s.islands.length →
      ((lget s.islands (3 * d + f) default).st = 0 → ∃ t, exec .fieldPowerUp s = .next t ∧ t.perDie = s.perDie ∧
        (lget t.islands (3 * d + f) default).st = 1 ∧ (lget t.islands (3 * d + f) default).clock = 0) ∧
      ((lget s.islands (3 * d + f) default).st = 1 → d < s.perDie.length → ∃ t, exec .fieldPowerUp s = .next t ∧
        readyBit t d (4 + f) = true ∧ (lget t.islands (3 * d + f) default).st = 2)) ∧
    (∀ s d k, s.issuer = .event [d, k] → fieldsUp s d = true → k < 8 → d < s.perDie.length →
      ∃ t, exec .hbmStackTrained s = .next t ∧ readyBit t d (7 + k) = true ∧ { t with perDie := s.perDie } = s) ∧
    ∀ s p, s.issuer = .event [p] → p < 18 * s.dies → fieldsUp s (p / 18) = true → tfind s.ports p = none →
      ∃ t x, exec .systemPortTrained s = .next t ∧ tfind t.ports p = some x ∧ x.up = true ∧ x.nextSeq = 0 ∧ x.expected = 0 ∧
        x.unacked = []

/-- R444, R446, R448, R449, R451: the protection of the islands, and storage errors, corrected and not. What a trip takes with
it is as notes/assumptions/34.md says, that the sensors' values are arguments as 47.md, that an error is not made while 256
records wait as 36.md, that a trip is held while its records find no room as 76.md, and that a context parks at a queue entry as 92.md. -/
def Obligations.ProtectionAndStorageErrorsComplete : Prop :=
  (∀ s i a, s.issuer = .event [i, a] → i < s.islands.length → (lget s.islands i default).st ≠ 0 →
      (lget s.islands i default).st ≠ 3 →
      (1450 < a → ∃ t, exec .currentThrottle s = .next t ∧ { t with islands := s.islands } = s ∧
        lget t.islands i default = { lget s.islands i default with throttledCurrent := true }) ∧
      (a < 1400 → ∃ t, exec .currentThrottleEnd s = .next t ∧ { t with islands := s.islands } = s ∧
        lget t.islands i default =
          { lget s.islands i default with throttledCurrent := false, amps := a, head := 1450 - a }) ∧
      (105 ≤ a → a < 120 → ∃ t, exec .thermalThrottle s = .next t ∧ { t with islands := s.islands } = s ∧
        (lget t.islands i default).throttledHeat = true ∧ (lget t.islands i default).temp = a) ∧
      (a < 100 → ∃ t, exec .thermalThrottleEnd s = .next t ∧ { t with islands := s.islands } = s ∧
        (lget t.islands i default).throttledHeat = false ∧ (lget t.islands i default).temp = a) ∧
      (120 ≤ a → i / 3 < s.perDie.length → ∃ t, exec .thermalTrip s = .next t ∧ (lget t.islands i default).st = 3 ∧
        readyBit t (i / 3) (4 + i % 3) = false ∧
        (let s1 := dropIsland s i a
          let n := (s1.warps.filter fun p => islandCore i p.2.coreOf).length
          (∀ d, d < s.dies → bufferedOn s1 d + n ≤ 256) → s1.errWaiting.length + n ≤ 256 →
          ∀ p ∈ t.warps, islandOf (p.2.coreOf / 288) (p.2.coreOf % 288) ≠ i) ∧
        (i % 3 = 1 → readyBit t (i / 3) 3 = false ∧ (dieAt t (i / 3)).stopped = true ∧ (s.dies = 2 → t.dieLink = false) ∧
          (i = 1 → readyBit t 0 1 = false)))) ∧
    (∀ (e : ErrorReport) s, s.errWaiting.length < 256 → ∃ t, exec (.correctedError e) s = .next t ∧
      correctedIn t e.struct = correctedIn s e.struct + 1 ∧ nextErrorPos t = nextErrorPos s + 1 ∧
      t.warps.map (fun p => (p.1, { p.2 with spec := none })) = s.warps.map fun p => (p.1, { p.2 with spec := none })) ∧
    ∀ (e : ErrorReport) s, s.errWaiting.length < 256 →
      ((e.struct = 2 ∨ e.struct = 3) → ∃ t, exec (.uncorrectableError e) s = .next t ∧
        correctedIn t e.struct = correctedIn s e.struct + 1 ∧
        (e.struct = 3 → ∀ x ∈ (tget t.cores (coreKey e.die e.unit) default).cache, x.pa ≠ lineOf e.loc)) ∧
      ((e.struct = 4 ∨ e.struct = 5) → ∃ t, exec (.uncorrectableError e) s = .next t ∧
        (homeLine t e.loc).poison = some (e.struct, e.syndrome) ∧
        ⟨nextErrorPos s, e.struct, e.unit, lineOf e.loc, .none, none⟩ ∈ t.errors) ∧
      (e.struct = 11 → e.die < s.perDie.length → ∃ t, exec (.uncorrectableError e) s = .next t ∧
        (dieAt t e.die).stopped = true) ∧
      (e.struct = 1 → (tfind s.warps e.target).isSome = true → ∃ t, exec (.uncorrectableError e) s = .next t ∧
        tfind t.warps e.target = none) ∧
      ((e.struct = 6 ∨ (e.struct = 7 ∧ 16 ≤ e.target) ∨ e.struct = 8 ∨ e.struct = 9) → ∀ op, tfind s.ops e.target = some op →
        ∃ t op', exec (.uncorrectableError e) s = .next t ∧ tfind t.ops e.target = some op' ∧ op'.faulted = true ∧
          ∃ x ∈ t.errors, x.pos = nextErrorPos s ∧ x.struct = e.struct ∧ x.behind = .op e.target) ∧
      ((e.struct = 10 ∨ e.struct = 7) → e.target < 16 → let c := coreKey e.die e.unit
        (tfind s.cores c).isSome = true → (coreAt s c).units.length = 2 →
        (∀ u ∈ (coreAt s c).units, u.ctxs.length = 8) →
        ∃ t, exec (.uncorrectableError e) s = .next t ∧ (apCtx t c (e.target / 8) (e.target % 8)).st = .parked ∧
          ∃ x ∈ t.errors, x.pos = nextErrorPos s ∧ x.behind = .park c (e.target / 8) (e.target % 8))

/-- R401, R407, R411, R412, R416, R421, R422, R429: flits, retries, ports and the die-to-die link, and the messages of each kind. The bytes of an atomic's message are open (notes/assumptions/48.md); credits and the two views of a graph are as notes/assumptions/20.md and 73.md say; a port's sequence numbers at training
and the start of its CRC as 4.md. -/
def Obligations.LinksCarryFlitsAndMessages : Prop :=
  (∀ s p f pt, tfind s.ports p = some pt → pt.up = true → goodFlit f → leNat (f.take 2) / 4096 = 1 →
      leNat (f.take 2) % 4096 = pt.expected →
      let bytes := pt.rxBytes ++ (f.drop 8).take 240
      let got := takeMessages (bytes.length + 1) bytes;
      (∀ m ∈ got.1, badMessage s m = false) →
      ∃ t n c v, exec (.dataFlitReceive p f) s = .next t ∧ t.inbox = s.inbox ++ got.1.map (fun m => (p, m)) ∧
        (tget t.ports p default).expected = (pt.expected + 1) % 4096 ∧ (tget t.ports p default).rxBytes = got.2 ∧
        t.outbox.getLast? = some (p, flitBytes n 0 pt.expected c v []) ∧ t.mem = s.mem) ∧
    (∀ s p f pt, tfind s.ports p = some pt → pt.up = true → leNat (f.take 2) / 4096 = 1 →
      (¬ goodFlit f ∨ leNat (f.take 2) % 4096 ≠ pt.expected) →
      exec (.dataFlitReceive p f) s = .next
        { modPort s p payCredits with outbox := s.outbox ++
          [(p, flitBytes pt.expected 2 (lastReceived pt) (dueCredits pt).1 (dueCredits pt).2 [])] }) ∧
    (∀ s p seq pt, s.issuer = .event [p, seq] → tfind s.ports p = some pt → pt.up = true →
      let again := pt.unacked.dropWhile fun x => x.seq ≠ seq;
      again ≠ [] →
      ((∀ x ∈ again, x.resent < 16) → ∃ t, exec .retryRequest s = .next t ∧
        (tget t.ports p default).unacked = pt.unacked.takeWhile (fun x => x.seq ≠ seq) ++
          again.map (fun x => { x with resent := x.resent + 1 }) ∧
        t.outbox = s.outbox ++ again.map fun x => (p, x.bytes)) ∧
      ((∃ x ∈ again, 16 ≤ x.resent) → ∃ t x, exec .retryRequest s = .next t ∧ tfind t.ports p = some x ∧ x.up = false)) ∧
    (∀ s p pt, s.issuer = .event [p] → tfind s.ports p = some pt → pt.up = true →
      ∃ t x, exec .portDown s = .next t ∧ tfind t.ports p = some x ∧ x.up = false ∧ x.unacked = [] ∧ x.txBytes = [] ∧
        ∀ r ∈ t.remote, r.2.port ≠ p) ∧
    (∀ s p pt, s.issuer = .event [p] → tfind s.ports p = some pt → pt.up = false → pt.retraining = true →
      portField s p = true →
      ∃ t x, exec .portUp s = .next t ∧ tfind t.ports p = some x ∧ x.up = true ∧ x.nextSeq = 0 ∧ x.expected = 0 ∧
        x.unacked = [] ∧ x.retraining = false) ∧
    (∀ s, s.dies = 2 → s.dieLink = true → s.perDie.length = 2 →
      ∃ t, exec .dieToDieLinkDown s = .next t ∧ t.dieLink = false ∧ t.dieLinkLost = true ∧
        readyBit t 0 2 = false ∧ readyBit t 1 2 = false ∧
        (tgmRuns s 0 = true → tgmRuns s 1 = true → s.reqs = [] → s.remote = [] → s.monitors = [] → s.publish = [] →
          ∀ g y, s.graphs = [(g, y)] → g < s.fresh → y.complete = false → y.owner = none →
            (graphAt t g).owner = some 0 ∧ ∃ g', g' ≠ g ∧ (graphAt t g').owner = some 1)) ∧
    (∀ s p m, (homeReady s (homeOf s (m.line * 128)) = false ∧ m.line * 128 < 2 ^ 48 ∨
        fieldReady s (homeOf s (m.line * 128)) = false ∧ isRemote (m.line * 128) = false) →
      (Arrives s p m 0 → ∃ t, exec (.readMessage m) s = .next t ∧ RequestAtHome s t p m .load []) ∧
      (Arrives s p m 2 → ∃ t, exec (.writeMessage m) s = .next t ∧ RequestAtHome s t p m .store (messageParts m)) ∧
      (Arrives s p m 3 → let l := Config.atomicOf m.data
        ∃ t, exec (.atomicMessage m) s = .next t ∧
          RequestAtHome s t p m (kindOfAtomic (lget l 0 0)) (partsOf (m.line * 128) l.length (l.drop 2))) ∧
      (Arrives s p m 4 →
        ∃ t, exec (.contributionMessage m) s = .next t ∧ RequestAtHome s t p m .contribution (messageParts m))) ∧
    (∀ s p m, HomeTakes s p m → let home := homeOf s (m.line * 128)
      (Arrives s p m 0 → ∃ t u, exec (.readMessage m) s = .next t ∧ u.inbox = s.inbox.erase (p, m) ∧ u.mem = s.mem ∧
        tfind u.reqs s.fresh = none ∧ t = replaceLine (reply u m 1 0 (mbytes s.mem (m.line * 128) 128)) home) ∧
      (Arrives s p m 2 → ∃ t u, exec (.writeMessage m) s = .next t ∧ u.inbox = s.inbox.erase (p, m) ∧
        u.mem = storedParts s.mem (messageParts m) ∧ tfind u.reqs s.fresh = none ∧
        t = replaceLine (reply u m 5 0 []) home) ∧
      (Arrives s p m 3 → let l := Config.atomicOf m.data
        let r := atomRun (lget l 1 0) s.mem (partsOf (m.line * 128) l.length (l.drop 2))
        ∃ t, exec (.atomicMessage m) s = .next t ∧ tfind t.reqs s.fresh = none ∧
          (kindOfAtomic (lget l 0 0) = .atomic → ∃ u, u.inbox = s.inbox.erase (p, m) ∧ u.mem = r.1 ∧
            t = replaceLine (reply u m 1 0 (Config.resultBytes (r.2.flatMap fun x => [x.1, x.2]))) home)) ∧
      (Arrives s p m 4 → m.desc = 0xFFFF → (let h := homeLine s (m.line * 128);
          0 < h.target → h.counter + 1 = h.target → h.tag = none ∧ m.code ≠ 3) →
        ∃ t u, exec (.contributionMessage m) s = .next t ∧ u.inbox = s.inbox.erase (p, m) ∧
          lineAdded s.mem u.mem (m.line * 128) m.code (messageParts m) ∧ tfind u.reqs s.fresh = none ∧
          (homeLine u (m.line * 128)).counter = countedOn (homeLine s (m.line * 128)) ∧
          t = replaceLine (reply u m 5 0 []) home)) ∧
    (∀ s p m id x op, Arrives s p m 1 → answered s m = some (id, x) → x.req.kind = .load → x.req.ofUnit = false →
      tfind s.ops x.req.op = some op →
      m.data.length = 128 →
      ∃ t op', exec (.readResponse m) s = .next t ∧ t.mem = s.mem ∧ tfind t.remote id = none ∧
        t.inbox = s.inbox.erase (p, m) ∧ tfind t.ops x.req.op = some op' ∧
        ∀ n, n < 128 → tget op'.buf (x.req.line + n) 0 = lget m.data n 0) ∧
    (∀ s p m id x, Arrives s p m 5 → answered s m = some (id, x) →
      ∃ t, exec (.acknowledgement m) s = .next t ∧ t.inbox = s.inbox.erase (p, m) ∧ t.remote = tdel s.remote id ∧
        t.ops = s.ops ∧ t.mem = s.mem) ∧
    ∀ s p m s1, Arrives s p m 6 → let b := collective s m.ctx m.desc;
      cdGood b = true → cdKind b = 0 → 0 < m.epoch → m.epoch = collEpoch s m.ctx m.desc →
      collDone s m.ctx m.desc = false → (tfind s.contexts m.ctx).isSome = true →
      tget (tget s.contexts m.ctx default).epochLines m.desc 0 + 1 < 32 * cdBlocks b →
      let r := (addOp (owe { s with inbox := s.inbox.erase (p, m) } p m) { (default : Op) with
        kind := .result, die := p / 18, ctx := m.ctx, collective := some (m.desc, m.epoch), done := 65536
        elems := [{ (default : Elem) with offset := m.line * 128, data := m.data }] }).2;
      vwrite r m.ctx (p / 18) (cdRes b + m.line * 128) m.data = (s1, none) →
      ∃ t, exec (.resultLine m) s = .next t ∧ t.mem = s1.mem ∧ tfind t.ops s.fresh = none ∧
        tget (tget t.contexts m.ctx default).epochLines m.desc 0 =
          tget (tget s.contexts m.ctx default).epochLines m.desc 0 + 1 ∧ collDone t m.ctx m.desc = false

/-- R105, R118, R120, R338, R353: every instruction word, with every operand at every value its encoding admits. -/
def Obligations.WordsDecodeToWhatTheyEncode : Prop :=
  (∀ i : Instr, isCoreWord i = true → i.wellFormed = true → encode i < 2 ^ 32 ∧ decodeCore (encode i) = .ok i) ∧
    (∀ i : Instr, isApWord i = true → i.wellFormed = true → encode i < 2 ^ 32 ∧ decodeAp (encode i) = .ok i)

/-- R105, R118, R120, R338, R353: reserved bits and reserved values are refused, so that no two words are one instruction. -/
def Obligations.DecodedInstructionsHaveTheirWord : Prop :=
  (∀ (w : Nat) (i : Instr), w < 2 ^ 32 → decodeCore w = .ok i → isCoreWord i = true ∧ i.wellFormed = true ∧ encode i = w) ∧
    ∀ (w : Nat) (i : Instr), w < 2 ^ 32 → decodeAp w = .ok i → isApWord i = true ∧ i.wellFormed = true ∧ encode i = w

/-- R105, R118, R140, R143, R207: words written out from the encoding tables. -/
def Obligations.WrittenOutWordsDecode : Prop :=
  decodeCore 0x00000000 = .ok .nop ∧ decodeCore 0x01000000 = .ok .exit ∧ decodeCore 0x02FFFFFF = .ok (.bra 0xFFFFFF) ∧
    decodeCore 0x01000001 = .error .reservedField ∧
    decodeTableWord 32 0xA3018A05 = some (.vbcast 0 3 10 5) ∧ decodeTableWord 32 0x01000000 = some .exit

/-- R30, R31, R105, R162, R338, R339, R376, R438: what a step does on each kind of turn. Which turn comes is open (notes/assumptions/3.md). An attempt that meets a
line out of reach, or whose record finds no room, is held: it is not done yet (notes/assumptions/27.md and 76.md). -/
def Obligations.StepRunsTheInstructionOfItsTurn : Prop :=
  (∀ s d c p k sl last slot rest f v i t, s.turn = .port d c p → let s0 := portState s d c;
      candidates s0 d c p = ⟨k, sl, last, slot⟩ :: rest → let g := { s0 with issuer := .gang k sl, fetched := none, held := false };
      islandOn s (islandOf d c) = true → entersTrap g k sl = false →
      exec .instructionFetch g = .next f → f.fetched = some v → decodeCore v.toNat = .ok i → exec i f = .next t →
      heldUp g t = false → (t.held = false ∨ rest = []) →
      step s = .next (endStep (if t.held then spend t else unstarve (spend t) (coreKey d c)))) ∧
    (∀ s d c u x rest i t, s.turn = .ap d c u → let k := coreKey d c;
      (tfind s.cores k).isSome = true → islandOn s (islandOf d c) = true → apOrder (apUnit s k u) = x :: rest →
      (apCtx (apState s k u x) k u x).pc.toNat < 0x4000 → decodeAp (apFetch (apState s k u x) k u x).toNat = .ok i →
      exec i (apState s k u x) = .next t → heldUp (apState s k u x) t = false → t.held = false →
      step s = .next (endStep (modUnit (spend t) k u fun y => { y with last := x }))) ∧
    (∀ s r c i t, s.turn = .ring r → let s0 := { s with
        issuer := .event [r], fetched := none, held := false, stuck := [], used := [] };
      nextCommand s0 r = some c → commandInstr c = some i → exec i s0 = .next t →
      step s = .next (endStep (attempt s0 t)) ∧ (heldUp s0 t = false → attempt s0 t = spend t)) ∧
    ∀ s i l t, s.turn = .event i l → isEvent i = true → exec i (eventState s i l) = .next t →
      step s = .next (endStep (attempt (eventState s i l) t)) ∧
        (heldUp (eventState s i l) t = false → attempt (eventState s i l) t = spend t)

/-- No step of the device is a fault or a refusal: the model has no stop of its own on any turn. -/
def Obligations.TheDeviceGoesOn : Prop :=
  ∀ s, Continues s

/-- The form of the memory list (the model's own; an unwritten byte reads as notes/assumptions/2.md says): addresses rise, and no listed byte equals what an unlisted one reads as. -/
def Obligations.DeviceMemoryStaysCanonical : Prop :=
  ∀ s t, s.mem.wf = true → step s = .next t → t.mem.wf = true

/-- R385, R438, R442, R443: the state after reset, before power-on; the dispatch thresholds stand at 60 A. That memory lists no byte, so that
every byte reads 0, is the model's choice (notes/assumptions/2.md). -/
def Obligations.ResetLeavesNothingPowered : Prop :=
  memoriesWf State.reset = true ∧ State.reset.mem = [] ∧ State.reset.warps = [] ∧ State.reset.contexts = [] ∧
    State.reset.dieLink = false ∧ (∀ d b, b < 32 → readyBit State.reset d b = false) ∧
    (∀ i, i < 6 → ∃ x, State.reset.islands[i]? = some x ∧ x.st = 0 ∧ x.threshold = 60) ∧
    (∀ r, r < 16 → (ringOf State.reset r).enabled = false) ∧
    ∃ t, exec .powerOn { State.reset with issuer := .event [] } = .next t ∧ t.islands.length = 3 * State.reset.dies ∧
      ∀ i, i < 3 * State.reset.dies → (lget t.islands i default).st = if i % 3 = 1 then 1 else 0
end

