-- ==== Sys2Proof/Laws/State.lean ====
section
/-!
SUPPORT. What each named update of the state changes and what it leaves alone: one lemma for each field of
`State` and each update of Machine/Warps.lean.
-/

namespace Sys2Proof.Machine

variable (s : State)

/-! ## `modWarp` -/

@[simp] theorem modWarp_dies (k : Nat) (f : Warp → Warp) : (modWarp s k f).dies = s.dies := rfl
@[simp] theorem modWarp_mem (k : Nat) (f : Warp → Warp) : (modWarp s k f).mem = s.mem := rfl
@[simp] theorem modWarp_warps (k : Nat) (f : Warp → Warp) : (modWarp s k f).warps = tmod s.warps k f := rfl
@[simp] theorem modWarp_groups (k : Nat) (f : Warp → Warp) : (modWarp s k f).groups = s.groups := rfl
@[simp] theorem modWarp_cohorts (k : Nat) (f : Warp → Warp) : (modWarp s k f).cohorts = s.cohorts := rfl
@[simp] theorem modWarp_images (k : Nat) (f : Warp → Warp) : (modWarp s k f).images = s.images := rfl
@[simp] theorem modWarp_cores (k : Nat) (f : Warp → Warp) : (modWarp s k f).cores = s.cores := rfl
@[simp] theorem modWarp_clusters (k : Nat) (f : Warp → Warp) : (modWarp s k f).clusters = s.clusters := rfl
@[simp] theorem modWarp_ops (k : Nat) (f : Warp → Warp) : (modWarp s k f).ops = s.ops := rfl
@[simp] theorem modWarp_reqs (k : Nat) (f : Warp → Warp) : (modWarp s k f).reqs = s.reqs := rfl
@[simp] theorem modWarp_homeLines (k : Nat) (f : Warp → Warp) : (modWarp s k f).homeLines = s.homeLines := rfl
@[simp] theorem modWarp_monitors (k : Nat) (f : Warp → Warp) : (modWarp s k f).monitors = s.monitors := rfl
@[simp] theorem modWarp_copies (k : Nat) (f : Warp → Warp) : (modWarp s k f).copies = s.copies := rfl
@[simp] theorem modWarp_invalidations (k : Nat) (f : Warp → Warp) : (modWarp s k f).invalidations = s.invalidations := rfl
@[simp] theorem modWarp_publish (k : Nat) (f : Warp → Warp) : (modWarp s k f).publish = s.publish := rfl
@[simp] theorem modWarp_updates (k : Nat) (f : Warp → Warp) : (modWarp s k f).updates = s.updates := rfl
@[simp] theorem modWarp_steps (k : Nat) (f : Warp → Warp) : (modWarp s k f).steps = s.steps := rfl
@[simp] theorem modWarp_tlb (k : Nat) (f : Warp → Warp) : (modWarp s k f).tlb = s.tlb := rfl
@[simp] theorem modWarp_contexts (k : Nat) (f : Warp → Warp) : (modWarp s k f).contexts = s.contexts := rfl
@[simp] theorem modWarp_graphs (k : Nat) (f : Warp → Warp) : (modWarp s k f).graphs = s.graphs := rfl
@[simp] theorem modWarp_saved (k : Nat) (f : Warp → Warp) : (modWarp s k f).saved = s.saved := rfl
@[simp] theorem modWarp_savedGroups (k : Nat) (f : Warp → Warp) : (modWarp s k f).savedGroups = s.savedGroups := rfl
@[simp] theorem modWarp_perDie (k : Nat) (f : Warp → Warp) : (modWarp s k f).perDie = s.perDie := rfl
@[simp] theorem modWarp_islands (k : Nat) (f : Warp → Warp) : (modWarp s k f).islands = s.islands := rfl
@[simp] theorem modWarp_dieLink (k : Nat) (f : Warp → Warp) : (modWarp s k f).dieLink = s.dieLink := rfl
@[simp] theorem modWarp_dieLinkLost (k : Nat) (f : Warp → Warp) : (modWarp s k f).dieLinkLost = s.dieLinkLost := rfl
@[simp] theorem modWarp_ports (k : Nat) (f : Warp → Warp) : (modWarp s k f).ports = s.ports := rfl
@[simp] theorem modWarp_inbox (k : Nat) (f : Warp → Warp) : (modWarp s k f).inbox = s.inbox := rfl
@[simp] theorem modWarp_outbox (k : Nat) (f : Warp → Warp) : (modWarp s k f).outbox = s.outbox := rfl
@[simp] theorem modWarp_remote (k : Nat) (f : Warp → Warp) : (modWarp s k f).remote = s.remote := rfl
@[simp] theorem modWarp_unitLines (k : Nat) (f : Warp → Warp) : (modWarp s k f).unitLines = s.unitLines := rfl
@[simp] theorem modWarp_overflow (k : Nat) (f : Warp → Warp) : (modWarp s k f).overflow = s.overflow := rfl
@[simp] theorem modWarp_overflowArea (k : Nat) (f : Warp → Warp) : (modWarp s k f).overflowArea = s.overflowArea := rfl
@[simp] theorem modWarp_overflowFull (k : Nat) (f : Warp → Warp) : (modWarp s k f).overflowFull = s.overflowFull := rfl
@[simp] theorem modWarp_routeTable (k : Nat) (f : Warp → Warp) : (modWarp s k f).routeTable = s.routeTable := rfl
@[simp] theorem modWarp_apertureTable (k : Nat) (f : Warp → Warp) : (modWarp s k f).apertureTable = s.apertureTable := rfl
@[simp] theorem modWarp_metadata (k : Nat) (f : Warp → Warp) : (modWarp s k f).metadata = s.metadata := rfl
@[simp] theorem modWarp_rings (k : Nat) (f : Warp → Warp) : (modWarp s k f).rings = s.rings := rfl
@[simp] theorem modWarp_errBase (k : Nat) (f : Warp → Warp) : (modWarp s k f).errBase = s.errBase := rfl
@[simp] theorem modWarp_errLog (k : Nat) (f : Warp → Warp) : (modWarp s k f).errLog = s.errLog := rfl
@[simp] theorem modWarp_errHead (k : Nat) (f : Warp → Warp) : (modWarp s k f).errHead = s.errHead := rfl
@[simp] theorem modWarp_errTail (k : Nat) (f : Warp → Warp) : (modWarp s k f).errTail = s.errTail := rfl
@[simp] theorem modWarp_errWaiting (k : Nat) (f : Warp → Warp) : (modWarp s k f).errWaiting = s.errWaiting := rfl
@[simp] theorem modWarp_errors (k : Nat) (f : Warp → Warp) : (modWarp s k f).errors = s.errors := rfl
@[simp] theorem modWarp_corrected (k : Nat) (f : Warp → Warp) : (modWarp s k f).corrected = s.corrected := rfl
@[simp] theorem modWarp_events (k : Nat) (f : Warp → Warp) : (modWarp s k f).events = s.events := rfl
@[simp] theorem modWarp_device (k : Nat) (f : Warp → Warp) : (modWarp s k f).device = s.device := rfl
@[simp] theorem modWarp_firmware (k : Nat) (f : Warp → Warp) : (modWarp s k f).firmware = s.firmware := rfl
@[simp] theorem modWarp_hostModules (k : Nat) (f : Warp → Warp) : (modWarp s k f).hostModules = s.hostModules := rfl
@[simp] theorem modWarp_fresh (k : Nat) (f : Warp → Warp) : (modWarp s k f).fresh = s.fresh := rfl
@[simp] theorem modWarp_free (k : Nat) (f : Warp → Warp) : (modWarp s k f).free = s.free := rfl
@[simp] theorem modWarp_now (k : Nat) (f : Warp → Warp) : (modWarp s k f).now = s.now := rfl
@[simp] theorem modWarp_turn (k : Nat) (f : Warp → Warp) : (modWarp s k f).turn = s.turn := rfl
@[simp] theorem modWarp_issuer (k : Nat) (f : Warp → Warp) : (modWarp s k f).issuer = s.issuer := rfl
@[simp] theorem modWarp_fetched (k : Nat) (f : Warp → Warp) : (modWarp s k f).fetched = s.fetched := rfl
@[simp] theorem modWarp_held (k : Nat) (f : Warp → Warp) : (modWarp s k f).held = s.held := rfl

/-! ## `modCore` -/

@[simp] theorem modCore_dies (c : Nat) (f : Core → Core) : (modCore s c f).dies = s.dies := rfl
@[simp] theorem modCore_mem (c : Nat) (f : Core → Core) : (modCore s c f).mem = s.mem := rfl
@[simp] theorem modCore_warps (c : Nat) (f : Core → Core) : (modCore s c f).warps = s.warps := rfl
@[simp] theorem modCore_groups (c : Nat) (f : Core → Core) : (modCore s c f).groups = s.groups := rfl
@[simp] theorem modCore_cohorts (c : Nat) (f : Core → Core) : (modCore s c f).cohorts = s.cohorts := rfl
@[simp] theorem modCore_images (c : Nat) (f : Core → Core) : (modCore s c f).images = s.images := rfl
@[simp] theorem modCore_cores (c : Nat) (f : Core → Core) : (modCore s c f).cores = tput s.cores c (f (tget s.cores c default)) := rfl
@[simp] theorem modCore_clusters (c : Nat) (f : Core → Core) : (modCore s c f).clusters = s.clusters := rfl
@[simp] theorem modCore_ops (c : Nat) (f : Core → Core) : (modCore s c f).ops = s.ops := rfl
@[simp] theorem modCore_reqs (c : Nat) (f : Core → Core) : (modCore s c f).reqs = s.reqs := rfl
@[simp] theorem modCore_homeLines (c : Nat) (f : Core → Core) : (modCore s c f).homeLines = s.homeLines := rfl
@[simp] theorem modCore_monitors (c : Nat) (f : Core → Core) : (modCore s c f).monitors = s.monitors := rfl
@[simp] theorem modCore_copies (c : Nat) (f : Core → Core) : (modCore s c f).copies = s.copies := rfl
@[simp] theorem modCore_invalidations (c : Nat) (f : Core → Core) : (modCore s c f).invalidations = s.invalidations := rfl
@[simp] theorem modCore_publish (c : Nat) (f : Core → Core) : (modCore s c f).publish = s.publish := rfl
@[simp] theorem modCore_updates (c : Nat) (f : Core → Core) : (modCore s c f).updates = s.updates := rfl
@[simp] theorem modCore_steps (c : Nat) (f : Core → Core) : (modCore s c f).steps = s.steps := rfl
@[simp] theorem modCore_tlb (c : Nat) (f : Core → Core) : (modCore s c f).tlb = s.tlb := rfl
@[simp] theorem modCore_contexts (c : Nat) (f : Core → Core) : (modCore s c f).contexts = s.contexts := rfl
@[simp] theorem modCore_graphs (c : Nat) (f : Core → Core) : (modCore s c f).graphs = s.graphs := rfl
@[simp] theorem modCore_saved (c : Nat) (f : Core → Core) : (modCore s c f).saved = s.saved := rfl
@[simp] theorem modCore_savedGroups (c : Nat) (f : Core → Core) : (modCore s c f).savedGroups = s.savedGroups := rfl
@[simp] theorem modCore_perDie (c : Nat) (f : Core → Core) : (modCore s c f).perDie = s.perDie := rfl
@[simp] theorem modCore_islands (c : Nat) (f : Core → Core) : (modCore s c f).islands = s.islands := rfl
@[simp] theorem modCore_dieLink (c : Nat) (f : Core → Core) : (modCore s c f).dieLink = s.dieLink := rfl
@[simp] theorem modCore_dieLinkLost (c : Nat) (f : Core → Core) : (modCore s c f).dieLinkLost = s.dieLinkLost := rfl
@[simp] theorem modCore_ports (c : Nat) (f : Core → Core) : (modCore s c f).ports = s.ports := rfl
@[simp] theorem modCore_inbox (c : Nat) (f : Core → Core) : (modCore s c f).inbox = s.inbox := rfl
@[simp] theorem modCore_outbox (c : Nat) (f : Core → Core) : (modCore s c f).outbox = s.outbox := rfl
@[simp] theorem modCore_remote (c : Nat) (f : Core → Core) : (modCore s c f).remote = s.remote := rfl
@[simp] theorem modCore_unitLines (c : Nat) (f : Core → Core) : (modCore s c f).unitLines = s.unitLines := rfl
@[simp] theorem modCore_overflow (c : Nat) (f : Core → Core) : (modCore s c f).overflow = s.overflow := rfl
@[simp] theorem modCore_overflowArea (c : Nat) (f : Core → Core) : (modCore s c f).overflowArea = s.overflowArea := rfl
@[simp] theorem modCore_overflowFull (c : Nat) (f : Core → Core) : (modCore s c f).overflowFull = s.overflowFull := rfl
@[simp] theorem modCore_routeTable (c : Nat) (f : Core → Core) : (modCore s c f).routeTable = s.routeTable := rfl
@[simp] theorem modCore_apertureTable (c : Nat) (f : Core → Core) : (modCore s c f).apertureTable = s.apertureTable := rfl
@[simp] theorem modCore_metadata (c : Nat) (f : Core → Core) : (modCore s c f).metadata = s.metadata := rfl
@[simp] theorem modCore_rings (c : Nat) (f : Core → Core) : (modCore s c f).rings = s.rings := rfl
@[simp] theorem modCore_errBase (c : Nat) (f : Core → Core) : (modCore s c f).errBase = s.errBase := rfl
@[simp] theorem modCore_errLog (c : Nat) (f : Core → Core) : (modCore s c f).errLog = s.errLog := rfl
@[simp] theorem modCore_errHead (c : Nat) (f : Core → Core) : (modCore s c f).errHead = s.errHead := rfl
@[simp] theorem modCore_errTail (c : Nat) (f : Core → Core) : (modCore s c f).errTail = s.errTail := rfl
@[simp] theorem modCore_errWaiting (c : Nat) (f : Core → Core) : (modCore s c f).errWaiting = s.errWaiting := rfl
@[simp] theorem modCore_errors (c : Nat) (f : Core → Core) : (modCore s c f).errors = s.errors := rfl
@[simp] theorem modCore_corrected (c : Nat) (f : Core → Core) : (modCore s c f).corrected = s.corrected := rfl
@[simp] theorem modCore_events (c : Nat) (f : Core → Core) : (modCore s c f).events = s.events := rfl
@[simp] theorem modCore_device (c : Nat) (f : Core → Core) : (modCore s c f).device = s.device := rfl
@[simp] theorem modCore_firmware (c : Nat) (f : Core → Core) : (modCore s c f).firmware = s.firmware := rfl
@[simp] theorem modCore_hostModules (c : Nat) (f : Core → Core) : (modCore s c f).hostModules = s.hostModules := rfl
@[simp] theorem modCore_fresh (c : Nat) (f : Core → Core) : (modCore s c f).fresh = s.fresh := rfl
@[simp] theorem modCore_free (c : Nat) (f : Core → Core) : (modCore s c f).free = s.free := rfl
@[simp] theorem modCore_now (c : Nat) (f : Core → Core) : (modCore s c f).now = s.now := rfl
@[simp] theorem modCore_turn (c : Nat) (f : Core → Core) : (modCore s c f).turn = s.turn := rfl
@[simp] theorem modCore_issuer (c : Nat) (f : Core → Core) : (modCore s c f).issuer = s.issuer := rfl
@[simp] theorem modCore_fetched (c : Nat) (f : Core → Core) : (modCore s c f).fetched = s.fetched := rfl
@[simp] theorem modCore_held (c : Nat) (f : Core → Core) : (modCore s c f).held = s.held := rfl

/-! ## `modCluster` -/

@[simp] theorem modCluster_dies (c : Nat) (f : Cluster → Cluster) : (modCluster s c f).dies = s.dies := rfl
@[simp] theorem modCluster_mem (c : Nat) (f : Cluster → Cluster) : (modCluster s c f).mem = s.mem := rfl
@[simp] theorem modCluster_warps (c : Nat) (f : Cluster → Cluster) : (modCluster s c f).warps = s.warps := rfl
@[simp] theorem modCluster_groups (c : Nat) (f : Cluster → Cluster) : (modCluster s c f).groups = s.groups := rfl
@[simp] theorem modCluster_cohorts (c : Nat) (f : Cluster → Cluster) : (modCluster s c f).cohorts = s.cohorts := rfl
@[simp] theorem modCluster_images (c : Nat) (f : Cluster → Cluster) : (modCluster s c f).images = s.images := rfl
@[simp] theorem modCluster_cores (c : Nat) (f : Cluster → Cluster) : (modCluster s c f).cores = s.cores := rfl
@[simp] theorem modCluster_clusters (c : Nat) (f : Cluster → Cluster) : (modCluster s c f).clusters = tput s.clusters c (f (tget s.clusters c default)) := rfl
@[simp] theorem modCluster_ops (c : Nat) (f : Cluster → Cluster) : (modCluster s c f).ops = s.ops := rfl
@[simp] theorem modCluster_reqs (c : Nat) (f : Cluster → Cluster) : (modCluster s c f).reqs = s.reqs := rfl
@[simp] theorem modCluster_homeLines (c : Nat) (f : Cluster → Cluster) : (modCluster s c f).homeLines = s.homeLines := rfl
@[simp] theorem modCluster_monitors (c : Nat) (f : Cluster → Cluster) : (modCluster s c f).monitors = s.monitors := rfl
@[simp] theorem modCluster_copies (c : Nat) (f : Cluster → Cluster) : (modCluster s c f).copies = s.copies := rfl
@[simp] theorem modCluster_invalidations (c : Nat) (f : Cluster → Cluster) : (modCluster s c f).invalidations = s.invalidations := rfl
@[simp] theorem modCluster_publish (c : Nat) (f : Cluster → Cluster) : (modCluster s c f).publish = s.publish := rfl
@[simp] theorem modCluster_updates (c : Nat) (f : Cluster → Cluster) : (modCluster s c f).updates = s.updates := rfl
@[simp] theorem modCluster_steps (c : Nat) (f : Cluster → Cluster) : (modCluster s c f).steps = s.steps := rfl
@[simp] theorem modCluster_tlb (c : Nat) (f : Cluster → Cluster) : (modCluster s c f).tlb = s.tlb := rfl
@[simp] theorem modCluster_contexts (c : Nat) (f : Cluster → Cluster) : (modCluster s c f).contexts = s.contexts := rfl
@[simp] theorem modCluster_graphs (c : Nat) (f : Cluster → Cluster) : (modCluster s c f).graphs = s.graphs := rfl
@[simp] theorem modCluster_saved (c : Nat) (f : Cluster → Cluster) : (modCluster s c f).saved = s.saved := rfl
@[simp] theorem modCluster_savedGroups (c : Nat) (f : Cluster → Cluster) : (modCluster s c f).savedGroups = s.savedGroups := rfl
@[simp] theorem modCluster_perDie (c : Nat) (f : Cluster → Cluster) : (modCluster s c f).perDie = s.perDie := rfl
@[simp] theorem modCluster_islands (c : Nat) (f : Cluster → Cluster) : (modCluster s c f).islands = s.islands := rfl
@[simp] theorem modCluster_dieLink (c : Nat) (f : Cluster → Cluster) : (modCluster s c f).dieLink = s.dieLink := rfl
@[simp] theorem modCluster_dieLinkLost (c : Nat) (f : Cluster → Cluster) : (modCluster s c f).dieLinkLost = s.dieLinkLost := rfl
@[simp] theorem modCluster_ports (c : Nat) (f : Cluster → Cluster) : (modCluster s c f).ports = s.ports := rfl
@[simp] theorem modCluster_inbox (c : Nat) (f : Cluster → Cluster) : (modCluster s c f).inbox = s.inbox := rfl
@[simp] theorem modCluster_outbox (c : Nat) (f : Cluster → Cluster) : (modCluster s c f).outbox = s.outbox := rfl
@[simp] theorem modCluster_remote (c : Nat) (f : Cluster → Cluster) : (modCluster s c f).remote = s.remote := rfl
@[simp] theorem modCluster_unitLines (c : Nat) (f : Cluster → Cluster) : (modCluster s c f).unitLines = s.unitLines := rfl
@[simp] theorem modCluster_overflow (c : Nat) (f : Cluster → Cluster) : (modCluster s c f).overflow = s.overflow := rfl
@[simp] theorem modCluster_overflowArea (c : Nat) (f : Cluster → Cluster) : (modCluster s c f).overflowArea = s.overflowArea := rfl
@[simp] theorem modCluster_overflowFull (c : Nat) (f : Cluster → Cluster) : (modCluster s c f).overflowFull = s.overflowFull := rfl
@[simp] theorem modCluster_routeTable (c : Nat) (f : Cluster → Cluster) : (modCluster s c f).routeTable = s.routeTable := rfl
@[simp] theorem modCluster_apertureTable (c : Nat) (f : Cluster → Cluster) : (modCluster s c f).apertureTable = s.apertureTable := rfl
@[simp] theorem modCluster_metadata (c : Nat) (f : Cluster → Cluster) : (modCluster s c f).metadata = s.metadata := rfl
@[simp] theorem modCluster_rings (c : Nat) (f : Cluster → Cluster) : (modCluster s c f).rings = s.rings := rfl
@[simp] theorem modCluster_errBase (c : Nat) (f : Cluster → Cluster) : (modCluster s c f).errBase = s.errBase := rfl
@[simp] theorem modCluster_errLog (c : Nat) (f : Cluster → Cluster) : (modCluster s c f).errLog = s.errLog := rfl
@[simp] theorem modCluster_errHead (c : Nat) (f : Cluster → Cluster) : (modCluster s c f).errHead = s.errHead := rfl
@[simp] theorem modCluster_errTail (c : Nat) (f : Cluster → Cluster) : (modCluster s c f).errTail = s.errTail := rfl
@[simp] theorem modCluster_errWaiting (c : Nat) (f : Cluster → Cluster) : (modCluster s c f).errWaiting = s.errWaiting := rfl
@[simp] theorem modCluster_errors (c : Nat) (f : Cluster → Cluster) : (modCluster s c f).errors = s.errors := rfl
@[simp] theorem modCluster_corrected (c : Nat) (f : Cluster → Cluster) : (modCluster s c f).corrected = s.corrected := rfl
@[simp] theorem modCluster_events (c : Nat) (f : Cluster → Cluster) : (modCluster s c f).events = s.events := rfl
@[simp] theorem modCluster_device (c : Nat) (f : Cluster → Cluster) : (modCluster s c f).device = s.device := rfl
@[simp] theorem modCluster_firmware (c : Nat) (f : Cluster → Cluster) : (modCluster s c f).firmware = s.firmware := rfl
@[simp] theorem modCluster_hostModules (c : Nat) (f : Cluster → Cluster) : (modCluster s c f).hostModules = s.hostModules := rfl
@[simp] theorem modCluster_fresh (c : Nat) (f : Cluster → Cluster) : (modCluster s c f).fresh = s.fresh := rfl
@[simp] theorem modCluster_free (c : Nat) (f : Cluster → Cluster) : (modCluster s c f).free = s.free := rfl
@[simp] theorem modCluster_now (c : Nat) (f : Cluster → Cluster) : (modCluster s c f).now = s.now := rfl
@[simp] theorem modCluster_turn (c : Nat) (f : Cluster → Cluster) : (modCluster s c f).turn = s.turn := rfl
@[simp] theorem modCluster_issuer (c : Nat) (f : Cluster → Cluster) : (modCluster s c f).issuer = s.issuer := rfl
@[simp] theorem modCluster_fetched (c : Nat) (f : Cluster → Cluster) : (modCluster s c f).fetched = s.fetched := rfl
@[simp] theorem modCluster_held (c : Nat) (f : Cluster → Cluster) : (modCluster s c f).held = s.held := rfl

/-! ## `modGroup` -/

@[simp] theorem modGroup_dies (g : Nat) (f : Group → Group) : (modGroup s g f).dies = s.dies := rfl
@[simp] theorem modGroup_mem (g : Nat) (f : Group → Group) : (modGroup s g f).mem = s.mem := rfl
@[simp] theorem modGroup_warps (g : Nat) (f : Group → Group) : (modGroup s g f).warps = s.warps := rfl
@[simp] theorem modGroup_groups (g : Nat) (f : Group → Group) : (modGroup s g f).groups = tmod s.groups g f := rfl
@[simp] theorem modGroup_cohorts (g : Nat) (f : Group → Group) : (modGroup s g f).cohorts = s.cohorts := rfl
@[simp] theorem modGroup_images (g : Nat) (f : Group → Group) : (modGroup s g f).images = s.images := rfl
@[simp] theorem modGroup_cores (g : Nat) (f : Group → Group) : (modGroup s g f).cores = s.cores := rfl
@[simp] theorem modGroup_clusters (g : Nat) (f : Group → Group) : (modGroup s g f).clusters = s.clusters := rfl
@[simp] theorem modGroup_ops (g : Nat) (f : Group → Group) : (modGroup s g f).ops = s.ops := rfl
@[simp] theorem modGroup_reqs (g : Nat) (f : Group → Group) : (modGroup s g f).reqs = s.reqs := rfl
@[simp] theorem modGroup_homeLines (g : Nat) (f : Group → Group) : (modGroup s g f).homeLines = s.homeLines := rfl
@[simp] theorem modGroup_monitors (g : Nat) (f : Group → Group) : (modGroup s g f).monitors = s.monitors := rfl
@[simp] theorem modGroup_copies (g : Nat) (f : Group → Group) : (modGroup s g f).copies = s.copies := rfl
@[simp] theorem modGroup_invalidations (g : Nat) (f : Group → Group) : (modGroup s g f).invalidations = s.invalidations := rfl
@[simp] theorem modGroup_publish (g : Nat) (f : Group → Group) : (modGroup s g f).publish = s.publish := rfl
@[simp] theorem modGroup_updates (g : Nat) (f : Group → Group) : (modGroup s g f).updates = s.updates := rfl
@[simp] theorem modGroup_steps (g : Nat) (f : Group → Group) : (modGroup s g f).steps = s.steps := rfl
@[simp] theorem modGroup_tlb (g : Nat) (f : Group → Group) : (modGroup s g f).tlb = s.tlb := rfl
@[simp] theorem modGroup_contexts (g : Nat) (f : Group → Group) : (modGroup s g f).contexts = s.contexts := rfl
@[simp] theorem modGroup_graphs (g : Nat) (f : Group → Group) : (modGroup s g f).graphs = s.graphs := rfl
@[simp] theorem modGroup_saved (g : Nat) (f : Group → Group) : (modGroup s g f).saved = s.saved := rfl
@[simp] theorem modGroup_savedGroups (g : Nat) (f : Group → Group) : (modGroup s g f).savedGroups = s.savedGroups := rfl
@[simp] theorem modGroup_perDie (g : Nat) (f : Group → Group) : (modGroup s g f).perDie = s.perDie := rfl
@[simp] theorem modGroup_islands (g : Nat) (f : Group → Group) : (modGroup s g f).islands = s.islands := rfl
@[simp] theorem modGroup_dieLink (g : Nat) (f : Group → Group) : (modGroup s g f).dieLink = s.dieLink := rfl
@[simp] theorem modGroup_dieLinkLost (g : Nat) (f : Group → Group) : (modGroup s g f).dieLinkLost = s.dieLinkLost := rfl
@[simp] theorem modGroup_ports (g : Nat) (f : Group → Group) : (modGroup s g f).ports = s.ports := rfl
@[simp] theorem modGroup_inbox (g : Nat) (f : Group → Group) : (modGroup s g f).inbox = s.inbox := rfl
@[simp] theorem modGroup_outbox (g : Nat) (f : Group → Group) : (modGroup s g f).outbox = s.outbox := rfl
@[simp] theorem modGroup_remote (g : Nat) (f : Group → Group) : (modGroup s g f).remote = s.remote := rfl
@[simp] theorem modGroup_unitLines (g : Nat) (f : Group → Group) : (modGroup s g f).unitLines = s.unitLines := rfl
@[simp] theorem modGroup_overflow (g : Nat) (f : Group → Group) : (modGroup s g f).overflow = s.overflow := rfl
@[simp] theorem modGroup_overflowArea (g : Nat) (f : Group → Group) : (modGroup s g f).overflowArea = s.overflowArea := rfl
@[simp] theorem modGroup_overflowFull (g : Nat) (f : Group → Group) : (modGroup s g f).overflowFull = s.overflowFull := rfl
@[simp] theorem modGroup_routeTable (g : Nat) (f : Group → Group) : (modGroup s g f).routeTable = s.routeTable := rfl
@[simp] theorem modGroup_apertureTable (g : Nat) (f : Group → Group) : (modGroup s g f).apertureTable = s.apertureTable := rfl
@[simp] theorem modGroup_metadata (g : Nat) (f : Group → Group) : (modGroup s g f).metadata = s.metadata := rfl
@[simp] theorem modGroup_rings (g : Nat) (f : Group → Group) : (modGroup s g f).rings = s.rings := rfl
@[simp] theorem modGroup_errBase (g : Nat) (f : Group → Group) : (modGroup s g f).errBase = s.errBase := rfl
@[simp] theorem modGroup_errLog (g : Nat) (f : Group → Group) : (modGroup s g f).errLog = s.errLog := rfl
@[simp] theorem modGroup_errHead (g : Nat) (f : Group → Group) : (modGroup s g f).errHead = s.errHead := rfl
@[simp] theorem modGroup_errTail (g : Nat) (f : Group → Group) : (modGroup s g f).errTail = s.errTail := rfl
@[simp] theorem modGroup_errWaiting (g : Nat) (f : Group → Group) : (modGroup s g f).errWaiting = s.errWaiting := rfl
@[simp] theorem modGroup_errors (g : Nat) (f : Group → Group) : (modGroup s g f).errors = s.errors := rfl
@[simp] theorem modGroup_corrected (g : Nat) (f : Group → Group) : (modGroup s g f).corrected = s.corrected := rfl
@[simp] theorem modGroup_events (g : Nat) (f : Group → Group) : (modGroup s g f).events = s.events := rfl
@[simp] theorem modGroup_device (g : Nat) (f : Group → Group) : (modGroup s g f).device = s.device := rfl
@[simp] theorem modGroup_firmware (g : Nat) (f : Group → Group) : (modGroup s g f).firmware = s.firmware := rfl
@[simp] theorem modGroup_hostModules (g : Nat) (f : Group → Group) : (modGroup s g f).hostModules = s.hostModules := rfl
@[simp] theorem modGroup_fresh (g : Nat) (f : Group → Group) : (modGroup s g f).fresh = s.fresh := rfl
@[simp] theorem modGroup_free (g : Nat) (f : Group → Group) : (modGroup s g f).free = s.free := rfl
@[simp] theorem modGroup_now (g : Nat) (f : Group → Group) : (modGroup s g f).now = s.now := rfl
@[simp] theorem modGroup_turn (g : Nat) (f : Group → Group) : (modGroup s g f).turn = s.turn := rfl
@[simp] theorem modGroup_issuer (g : Nat) (f : Group → Group) : (modGroup s g f).issuer = s.issuer := rfl
@[simp] theorem modGroup_fetched (g : Nat) (f : Group → Group) : (modGroup s g f).fetched = s.fetched := rfl
@[simp] theorem modGroup_held (g : Nat) (f : Group → Group) : (modGroup s g f).held = s.held := rfl

/-! ## `modCohort` -/

@[simp] theorem modCohort_dies (c : Nat) (f : Cohort → Cohort) : (modCohort s c f).dies = s.dies := rfl
@[simp] theorem modCohort_mem (c : Nat) (f : Cohort → Cohort) : (modCohort s c f).mem = s.mem := rfl
@[simp] theorem modCohort_warps (c : Nat) (f : Cohort → Cohort) : (modCohort s c f).warps = s.warps := rfl
@[simp] theorem modCohort_groups (c : Nat) (f : Cohort → Cohort) : (modCohort s c f).groups = s.groups := rfl
@[simp] theorem modCohort_cohorts (c : Nat) (f : Cohort → Cohort) : (modCohort s c f).cohorts = tmod s.cohorts c f := rfl
@[simp] theorem modCohort_images (c : Nat) (f : Cohort → Cohort) : (modCohort s c f).images = s.images := rfl
@[simp] theorem modCohort_cores (c : Nat) (f : Cohort → Cohort) : (modCohort s c f).cores = s.cores := rfl
@[simp] theorem modCohort_clusters (c : Nat) (f : Cohort → Cohort) : (modCohort s c f).clusters = s.clusters := rfl
@[simp] theorem modCohort_ops (c : Nat) (f : Cohort → Cohort) : (modCohort s c f).ops = s.ops := rfl
@[simp] theorem modCohort_reqs (c : Nat) (f : Cohort → Cohort) : (modCohort s c f).reqs = s.reqs := rfl
@[simp] theorem modCohort_homeLines (c : Nat) (f : Cohort → Cohort) : (modCohort s c f).homeLines = s.homeLines := rfl
@[simp] theorem modCohort_monitors (c : Nat) (f : Cohort → Cohort) : (modCohort s c f).monitors = s.monitors := rfl
@[simp] theorem modCohort_copies (c : Nat) (f : Cohort → Cohort) : (modCohort s c f).copies = s.copies := rfl
@[simp] theorem modCohort_invalidations (c : Nat) (f : Cohort → Cohort) : (modCohort s c f).invalidations = s.invalidations := rfl
@[simp] theorem modCohort_publish (c : Nat) (f : Cohort → Cohort) : (modCohort s c f).publish = s.publish := rfl
@[simp] theorem modCohort_updates (c : Nat) (f : Cohort → Cohort) : (modCohort s c f).updates = s.updates := rfl
@[simp] theorem modCohort_steps (c : Nat) (f : Cohort → Cohort) : (modCohort s c f).steps = s.steps := rfl
@[simp] theorem modCohort_tlb (c : Nat) (f : Cohort → Cohort) : (modCohort s c f).tlb = s.tlb := rfl
@[simp] theorem modCohort_contexts (c : Nat) (f : Cohort → Cohort) : (modCohort s c f).contexts = s.contexts := rfl
@[simp] theorem modCohort_graphs (c : Nat) (f : Cohort → Cohort) : (modCohort s c f).graphs = s.graphs := rfl
@[simp] theorem modCohort_saved (c : Nat) (f : Cohort → Cohort) : (modCohort s c f).saved = s.saved := rfl
@[simp] theorem modCohort_savedGroups (c : Nat) (f : Cohort → Cohort) : (modCohort s c f).savedGroups = s.savedGroups := rfl
@[simp] theorem modCohort_perDie (c : Nat) (f : Cohort → Cohort) : (modCohort s c f).perDie = s.perDie := rfl
@[simp] theorem modCohort_islands (c : Nat) (f : Cohort → Cohort) : (modCohort s c f).islands = s.islands := rfl
@[simp] theorem modCohort_dieLink (c : Nat) (f : Cohort → Cohort) : (modCohort s c f).dieLink = s.dieLink := rfl
@[simp] theorem modCohort_dieLinkLost (c : Nat) (f : Cohort → Cohort) : (modCohort s c f).dieLinkLost = s.dieLinkLost := rfl
@[simp] theorem modCohort_ports (c : Nat) (f : Cohort → Cohort) : (modCohort s c f).ports = s.ports := rfl
@[simp] theorem modCohort_inbox (c : Nat) (f : Cohort → Cohort) : (modCohort s c f).inbox = s.inbox := rfl
@[simp] theorem modCohort_outbox (c : Nat) (f : Cohort → Cohort) : (modCohort s c f).outbox = s.outbox := rfl
@[simp] theorem modCohort_remote (c : Nat) (f : Cohort → Cohort) : (modCohort s c f).remote = s.remote := rfl
@[simp] theorem modCohort_unitLines (c : Nat) (f : Cohort → Cohort) : (modCohort s c f).unitLines = s.unitLines := rfl
@[simp] theorem modCohort_overflow (c : Nat) (f : Cohort → Cohort) : (modCohort s c f).overflow = s.overflow := rfl
@[simp] theorem modCohort_overflowArea (c : Nat) (f : Cohort → Cohort) : (modCohort s c f).overflowArea = s.overflowArea := rfl
@[simp] theorem modCohort_overflowFull (c : Nat) (f : Cohort → Cohort) : (modCohort s c f).overflowFull = s.overflowFull := rfl
@[simp] theorem modCohort_routeTable (c : Nat) (f : Cohort → Cohort) : (modCohort s c f).routeTable = s.routeTable := rfl
@[simp] theorem modCohort_apertureTable (c : Nat) (f : Cohort → Cohort) : (modCohort s c f).apertureTable = s.apertureTable := rfl
@[simp] theorem modCohort_metadata (c : Nat) (f : Cohort → Cohort) : (modCohort s c f).metadata = s.metadata := rfl
@[simp] theorem modCohort_rings (c : Nat) (f : Cohort → Cohort) : (modCohort s c f).rings = s.rings := rfl
@[simp] theorem modCohort_errBase (c : Nat) (f : Cohort → Cohort) : (modCohort s c f).errBase = s.errBase := rfl
@[simp] theorem modCohort_errLog (c : Nat) (f : Cohort → Cohort) : (modCohort s c f).errLog = s.errLog := rfl
@[simp] theorem modCohort_errHead (c : Nat) (f : Cohort → Cohort) : (modCohort s c f).errHead = s.errHead := rfl
@[simp] theorem modCohort_errTail (c : Nat) (f : Cohort → Cohort) : (modCohort s c f).errTail = s.errTail := rfl
@[simp] theorem modCohort_errWaiting (c : Nat) (f : Cohort → Cohort) : (modCohort s c f).errWaiting = s.errWaiting := rfl
@[simp] theorem modCohort_errors (c : Nat) (f : Cohort → Cohort) : (modCohort s c f).errors = s.errors := rfl
@[simp] theorem modCohort_corrected (c : Nat) (f : Cohort → Cohort) : (modCohort s c f).corrected = s.corrected := rfl
@[simp] theorem modCohort_events (c : Nat) (f : Cohort → Cohort) : (modCohort s c f).events = s.events := rfl
@[simp] theorem modCohort_device (c : Nat) (f : Cohort → Cohort) : (modCohort s c f).device = s.device := rfl
@[simp] theorem modCohort_firmware (c : Nat) (f : Cohort → Cohort) : (modCohort s c f).firmware = s.firmware := rfl
@[simp] theorem modCohort_hostModules (c : Nat) (f : Cohort → Cohort) : (modCohort s c f).hostModules = s.hostModules := rfl
@[simp] theorem modCohort_fresh (c : Nat) (f : Cohort → Cohort) : (modCohort s c f).fresh = s.fresh := rfl
@[simp] theorem modCohort_free (c : Nat) (f : Cohort → Cohort) : (modCohort s c f).free = s.free := rfl
@[simp] theorem modCohort_now (c : Nat) (f : Cohort → Cohort) : (modCohort s c f).now = s.now := rfl
@[simp] theorem modCohort_turn (c : Nat) (f : Cohort → Cohort) : (modCohort s c f).turn = s.turn := rfl
@[simp] theorem modCohort_issuer (c : Nat) (f : Cohort → Cohort) : (modCohort s c f).issuer = s.issuer := rfl
@[simp] theorem modCohort_fetched (c : Nat) (f : Cohort → Cohort) : (modCohort s c f).fetched = s.fetched := rfl
@[simp] theorem modCohort_held (c : Nat) (f : Cohort → Cohort) : (modCohort s c f).held = s.held := rfl

/-! ## `modCtx` -/

@[simp] theorem modCtx_dies (c : Nat) (f : Context → Context) : (modCtx s c f).dies = s.dies := rfl
@[simp] theorem modCtx_mem (c : Nat) (f : Context → Context) : (modCtx s c f).mem = s.mem := rfl
@[simp] theorem modCtx_warps (c : Nat) (f : Context → Context) : (modCtx s c f).warps = s.warps := rfl
@[simp] theorem modCtx_groups (c : Nat) (f : Context → Context) : (modCtx s c f).groups = s.groups := rfl
@[simp] theorem modCtx_cohorts (c : Nat) (f : Context → Context) : (modCtx s c f).cohorts = s.cohorts := rfl
@[simp] theorem modCtx_images (c : Nat) (f : Context → Context) : (modCtx s c f).images = s.images := rfl
@[simp] theorem modCtx_cores (c : Nat) (f : Context → Context) : (modCtx s c f).cores = s.cores := rfl
@[simp] theorem modCtx_clusters (c : Nat) (f : Context → Context) : (modCtx s c f).clusters = s.clusters := rfl
@[simp] theorem modCtx_ops (c : Nat) (f : Context → Context) : (modCtx s c f).ops = s.ops := rfl
@[simp] theorem modCtx_reqs (c : Nat) (f : Context → Context) : (modCtx s c f).reqs = s.reqs := rfl
@[simp] theorem modCtx_homeLines (c : Nat) (f : Context → Context) : (modCtx s c f).homeLines = s.homeLines := rfl
@[simp] theorem modCtx_monitors (c : Nat) (f : Context → Context) : (modCtx s c f).monitors = s.monitors := rfl
@[simp] theorem modCtx_copies (c : Nat) (f : Context → Context) : (modCtx s c f).copies = s.copies := rfl
@[simp] theorem modCtx_invalidations (c : Nat) (f : Context → Context) : (modCtx s c f).invalidations = s.invalidations := rfl
@[simp] theorem modCtx_publish (c : Nat) (f : Context → Context) : (modCtx s c f).publish = s.publish := rfl
@[simp] theorem modCtx_updates (c : Nat) (f : Context → Context) : (modCtx s c f).updates = s.updates := rfl
@[simp] theorem modCtx_steps (c : Nat) (f : Context → Context) : (modCtx s c f).steps = s.steps := rfl
@[simp] theorem modCtx_tlb (c : Nat) (f : Context → Context) : (modCtx s c f).tlb = s.tlb := rfl
@[simp] theorem modCtx_contexts (c : Nat) (f : Context → Context) : (modCtx s c f).contexts = tmod s.contexts c f := rfl
@[simp] theorem modCtx_graphs (c : Nat) (f : Context → Context) : (modCtx s c f).graphs = s.graphs := rfl
@[simp] theorem modCtx_saved (c : Nat) (f : Context → Context) : (modCtx s c f).saved = s.saved := rfl
@[simp] theorem modCtx_savedGroups (c : Nat) (f : Context → Context) : (modCtx s c f).savedGroups = s.savedGroups := rfl
@[simp] theorem modCtx_perDie (c : Nat) (f : Context → Context) : (modCtx s c f).perDie = s.perDie := rfl
@[simp] theorem modCtx_islands (c : Nat) (f : Context → Context) : (modCtx s c f).islands = s.islands := rfl
@[simp] theorem modCtx_dieLink (c : Nat) (f : Context → Context) : (modCtx s c f).dieLink = s.dieLink := rfl
@[simp] theorem modCtx_dieLinkLost (c : Nat) (f : Context → Context) : (modCtx s c f).dieLinkLost = s.dieLinkLost := rfl
@[simp] theorem modCtx_ports (c : Nat) (f : Context → Context) : (modCtx s c f).ports = s.ports := rfl
@[simp] theorem modCtx_inbox (c : Nat) (f : Context → Context) : (modCtx s c f).inbox = s.inbox := rfl
@[simp] theorem modCtx_outbox (c : Nat) (f : Context → Context) : (modCtx s c f).outbox = s.outbox := rfl
@[simp] theorem modCtx_remote (c : Nat) (f : Context → Context) : (modCtx s c f).remote = s.remote := rfl
@[simp] theorem modCtx_unitLines (c : Nat) (f : Context → Context) : (modCtx s c f).unitLines = s.unitLines := rfl
@[simp] theorem modCtx_overflow (c : Nat) (f : Context → Context) : (modCtx s c f).overflow = s.overflow := rfl
@[simp] theorem modCtx_overflowArea (c : Nat) (f : Context → Context) : (modCtx s c f).overflowArea = s.overflowArea := rfl
@[simp] theorem modCtx_overflowFull (c : Nat) (f : Context → Context) : (modCtx s c f).overflowFull = s.overflowFull := rfl
@[simp] theorem modCtx_routeTable (c : Nat) (f : Context → Context) : (modCtx s c f).routeTable = s.routeTable := rfl
@[simp] theorem modCtx_apertureTable (c : Nat) (f : Context → Context) : (modCtx s c f).apertureTable = s.apertureTable := rfl
@[simp] theorem modCtx_metadata (c : Nat) (f : Context → Context) : (modCtx s c f).metadata = s.metadata := rfl
@[simp] theorem modCtx_rings (c : Nat) (f : Context → Context) : (modCtx s c f).rings = s.rings := rfl
@[simp] theorem modCtx_errBase (c : Nat) (f : Context → Context) : (modCtx s c f).errBase = s.errBase := rfl
@[simp] theorem modCtx_errLog (c : Nat) (f : Context → Context) : (modCtx s c f).errLog = s.errLog := rfl
@[simp] theorem modCtx_errHead (c : Nat) (f : Context → Context) : (modCtx s c f).errHead = s.errHead := rfl
@[simp] theorem modCtx_errTail (c : Nat) (f : Context → Context) : (modCtx s c f).errTail = s.errTail := rfl
@[simp] theorem modCtx_errWaiting (c : Nat) (f : Context → Context) : (modCtx s c f).errWaiting = s.errWaiting := rfl
@[simp] theorem modCtx_errors (c : Nat) (f : Context → Context) : (modCtx s c f).errors = s.errors := rfl
@[simp] theorem modCtx_corrected (c : Nat) (f : Context → Context) : (modCtx s c f).corrected = s.corrected := rfl
@[simp] theorem modCtx_events (c : Nat) (f : Context → Context) : (modCtx s c f).events = s.events := rfl
@[simp] theorem modCtx_device (c : Nat) (f : Context → Context) : (modCtx s c f).device = s.device := rfl
@[simp] theorem modCtx_firmware (c : Nat) (f : Context → Context) : (modCtx s c f).firmware = s.firmware := rfl
@[simp] theorem modCtx_hostModules (c : Nat) (f : Context → Context) : (modCtx s c f).hostModules = s.hostModules := rfl
@[simp] theorem modCtx_fresh (c : Nat) (f : Context → Context) : (modCtx s c f).fresh = s.fresh := rfl
@[simp] theorem modCtx_free (c : Nat) (f : Context → Context) : (modCtx s c f).free = s.free := rfl
@[simp] theorem modCtx_now (c : Nat) (f : Context → Context) : (modCtx s c f).now = s.now := rfl
@[simp] theorem modCtx_turn (c : Nat) (f : Context → Context) : (modCtx s c f).turn = s.turn := rfl
@[simp] theorem modCtx_issuer (c : Nat) (f : Context → Context) : (modCtx s c f).issuer = s.issuer := rfl
@[simp] theorem modCtx_fetched (c : Nat) (f : Context → Context) : (modCtx s c f).fetched = s.fetched := rfl
@[simp] theorem modCtx_held (c : Nat) (f : Context → Context) : (modCtx s c f).held = s.held := rfl

/-! ## `modOp` -/

@[simp] theorem modOp_dies (o : Nat) (f : Op → Op) : (modOp s o f).dies = s.dies := rfl
@[simp] theorem modOp_mem (o : Nat) (f : Op → Op) : (modOp s o f).mem = s.mem := rfl
@[simp] theorem modOp_warps (o : Nat) (f : Op → Op) : (modOp s o f).warps = s.warps := rfl
@[simp] theorem modOp_groups (o : Nat) (f : Op → Op) : (modOp s o f).groups = s.groups := rfl
@[simp] theorem modOp_cohorts (o : Nat) (f : Op → Op) : (modOp s o f).cohorts = s.cohorts := rfl
@[simp] theorem modOp_images (o : Nat) (f : Op → Op) : (modOp s o f).images = s.images := rfl
@[simp] theorem modOp_cores (o : Nat) (f : Op → Op) : (modOp s o f).cores = s.cores := rfl
@[simp] theorem modOp_clusters (o : Nat) (f : Op → Op) : (modOp s o f).clusters = s.clusters := rfl
@[simp] theorem modOp_ops (o : Nat) (f : Op → Op) : (modOp s o f).ops = tmod s.ops o f := rfl
@[simp] theorem modOp_reqs (o : Nat) (f : Op → Op) : (modOp s o f).reqs = s.reqs := rfl
@[simp] theorem modOp_homeLines (o : Nat) (f : Op → Op) : (modOp s o f).homeLines = s.homeLines := rfl
@[simp] theorem modOp_monitors (o : Nat) (f : Op → Op) : (modOp s o f).monitors = s.monitors := rfl
@[simp] theorem modOp_copies (o : Nat) (f : Op → Op) : (modOp s o f).copies = s.copies := rfl
@[simp] theorem modOp_invalidations (o : Nat) (f : Op → Op) : (modOp s o f).invalidations = s.invalidations := rfl
@[simp] theorem modOp_publish (o : Nat) (f : Op → Op) : (modOp s o f).publish = s.publish := rfl
@[simp] theorem modOp_updates (o : Nat) (f : Op → Op) : (modOp s o f).updates = s.updates := rfl
@[simp] theorem modOp_steps (o : Nat) (f : Op → Op) : (modOp s o f).steps = s.steps := rfl
@[simp] theorem modOp_tlb (o : Nat) (f : Op → Op) : (modOp s o f).tlb = s.tlb := rfl
@[simp] theorem modOp_contexts (o : Nat) (f : Op → Op) : (modOp s o f).contexts = s.contexts := rfl
@[simp] theorem modOp_graphs (o : Nat) (f : Op → Op) : (modOp s o f).graphs = s.graphs := rfl
@[simp] theorem modOp_saved (o : Nat) (f : Op → Op) : (modOp s o f).saved = s.saved := rfl
@[simp] theorem modOp_savedGroups (o : Nat) (f : Op → Op) : (modOp s o f).savedGroups = s.savedGroups := rfl
@[simp] theorem modOp_perDie (o : Nat) (f : Op → Op) : (modOp s o f).perDie = s.perDie := rfl
@[simp] theorem modOp_islands (o : Nat) (f : Op → Op) : (modOp s o f).islands = s.islands := rfl
@[simp] theorem modOp_dieLink (o : Nat) (f : Op → Op) : (modOp s o f).dieLink = s.dieLink := rfl
@[simp] theorem modOp_dieLinkLost (o : Nat) (f : Op → Op) : (modOp s o f).dieLinkLost = s.dieLinkLost := rfl
@[simp] theorem modOp_ports (o : Nat) (f : Op → Op) : (modOp s o f).ports = s.ports := rfl
@[simp] theorem modOp_inbox (o : Nat) (f : Op → Op) : (modOp s o f).inbox = s.inbox := rfl
@[simp] theorem modOp_outbox (o : Nat) (f : Op → Op) : (modOp s o f).outbox = s.outbox := rfl
@[simp] theorem modOp_remote (o : Nat) (f : Op → Op) : (modOp s o f).remote = s.remote := rfl
@[simp] theorem modOp_unitLines (o : Nat) (f : Op → Op) : (modOp s o f).unitLines = s.unitLines := rfl
@[simp] theorem modOp_overflow (o : Nat) (f : Op → Op) : (modOp s o f).overflow = s.overflow := rfl
@[simp] theorem modOp_overflowArea (o : Nat) (f : Op → Op) : (modOp s o f).overflowArea = s.overflowArea := rfl
@[simp] theorem modOp_overflowFull (o : Nat) (f : Op → Op) : (modOp s o f).overflowFull = s.overflowFull := rfl
@[simp] theorem modOp_routeTable (o : Nat) (f : Op → Op) : (modOp s o f).routeTable = s.routeTable := rfl
@[simp] theorem modOp_apertureTable (o : Nat) (f : Op → Op) : (modOp s o f).apertureTable = s.apertureTable := rfl
@[simp] theorem modOp_metadata (o : Nat) (f : Op → Op) : (modOp s o f).metadata = s.metadata := rfl
@[simp] theorem modOp_rings (o : Nat) (f : Op → Op) : (modOp s o f).rings = s.rings := rfl
@[simp] theorem modOp_errBase (o : Nat) (f : Op → Op) : (modOp s o f).errBase = s.errBase := rfl
@[simp] theorem modOp_errLog (o : Nat) (f : Op → Op) : (modOp s o f).errLog = s.errLog := rfl
@[simp] theorem modOp_errHead (o : Nat) (f : Op → Op) : (modOp s o f).errHead = s.errHead := rfl
@[simp] theorem modOp_errTail (o : Nat) (f : Op → Op) : (modOp s o f).errTail = s.errTail := rfl
@[simp] theorem modOp_errWaiting (o : Nat) (f : Op → Op) : (modOp s o f).errWaiting = s.errWaiting := rfl
@[simp] theorem modOp_errors (o : Nat) (f : Op → Op) : (modOp s o f).errors = s.errors := rfl
@[simp] theorem modOp_corrected (o : Nat) (f : Op → Op) : (modOp s o f).corrected = s.corrected := rfl
@[simp] theorem modOp_events (o : Nat) (f : Op → Op) : (modOp s o f).events = s.events := rfl
@[simp] theorem modOp_device (o : Nat) (f : Op → Op) : (modOp s o f).device = s.device := rfl
@[simp] theorem modOp_firmware (o : Nat) (f : Op → Op) : (modOp s o f).firmware = s.firmware := rfl
@[simp] theorem modOp_hostModules (o : Nat) (f : Op → Op) : (modOp s o f).hostModules = s.hostModules := rfl
@[simp] theorem modOp_fresh (o : Nat) (f : Op → Op) : (modOp s o f).fresh = s.fresh := rfl
@[simp] theorem modOp_free (o : Nat) (f : Op → Op) : (modOp s o f).free = s.free := rfl
@[simp] theorem modOp_now (o : Nat) (f : Op → Op) : (modOp s o f).now = s.now := rfl
@[simp] theorem modOp_turn (o : Nat) (f : Op → Op) : (modOp s o f).turn = s.turn := rfl
@[simp] theorem modOp_issuer (o : Nat) (f : Op → Op) : (modOp s o f).issuer = s.issuer := rfl
@[simp] theorem modOp_fetched (o : Nat) (f : Op → Op) : (modOp s o f).fetched = s.fetched := rfl
@[simp] theorem modOp_held (o : Nat) (f : Op → Op) : (modOp s o f).held = s.held := rfl

/-! ## `newId` -/

@[simp] theorem newId_dies : ((newId s).2).dies = s.dies := rfl
@[simp] theorem newId_mem : ((newId s).2).mem = s.mem := rfl
@[simp] theorem newId_warps : ((newId s).2).warps = s.warps := rfl
@[simp] theorem newId_groups : ((newId s).2).groups = s.groups := rfl
@[simp] theorem newId_cohorts : ((newId s).2).cohorts = s.cohorts := rfl
@[simp] theorem newId_images : ((newId s).2).images = s.images := rfl
@[simp] theorem newId_cores : ((newId s).2).cores = s.cores := rfl
@[simp] theorem newId_clusters : ((newId s).2).clusters = s.clusters := rfl
@[simp] theorem newId_ops : ((newId s).2).ops = s.ops := rfl
@[simp] theorem newId_reqs : ((newId s).2).reqs = s.reqs := rfl
@[simp] theorem newId_homeLines : ((newId s).2).homeLines = s.homeLines := rfl
@[simp] theorem newId_monitors : ((newId s).2).monitors = s.monitors := rfl
@[simp] theorem newId_copies : ((newId s).2).copies = s.copies := rfl
@[simp] theorem newId_invalidations : ((newId s).2).invalidations = s.invalidations := rfl
@[simp] theorem newId_publish : ((newId s).2).publish = s.publish := rfl
@[simp] theorem newId_updates : ((newId s).2).updates = s.updates := rfl
@[simp] theorem newId_steps : ((newId s).2).steps = s.steps := rfl
@[simp] theorem newId_tlb : ((newId s).2).tlb = s.tlb := rfl
@[simp] theorem newId_contexts : ((newId s).2).contexts = s.contexts := rfl
@[simp] theorem newId_graphs : ((newId s).2).graphs = s.graphs := rfl
@[simp] theorem newId_saved : ((newId s).2).saved = s.saved := rfl
@[simp] theorem newId_savedGroups : ((newId s).2).savedGroups = s.savedGroups := rfl
@[simp] theorem newId_perDie : ((newId s).2).perDie = s.perDie := rfl
@[simp] theorem newId_islands : ((newId s).2).islands = s.islands := rfl
@[simp] theorem newId_dieLink : ((newId s).2).dieLink = s.dieLink := rfl
@[simp] theorem newId_dieLinkLost : ((newId s).2).dieLinkLost = s.dieLinkLost := rfl
@[simp] theorem newId_ports : ((newId s).2).ports = s.ports := rfl
@[simp] theorem newId_inbox : ((newId s).2).inbox = s.inbox := rfl
@[simp] theorem newId_outbox : ((newId s).2).outbox = s.outbox := rfl
@[simp] theorem newId_remote : ((newId s).2).remote = s.remote := rfl
@[simp] theorem newId_unitLines : ((newId s).2).unitLines = s.unitLines := rfl
@[simp] theorem newId_overflow : ((newId s).2).overflow = s.overflow := rfl
@[simp] theorem newId_overflowArea : ((newId s).2).overflowArea = s.overflowArea := rfl
@[simp] theorem newId_overflowFull : ((newId s).2).overflowFull = s.overflowFull := rfl
@[simp] theorem newId_routeTable : ((newId s).2).routeTable = s.routeTable := rfl
@[simp] theorem newId_apertureTable : ((newId s).2).apertureTable = s.apertureTable := rfl
@[simp] theorem newId_metadata : ((newId s).2).metadata = s.metadata := rfl
@[simp] theorem newId_rings : ((newId s).2).rings = s.rings := rfl
@[simp] theorem newId_errBase : ((newId s).2).errBase = s.errBase := rfl
@[simp] theorem newId_errLog : ((newId s).2).errLog = s.errLog := rfl
@[simp] theorem newId_errHead : ((newId s).2).errHead = s.errHead := rfl
@[simp] theorem newId_errTail : ((newId s).2).errTail = s.errTail := rfl
@[simp] theorem newId_errWaiting : ((newId s).2).errWaiting = s.errWaiting := rfl
@[simp] theorem newId_errors : ((newId s).2).errors = s.errors := rfl
@[simp] theorem newId_corrected : ((newId s).2).corrected = s.corrected := rfl
@[simp] theorem newId_events : ((newId s).2).events = s.events := rfl
@[simp] theorem newId_device : ((newId s).2).device = s.device := rfl
@[simp] theorem newId_firmware : ((newId s).2).firmware = s.firmware := rfl
@[simp] theorem newId_hostModules : ((newId s).2).hostModules = s.hostModules := rfl
@[simp] theorem newId_fresh : ((newId s).2).fresh = s.fresh + 1 := rfl
@[simp] theorem newId_free : ((newId s).2).free = s.free := rfl
@[simp] theorem newId_now : ((newId s).2).now = s.now := rfl
@[simp] theorem newId_turn : ((newId s).2).turn = s.turn := rfl
@[simp] theorem newId_issuer : ((newId s).2).issuer = s.issuer := rfl
@[simp] theorem newId_fetched : ((newId s).2).fetched = s.fetched := rfl
@[simp] theorem newId_held : ((newId s).2).held = s.held := rfl

/-! ## `draw` -/

@[simp] theorem draw_dies : ((draw s).2).dies = s.dies := rfl
@[simp] theorem draw_mem : ((draw s).2).mem = s.mem := rfl
@[simp] theorem draw_warps : ((draw s).2).warps = s.warps := rfl
@[simp] theorem draw_groups : ((draw s).2).groups = s.groups := rfl
@[simp] theorem draw_cohorts : ((draw s).2).cohorts = s.cohorts := rfl
@[simp] theorem draw_images : ((draw s).2).images = s.images := rfl
@[simp] theorem draw_cores : ((draw s).2).cores = s.cores := rfl
@[simp] theorem draw_clusters : ((draw s).2).clusters = s.clusters := rfl
@[simp] theorem draw_ops : ((draw s).2).ops = s.ops := rfl
@[simp] theorem draw_reqs : ((draw s).2).reqs = s.reqs := rfl
@[simp] theorem draw_homeLines : ((draw s).2).homeLines = s.homeLines := rfl
@[simp] theorem draw_monitors : ((draw s).2).monitors = s.monitors := rfl
@[simp] theorem draw_copies : ((draw s).2).copies = s.copies := rfl
@[simp] theorem draw_invalidations : ((draw s).2).invalidations = s.invalidations := rfl
@[simp] theorem draw_publish : ((draw s).2).publish = s.publish := rfl
@[simp] theorem draw_updates : ((draw s).2).updates = s.updates := rfl
@[simp] theorem draw_steps : ((draw s).2).steps = s.steps := rfl
@[simp] theorem draw_tlb : ((draw s).2).tlb = s.tlb := rfl
@[simp] theorem draw_contexts : ((draw s).2).contexts = s.contexts := rfl
@[simp] theorem draw_graphs : ((draw s).2).graphs = s.graphs := rfl
@[simp] theorem draw_saved : ((draw s).2).saved = s.saved := rfl
@[simp] theorem draw_savedGroups : ((draw s).2).savedGroups = s.savedGroups := rfl
@[simp] theorem draw_perDie : ((draw s).2).perDie = s.perDie := rfl
@[simp] theorem draw_islands : ((draw s).2).islands = s.islands := rfl
@[simp] theorem draw_dieLink : ((draw s).2).dieLink = s.dieLink := rfl
@[simp] theorem draw_dieLinkLost : ((draw s).2).dieLinkLost = s.dieLinkLost := rfl
@[simp] theorem draw_ports : ((draw s).2).ports = s.ports := rfl
@[simp] theorem draw_inbox : ((draw s).2).inbox = s.inbox := rfl
@[simp] theorem draw_outbox : ((draw s).2).outbox = s.outbox := rfl
@[simp] theorem draw_remote : ((draw s).2).remote = s.remote := rfl
@[simp] theorem draw_unitLines : ((draw s).2).unitLines = s.unitLines := rfl
@[simp] theorem draw_overflow : ((draw s).2).overflow = s.overflow := rfl
@[simp] theorem draw_overflowArea : ((draw s).2).overflowArea = s.overflowArea := rfl
@[simp] theorem draw_overflowFull : ((draw s).2).overflowFull = s.overflowFull := rfl
@[simp] theorem draw_routeTable : ((draw s).2).routeTable = s.routeTable := rfl
@[simp] theorem draw_apertureTable : ((draw s).2).apertureTable = s.apertureTable := rfl
@[simp] theorem draw_metadata : ((draw s).2).metadata = s.metadata := rfl
@[simp] theorem draw_rings : ((draw s).2).rings = s.rings := rfl
@[simp] theorem draw_errBase : ((draw s).2).errBase = s.errBase := rfl
@[simp] theorem draw_errLog : ((draw s).2).errLog = s.errLog := rfl
@[simp] theorem draw_errHead : ((draw s).2).errHead = s.errHead := rfl
@[simp] theorem draw_errTail : ((draw s).2).errTail = s.errTail := rfl
@[simp] theorem draw_errWaiting : ((draw s).2).errWaiting = s.errWaiting := rfl
@[simp] theorem draw_errors : ((draw s).2).errors = s.errors := rfl
@[simp] theorem draw_corrected : ((draw s).2).corrected = s.corrected := rfl
@[simp] theorem draw_events : ((draw s).2).events = s.events := rfl
@[simp] theorem draw_device : ((draw s).2).device = s.device := rfl
@[simp] theorem draw_firmware : ((draw s).2).firmware = s.firmware := rfl
@[simp] theorem draw_hostModules : ((draw s).2).hostModules = s.hostModules := rfl
@[simp] theorem draw_fresh : ((draw s).2).fresh = s.fresh := rfl
@[simp] theorem draw_free : ((draw s).2).free = s.free + 1 := rfl
@[simp] theorem draw_now : ((draw s).2).now = s.now := rfl
@[simp] theorem draw_turn : ((draw s).2).turn = s.turn := rfl
@[simp] theorem draw_issuer : ((draw s).2).issuer = s.issuer := rfl
@[simp] theorem draw_fetched : ((draw s).2).fetched = s.fetched := rfl
@[simp] theorem draw_held : ((draw s).2).held = s.held := rfl

variable (w : Warp)

/-! ## `modSliceW` -/

@[simp] theorem modSliceW_ident (i : Nat) (f : Slice → Slice) : (modSliceW w i f).ident = w.ident := rfl
@[simp] theorem modSliceW_die (i : Nat) (f : Slice → Slice) : (modSliceW w i f).die = w.die := rfl
@[simp] theorem modSliceW_core (i : Nat) (f : Slice → Slice) : (modSliceW w i f).core = w.core := rfl
@[simp] theorem modSliceW_slot (i : Nat) (f : Slice → Slice) : (modSliceW w i f).slot = w.slot := rfl
@[simp] theorem modSliceW_port (i : Nat) (f : Slice → Slice) : (modSliceW w i f).port = w.port := rfl
@[simp] theorem modSliceW_win (i : Nat) (f : Slice → Slice) : (modSliceW w i f).win = w.win := rfl
@[simp] theorem modSliceW_ceil (i : Nat) (f : Slice → Slice) : (modSliceW w i f).ceil = w.ceil := rfl
@[simp] theorem modSliceW_flags (i : Nat) (f : Slice → Slice) : (modSliceW w i f).flags = w.flags := rfl
@[simp] theorem modSliceW_regs (i : Nat) (f : Slice → Slice) : (modSliceW w i f).regs = w.regs := rfl
@[simp] theorem modSliceW_preds (i : Nat) (f : Slice → Slice) : (modSliceW w i f).preds = w.preds := rfl
@[simp] theorem modSliceW_gen (i : Nat) (f : Slice → Slice) : (modSliceW w i f).gen = w.gen := rfl
@[simp] theorem modSliceW_priv (i : Nat) (f : Slice → Slice) : (modSliceW w i f).priv = w.priv := rfl
@[simp] theorem modSliceW_image (i : Nat) (f : Slice → Slice) : (modSliceW w i f).image = w.image := rfl
@[simp] theorem modSliceW_self (i : Nat) (f : Slice → Slice) : (modSliceW w i f).self = w.self := rfl
@[simp] theorem modSliceW_recs (i : Nat) (f : Slice → Slice) : (modSliceW w i f).recs = w.recs := rfl
@[simp] theorem modSliceW_strides (i : Nat) (f : Slice → Slice) : (modSliceW w i f).strides = w.strides := rfl
@[simp] theorem modSliceW_tiles (i : Nat) (f : Slice → Slice) : (modSliceW w i f).tiles = w.tiles := rfl
@[simp] theorem modSliceW_slices (i : Nat) (f : Slice → Slice) : (modSliceW w i f).slices = lmod w.slices i f := rfl
@[simp] theorem modSliceW_counters (i : Nat) (f : Slice → Slice) : (modSliceW w i f).counters = w.counters := rfl
@[simp] theorem modSliceW_marks (i : Nat) (f : Slice → Slice) : (modSliceW w i f).marks = w.marks := rfl
@[simp] theorem modSliceW_log (i : Nat) (f : Slice → Slice) : (modSliceW w i f).log = w.log := rfl
@[simp] theorem modSliceW_donations (i : Nat) (f : Slice → Slice) : (modSliceW w i f).donations = w.donations := rfl
@[simp] theorem modSliceW_rendArrived (i : Nat) (f : Slice → Slice) : (modSliceW w i f).rendArrived = w.rendArrived := rfl
@[simp] theorem modSliceW_rendSlices (i : Nat) (f : Slice → Slice) : (modSliceW w i f).rendSlices = w.rendSlices := rfl
@[simp] theorem modSliceW_barSlices (i : Nat) (f : Slice → Slice) : (modSliceW w i f).barSlices = w.barSlices := rfl
@[simp] theorem modSliceW_barStated (i : Nat) (f : Slice → Slice) : (modSliceW w i f).barStated = w.barStated := rfl
@[simp] theorem modSliceW_barArrived (i : Nat) (f : Slice → Slice) : (modSliceW w i f).barArrived = w.barArrived := rfl
@[simp] theorem modSliceW_tileWait (i : Nat) (f : Slice → Slice) : (modSliceW w i f).tileWait = w.tileWait := rfl
@[simp] theorem modSliceW_spec (i : Nat) (f : Slice → Slice) : (modSliceW w i f).spec = w.spec := rfl
@[simp] theorem modSliceW_ended (i : Nat) (f : Slice → Slice) : (modSliceW w i f).ended = w.ended := rfl
@[simp] theorem modSliceW_placed (i : Nat) (f : Slice → Slice) : (modSliceW w i f).placed = w.placed := rfl
@[simp] theorem modSliceW_stopping (i : Nat) (f : Slice → Slice) : (modSliceW w i f).stopping = w.stopping := rfl

/-! ## `setPhys` -/

@[simp] theorem setPhys_ident (n l : Nat) (v : Word) : (setPhys w n l v).ident = w.ident := rfl
@[simp] theorem setPhys_die (n l : Nat) (v : Word) : (setPhys w n l v).die = w.die := rfl
@[simp] theorem setPhys_core (n l : Nat) (v : Word) : (setPhys w n l v).core = w.core := rfl
@[simp] theorem setPhys_slot (n l : Nat) (v : Word) : (setPhys w n l v).slot = w.slot := rfl
@[simp] theorem setPhys_port (n l : Nat) (v : Word) : (setPhys w n l v).port = w.port := rfl
@[simp] theorem setPhys_win (n l : Nat) (v : Word) : (setPhys w n l v).win = w.win := rfl
@[simp] theorem setPhys_ceil (n l : Nat) (v : Word) : (setPhys w n l v).ceil = w.ceil := rfl
@[simp] theorem setPhys_flags (n l : Nat) (v : Word) : (setPhys w n l v).flags = w.flags := rfl
@[simp] theorem setPhys_regs (n l : Nat) (v : Word) : (setPhys w n l v).regs = if v = 0 then tdel w.regs (32 * n + l) else tput w.regs (32 * n + l) v := rfl
@[simp] theorem setPhys_preds (n l : Nat) (v : Word) : (setPhys w n l v).preds = w.preds := rfl
@[simp] theorem setPhys_gen (n l : Nat) (v : Word) : (setPhys w n l v).gen = w.gen := rfl
@[simp] theorem setPhys_priv (n l : Nat) (v : Word) : (setPhys w n l v).priv = w.priv := rfl
@[simp] theorem setPhys_image (n l : Nat) (v : Word) : (setPhys w n l v).image = w.image := rfl
@[simp] theorem setPhys_self (n l : Nat) (v : Word) : (setPhys w n l v).self = w.self := rfl
@[simp] theorem setPhys_recs (n l : Nat) (v : Word) : (setPhys w n l v).recs = w.recs := rfl
@[simp] theorem setPhys_strides (n l : Nat) (v : Word) : (setPhys w n l v).strides = w.strides := rfl
@[simp] theorem setPhys_tiles (n l : Nat) (v : Word) : (setPhys w n l v).tiles = w.tiles := rfl
@[simp] theorem setPhys_slices (n l : Nat) (v : Word) : (setPhys w n l v).slices = w.slices := rfl
@[simp] theorem setPhys_counters (n l : Nat) (v : Word) : (setPhys w n l v).counters = w.counters := rfl
@[simp] theorem setPhys_marks (n l : Nat) (v : Word) : (setPhys w n l v).marks = w.marks := rfl
@[simp] theorem setPhys_log (n l : Nat) (v : Word) : (setPhys w n l v).log = w.log := rfl
@[simp] theorem setPhys_donations (n l : Nat) (v : Word) : (setPhys w n l v).donations = w.donations := rfl
@[simp] theorem setPhys_rendArrived (n l : Nat) (v : Word) : (setPhys w n l v).rendArrived = w.rendArrived := rfl
@[simp] theorem setPhys_rendSlices (n l : Nat) (v : Word) : (setPhys w n l v).rendSlices = w.rendSlices := rfl
@[simp] theorem setPhys_barSlices (n l : Nat) (v : Word) : (setPhys w n l v).barSlices = w.barSlices := rfl
@[simp] theorem setPhys_barStated (n l : Nat) (v : Word) : (setPhys w n l v).barStated = w.barStated := rfl
@[simp] theorem setPhys_barArrived (n l : Nat) (v : Word) : (setPhys w n l v).barArrived = w.barArrived := rfl
@[simp] theorem setPhys_tileWait (n l : Nat) (v : Word) : (setPhys w n l v).tileWait = w.tileWait := rfl
@[simp] theorem setPhys_spec (n l : Nat) (v : Word) : (setPhys w n l v).spec = w.spec := rfl
@[simp] theorem setPhys_ended (n l : Nat) (v : Word) : (setPhys w n l v).ended = w.ended := rfl
@[simp] theorem setPhys_placed (n l : Nat) (v : Word) : (setPhys w n l v).placed = w.placed := rfl
@[simp] theorem setPhys_stopping (n l : Nat) (v : Word) : (setPhys w n l v).stopping = w.stopping := rfl

end Sys2Proof.Machine
end

