-- ==== Sys2Proof/Laws/Table.lean ====
section
/-!
SUPPORT. Laws of tables, memories and lists: what a read gives after a write, what a write leaves alone, and
that every memory operation keeps the canonical form.
-/

namespace Sys2Proof.Machine

variable {α : Type}

/-! ## Lookups -/

@[simp] theorem tfind_nil (k : Nat) : tfind ([] : Tbl α) k = none := rfl

theorem tfind_cons (t : Tbl α) (a k : Nat) (v : α) :
    tfind ((a, v) :: t) k = if a = k then some v else tfind t k := rfl

@[simp] theorem tfind_tput_same (t : Tbl α) (k : Nat) (v : α) : tfind (tput t k v) k = some v := by
  induction t with
  | nil => simp [tput, tfind_cons]
  | cons c t ih =>
    obtain ⟨a, x⟩ := c
    simp only [tput]
    split
    · simp [tfind_cons]
    · split <;> simp_all [tfind_cons]

@[simp] theorem tfind_tput_ne (t : Tbl α) (k j : Nat) (v : α) (h : j ≠ k) : tfind (tput t k v) j = tfind t j := by
  induction t with
  | nil => simp [tput, tfind_cons, h.symm]
  | cons c t ih =>
    obtain ⟨a, x⟩ := c
    simp only [tput]
    split
    · simp [tfind_cons, h.symm]
    · split
      · subst_vars; simp [tfind_cons, h.symm]
      · simp [tfind_cons, ih]

@[simp] theorem tfind_tdel_same (t : Tbl α) (k : Nat) : tfind (tdel t k) k = none := by
  induction t with
  | nil => rfl
  | cons c t ih =>
    obtain ⟨a, x⟩ := c
    simp only [tdel]
    split <;> simp_all [tfind_cons]

@[simp] theorem tfind_tdel_ne (t : Tbl α) (k j : Nat) (h : j ≠ k) : tfind (tdel t k) j = tfind t j := by
  induction t with
  | nil => rfl
  | cons c t ih =>
    obtain ⟨a, x⟩ := c
    simp only [tdel]
    split
    · subst_vars; simp [tfind_cons, h.symm, ih]
    · simp [tfind_cons, ih]

theorem tfind_tmod_same (t : Tbl α) (k : Nat) (f : α → α) : tfind (tmod t k f) k = (tfind t k).map f := by
  unfold tmod
  split <;> simp_all

@[simp] theorem tfind_tmod_ne (t : Tbl α) (k j : Nat) (f : α → α) (h : j ≠ k) : tfind (tmod t k f) j = tfind t j := by
  unfold tmod
  split <;> simp_all

theorem tmod_none (t : Tbl α) (k : Nat) (f : α → α) (h : tfind t k = none) : tmod t k f = t := by
  simp [tmod, h]

theorem tget_eq (t : Tbl α) (k : Nat) (d : α) : tget t k d = (tfind t k).getD d := rfl

@[simp] theorem tget_tput_same (t : Tbl α) (k : Nat) (v d : α) : tget (tput t k v) k d = v := by simp [tget]

@[simp] theorem tget_tput_ne (t : Tbl α) (k j : Nat) (v d : α) (h : j ≠ k) : tget (tput t k v) j d = tget t j d := by
  simp [tget, h]

@[simp] theorem tget_tdel_same (t : Tbl α) (k : Nat) (d : α) : tget (tdel t k) k d = d := by simp [tget]

@[simp] theorem tget_tdel_ne (t : Tbl α) (k j : Nat) (d : α) (h : j ≠ k) : tget (tdel t k) j d = tget t j d := by
  simp [tget, h]

/-! ## Lists -/

@[simp] theorem length_lmod (l : List α) (i : Nat) (f : α → α) : (lmod l i f).length = l.length := by
  induction l generalizing i with
  | nil => rfl
  | cons x l ih => cases i <;> simp [lmod, ih]

theorem lget_lmod_same (l : List α) (i : Nat) (f : α → α) (d : α) (h : i < l.length) :
    lget (lmod l i f) i d = f (lget l i d) := by
  induction l generalizing i with
  | nil => simp at h
  | cons x l ih =>
    cases i with
    | zero => rfl
    | succ i => simpa [lmod, lget] using ih i (by simpa using h)

@[simp] theorem lget_lmod_ne (l : List α) (i j : Nat) (f : α → α) (d : α) (h : j ≠ i) :
    lget (lmod l i f) j d = lget l j d := by
  induction l generalizing i j with
  | nil => rfl
  | cons x l ih =>
    cases i <;> cases j
    · exact absurd rfl h
    · rfl
    · rfl
    · rename_i i j
      simpa [lmod, lget] using ih i j (by omega)

theorem lmod_id (l : List α) (i : Nat) : lmod l i (fun x => x) = l := by
  induction l generalizing i with
  | nil => rfl
  | cons x l ih => cases i <;> simp [lmod, ih]

theorem lget_map {β : Type} (l : List α) (f : α → β) (i : Nat) (d : β) (e : α) (h : i < l.length) :
    lget (l.map f) i d = f (lget l i e) := by
  simp [lget, h]

/-! ## Rising keys -/

theorem risingFrom_weaken {b b' : Nat} (t : Tbl α) (h : risingFrom b t = true) (hb : b' ≤ b) :
    risingFrom b' t = true := by
  cases t with
  | nil => rfl
  | cons c t =>
    obtain ⟨k, v⟩ := c
    simp only [risingFrom, Bool.and_eq_true, decide_eq_true_eq] at h ⊢
    exact ⟨by omega, h.2⟩

theorem risingFrom_tput {b : Nat} (t : Tbl α) (k : Nat) (v : α) (h : risingFrom b t = true) (hb : b < k) :
    risingFrom b (tput t k v) = true := by
  induction t generalizing b with
  | nil => simp [tput, risingFrom, hb]
  | cons c t ih =>
    obtain ⟨a, x⟩ := c
    simp only [risingFrom, Bool.and_eq_true, decide_eq_true_eq] at h
    simp only [tput]
    split
    · simp [risingFrom, h.2, *]
    · split
      · subst_vars; simp [risingFrom, h.1, h.2]
      · simp only [risingFrom, Bool.and_eq_true, decide_eq_true_eq]
        exact ⟨h.1, ih h.2 (by omega)⟩

theorem rising_tput (t : Tbl α) (k : Nat) (v : α) (h : rising t = true) : rising (tput t k v) = true := by
  cases t with
  | nil => rfl
  | cons c t =>
    obtain ⟨a, x⟩ := c
    simp only [rising] at h
    simp only [tput]
    split
    · simp [rising, risingFrom, *]
    · split
      · subst_vars; simpa [rising] using h
      · simpa [rising] using risingFrom_tput t k v h (by omega)

theorem risingFrom_tdel {b : Nat} (t : Tbl α) (k : Nat) (h : risingFrom b t = true) :
    risingFrom b (tdel t k) = true := by
  induction t generalizing b with
  | nil => rfl
  | cons c t ih =>
    obtain ⟨a, x⟩ := c
    simp only [risingFrom, Bool.and_eq_true, decide_eq_true_eq] at h
    simp only [tdel]
    split
    · exact ih (risingFrom_weaken t h.2 (by omega))
    · simp only [risingFrom, Bool.and_eq_true, decide_eq_true_eq]
      exact ⟨h.1, ih h.2⟩

theorem rising_of_risingFrom {b : Nat} (t : Tbl α) (h : risingFrom b t = true) : rising t = true := by
  cases t with
  | nil => rfl
  | cons c t =>
    obtain ⟨a, x⟩ := c
    simp only [risingFrom, Bool.and_eq_true] at h
    exact h.2

theorem rising_tdel (t : Tbl α) (k : Nat) (h : rising t = true) : rising (tdel t k) = true := by
  cases t with
  | nil => rfl
  | cons c t =>
    obtain ⟨a, x⟩ := c
    simp only [rising] at h
    simp only [tdel]
    split
    · exact rising_of_risingFrom _ (risingFrom_tdel t k h)
    · simpa [rising] using risingFrom_tdel t k h

theorem mem_tput {t : Tbl α} {k : Nat} {v : α} {c : Nat × α} (h : c ∈ tput t k v) : c = (k, v) ∨ c ∈ t := by
  induction t with
  | nil => simpa [tput] using h
  | cons e t ih =>
    obtain ⟨a, x⟩ := e
    simp only [tput] at h
    split at h
    · simpa using h
    · split at h
      · rcases List.mem_cons.1 h with h | h
        · exact .inl h
        · exact .inr (List.mem_cons_of_mem _ h)
      · rcases List.mem_cons.1 h with h | h
        · exact .inr (by simp [h])
        · exact (ih h).imp id (List.mem_cons_of_mem _)

theorem mem_tdel {t : Tbl α} {k : Nat} {c : Nat × α} (h : c ∈ tdel t k) : c ∈ t := by
  induction t with
  | nil => simp [tdel] at h
  | cons e t ih =>
    obtain ⟨a, x⟩ := e
    simp only [tdel] at h
    split at h
    · exact List.mem_cons_of_mem _ (ih h)
    · rcases List.mem_cons.1 h with h | h
      · simp [h]
      · exact List.mem_cons_of_mem _ (ih h)

/-! ## Memories -/

@[simp] theorem mread_mwrite_same (m : Memory) (a : Nat) (b : Byte) : mread (mwrite m a b) a = b := by
  unfold mread mwrite
  split <;> simp_all

@[simp] theorem mread_mwrite_ne (m : Memory) (a c : Nat) (b : Byte) (h : c ≠ a) :
    mread (mwrite m a b) c = mread m c := by
  unfold mread mwrite
  split <;> simp_all

theorem wf_nil : Memory.wf [] = true := rfl

/-- Writing a byte keeps the canonical form. -/
theorem wf_mwrite (m : Memory) (a : Nat) (b : Byte) (h : m.wf = true) : (mwrite m a b).wf = true := by
  simp only [Memory.wf, Bool.and_eq_true, List.all_eq_true, decide_eq_true_eq] at h ⊢
  unfold mwrite
  split
  · exact ⟨rising_tdel m a h.1, fun c hc => h.2 c (mem_tdel hc)⟩
  · refine ⟨rising_tput m a b h.1, fun c hc => ?_⟩
    rcases mem_tput hc with rfl | hc
    · assumption
    · exact h.2 c hc

/-- Writing bytes keeps the canonical form. -/
theorem wf_mstore (m : Memory) (a : Nat) (l : List Byte) (h : m.wf = true) : (mstore m a l).wf = true := by
  induction l generalizing m a with
  | nil => exact h
  | cons b l ih => exact ih _ _ (wf_mwrite m a b h)

theorem wf_mputNat (m : Memory) (a n v : Nat) (h : m.wf = true) : (mputNat m a n v).wf = true :=
  wf_mstore m a _ h

/-- A byte outside those written reads as before. -/
theorem mread_mstore_outside (m : Memory) (a c : Nat) (l : List Byte) (h : c < a ∨ a + l.length ≤ c) :
    mread (mstore m a l) c = mread m c := by
  induction l generalizing m a with
  | nil => rfl
  | cons b l ih =>
    simp only [List.length_cons] at h
    simp only [mstore]
    rw [ih _ _ (by omega), mread_mwrite_ne _ _ _ _ (by omega)]

/-- A byte written reads as it was written. -/
theorem mread_mstore_inside (m : Memory) (a i : Nat) (l : List Byte) (h : i < l.length) :
    mread (mstore m a l) (a + i) = lget l i 0 := by
  induction l generalizing m a i with
  | nil => simp at h
  | cons b l ih =>
    simp only [mstore]
    cases i with
    | zero => rw [mread_mstore_outside _ _ _ _ (by omega)]; simp [lget]
    | succ i =>
      have := ih (mwrite m a b) (a + 1) i (by simpa using h)
      simpa [lget, Nat.add_assoc, Nat.add_comm 1 i] using this

@[simp] theorem length_mbytes (m : Memory) (a n : Nat) : (mbytes m a n).length = n := by
  induction n generalizing a with
  | zero => rfl
  | succ n ih => simp [mbytes, ih]

@[simp] theorem length_leBytes (n v : Nat) : (leBytes n v).length = n := by
  induction n generalizing v with
  | zero => rfl
  | succ n ih => simp [leBytes, ih]

/-- The bytes of a number hold it, up to their width. -/
theorem leNat_leBytes (n v : Nat) : leNat (leBytes n v) = v % 256 ^ n := by
  induction n generalizing v with
  | zero => simp [leBytes, leNat, Nat.mod_one]
  | succ n ih =>
    have h : (BitVec.ofNat 8 v).toNat = v % 256 := by simp [BitVec.toNat_ofNat]
    rw [leBytes, leNat, ih, h, Nat.pow_succ, Nat.mul_comm (256 ^ n) 256, Nat.mod_mul]

/-- Bytes outside those written read as before. -/
theorem mbytes_mstore_outside (m : Memory) (a c n : Nat) (l : List Byte) (h : c + n ≤ a ∨ a + l.length ≤ c) :
    mbytes (mstore m a l) c n = mbytes m c n := by
  induction n generalizing c with
  | zero => rfl
  | succ n ih => simp [mbytes, mread_mstore_outside m a c l (by omega), ih (c + 1) (by omega)]

end Sys2Proof.Machine
end

