-- ==== Sys2Proof/Laws/Warps.lean ====
section
/-!
SUPPORT. What the accessors of warps and slices do: a change of some slices reaches exactly those, an issue cycle
touches only its slices' queues, and the steps around an instruction leave program counters alone.
-/

namespace Sys2Proof.Machine

/-! ## Slices of a gang -/

theorem mem_bitsOf {n i : Nat} {b : BitVec n} : i ∈ bitsOf n b ↔ i < n ∧ b.getLsbD i = true := by simp [bitsOf]

theorem nodup_bitsOf (n : Nat) (b : BitVec n) : (bitsOf n b).Nodup := List.nodup_range.filter _

theorem warpAt_of_tfind {s : State} {k : Nat} {w : Warp} (h : tfind s.warps k = some w) : warpAt s k = w := by
  simp [warpAt, tget, h]

theorem tfind_modWarp {s : State} {k : Nat} {w : Warp} (f : Warp → Warp) (h : tfind s.warps k = some w) :
    tfind (modWarp s k f).warps k = some (f w) := by simp [tfind_tmod_same, h]

/-- Changes slices one after another. -/
def eachSlice (l : List Nat) (f : Nat → Slice → Slice) (w : Warp) : Warp :=
  l.foldl (fun w i => modSliceW w i (f i)) w

@[simp] theorem length_eachSlice (l : List Nat) (f : Nat → Slice → Slice) (w : Warp) :
    (eachSlice l f w).slices.length = w.slices.length := by
  induction l generalizing w with
  | nil => rfl
  | cons i l ih => simp [eachSlice] at ih ⊢; rw [ih]; simp

theorem sliceAt_modSliceW_same (w : Warp) (i : Nat) (f : Slice → Slice) (h : i < w.slices.length) :
    sliceAt (modSliceW w i f) i = f (sliceAt w i) := lget_lmod_same _ _ _ _ h

@[simp] theorem sliceAt_modSliceW_ne (w : Warp) (i j : Nat) (f : Slice → Slice) (h : j ≠ i) :
    sliceAt (modSliceW w i f) j = sliceAt w j := lget_lmod_ne _ _ _ _ _ h

theorem sliceAt_eachSlice_not_mem (l : List Nat) (f : Nat → Slice → Slice) (w : Warp) (j : Nat) (h : j ∉ l) :
    sliceAt (eachSlice l f w) j = sliceAt w j := by
  induction l generalizing w with
  | nil => rfl
  | cons i l ih =>
    simp only [List.mem_cons, not_or] at h
    exact (ih _ h.2).trans (sliceAt_modSliceW_ne _ _ _ _ h.1)

theorem sliceAt_eachSlice_mem (l : List Nat) (f : Nat → Slice → Slice) (w : Warp) (j : Nat) (h : j ∈ l)
    (hn : l.Nodup) (hj : j < w.slices.length) : sliceAt (eachSlice l f w) j = f j (sliceAt w j) := by
  induction l generalizing w with
  | nil => simp at h
  | cons i l ih =>
    rw [List.nodup_cons] at hn
    by_cases hi : j = i
    · subst hi
      exact (sliceAt_eachSlice_not_mem l f _ j hn.1).trans (sliceAt_modSliceW_same _ _ _ hj)
    · have := ih (modSliceW w i (f i)) ((List.mem_cons.1 h).resolve_left hi) hn.2 (by simpa using hj)
      exact this.trans (by rw [sliceAt_modSliceW_ne _ _ _ _ hi])

/-- What changes in no slice's fields of another kind stays. -/
theorem eachSlice_keep {β : Type} (p : Warp → β) (hp : ∀ w i f, p (modSliceW w i f) = p w) (l : List Nat)
    (f : Nat → Slice → Slice) (w : Warp) : p (eachSlice l f w) = p w := by
  induction l generalizing w with
  | nil => rfl
  | cons i l ih => exact (ih _).trans (hp _ _ _)

theorem tfind_foldSlices {s : State} {k : Nat} {w : Warp} (l : List Nat) (f : Nat → Slice → Slice)
    (h : tfind s.warps k = some w) :
    tfind (l.foldl (fun s i => modSlice s k i (f i)) s).warps k = some (eachSlice l f w) := by
  induction l generalizing s w with
  | nil => exact h
  | cons i l ih => exact ih (tfind_modWarp _ h)

/-- Changing slices of a warp changes nothing but that warp. -/
theorem foldSlices_eq (s : State) (k : Nat) (l : List Nat) (f : Nat → Slice → Slice) :
    ∃ t, l.foldl (fun s i => modSlice s k i (f i)) s = { s with warps := t } ∧
      ∀ j ≠ k, tfind t j = tfind s.warps j := by
  induction l generalizing s with
  | nil => exact ⟨_, rfl, fun _ _ => rfl⟩
  | cons i l ih =>
    obtain ⟨t, h1, h2⟩ := ih (modSlice s k i (f i))
    exact ⟨t, h1, fun j hj => (h2 j hj).trans (tfind_tmod_ne _ _ _ _ hj)⟩

theorem tfind_modGang {s : State} {k : Nat} {w : Warp} (sl : BitVec 8) (f : Slice → Slice)
    (h : tfind s.warps k = some w) :
    tfind (modGang s k sl f).warps k = some (eachSlice (bitsOf 8 sl) (fun _ => f) w) :=
  tfind_foldSlices _ _ h

/-! ## Results -/

@[simp] theorem slices_setPred (w : Warp) (l p : Nat) (b : Bool) : (setPred w l p b).slices = w.slices := by
  unfold setPred; split <;> rfl

@[simp] theorem slices_writePhys (w : Warp) (n l : Nat) (v : Word) : (writePhys w n l v).slices = w.slices := rfl

@[simp] theorem slices_writeResult (w : Warp) (i : Nat) (r : Result) : (writeResult w i r).slices = w.slices := by
  have h : ∀ (l : List Nat) (w : Warp), (l.foldl (fun w j =>
      let l := 4 * i + j
      let v := lget r.vals j 0
      match r.dest with
      | .reg n => writePhys w n l v
      | .pred p => setPred w l p (decide (v ≠ 0))
      | .none => w) w).slices = w.slices := by
    intro l
    induction l with
    | nil => intro w; rfl
    | cons j l ih =>
      intro w
      rw [List.foldl_cons, ih]
      cases r.dest <;> simp
  exact h _ _

@[simp] theorem slices_writeWarpResult (w : Warp) (r : WarpResult) : (writeWarpResult w r).slices = w.slices := by
  unfold writeWarpResult; split <;> rfl

theorem foldl_keep {α β γ : Type} (p : β → γ) (g : β → α → β) (h : ∀ b a, p (g b a) = p b) (l : List α) (b : β) :
    p (l.foldl g b) = p b := by
  induction l generalizing b with
  | nil => rfl
  | cons a l ih => exact (ih _).trans (h _ _)

/-- A result with one issue cycle less to go. -/
def Result.tick (r : Result) : Result := { r with left := r.left - 1 }

/-- The queue of a slice after one issue cycle: what is due is gone. -/
def afterTick (q : List Result) : List Result := (q.map Result.tick).filter fun r => r.left ≠ 0

theorem sliceAt_tickSlice_ne (w : Warp) (i j : Nat) (h : j ≠ i) : sliceAt (tickSlice w i) j = sliceAt w j := by
  have e : ∀ v : Warp, sliceAt (writeDue v i) j = sliceAt v j := fun v => by
    unfold writeDue
    simp only
    rw [sliceAt_modSliceW_ne _ _ _ _ h]
    unfold sliceAt
    rw [foldl_keep Warp.slices writeWarpResult slices_writeWarpResult, foldl_keep Warp.slices _ (fun w r => slices_writeResult w i r)]
  exact (e _).trans (sliceAt_modSliceW_ne _ _ _ _ h)

@[simp] theorem length_tickSlice (w : Warp) (i : Nat) : (tickSlice w i).slices.length = w.slices.length := by
  unfold tickSlice writeDue
  simp only [modSliceW_slices, length_lmod]
  rw [foldl_keep Warp.slices writeWarpResult slices_writeWarpResult, foldl_keep Warp.slices _ (fun w r => slices_writeResult w i r)]
  simp

theorem sliceAt_tickSlice_same (w : Warp) (i : Nat) (h : i < w.slices.length) :
    ∃ q, sliceAt (tickSlice w i) i = { sliceAt w i with queue := afterTick (sliceAt w i).queue, warpQueue := q } := by
  unfold tickSlice writeDue
  rw [sliceAt_modSliceW_same]
  · unfold sliceAt
    rw [foldl_keep Warp.slices writeWarpResult slices_writeWarpResult, foldl_keep Warp.slices _ (fun w r => slices_writeResult w i r)]
    have := sliceAt_modSliceW_same w i (fun sl : Slice => { sl with
      queue := sl.queue.map fun r => { r with left := r.left - 1 }
      warpQueue := sl.warpQueue.map fun r => { r with left := r.left - 1 } }) h
    unfold sliceAt at this
    rw [this]
    exact ⟨_, rfl⟩
  · rw [foldl_keep Warp.slices writeWarpResult slices_writeWarpResult, foldl_keep Warp.slices _ (fun w r => slices_writeResult w i r)]
    simpa using h

/-- One issue cycle of a gang: each of its slices loses what is due from its queue; nothing else of a slice
changes. -/
theorem sliceAt_tickOnce (w : Warp) (sl : BitVec 8) (hw : w.slices.length = 8) :
    (tickGang w sl 1).slices.length = 8 ∧ ∀ j, j ∈ bitsOf 8 sl →
      ∃ q, sliceAt (tickGang w sl 1) j = { sliceAt w j with queue := afterTick (sliceAt w j).queue, warpQueue := q } := by
  have e : ∀ (l : List Nat) (w : Warp), w.slices.length = 8 → l.Nodup → (∀ j ∈ l, j < 8) →
      (l.foldl tickSlice w).slices.length = 8 ∧ (∀ j ∉ l, sliceAt (l.foldl tickSlice w) j = sliceAt w j) ∧
      ∀ j ∈ l, ∃ q, sliceAt (l.foldl tickSlice w) j =
        { sliceAt w j with queue := afterTick (sliceAt w j).queue, warpQueue := q } := by
    intro l
    induction l with
    | nil => intro w hw _ _; exact ⟨hw, fun _ _ => rfl, by simp⟩
    | cons i l ih =>
      intro w hw hn hb
      rw [List.nodup_cons] at hn
      obtain ⟨h1, h2, h3⟩ := ih (tickSlice w i) (by simpa using hw) hn.2 fun j hj => hb j (by simp [hj])
      refine ⟨h1, fun j hj => ?_, fun j hj => ?_⟩
      · simp only [List.mem_cons, not_or] at hj
        exact (h2 j hj.2).trans (sliceAt_tickSlice_ne _ _ _ hj.1)
      · by_cases hi : j = i
        · subst hi
          have hq := sliceAt_tickSlice_same w j (by rw [hw]; exact hb j (by simp))
          obtain ⟨q, hq⟩ := hq
          exact ⟨q, (h2 j hn.1).trans hq⟩
        · have hm : j ∈ l := (List.mem_cons.1 hj).resolve_left hi
          obtain ⟨q, hq⟩ := h3 j hm
          rw [sliceAt_tickSlice_ne _ _ _ hi] at hq
          exact ⟨q, hq⟩
  obtain ⟨h1, _, h3⟩ := e (bitsOf 8 sl) w hw (nodup_bitsOf 8 sl) fun j hj => (mem_bitsOf.1 hj).1
  exact ⟨h1, h3⟩

end Sys2Proof.Machine
end

