-- ==== Sys2Proof/Laws/Issue.lean ====
section
/-!
SUPPORT. What the issue of an instruction does, said once: when nothing holds it, an instruction ends in
`finishIssue` of its effect, and `finishIssue` moves only latches, result queues, gang numbers and issue times.
-/

namespace Sys2Proof.Machine

/-- Nothing holds an instruction of form `f` and no check of R120 fails. -/
theorem issue_done {f : Form} {eff : State → Nat → BitVec 8 → Eff} {s : State} {k : Nat} {sl : BitVec 8} {w : Warp}
    {s2 : State} (h1 : s.issuer = .gang k sl) (h2 : tfind s.warps k = some w) (h3 : fenceHolds f w = false)
    (h4 : f.accepts (gangMode w sl) = true) (h5 : ∀ n ∈ f.named, w.win + n < w.ceil)
    (h6 : f.clear s k sl w = true)
    (h7 : f.stall s k = false) (h8 : (grantFor f s k sl w).1 = true)
    (h9 : eff (readCycle f s (grantFor f s k sl w).2 k sl w) k sl = .done s2) :
    issue f eff s = .next (finishIssue f s2 k sl
      (heldValues f (if f.ownBanks then s2 else readCycle f s (grantFor f s k sl w).2 k sl w) k sl)) := by
  have h5' : (f.named.map (w.win + ·)).find? (w.ceil ≤ ·) = none := by
    simp only [List.find?_eq_none, List.mem_map, decide_eq_true_eq, not_le]
    rintro _ ⟨n, hn, rfl⟩
    exact h5 n hn
  simp only [issue, h1, h2]
  congr 1
  unfold issueGang
  simp only [h3, h4, h5', h6, h7, h8, h9]
  simp

theorem SameSlice.rfl {x : Slice} : SameSlice x x := by constructor <;> exact Eq.refl _

theorem SameSlice.trans {x y z : Slice} (h : SameSlice x y) (g : SameSlice y z) : SameSlice x z := by
  obtain ⟨h1, h2, h3, h4, h5, h6, h7, h8, h9, h10, h11, h12, h13, h14⟩ := h
  obtain ⟨g1, g2, g3, g4, g5, g6, g7, g8, g9, g10, g11, g12, g13, g14⟩ := g
  constructor <;> simp_all

/-- A change of slices, one after another, that keeps `SameSlice` and the queue. -/
theorem eachSlice_same (l : List Nat) (f : Nat → Slice → Slice) (w : Warp)
    (hf : ∀ i x, SameSlice (f i x) x ∧ (f i x).queue = x.queue) (j : Nat) :
    SameSlice (sliceAt (eachSlice l f w) j) (sliceAt w j) ∧ (sliceAt (eachSlice l f w) j).queue = (sliceAt w j).queue := by
  induction l generalizing w with
  | nil => exact ⟨.rfl, Eq.refl _⟩
  | cons i l ih =>
    have h := ih (modSliceW w i (f i))
    have e : SameSlice (sliceAt (modSliceW w i (f i)) j) (sliceAt w j) ∧
        (sliceAt (modSliceW w i (f i)) j).queue = (sliceAt w j).queue := by
      by_cases hj : j = i
      · subst hj
        by_cases hl : j < w.slices.length
        · rw [sliceAt_modSliceW_same _ _ _ hl]; exact hf _ _
        · have : modSliceW w j (f j) = w := by
            have : ∀ (l : List Slice) (n : Nat), l.length ≤ n → lmod l n (f j) = l := by
              intro l
              induction l with
              | nil => intro n _; rfl
              | cons x l ih =>
                intro n hn
                cases n with
                | zero => simp at hn
                | succ n => simp [lmod, ih n (by simpa using hn)]
            simp [modSliceW, this _ _ (by omega : w.slices.length ≤ j)]
          rw [this]; exact ⟨.rfl, Eq.refl _⟩
      · rw [sliceAt_modSliceW_ne _ _ _ _ hj]; exact ⟨.rfl, Eq.refl _⟩
    exact ⟨h.1.trans e.1, h.2.trans e.2⟩

theorem ageLatches_eq (w : Warp) (sl : BitVec 8) : ageLatches w sl = (bitsOf 8 sl).foldl (fun w i =>
    modSliceW (modSliceW w i fun s => { s with latches := s.latches.map fun e => { e with life := e.life - 1 } }) i
      fun sl => { sl with latches := sl.latches.map fun e => if e.life = 0 then ⟨[], 0⟩ else e }) w := by
  rfl

theorem modSliceW_twice (w : Warp) (i : Nat) (f g : Slice → Slice) :
    modSliceW (modSliceW w i f) i g = modSliceW w i fun x => g (f x) := by
  have : ∀ (l : List Slice) (n : Nat), lmod (lmod l n f) n g = lmod l n fun x => g (f x) := by
    intro l
    induction l with
    | nil => intro n; rfl
    | cons x l ih => intro n; cases n <;> simp [lmod, ih]
  simp [modSliceW, this]

/-- The lifetimes of latch entries move nothing else. -/
theorem ageLatches_same (w : Warp) (sl : BitVec 8) (j : Nat) :
    SameSlice (sliceAt (ageLatches w sl) j) (sliceAt w j) ∧
      (sliceAt (ageLatches w sl) j).queue = (sliceAt w j).queue := by
  rw [ageLatches_eq]
  simp only [modSliceW_twice]
  exact eachSlice_same _ (fun _ x =>
    let l := x.latches.map fun e => { e with life := e.life - 1 }
    { x with latches := l.map fun e => if e.life = 0 then ⟨[], 0⟩ else e }) w (fun _ _ => ⟨by constructor <;> rfl, Eq.refl _⟩) j

@[simp] theorem length_ageLatches (w : Warp) (sl : BitVec 8) : (ageLatches w sl).slices.length = w.slices.length := by
  rw [ageLatches_eq]
  exact foldl_keep (fun w : Warp => w.slices.length) _ (fun w i => by simp) _ _

theorem regroup_same (w : Warp) (sl : BitVec 8) (j : Nat) :
    SameSlice (sliceAt (regroup w sl) j) (sliceAt w j) ∧ (sliceAt (regroup w sl) j).queue = (sliceAt w j).queue := by
  unfold regroup
  exact eachSlice_same _ (fun i x => { x with gang := ((bitsOf 8 sl).find? fun j =>
    decide ((sliceAt w i).pc = (sliceAt w j).pc ∧ (sliceAt w i).mode = (sliceAt w j).mode)).getD i }) w
    (fun _ _ => ⟨by constructor <;> rfl, Eq.refl _⟩) j

/-- The end of an instruction: in each slice of its gang the result queue counts one issue cycle, and the program
counter, the mode, the masks and the trap registers stay. -/
theorem finishIssue_slice {f : Form} {s : State} {k : Nat} {sl : BitVec 8} {w : Warp} {held : List (Nat × List Word)}
    (h : tfind s.warps k = some w) (hw : w.slices.length = 8) (j : Nat) (hj : j ∈ bitsOf 8 sl) :
    SameSlice (sliceAt (warpAt (finishIssue f s k sl held) k) j) (sliceAt w j) ∧
      (sliceAt (warpAt (finishIssue f s k sl held) k) j).queue = afterTick (sliceAt w j).queue := by
  let w1 := ageLatches w sl
  let w2 := held.foldl (fun w p => modSliceW w p.1 fun x =>
    { x with latches := lmod x.latches (f.hold - 1) fun _ => ⟨p.2, 2⟩ }) w1
  let w3 := tickGang w2 sl 1
  let w4 := regroup w3 (gangMates w3 sl)
  have e2 : ∀ (l : List (Nat × List Word)) (v : Warp), v.slices.length = 8 →
      (l.foldl (fun w p => modSliceW w p.1 fun x =>
        { x with latches := lmod x.latches (f.hold - 1) fun _ => ⟨p.2, 2⟩ }) v).slices.length = 8 ∧
      SameSlice (sliceAt (l.foldl (fun w p => modSliceW w p.1 fun x =>
        { x with latches := lmod x.latches (f.hold - 1) fun _ => ⟨p.2, 2⟩ }) v) j) (sliceAt v j) ∧
      (sliceAt (l.foldl (fun w p => modSliceW w p.1 fun x =>
        { x with latches := lmod x.latches (f.hold - 1) fun _ => ⟨p.2, 2⟩ }) v) j).queue = (sliceAt v j).queue := by
    intro l
    induction l with
    | nil => intro v hv; exact ⟨hv, .rfl, Eq.refl _⟩
    | cons p l ih =>
      intro v hv
      obtain ⟨a, b, c⟩ := ih (modSliceW v p.1 fun x =>
        { x with latches := lmod x.latches (f.hold - 1) fun _ => ⟨p.2, 2⟩ }) (by simpa using hv)
      have g := eachSlice_same [p.1] (fun _ x =>
        { x with latches := lmod x.latches (f.hold - 1) fun _ => ⟨p.2, 2⟩ }) v
        (fun _ _ => ⟨by constructor <;> rfl, Eq.refl _⟩) j
      exact ⟨a, b.trans g.1, c.trans g.2⟩
  have l1 : w1.slices.length = 8 := by simp [w1, hw]
  obtain ⟨l2, s2, q2⟩ := e2 held w1 l1
  obtain ⟨l3, t3⟩ := sliceAt_tickOnce w2 sl l2
  obtain ⟨q, t3⟩ := t3 j hj
  have l4 : w4.slices.length = 8 := by
    have : ∀ v : Warp, ∀ m, (regroup v m).slices.length = v.slices.length := fun v m =>
      foldl_keep (fun w : Warp => w.slices.length) _ (fun w i => by simp) _ _
    exact (this _ _).trans l3
  have s4 := regroup_same w3 (gangMates w3 sl) j
  have s1 := ageLatches_same w sl j
  -- the state
  have hs : ∀ v : Warp, tfind (modWarp s k fun _ => v).warps k = some v := fun v => tfind_modWarp _ h
  have key : ∃ v : Warp, v.slices = w4.slices ∧ warpAt (finishIssue f s k sl held) k =
      eachSlice (bitsOf 8 sl) (fun _ x => { x with lastIssue := (modWarp s k fun _ => v).now }) v := by
    refine ⟨_, ?_, warpAt_of_tfind (tfind_modGang sl _ (tfind_modWarp _ h))⟩
    rfl
  obtain ⟨v, hv, hkey⟩ := key
  rw [hkey]
  have s5 := eachSlice_same (bitsOf 8 sl) (fun _ x => { x with lastIssue := (modWarp s k fun _ => v).now }) v
    (fun _ _ => ⟨by constructor <;> rfl, Eq.refl _⟩) j
  have hv' : sliceAt v j = sliceAt w4 j := by simp [sliceAt, hv]
  rw [hv'] at s5
  have t3' : SameSlice (sliceAt w3 j) (sliceAt w2 j) ∧ (sliceAt w3 j).queue = afterTick (sliceAt w2 j).queue := by
    have : sliceAt w3 j = _ := t3
    rw [this]; exact ⟨by constructor <;> rfl, Eq.refl _⟩
  refine ⟨s5.1.trans (s4.1.trans (t3'.1.trans (s2.trans s1.1))), ?_⟩
  have c : (sliceAt w2 j).queue = (sliceAt w j).queue := q2.trans s1.2
  rw [s5.2, s4.2, t3'.2, c]

end Sys2Proof.Machine
end

