-- ==== Sys2Proof/Laws/Lanes.lean ====
section
/-!
SUPPORT. What the queueing of lane results does (R133, R173), and that the state of the read cycle still holds the
issuing warp with its program counters where they were.
-/

namespace Sys2Proof.Machine

/-- The state of slices after a fold that pushes one result in each slice. -/
theorem fold_push (l : List Nat) (g : Warp → Nat → Warp) (e : Nat → Result) (w : Warp)
    (hg : ∀ v i, (g v i).slices = (modSliceW v i fun x => { x with queue := x.queue ++ [e i] }).slices)
    (hn : l.Nodup) (hl : ∀ i ∈ l, i < w.slices.length) :
    (l.foldl g w).slices.length = w.slices.length ∧
    ∀ j, sliceAt (l.foldl g w) j =
      if j ∈ l then { sliceAt w j with queue := (sliceAt w j).queue ++ [e j] } else sliceAt w j := by
  induction l generalizing w with
  | nil => exact ⟨rfl, fun j => by simp⟩
  | cons i l ih =>
    rw [List.nodup_cons] at hn
    have e1 : (g w i).slices.length = w.slices.length := by rw [hg]; simp
    obtain ⟨h1, h2⟩ := ih (g w i) hn.2 fun j hj => by rw [e1]; exact hl j (by simp [hj])
    refine ⟨h1.trans e1, fun j => ?_⟩
    rw [List.foldl_cons, h2]
    have e3 : sliceAt (g w i) j = sliceAt (modSliceW w i fun x => { x with queue := x.queue ++ [e i] }) j := by
      simp only [sliceAt, hg]
    by_cases hj : j = i
    · subst hj
      rw [e3, sliceAt_modSliceW_same _ _ _ (hl j (by simp))]
      simp [hn.1]
    · rw [e3, sliceAt_modSliceW_ne _ _ _ _ hj]
      simp [hj]

/-- What `queueLanes` puts at the end of a slice's result queue. -/
def laneResult (w : Warp) (dest : Dest) (lat : Nat) (mask : Warp → Nat → BitVec 4) (f : Nat → LaneResult) (i : Nat) :
    Result :=
  let rs := (List.range 4).map fun j => if (mask w i).getLsbD j then f (4 * i + j) else { val := 0 }
  ⟨dest, mask w i, rs.map LaneResult.val, joinFlags (rs.map LaneResult.flags), lat⟩

theorem queueLanes_slice {s : State} {k : Nat} {sl : BitVec 8} {w : Warp} (dest : Dest) (lat : Nat)
    (mask : Warp → Nat → BitVec 4) (f : Nat → LaneResult) (h : tfind s.warps k = some w) (hw : w.slices.length = 8) :
    ∃ v, tfind (queueLanes s k sl dest lat mask f).warps k = some v ∧ v.slices.length = 8 ∧
      ∀ j, sliceAt v j = if j ∈ bitsOf 8 sl then
        { sliceAt w j with queue := (sliceAt w j).queue ++ [laneResult w dest lat mask f j] } else sliceAt w j := by
  have hg := fold_push (bitsOf 8 sl) (fun acc i =>
    let m := mask w i
    let rs := (List.range 4).map fun j => if m.getLsbD j then f (4 * i + j) else { val := 0 }
    let acc := pushResult acc i dest m (rs.map LaneResult.val) (joinFlags (rs.map LaneResult.flags)) lat
    ((List.range 4).zip rs).foldl (fun acc p => match p.2.gen with
      | some g => { acc with gen := tput acc.gen (4 * i + p.1) g }
      | none => acc) acc) (laneResult w dest lat mask f) w
    (fun v i => by
      simp only
      rw [foldl_keep Warp.slices _ (fun w p => by split <;> rfl)]
      rfl) (nodup_bitsOf 8 sl) (fun i hi => by rw [hw]; exact (mem_bitsOf.1 hi).1)
  refine ⟨_, ?_, hg.1.trans hw, hg.2⟩
  unfold queueLanes
  rw [warpAt_of_tfind h]
  exact tfind_modWarp _ h

/-! ## The read cycle -/

/-- A warp whose slices keep everything but queues, latches and waits. -/
structure SameFlow (v w : Warp) : Prop where
  length : v.slices.length = w.slices.length
  pc : ∀ j, (sliceAt v j).pc = (sliceAt w j).pc
  mode : ∀ j, (sliceAt v j).mode = (sliceAt w j).mode
  active : ∀ j, (sliceAt v j).active = (sliceAt w j).active
  stack : ∀ j, (sliceAt v j).stack = (sliceAt w j).stack
  handler : ∀ j, (sliceAt v j).handler = (sliceAt w j).handler
  ended : ∀ j, (sliceAt v j).ended = (sliceAt w j).ended
  win : v.win = w.win
  ceil : v.ceil = w.ceil
  ident : v.ident = w.ident
  die : v.die = w.die
  core : v.core = w.core

theorem SameFlow.rfl {w : Warp} : SameFlow w w := by constructor <;> intros <;> exact Eq.refl _

theorem SameFlow.trans {u v w : Warp} (h : SameFlow u v) (g : SameFlow v w) : SameFlow u w := by
  obtain ⟨h1, h2, h3, h4, h5, h6, h7, h8, h9, h10, h11, h12⟩ := h
  obtain ⟨g1, g2, g3, g4, g5, g6, g7, g8, g9, g10, g11, g12⟩ := g
  constructor <;> intros <;> simp_all

/-- One slice's queues, latches or wait change. -/
theorem sameFlow_modSliceW (w : Warp) (i : Nat) (f : Slice → Slice) (hf : ∀ x, (f x).pc = x.pc ∧ (f x).mode = x.mode ∧
    (f x).active = x.active ∧ (f x).stack = x.stack ∧ (f x).handler = x.handler ∧ (f x).ended = x.ended) :
    SameFlow (modSliceW w i f) w := by
  have key : ∀ j, sliceAt (modSliceW w i f) j = sliceAt w j ∨ sliceAt (modSliceW w i f) j = f (sliceAt w j) := by
    intro j
    by_cases hj : j = i
    · subst hj
      by_cases hl : j < w.slices.length
      · exact .inr (sliceAt_modSliceW_same _ _ _ hl)
      · left
        have e : ∀ v : Warp, v.slices.length ≤ j → sliceAt v j = default := fun v hv => by
          simp [sliceAt, lget, List.getElem?_eq_none hv]
        rw [e w (by omega), e (modSliceW w j f) (by simp; omega)]
    · exact .inl (sliceAt_modSliceW_ne _ _ _ _ hj)
  constructor <;> intros
  all_goals try simp
  all_goals
    rename_i j
    rcases key j with h | h <;> rw [h] <;> simp [hf]

theorem sameFlow_foldl {α : Type} (g : Warp → α → Warp) (h : ∀ v a, SameFlow (g v a) v) (l : List α) (w : Warp) :
    SameFlow (l.foldl g w) w := by
  induction l generalizing w with
  | nil => exact .rfl
  | cons a l ih => exact (ih _).trans (h _ _)

theorem sameFlow_writeResult (w : Warp) (i : Nat) (r : Result) : SameFlow (writeResult w i r) w := by
  unfold writeResult
  have h : ∀ v : Warp, ∀ fl, SameFlow { v with flags := fl } v := fun v fl => by
    constructor <;> intros <;> exact Eq.refl _
  refine (h _ _).trans (sameFlow_foldl _ (fun v j => ?_) _ _)
  simp only
  split
  · constructor <;> intros <;> exact Eq.refl _
  · unfold setPred
    split
    · exact .rfl
    · constructor <;> intros <;> exact Eq.refl _
  · exact .rfl

theorem sameFlow_writeWarpResult (w : Warp) (r : WarpResult) : SameFlow (writeWarpResult w r) w := by
  unfold writeWarpResult
  split <;> (constructor <;> intros <;> exact Eq.refl _)

theorem sameFlow_tickSlice (w : Warp) (i : Nat) : SameFlow (tickSlice w i) w := by
  unfold tickSlice writeDue
  refine (sameFlow_modSliceW _ _ _ fun x => by simp).trans ?_
  refine (sameFlow_foldl _ (fun v r => sameFlow_writeWarpResult v r) _ _).trans ?_
  refine (sameFlow_foldl _ (fun v r => sameFlow_writeResult v i r) _ _).trans ?_
  exact sameFlow_modSliceW _ _ _ fun x => by simp

theorem sameFlow_tickGang (w : Warp) (sl : BitVec 8) (n : Nat) : SameFlow (tickGang w sl n) w := by
  induction n generalizing w with
  | zero => exact .rfl
  | succ n ih => exact (ih _).trans (sameFlow_foldl _ (fun v i => sameFlow_tickSlice v i) _ _)

/-- State `t` still holds warp `k` with its flow. -/
def KeepsFlow (k : Nat) (s t : State) : Prop :=
  ∀ w, tfind s.warps k = some w → ∃ v, tfind t.warps k = some v ∧ SameFlow v w

theorem KeepsFlow.rfl {k : Nat} {s : State} : KeepsFlow k s s := fun w h => ⟨w, h, .rfl⟩

theorem KeepsFlow.trans {k : Nat} {s t u : State} (h : KeepsFlow k s t) (g : KeepsFlow k t u) : KeepsFlow k s u := by
  intro w hw
  obtain ⟨v, hv, e⟩ := h w hw
  obtain ⟨x, hx, e'⟩ := g v hv
  exact ⟨x, hx, e'.trans e⟩

theorem keepsFlow_of_warps {k : Nat} {s t : State} (h : t.warps = s.warps) : KeepsFlow k s t := fun w hw =>
  ⟨w, by rw [h]; exact hw, .rfl⟩

theorem keepsFlow_modWarp {k : Nat} {s : State} (f : Warp → Warp) (h : ∀ w, SameFlow (f w) w) :
    KeepsFlow k s (modWarp s k f) := fun w hw => ⟨f w, tfind_modWarp f hw, h w⟩

theorem keepsFlow_foldl {α : Type} {k : Nat} (g : State → α → State) (h : ∀ s a, KeepsFlow k s (g s a)) (l : List α)
    (s : State) : KeepsFlow k s (l.foldl g s) := by
  induction l generalizing s with
  | nil => exact .rfl
  | cons a l ih => exact (h _ _).trans (ih _)

theorem keepsFlow_modGang {k : Nat} {s : State} (sl : BitVec 8) (f : Slice → Slice) (hf : ∀ x, (f x).pc = x.pc ∧
    (f x).mode = x.mode ∧ (f x).active = x.active ∧ (f x).stack = x.stack ∧ (f x).handler = x.handler ∧
    (f x).ended = x.ended) : KeepsFlow k s (modGang s k sl f) :=
  keepsFlow_foldl _ (fun _ i => keepsFlow_modWarp _ fun w => sameFlow_modSliceW w i f hf) _ _

theorem keepsFlow_freshenLatch (s : State) (k i f : Nat) : KeepsFlow k s (freshenLatch s k i f) := by
  unfold freshenLatch
  split
  · exact .rfl
  · exact (keepsFlow_modWarp _ fun w => sameFlow_modSliceW w i _ fun x => by simp).trans (keepsFlow_of_warps rfl)

theorem sameFlow_setPhys (w : Warp) (n l : Nat) (v : Word) : SameFlow (setPhys w n l v) w := by
  constructor <;> intros <;> exact Eq.refl _

@[simp] theorem warps_dropRequests (s : State) (c : Nat) (f : GrantRequest → Bool) : (dropRequests s c f).warps = s.warps := by
  unfold dropRequests
  split <;> rfl

theorem keepsFlow_privatise (s : State) (k g : Nat) : KeepsFlow k s (privatise s k g) := by
  intro w hw
  refine ⟨_, tfind_modWarp _ ((congrArg (tfind · k) (warps_dropRequests _ _ _)).trans hw), ?_⟩
  have h : ∀ (v : Warp) (p : BitVec 1024) (q : Option Speculation), SameFlow { v with priv := p, spec := q } v :=
    fun v p q => by constructor <;> intros <;> exact Eq.refl _
  rw [warpAt_of_tfind hw]
  generalize (List.range 8).flatMap (fun i => (List.range 32).map fun l => (8 * g + i, l)) = cells
  exact SameFlow.trans (h _ _ _) (sameFlow_foldl _ (fun v c => sameFlow_setPhys v _ _ _) _ _)

theorem keepsFlow_drain (s : State) (k : Nat) (sl : BitVec 8) : KeepsFlow k s (drain s k sl) :=
  keepsFlow_modWarp _ fun w => sameFlow_tickGang w sl _

theorem keepsFlow_askGranules (s : State) (k : Nat) (sl : BitVec 8) (kind n j : Nat) :
    KeepsFlow j s (askGranules s k sl kind n).2 := by
  unfold askGranules askCore
  simp only
  split <;> exact keepsFlow_of_warps rfl

theorem keepsFlow_grantFor (f : Form) (s : State) (k : Nat) (sl : BitVec 8) (w : Warp) (j : Nat) :
    KeepsFlow j s (grantFor f s k sl w).2 := by
  unfold grantFor
  simp only
  split
  · exact keepsFlow_of_warps (warps_dropRequests _ _ _)
  · exact keepsFlow_askGranules _ _ _ _ _ _

theorem sameFlow_landReg (w : Warp) (o n l : Nat) (v : Word) : SameFlow (landReg w o n l v) w := by
  constructor <;> intros <;> exact Eq.refl _

/-- A VWRI write of the gang's own drain moves no flow. -/
theorem keepsFlow_performWrites (s : State) (o j : Nat) : KeepsFlow j s (performWrites s o) := by
  unfold performWrites
  split
  · exact .rfl
  · rename_i op _
    split
    · exact .rfl
    · rename_i k _
      have a : ∀ (s : State) (f : Warp → Warp), (∀ w, SameFlow (f w) w) → KeepsFlow j s (modWarp s k f) := by
        intro s f hf
        by_cases hj : j = k
        · subst hj; exact keepsFlow_modWarp f hf
        · intro w hw
          exact ⟨w, by simp [hj, hw], .rfl⟩
      have b : ∀ s : State, KeepsFlow j s (endOp s o) := by
        intro s
        unfold endOp
        refine KeepsFlow.trans ?_ (keepsFlow_of_warps rfl)
        split
        · rename_i k' _
          unfold clearMarks
          by_cases hj : j = k'
          · subst hj
            exact keepsFlow_modWarp _ fun w => by constructor <;> intros <;> exact Eq.refl _
          · intro w hw
            exact ⟨w, by simp [hj, hw], .rfl⟩
        · exact .rfl
      refine (KeepsFlow.trans (a _ _ fun w => ?_) (a _ _ fun w => ?_)).trans (b _)
      · exact sameFlow_foldl _ (fun v e => sameFlow_landReg v _ _ _ _) _ _
      · constructor <;> intros <;> exact Eq.refl _

theorem keepsFlow_drainGang (s : State) (k : Nat) (sl : BitVec 8) : KeepsFlow k s (drainGang s k sl) :=
  (keepsFlow_foldl _ (fun s (p : Nat × Op) => keepsFlow_performWrites s p.1 k) _ _).trans (keepsFlow_drain _ _ _)

/-- The read cycle leaves the flow of the issuing warp where it was, and every slice of the gang ready. -/
theorem keepsFlow_readCycle (f : Form) (s s0 : State) (k : Nat) (sl : BitVec 8) (w : Warp) :
    KeepsFlow k s0 (readCycle f s s0 k sl w) := by
  unfold readCycle
  have h1 := keepsFlow_foldl (k := k) (fun s g => privatise s k g) (fun s g => keepsFlow_privatise s k g)
    (copiedGranules s w ((f.writes ++ f.waits).map (w.win + ·))) s0
  generalize hs : (copiedGranules s w ((f.writes ++ f.waits).map (w.win + ·))).foldl
    (fun s g => privatise s k g) s0 = s1 at h1
  simp only [hs]
  have h2 : KeepsFlow k s1 (if f.drains = true then drainGang s1 k sl else s1) := by
    split
    · exact keepsFlow_drainGang _ _ _
    · exact .rfl
  have h3 := keepsFlow_modWarp (k := k) (s := if f.drains = true then drainGang s1 k sl else s1) (fun w' => tickGang w' sl
    (extraCycles f w sl + 2 * (copiedGranules s w ((f.writes ++ f.waits).map (w.win + ·))).length))
    fun w' => sameFlow_tickGang w' sl _
  refine ((h1.trans h2).trans h3).trans ?_
  refine KeepsFlow.trans ?_ (keepsFlow_modGang sl (fun x => { x with wait := .ready }) fun x => by simp)
  have h4 := keepsFlow_foldl (k := k) (fun s i => f.reads.foldl (fun s r => freshenLatch s k i r) s)
    (fun s i => keepsFlow_foldl _ (fun s r => keepsFlow_freshenLatch s k i r) _ _) (bitsOf 8 sl)
  generalize modWarp (if f.drains = true then drainGang s1 k sl else s1) k _ = b
  split
  · exact h4 _
  · exact (h4 _).trans (keepsFlow_modWarp _ fun w => by constructor <;> intros <;> exact Eq.refl _)

end Sys2Proof.Machine
end

