-- ==== Sys2Proof/Laws/LaneRows.lean ====
section
/-!
SUPPORT. How the meanings of lane instructions and of the sequencer's instructions meet their rows: what
`queueLanes` leaves after the issue of an instruction is what `Queued` says, and what `flow` leaves is what the row's
`move` says.
-/

namespace Sys2Proof.Claims

open Sys2Proof.Machine

theorem sameFlow_gangMode {v w : Warp} (h : SameFlow v w) (sl) : gangMode v sl = gangMode w sl := h.mode _

/-- The read cycle's state still holds the issuing warp. -/
theorem read_warp {f : Form} {s k sl w} (h : Issues f s k sl w) :
    ∃ v, tfind (readAt f s k sl w).warps k = some v ∧ SameFlow v w := by
  obtain ⟨v, hv, e⟩ := keepsFlow_grantFor f s k sl w k w h.warp
  obtain ⟨x, hx, e'⟩ := keepsFlow_readCycle f s (grantFor f s k sl w).2 k sl w v hv
  exact ⟨x, hx, e'.trans e⟩

/-- An instruction whose meaning queues what its row says completes as its row says. -/
theorem lane_done (row : LaneRow) (i : Instr) (hlat : 2 ≤ row.lat)
    (hpre : ∀ s k, KeepsFlow k s (row.pre s k))
    (hex : ∀ s, exec i s = issue row.form (passing fun s k sl =>
      let s1 := row.pre s k
      queueLanes s1 k sl (row.dest (warpAt s1 k)) row.lat row.lanes (row.res s1 (warpAt s1 k) sl)) s) :
    LaneCompletes i row := by
  intro s k sl w h
  obtain ⟨v, hv, e⟩ := read_warp h
  obtain ⟨u, hu, e'⟩ := hpre (readAt row.form s k sl w) k v hv
  have e2 := e'.trans e
  have hlen : u.slices.length = 8 := e2.length.trans h.slices
  set r := readAt row.form s k sl w with hr
  obtain ⟨x, hx, hxl, hxs⟩ := queueLanes_slice (sl := sl) (row.dest u) row.lat row.lanes (row.res (row.pre r k) u sl) hu hlen
  have hd := issue_done (f := row.form) (eff := passing fun s k sl =>
      let s1 := row.pre s k
      queueLanes s1 k sl (row.dest (warpAt s1 k)) row.lat row.lanes (row.res s1 (warpAt s1 k) sl)) h.issuer h.warp h.fence h.accepted h.inRange h.clear h.room h.granted rfl
  refine ⟨_, (hex s).trans hd, fun j hj => ?_⟩
  have hug : warpAt (row.pre r k) k = u := warpAt_of_tfind hu
  have hg : tfind (modGang (queueLanes (row.pre r k) k sl (row.dest u) row.lat row.lanes (row.res (row.pre r k) u sl)) k sl Slice.advance).warps k = some (eachSlice (bitsOf 8 sl) (fun _ => Slice.advance) x) := tfind_modGang sl _ hx
  have hj8 : j < 8 := (mem_bitsOf.1 hj).1
  have hsl : sliceAt (eachSlice (bitsOf 8 sl) (fun _ => Slice.advance) x) j = (sliceAt x j).advance :=
    sliceAt_eachSlice_mem _ _ _ _ hj (nodup_bitsOf 8 sl) (by omega)
  rw [hxs j, if_pos hj] at hsl
  have hf := finishIssue_slice (f := row.form)
    (held := heldValues row.form (if row.form.ownBanks then modGang (queueLanes (row.pre r k) k sl (row.dest u) row.lat
      row.lanes (row.res (row.pre r k) u sl)) k sl Slice.advance else r) k sl) (sl := sl) hg (by simp [hxl]) j hj
  rw [← hug] at hf
  constructor
  · unfold Queued
    refine ⟨{ laneResult u (row.dest u) row.lat row.lanes (row.res (row.pre r k) u sl) j with left := row.lat - 1 }, ?_, ?_⟩
    · refine (congrArg List.getLast? hf.2).trans ?_
      rw [hsl]
      simp [afterTick, Slice.advance, Result.tick, laneResult]
      exact .inl (by omega)
    · rw [hug]
      refine ⟨rfl, rfl, rfl, by simp [laneResult], fun i hi hm => ?_, ?_⟩
      · simp [laneResult, lget, hi, hm]
      · simp only [laneResult]
        congr 1
        simp only [List.map_map]
        apply List.map_congr_left
        intro a _
        simp only [Function.comp]
        split <;> rfl
  · refine (hf.1.pc).trans ?_
    rw [hsl]
    simp [Slice.advance, e2.pc]


/-- An instruction whose effect moves the slices of its gang as its row says completes as its row says. -/
theorem flow_done {i : Instr} {row : FlowRow} {s k sl w} (h : Issues row.form s k sl w)
    (eff : State → Nat → BitVec 8 → Eff) (g : Nat → Slice → Slice)
    (hex : exec i s = issue row.form eff s)
    (he : eff (readAt row.form s k sl w) k sl = flow (readAt row.form s k sl w) k sl g)
    (hg : ∀ j ∈ bitsOf 8 sl, SameSlice (g j (sliceOf (readAt row.form s k sl w) k j))
      (row.move (readAt row.form s k sl w) (warpAt (readAt row.form s k sl w) k) j (sliceOf (readAt row.form s k sl w) k j))) :
    ∃ t, exec i s = .next t ∧ ∀ j ∈ bitsOf 8 sl, SameSlice (sliceOf t k j)
      (row.move (readAt row.form s k sl w) (warpAt (readAt row.form s k sl w) k) j (sliceOf (readAt row.form s k sl w) k j)) := by
  obtain ⟨v, hv, e⟩ := read_warp h
  have hd := issue_done h.issuer h.warp h.fence h.accepted h.inRange h.clear h.room h.granted he
  refine ⟨_, hex.trans hd, fun j hj => ?_⟩
  have hlen : v.slices.length = 8 := e.length.trans h.slices
  have hj8 : j < 8 := (mem_bitsOf.1 hj).1
  have hw := tfind_foldSlices (bitsOf 8 sl) g hv
  have hf := finishIssue_slice (f := row.form)
    (held := heldValues row.form (if row.form.ownBanks then
      (bitsOf 8 sl).foldl (fun s j => modSlice s k j (g j)) (readAt row.form s k sl w)
      else readAt row.form s k sl w) k sl) (sl := sl) hw (by simp [hlen]) j hj
  refine hf.1.trans ?_
  rw [sliceAt_eachSlice_mem _ _ _ _ hj (nodup_bitsOf 8 sl) (hlen ▸ hj8)]
  have := hg j hj
  simp only [sliceOf, warpAt_of_tfind hv] at this ⊢
  exact this

end Sys2Proof.Claims
end

