-- ==== Sys2Proof/Laws/PerInstr.lean ====
section
/-!
SUPPORT. A law of every row of the opcode table, one lemma a row: a word of 32 bits holds it.
-/

namespace Sys2Proof.Laws.EncodingBound

set_option Elab.async false

/-- The word of an instruction has 32 bits (R105). -/
def Statement (i : Instr) : Prop := encode i < 2 ^ 32

theorem bra (o : BitVec 24) : Statement (.bra o) := by
  have := o.isLt
  exact (by omega : 0x02000000 + o.toNat < 2 ^ 32)
theorem brc (o : BitVec 24) : Statement (.brc o) := by
  have := o.isLt
  exact (by omega : 0x03000000 + o.toNat < 2 ^ 32)
theorem bri (h : BitVec 2) (a : BitVec 7) : Statement (.bri h a) := by
  have := h.isLt; have := a.isLt
  exact (by omega : 0x04000000 + h.toNat * 4194304 + a.toNat * 256 < 2 ^ 32)
theorem call (o : BitVec 24) : Statement (.call o) := by
  have := o.isLt
  exact (by omega : 0x05000000 + o.toNat < 2 ^ 32)
theorem calli (h : BitVec 2) (a : BitVec 7) : Statement (.calli h a) := by
  have := h.isLt; have := a.isLt
  exact (by omega : 0x06000000 + h.toNat * 4194304 + a.toNat * 256 < 2 ^ 32)
theorem mark (o : BitVec 24) : Statement (.mark o) := by
  have := o.isLt
  exact (by omega : 0x08000000 + o.toNat < 2 ^ 32)
theorem mode (h : BitVec 2) (a : BitVec 7) : Statement (.mode h a) := by
  have := h.isLt; have := a.isLt
  exact (by omega : 0x0B000000 + h.toNat * 4194304 + a.toNat * 256 < 2 ^ 32)
theorem modei (s : BitVec 12) (f : BitVec 3) : Statement (.modei s f) := by
  have := s.isLt; have := f.isLt
  exact (by omega : 0x0C000000 + s.toNat * 8 + f.toNat < 2 ^ 32)
theorem win (h : BitVec 2) (a : BitVec 7) : Statement (.win h a) := by
  have := h.isLt; have := a.isLt
  exact (by omega : 0x0D000000 + h.toNat * 4194304 + a.toNat * 256 < 2 ^ 32)
theorem wini (i : BitVec 15) : Statement (.wini i) := by
  have := i.isLt
  exact (by omega : 0x0E000000 + i.toNat < 2 ^ 32)
theorem rds (d : BitVec 7) (s : BitVec 12) : Statement (.rds d s) := by
  have := d.isLt; have := s.isLt
  exact (by omega : 0x0F000000 + d.toNat * 32768 + s.toNat * 8 < 2 ^ 32)
theorem rdsClockLo (d : BitVec 7) : Statement (.rdsClockLo d) := by
  have := d.isLt
  exact (by omega : 0x0F000180 + d.toNat * 32768 < 2 ^ 32)
theorem wrs (d : BitVec 7) (s : BitVec 12) : Statement (.wrs d s) := by
  have := d.isLt; have := s.isLt
  exact (by omega : 0x10000000 + d.toNat * 32768 + s.toNat * 8 < 2 ^ 32)
theorem wrsWin (d : BitVec 7) : Statement (.wrsWin d) := by
  have := d.isLt
  exact (by omega : 0x10000080 + d.toNat * 32768 < 2 ^ 32)
theorem wrsFlags (d : BitVec 7) : Statement (.wrsFlags d) := by
  have := d.isLt
  exact (by omega : 0x10000100 + d.toNat * 32768 < 2 ^ 32)
theorem wrsSrseed (d : BitVec 7) : Statement (.wrsSrseed d) := by
  have := d.isLt
  exact (by omega : 0x10000108 + d.toNat * 32768 < 2 ^ 32)
theorem freeze (l : BitVec 3) : Statement (.freeze l) := by
  have := l.isLt
  exact (by omega : 0x11000000 + l.toNat < 2 ^ 32)
theorem grow (i : BitVec 15) : Statement (.grow i) := by
  have := i.isLt
  exact (by omega : 0x12000000 + i.toNat < 2 ^ 32)
theorem shrink (i : BitVec 15) : Statement (.shrink i) := by
  have := i.isLt
  exact (by omega : 0x13000000 + i.toNat < 2 ^ 32)
theorem growReg (h : BitVec 2) (a : BitVec 7) : Statement (.growReg h a) := by
  have := h.isLt; have := a.isLt
  exact (by omega : 0x1E000000 + h.toNat * 4194304 + a.toNat * 256 < 2 ^ 32)
theorem shrinkReg (h : BitVec 2) (a : BitVec 7) : Statement (.shrinkReg h a) := by
  have := h.isLt; have := a.isLt
  exact (by omega : 0x1F000000 + h.toNat * 4194304 + a.toNat * 256 < 2 ^ 32)
theorem donate (h : BitVec 2) (a : BitVec 7) (n : BitVec 8) : Statement (.donate h a n) := by
  have := h.isLt; have := a.isLt; have := n.isLt
  exact (by omega : 0x14000000 + h.toNat * 4194304 + a.toNat * 256 + n.toNat < 2 ^ 32)
theorem rend (k : BitVec 4) : Statement (.rend k) := by
  have := k.isLt
  exact (by omega : 0x15000000 + k.toNat < 2 ^ 32)
theorem bar (c : BitVec 1) (n : BitVec 4) (i : BitVec 15) : Statement (.bar c n i) := by
  have := c.isLt; have := n.isLt; have := i.isLt
  exact (by omega : 0x16000000 + c.toNat * 2097152 + n.toNat * 32768 + i.toNat < 2 ^ 32)
theorem bara (c : BitVec 1) (n : BitVec 4) (i : BitVec 15) : Statement (.bara c n i) := by
  have := c.isLt; have := n.isLt; have := i.isLt
  exact (by omega : 0x17000000 + c.toNat * 2097152 + n.toNat * 32768 + i.toNat < 2 ^ 32)
theorem barReg (h : BitVec 2) (a : BitVec 7) (c : BitVec 1) (n : BitVec 4) : Statement (.barReg h a c n) := by
  have := h.isLt; have := a.isLt; have := c.isLt; have := n.isLt
  exact (by omega : 0x20000000 + h.toNat * 4194304 + a.toNat * 256 + c.toNat * 128 + n.toNat < 2 ^ 32)
theorem baraReg (h : BitVec 2) (a : BitVec 7) (c : BitVec 1) (n : BitVec 4) : Statement (.baraReg h a c n) := by
  have := h.isLt; have := a.isLt; have := c.isLt; have := n.isLt
  exact (by omega : 0x21000000 + h.toNat * 4194304 + a.toNat * 256 + c.toNat * 128 + n.toNat < 2 ^ 32)
theorem waitc (h : BitVec 2) (a : BitVec 7) (p : BitVec 3) : Statement (.waitc h a p) := by
  have := h.isLt; have := a.isLt; have := p.isLt
  exact (by omega : 0x18000000 + h.toNat * 4194304 + a.toNat * 256 + p.toNat < 2 ^ 32)
theorem waitp (h : BitVec 2) (a : BitVec 7) (p : BitVec 1) : Statement (.waitp h a p) := by
  have := h.isLt; have := a.isLt; have := p.isLt
  exact (by omega : 0x19000000 + h.toNat * 4194304 + a.toNat * 256 + p.toNat < 2 ^ 32)
theorem sleep (i : BitVec 15) : Statement (.sleep i) := by
  have := i.isLt
  exact (by omega : 0x1B000000 + i.toNat < 2 ^ 32)
theorem trap (i : BitVec 15) : Statement (.trap i) := by
  have := i.isLt
  exact (by omega : 0x1C000000 + i.toNat < 2 ^ 32)
theorem iadd (h : BitVec 2) (d : BitVec 7) (a : BitVec 7) (b : BitVec 7) : Statement (.iadd h d a b) := by
  have := h.isLt; have := d.isLt; have := a.isLt; have := b.isLt
  exact (by omega : 0x30000000 + h.toNat * 4194304 + d.toNat * 32768 + a.toNat * 256 + b.toNat * 2 < 2 ^ 32)
theorem iaddi (h : BitVec 2) (d : BitVec 7) (a : BitVec 7) (i : BitVec 8) : Statement (.iaddi h d a i) := by
  have := h.isLt; have := d.isLt; have := a.isLt; have := i.isLt
  exact (by omega : 0x31000000 + h.toNat * 4194304 + d.toNat * 32768 + a.toNat * 256 + i.toNat < 2 ^ 32)
theorem isub (h : BitVec 2) (d : BitVec 7) (a : BitVec 7) (b : BitVec 7) : Statement (.isub h d a b) := by
  have := h.isLt; have := d.isLt; have := a.isLt; have := b.isLt
  exact (by omega : 0x32000000 + h.toNat * 4194304 + d.toNat * 32768 + a.toNat * 256 + b.toNat * 2 < 2 ^ 32)
theorem imul (h : BitVec 2) (d : BitVec 7) (a : BitVec 7) (b : BitVec 7) : Statement (.imul h d a b) := by
  have := h.isLt; have := d.isLt; have := a.isLt; have := b.isLt
  exact (by omega : 0x33000000 + h.toNat * 4194304 + d.toNat * 32768 + a.toNat * 256 + b.toNat * 2 < 2 ^ 32)
theorem imulImm (h : BitVec 2) (d : BitVec 7) (a : BitVec 7) (i : BitVec 8) : Statement (.imulImm h d a i) := by
  have := h.isLt; have := d.isLt; have := a.isLt; have := i.isLt
  exact (by omega : 0x34000000 + h.toNat * 4194304 + d.toNat * 32768 + a.toNat * 256 + i.toNat < 2 ^ 32)
theorem imulh (h : BitVec 2) (d : BitVec 7) (a : BitVec 7) (b : BitVec 7) : Statement (.imulh h d a b) := by
  have := h.isLt; have := d.isLt; have := a.isLt; have := b.isLt
  exact (by omega : 0x35000000 + h.toNat * 4194304 + d.toNat * 32768 + a.toNat * 256 + b.toNat * 2 < 2 ^ 32)
theorem imad (h : BitVec 2) (d : BitVec 7) (a : BitVec 7) (b : BitVec 7) : Statement (.imad h d a b) := by
  have := h.isLt; have := d.isLt; have := a.isLt; have := b.isLt
  exact (by omega : 0x36000000 + h.toNat * 4194304 + d.toNat * 32768 + a.toNat * 256 + b.toNat * 2 < 2 ^ 32)
theorem imin (h : BitVec 2) (d : BitVec 7) (a : BitVec 7) (b : BitVec 7) : Statement (.imin h d a b) := by
  have := h.isLt; have := d.isLt; have := a.isLt; have := b.isLt
  exact (by omega : 0x37000000 + h.toNat * 4194304 + d.toNat * 32768 + a.toNat * 256 + b.toNat * 2 < 2 ^ 32)
theorem iminImm (h : BitVec 2) (d : BitVec 7) (a : BitVec 7) (i : BitVec 8) : Statement (.iminImm h d a i) := by
  have := h.isLt; have := d.isLt; have := a.isLt; have := i.isLt
  exact (by omega : 0x38000000 + h.toNat * 4194304 + d.toNat * 32768 + a.toNat * 256 + i.toNat < 2 ^ 32)
theorem imax (h : BitVec 2) (d : BitVec 7) (a : BitVec 7) (b : BitVec 7) : Statement (.imax h d a b) := by
  have := h.isLt; have := d.isLt; have := a.isLt; have := b.isLt
  exact (by omega : 0x39000000 + h.toNat * 4194304 + d.toNat * 32768 + a.toNat * 256 + b.toNat * 2 < 2 ^ 32)
theorem imaxImm (h : BitVec 2) (d : BitVec 7) (a : BitVec 7) (i : BitVec 8) : Statement (.imaxImm h d a i) := by
  have := h.isLt; have := d.isLt; have := a.isLt; have := i.isLt
  exact (by omega : 0x3A000000 + h.toNat * 4194304 + d.toNat * 32768 + a.toNat * 256 + i.toNat < 2 ^ 32)
theorem iabs (h : BitVec 2) (d : BitVec 7) (a : BitVec 7) : Statement (.iabs h d a) := by
  have := h.isLt; have := d.isLt; have := a.isLt
  exact (by omega : 0x3B000000 + h.toNat * 4194304 + d.toNat * 32768 + a.toNat * 256 < 2 ^ 32)
theorem and (h : BitVec 2) (d : BitVec 7) (a : BitVec 7) (b : BitVec 7) : Statement (.and h d a b) := by
  have := h.isLt; have := d.isLt; have := a.isLt; have := b.isLt
  exact (by omega : 0x3C000000 + h.toNat * 4194304 + d.toNat * 32768 + a.toNat * 256 + b.toNat * 2 < 2 ^ 32)
theorem andImm (h : BitVec 2) (d : BitVec 7) (a : BitVec 7) (i : BitVec 8) : Statement (.andImm h d a i) := by
  have := h.isLt; have := d.isLt; have := a.isLt; have := i.isLt
  exact (by omega : 0x3D000000 + h.toNat * 4194304 + d.toNat * 32768 + a.toNat * 256 + i.toNat < 2 ^ 32)
theorem or (h : BitVec 2) (d : BitVec 7) (a : BitVec 7) (b : BitVec 7) : Statement (.or h d a b) := by
  have := h.isLt; have := d.isLt; have := a.isLt; have := b.isLt
  exact (by omega : 0x3E000000 + h.toNat * 4194304 + d.toNat * 32768 + a.toNat * 256 + b.toNat * 2 < 2 ^ 32)
theorem orImm (h : BitVec 2) (d : BitVec 7) (a : BitVec 7) (i : BitVec 8) : Statement (.orImm h d a i) := by
  have := h.isLt; have := d.isLt; have := a.isLt; have := i.isLt
  exact (by omega : 0x3F000000 + h.toNat * 4194304 + d.toNat * 32768 + a.toNat * 256 + i.toNat < 2 ^ 32)
theorem xor (h : BitVec 2) (d : BitVec 7) (a : BitVec 7) (b : BitVec 7) : Statement (.xor h d a b) := by
  have := h.isLt; have := d.isLt; have := a.isLt; have := b.isLt
  exact (by omega : 0x40000000 + h.toNat * 4194304 + d.toNat * 32768 + a.toNat * 256 + b.toNat * 2 < 2 ^ 32)
theorem xorImm (h : BitVec 2) (d : BitVec 7) (a : BitVec 7) (i : BitVec 8) : Statement (.xorImm h d a i) := by
  have := h.isLt; have := d.isLt; have := a.isLt; have := i.isLt
  exact (by omega : 0x41000000 + h.toNat * 4194304 + d.toNat * 32768 + a.toNat * 256 + i.toNat < 2 ^ 32)
theorem andn (h : BitVec 2) (d : BitVec 7) (a : BitVec 7) (b : BitVec 7) : Statement (.andn h d a b) := by
  have := h.isLt; have := d.isLt; have := a.isLt; have := b.isLt
  exact (by omega : 0x42000000 + h.toNat * 4194304 + d.toNat * 32768 + a.toNat * 256 + b.toNat * 2 < 2 ^ 32)
theorem not (h : BitVec 2) (d : BitVec 7) (a : BitVec 7) : Statement (.not h d a) := by
  have := h.isLt; have := d.isLt; have := a.isLt
  exact (by omega : 0x43000000 + h.toNat * 4194304 + d.toNat * 32768 + a.toNat * 256 < 2 ^ 32)
theorem shl (h : BitVec 2) (d : BitVec 7) (a : BitVec 7) (b : BitVec 7) : Statement (.shl h d a b) := by
  have := h.isLt; have := d.isLt; have := a.isLt; have := b.isLt
  exact (by omega : 0x44000000 + h.toNat * 4194304 + d.toNat * 32768 + a.toNat * 256 + b.toNat * 2 < 2 ^ 32)
theorem shlImm (h : BitVec 2) (d : BitVec 7) (a : BitVec 7) (n : BitVec 5) : Statement (.shlImm h d a n) := by
  have := h.isLt; have := d.isLt; have := a.isLt; have := n.isLt
  exact (by omega : 0x45000000 + h.toNat * 4194304 + d.toNat * 32768 + a.toNat * 256 + n.toNat < 2 ^ 32)
theorem shr (h : BitVec 2) (d : BitVec 7) (a : BitVec 7) (b : BitVec 7) : Statement (.shr h d a b) := by
  have := h.isLt; have := d.isLt; have := a.isLt; have := b.isLt
  exact (by omega : 0x46000000 + h.toNat * 4194304 + d.toNat * 32768 + a.toNat * 256 + b.toNat * 2 < 2 ^ 32)
theorem shrImm (h : BitVec 2) (d : BitVec 7) (a : BitVec 7) (n : BitVec 5) : Statement (.shrImm h d a n) := by
  have := h.isLt; have := d.isLt; have := a.isLt; have := n.isLt
  exact (by omega : 0x47000000 + h.toNat * 4194304 + d.toNat * 32768 + a.toNat * 256 + n.toNat < 2 ^ 32)
theorem sar (h : BitVec 2) (d : BitVec 7) (a : BitVec 7) (b : BitVec 7) : Statement (.sar h d a b) := by
  have := h.isLt; have := d.isLt; have := a.isLt; have := b.isLt
  exact (by omega : 0x48000000 + h.toNat * 4194304 + d.toNat * 32768 + a.toNat * 256 + b.toNat * 2 < 2 ^ 32)
theorem sarImm (h : BitVec 2) (d : BitVec 7) (a : BitVec 7) (n : BitVec 5) : Statement (.sarImm h d a n) := by
  have := h.isLt; have := d.isLt; have := a.isLt; have := n.isLt
  exact (by omega : 0x49000000 + h.toNat * 4194304 + d.toNat * 32768 + a.toNat * 256 + n.toNat < 2 ^ 32)
theorem rot (h : BitVec 2) (d : BitVec 7) (a : BitVec 7) (b : BitVec 7) : Statement (.rot h d a b) := by
  have := h.isLt; have := d.isLt; have := a.isLt; have := b.isLt
  exact (by omega : 0x4A000000 + h.toNat * 4194304 + d.toNat * 32768 + a.toNat * 256 + b.toNat * 2 < 2 ^ 32)
theorem rotImm (h : BitVec 2) (d : BitVec 7) (a : BitVec 7) (n : BitVec 5) : Statement (.rotImm h d a n) := by
  have := h.isLt; have := d.isLt; have := a.isLt; have := n.isLt
  exact (by omega : 0x4B000000 + h.toNat * 4194304 + d.toNat * 32768 + a.toNat * 256 + n.toNat < 2 ^ 32)
theorem popc (h : BitVec 2) (d : BitVec 7) (a : BitVec 7) : Statement (.popc h d a) := by
  have := h.isLt; have := d.isLt; have := a.isLt
  exact (by omega : 0x4C000000 + h.toNat * 4194304 + d.toNat * 32768 + a.toNat * 256 < 2 ^ 32)
theorem clz (h : BitVec 2) (d : BitVec 7) (a : BitVec 7) : Statement (.clz h d a) := by
  have := h.isLt; have := d.isLt; have := a.isLt
  exact (by omega : 0x4D000000 + h.toNat * 4194304 + d.toNat * 32768 + a.toNat * 256 < 2 ^ 32)
theorem brev (h : BitVec 2) (d : BitVec 7) (a : BitVec 7) : Statement (.brev h d a) := by
  have := h.isLt; have := d.isLt; have := a.isLt
  exact (by omega : 0x4E000000 + h.toNat * 4194304 + d.toNat * 32768 + a.toNat * 256 < 2 ^ 32)
theorem bfe (h : BitVec 2) (d : BitVec 7) (a : BitVec 7) (b : BitVec 7) : Statement (.bfe h d a b) := by
  have := h.isLt; have := d.isLt; have := a.isLt; have := b.isLt
  exact (by omega : 0x4F000000 + h.toNat * 4194304 + d.toNat * 32768 + a.toNat * 256 + b.toNat * 2 < 2 ^ 32)
theorem bfi (h : BitVec 2) (d : BitVec 7) (a : BitVec 7) (b : BitVec 7) : Statement (.bfi h d a b) := by
  have := h.isLt; have := d.isLt; have := a.isLt; have := b.isLt
  exact (by omega : 0x50000000 + h.toNat * 4194304 + d.toNat * 32768 + a.toNat * 256 + b.toNat * 2 < 2 ^ 32)
theorem icmp (h : BitVec 2) (c : BitVec 4) (p : BitVec 3) (a : BitVec 7) (b : BitVec 7) : Statement (.icmp h c p a b) := by
  have := h.isLt; have := c.isLt; have := p.isLt; have := a.isLt; have := b.isLt
  exact (by omega : 0x51000000 + h.toNat * 4194304 + c.toNat * 262144 + p.toNat * 32768 + a.toNat * 256 + b.toNat * 2 < 2 ^ 32)
theorem icmpImm (h : BitVec 2) (c : BitVec 4) (p : BitVec 3) (a : BitVec 7) (i : BitVec 8) : Statement (.icmpImm h c p a i) := by
  have := h.isLt; have := c.isLt; have := p.isLt; have := a.isLt; have := i.isLt
  exact (by omega : 0x52000000 + h.toNat * 4194304 + c.toNat * 262144 + p.toNat * 32768 + a.toNat * 256 + i.toNat < 2 ^ 32)
theorem sel (h : BitVec 2) (d : BitVec 7) (a : BitVec 7) (b : BitVec 7) : Statement (.sel h d a b) := by
  have := h.isLt; have := d.isLt; have := a.isLt; have := b.isLt
  exact (by omega : 0x53000000 + h.toNat * 4194304 + d.toNat * 32768 + a.toNat * 256 + b.toNat * 2 < 2 ^ 32)
theorem mov (h : BitVec 2) (d : BitVec 7) (a : BitVec 7) : Statement (.mov h d a) := by
  have := h.isLt; have := d.isLt; have := a.isLt
  exact (by omega : 0x54000000 + h.toNat * 4194304 + d.toNat * 32768 + a.toNat * 256 < 2 ^ 32)
theorem movi (d : BitVec 7) (i : BitVec 15) : Statement (.movi d i) := by
  have := d.isLt; have := i.isLt
  exact (by omega : 0x55000000 + d.toNat * 32768 + i.toNat < 2 ^ 32)
theorem movh (j : BitVec 2) (d : BitVec 7) (i : BitVec 15) : Statement (.movh j d i) := by
  have := j.isLt; have := d.isLt; have := i.isLt
  exact (by omega : 0x56000000 + j.toNat * 4194304 + d.toNat * 32768 + i.toNat < 2 ^ 32)
theorem lea (h : BitVec 2) (d : BitVec 7) (a : BitVec 7) (b : BitVec 7) : Statement (.lea h d a b) := by
  have := h.isLt; have := d.isLt; have := a.isLt; have := b.isLt
  exact (by omega : 0x57000000 + h.toNat * 4194304 + d.toNat * 32768 + a.toNat * 256 + b.toNat * 2 < 2 ^ 32)
theorem pand (d : BitVec 3) (a : BitVec 3) (b : BitVec 3) (x : BitVec 1) : Statement (.pand d a b x) := by
  have := d.isLt; have := a.isLt; have := b.isLt; have := x.isLt
  exact (by omega : 0x58000000 + d.toNat * 32768 + a.toNat * 256 + b.toNat * 2 + x.toNat < 2 ^ 32)
theorem por (d : BitVec 3) (a : BitVec 3) (b : BitVec 3) (x : BitVec 1) : Statement (.por d a b x) := by
  have := d.isLt; have := a.isLt; have := b.isLt; have := x.isLt
  exact (by omega : 0x59000000 + d.toNat * 32768 + a.toNat * 256 + b.toNat * 2 + x.toNat < 2 ^ 32)
theorem pnot (d : BitVec 3) (a : BitVec 3) : Statement (.pnot d a) := by
  have := d.isLt; have := a.isLt
  exact (by omega : 0x5A000000 + d.toNat * 32768 + a.toNat * 256 < 2 ^ 32)
theorem pmov (d : BitVec 3) (a : BitVec 3) : Statement (.pmov d a) := by
  have := d.isLt; have := a.isLt
  exact (by omega : 0x5B000000 + d.toNat * 32768 + a.toNat * 256 < 2 ^ 32)
theorem pmovReg (h : BitVec 2) (d : BitVec 3) (a : BitVec 7) : Statement (.pmovReg h d a) := by
  have := h.isLt; have := d.isLt; have := a.isLt
  exact (by omega : 0x5B000001 + h.toNat * 4194304 + d.toNat * 32768 + a.toNat * 256 < 2 ^ 32)
theorem fadd (h : BitVec 2) (d : BitVec 7) (a : BitVec 7) (b : BitVec 7) : Statement (.fadd h d a b) := by
  have := h.isLt; have := d.isLt; have := a.isLt; have := b.isLt
  exact (by omega : 0x70000000 + h.toNat * 4194304 + d.toNat * 32768 + a.toNat * 256 + b.toNat * 2 < 2 ^ 32)
theorem faddAbs (h : BitVec 2) (d : BitVec 7) (a : BitVec 7) (b : BitVec 7) : Statement (.faddAbs h d a b) := by
  have := h.isLt; have := d.isLt; have := a.isLt; have := b.isLt
  exact (by omega : 0x71000000 + h.toNat * 4194304 + d.toNat * 32768 + a.toNat * 256 + b.toNat * 2 < 2 ^ 32)
theorem fsub (h : BitVec 2) (d : BitVec 7) (a : BitVec 7) (b : BitVec 7) : Statement (.fsub h d a b) := by
  have := h.isLt; have := d.isLt; have := a.isLt; have := b.isLt
  exact (by omega : 0x72000000 + h.toNat * 4194304 + d.toNat * 32768 + a.toNat * 256 + b.toNat * 2 < 2 ^ 32)
theorem fsubAbs (h : BitVec 2) (d : BitVec 7) (a : BitVec 7) (b : BitVec 7) : Statement (.fsubAbs h d a b) := by
  have := h.isLt; have := d.isLt; have := a.isLt; have := b.isLt
  exact (by omega : 0x73000000 + h.toNat * 4194304 + d.toNat * 32768 + a.toNat * 256 + b.toNat * 2 < 2 ^ 32)
theorem fmul (h : BitVec 2) (d : BitVec 7) (a : BitVec 7) (b : BitVec 7) : Statement (.fmul h d a b) := by
  have := h.isLt; have := d.isLt; have := a.isLt; have := b.isLt
  exact (by omega : 0x74000000 + h.toNat * 4194304 + d.toNat * 32768 + a.toNat * 256 + b.toNat * 2 < 2 ^ 32)
theorem fmulAbs (h : BitVec 2) (d : BitVec 7) (a : BitVec 7) (b : BitVec 7) : Statement (.fmulAbs h d a b) := by
  have := h.isLt; have := d.isLt; have := a.isLt; have := b.isLt
  exact (by omega : 0x75000000 + h.toNat * 4194304 + d.toNat * 32768 + a.toNat * 256 + b.toNat * 2 < 2 ^ 32)
theorem ffma (h : BitVec 2) (d : BitVec 7) (a : BitVec 7) (b : BitVec 7) : Statement (.ffma h d a b) := by
  have := h.isLt; have := d.isLt; have := a.isLt; have := b.isLt
  exact (by omega : 0x76000000 + h.toNat * 4194304 + d.toNat * 32768 + a.toNat * 256 + b.toNat * 2 < 2 ^ 32)
theorem ffmaNp (h : BitVec 2) (d : BitVec 7) (a : BitVec 7) (b : BitVec 7) : Statement (.ffmaNp h d a b) := by
  have := h.isLt; have := d.isLt; have := a.isLt; have := b.isLt
  exact (by omega : 0x77000000 + h.toNat * 4194304 + d.toNat * 32768 + a.toNat * 256 + b.toNat * 2 < 2 ^ 32)
theorem ffmaNd (h : BitVec 2) (d : BitVec 7) (a : BitVec 7) (b : BitVec 7) : Statement (.ffmaNd h d a b) := by
  have := h.isLt; have := d.isLt; have := a.isLt; have := b.isLt
  exact (by omega : 0x78000000 + h.toNat * 4194304 + d.toNat * 32768 + a.toNat * 256 + b.toNat * 2 < 2 ^ 32)
theorem ffmaNn (h : BitVec 2) (d : BitVec 7) (a : BitVec 7) (b : BitVec 7) : Statement (.ffmaNn h d a b) := by
  have := h.isLt; have := d.isLt; have := a.isLt; have := b.isLt
  exact (by omega : 0x79000000 + h.toNat * 4194304 + d.toNat * 32768 + a.toNat * 256 + b.toNat * 2 < 2 ^ 32)
theorem fmin (h : BitVec 2) (d : BitVec 7) (a : BitVec 7) (b : BitVec 7) : Statement (.fmin h d a b) := by
  have := h.isLt; have := d.isLt; have := a.isLt; have := b.isLt
  exact (by omega : 0x7A000000 + h.toNat * 4194304 + d.toNat * 32768 + a.toNat * 256 + b.toNat * 2 < 2 ^ 32)
theorem fminNan (h : BitVec 2) (d : BitVec 7) (a : BitVec 7) (b : BitVec 7) : Statement (.fminNan h d a b) := by
  have := h.isLt; have := d.isLt; have := a.isLt; have := b.isLt
  exact (by omega : 0x7B000000 + h.toNat * 4194304 + d.toNat * 32768 + a.toNat * 256 + b.toNat * 2 < 2 ^ 32)
theorem fminAbs (h : BitVec 2) (d : BitVec 7) (a : BitVec 7) (b : BitVec 7) : Statement (.fminAbs h d a b) := by
  have := h.isLt; have := d.isLt; have := a.isLt; have := b.isLt
  exact (by omega : 0x7C000000 + h.toNat * 4194304 + d.toNat * 32768 + a.toNat * 256 + b.toNat * 2 < 2 ^ 32)
theorem fmax (h : BitVec 2) (d : BitVec 7) (a : BitVec 7) (b : BitVec 7) : Statement (.fmax h d a b) := by
  have := h.isLt; have := d.isLt; have := a.isLt; have := b.isLt
  exact (by omega : 0x7D000000 + h.toNat * 4194304 + d.toNat * 32768 + a.toNat * 256 + b.toNat * 2 < 2 ^ 32)
theorem fmaxNan (h : BitVec 2) (d : BitVec 7) (a : BitVec 7) (b : BitVec 7) : Statement (.fmaxNan h d a b) := by
  have := h.isLt; have := d.isLt; have := a.isLt; have := b.isLt
  exact (by omega : 0x7E000000 + h.toNat * 4194304 + d.toNat * 32768 + a.toNat * 256 + b.toNat * 2 < 2 ^ 32)
theorem fmaxAbs (h : BitVec 2) (d : BitVec 7) (a : BitVec 7) (b : BitVec 7) : Statement (.fmaxAbs h d a b) := by
  have := h.isLt; have := d.isLt; have := a.isLt; have := b.isLt
  exact (by omega : 0x7F000000 + h.toNat * 4194304 + d.toNat * 32768 + a.toNat * 256 + b.toNat * 2 < 2 ^ 32)
theorem fcmp (h : BitVec 2) (c : BitVec 4) (p : BitVec 3) (a : BitVec 7) (b : BitVec 7) : Statement (.fcmp h c p a b) := by
  have := h.isLt; have := c.isLt; have := p.isLt; have := a.isLt; have := b.isLt
  exact (by omega : 0x80000000 + h.toNat * 4194304 + c.toNat * 262144 + p.toNat * 32768 + a.toNat * 256 + b.toNat * 2 < 2 ^ 32)
theorem fcmpZ (h : BitVec 2) (c : BitVec 4) (p : BitVec 3) (a : BitVec 7) : Statement (.fcmpZ h c p a) := by
  have := h.isLt; have := c.isLt; have := p.isLt; have := a.isLt
  exact (by omega : 0x81000000 + h.toNat * 4194304 + c.toNat * 262144 + p.toNat * 32768 + a.toNat * 256 < 2 ^ 32)
theorem frcp (h : BitVec 2) (d : BitVec 7) (a : BitVec 7) : Statement (.frcp h d a) := by
  have := h.isLt; have := d.isLt; have := a.isLt
  exact (by omega : 0x82000000 + h.toNat * 4194304 + d.toNat * 32768 + a.toNat * 256 < 2 ^ 32)
theorem frsq (h : BitVec 2) (d : BitVec 7) (a : BitVec 7) : Statement (.frsq h d a) := by
  have := h.isLt; have := d.isLt; have := a.isLt
  exact (by omega : 0x83000000 + h.toNat * 4194304 + d.toNat * 32768 + a.toNat * 256 < 2 ^ 32)
theorem fsqrt (h : BitVec 2) (d : BitVec 7) (a : BitVec 7) : Statement (.fsqrt h d a) := by
  have := h.isLt; have := d.isLt; have := a.isLt
  exact (by omega : 0x84000000 + h.toNat * 4194304 + d.toNat * 32768 + a.toNat * 256 < 2 ^ 32)
theorem fexp2 (h : BitVec 2) (d : BitVec 7) (a : BitVec 7) : Statement (.fexp2 h d a) := by
  have := h.isLt; have := d.isLt; have := a.isLt
  exact (by omega : 0x85000000 + h.toNat * 4194304 + d.toNat * 32768 + a.toNat * 256 < 2 ^ 32)
theorem flog2 (h : BitVec 2) (d : BitVec 7) (a : BitVec 7) : Statement (.flog2 h d a) := by
  have := h.isLt; have := d.isLt; have := a.isLt
  exact (by omega : 0x86000000 + h.toNat * 4194304 + d.toNat * 32768 + a.toNat * 256 < 2 ^ 32)
theorem fsin (h : BitVec 2) (d : BitVec 7) (a : BitVec 7) : Statement (.fsin h d a) := by
  have := h.isLt; have := d.isLt; have := a.isLt
  exact (by omega : 0x87000000 + h.toNat * 4194304 + d.toNat * 32768 + a.toNat * 256 < 2 ^ 32)
theorem fsinPi (h : BitVec 2) (d : BitVec 7) (a : BitVec 7) : Statement (.fsinPi h d a) := by
  have := h.isLt; have := d.isLt; have := a.isLt
  exact (by omega : 0x88000000 + h.toNat * 4194304 + d.toNat * 32768 + a.toNat * 256 < 2 ^ 32)
theorem fcos (h : BitVec 2) (d : BitVec 7) (a : BitVec 7) : Statement (.fcos h d a) := by
  have := h.isLt; have := d.isLt; have := a.isLt
  exact (by omega : 0x89000000 + h.toNat * 4194304 + d.toNat * 32768 + a.toNat * 256 < 2 ^ 32)
theorem fcosPi (h : BitVec 2) (d : BitVec 7) (a : BitVec 7) : Statement (.fcosPi h d a) := by
  have := h.isLt; have := d.isLt; have := a.isLt
  exact (by omega : 0x8A000000 + h.toNat * 4194304 + d.toNat * 32768 + a.toNat * 256 < 2 ^ 32)
theorem ftanh (h : BitVec 2) (d : BitVec 7) (a : BitVec 7) : Statement (.ftanh h d a) := by
  have := h.isLt; have := d.isLt; have := a.isLt
  exact (by omega : 0x8B000000 + h.toNat * 4194304 + d.toNat * 32768 + a.toNat * 256 < 2 ^ 32)
theorem ffloor (h : BitVec 2) (d : BitVec 7) (a : BitVec 7) : Statement (.ffloor h d a) := by
  have := h.isLt; have := d.isLt; have := a.isLt
  exact (by omega : 0x8C000000 + h.toNat * 4194304 + d.toNat * 32768 + a.toNat * 256 < 2 ^ 32)
theorem ffrac (h : BitVec 2) (d : BitVec 7) (a : BitVec 7) : Statement (.ffrac h d a) := by
  have := h.isLt; have := d.isLt; have := a.isLt
  exact (by omega : 0x8D000000 + h.toNat * 4194304 + d.toNat * 32768 + a.toNat * 256 < 2 ^ 32)
theorem cvt (h : BitVec 2) (d : BitVec 7) (a : BitVec 7) (t : BitVec 4) : Statement (.cvt h d a t) := by
  have := h.isLt; have := d.isLt; have := a.isLt; have := t.isLt
  exact (by omega : 0x8E000000 + h.toNat * 4194304 + d.toNat * 32768 + a.toNat * 256 + t.toNat * 2 < 2 ^ 32)
theorem cvtFi (h : BitVec 2) (d : BitVec 7) (a : BitVec 7) (t : BitVec 4) : Statement (.cvtFi h d a t) := by
  have := h.isLt; have := d.isLt; have := a.isLt; have := t.isLt
  exact (by omega : 0x8F000000 + h.toNat * 4194304 + d.toNat * 32768 + a.toNat * 256 + t.toNat * 2 < 2 ^ 32)
theorem cvtIf (h : BitVec 2) (d : BitVec 7) (a : BitVec 7) (t : BitVec 4) : Statement (.cvtIf h d a t) := by
  have := h.isLt; have := d.isLt; have := a.isLt; have := t.isLt
  exact (by omega : 0x90000000 + h.toNat * 4194304 + d.toNat * 32768 + a.toNat * 256 + t.toNat * 2 < 2 ^ 32)
theorem cvtIi (h : BitVec 2) (d : BitVec 7) (a : BitVec 7) (t : BitVec 4) : Statement (.cvtIi h d a t) := by
  have := h.isLt; have := d.isLt; have := a.isLt; have := t.isLt
  exact (by omega : 0x91000000 + h.toNat * 4194304 + d.toNat * 32768 + a.toNat * 256 + t.toNat * 2 < 2 ^ 32)
theorem cvtb (h : BitVec 2) (d : BitVec 7) (a : BitVec 7) (b : BitVec 7) : Statement (.cvtb h d a b) := by
  have := h.isLt; have := d.isLt; have := a.isLt; have := b.isLt
  exact (by omega : 0x92000000 + h.toNat * 4194304 + d.toNat * 32768 + a.toNat * 256 + b.toNat * 2 < 2 ^ 32)
theorem cvtbD (h : BitVec 2) (d : BitVec 7) (a : BitVec 7) (b : BitVec 7) : Statement (.cvtbD h d a b) := by
  have := h.isLt; have := d.isLt; have := a.isLt; have := b.isLt
  exact (by omega : 0x93000000 + h.toNat * 4194304 + d.toNat * 32768 + a.toNat * 256 + b.toNat * 2 < 2 ^ 32)
theorem cvts (h : BitVec 2) (d : BitVec 7) (a : BitVec 7) (b : BitVec 7) (x : BitVec 1) : Statement (.cvts h d a b x) := by
  have := h.isLt; have := d.isLt; have := a.isLt; have := b.isLt; have := x.isLt
  exact (by omega : 0x94000000 + h.toNat * 4194304 + d.toNat * 32768 + a.toNat * 256 + b.toNat * 2 + x.toNat < 2 ^ 32)
theorem cbenc (h : BitVec 2) (d : BitVec 7) (a : BitVec 7) : Statement (.cbenc h d a) := by
  have := h.isLt; have := d.isLt; have := a.isLt
  exact (by omega : 0x95000000 + h.toNat * 4194304 + d.toNat * 32768 + a.toNat * 256 < 2 ^ 32)
theorem vperm (h : BitVec 2) (d : BitVec 7) (a : BitVec 7) (b : BitVec 7) : Statement (.vperm h d a b) := by
  have := h.isLt; have := d.isLt; have := a.isLt; have := b.isLt
  exact (by omega : 0xA0000000 + h.toNat * 4194304 + d.toNat * 32768 + a.toNat * 256 + b.toNat * 2 < 2 ^ 32)
theorem vshfl (h : BitVec 2) (d : BitVec 7) (a : BitVec 7) (b : BitVec 7) : Statement (.vshfl h d a b) := by
  have := h.isLt; have := d.isLt; have := a.isLt; have := b.isLt
  exact (by omega : 0xA1000000 + h.toNat * 4194304 + d.toNat * 32768 + a.toNat * 256 + b.toNat * 2 < 2 ^ 32)
theorem vbfx (h : BitVec 2) (d : BitVec 7) (a : BitVec 7) (m : BitVec 5) : Statement (.vbfx h d a m) := by
  have := h.isLt; have := d.isLt; have := a.isLt; have := m.isLt
  exact (by omega : 0xA2000000 + h.toNat * 4194304 + d.toNat * 32768 + a.toNat * 256 + m.toNat < 2 ^ 32)
theorem vbcast (h : BitVec 2) (d : BitVec 7) (a : BitVec 7) (j : BitVec 5) : Statement (.vbcast h d a j) := by
  have := h.isLt; have := d.isLt; have := a.isLt; have := j.isLt
  exact (by omega : 0xA3000000 + h.toNat * 4194304 + d.toNat * 32768 + a.toNat * 256 + j.toNat < 2 ^ 32)
theorem vred (h : BitVec 2) (d : BitVec 7) (a : BitVec 7) (o : BitVec 3) : Statement (.vred h d a o) := by
  have := h.isLt; have := d.isLt; have := a.isLt; have := o.isLt
  exact (by omega : 0xA4000000 + h.toNat * 4194304 + d.toNat * 32768 + a.toNat * 256 + o.toNat < 2 ^ 32)
theorem vscan (h : BitVec 2) (d : BitVec 7) (a : BitVec 7) (e : BitVec 1) (o : BitVec 3) : Statement (.vscan h d a e o) := by
  have := h.isLt; have := d.isLt; have := a.isLt; have := e.isLt; have := o.isLt
  exact (by omega : 0xA5000000 + h.toNat * 4194304 + d.toNat * 32768 + a.toNat * 256 + e.toNat * 8 + o.toNat < 2 ^ 32)
theorem vrdi (h : BitVec 2) (d : BitVec 7) (a : BitVec 7) : Statement (.vrdi h d a) := by
  have := h.isLt; have := d.isLt; have := a.isLt
  exact (by omega : 0xA6000000 + h.toNat * 4194304 + d.toNat * 32768 + a.toNat * 256 < 2 ^ 32)
theorem vwri (h : BitVec 2) (d : BitVec 7) (a : BitVec 7) : Statement (.vwri h d a) := by
  have := h.isLt; have := d.isLt; have := a.isLt
  exact (by omega : 0xA7000000 + h.toNat * 4194304 + d.toNat * 32768 + a.toNat * 256 < 2 ^ 32)
theorem vbal (d : BitVec 7) (p : BitVec 3) : Statement (.vbal d p) := by
  have := d.isLt; have := p.isLt
  exact (by omega : 0xA8000000 + d.toNat * 32768 + p.toNat * 256 < 2 ^ 32)
theorem vvote (v : BitVec 4) (d : BitVec 3) (p : BitVec 3) : Statement (.vvote v d p) := by
  have := v.isLt; have := d.isLt; have := p.isLt
  exact (by omega : 0xA9000000 + v.toNat * 262144 + d.toNat * 32768 + p.toNat * 256 < 2 ^ 32)
theorem brec (h : BitVec 2) (r : BitVec 4) (a : BitVec 7) : Statement (.brec h r a) := by
  have := h.isLt; have := r.isLt; have := a.isLt
  exact (by omega : 0xB0000000 + h.toNat * 4194304 + r.toNat * 32768 + a.toNat * 256 < 2 ^ 32)
theorem ld (h : BitVec 2) (d : BitVec 7) (a : BitVec 7) (r : BitVec 4) : Statement (.ld h d a r) := by
  have := h.isLt; have := d.isLt; have := a.isLt; have := r.isLt
  exact (by omega : 0xB1000000 + h.toNat * 4194304 + d.toNat * 32768 + a.toNat * 256 + r.toNat * 2 < 2 ^ 32)
theorem ldImm (d : BitVec 7) (r : BitVec 4) (i : BitVec 8) : Statement (.ldImm d r i) := by
  have := d.isLt; have := r.isLt; have := i.isLt
  exact (by omega : 0xB2000000 + d.toNat * 32768 + r.toNat * 256 + i.toNat < 2 ^ 32)
theorem ldx (h : BitVec 2) (d : BitVec 7) (a : BitVec 7) (r : BitVec 4) (w : BitVec 1) : Statement (.ldx h d a r w) := by
  have := h.isLt; have := d.isLt; have := a.isLt; have := r.isLt; have := w.isLt
  exact (by omega : 0xB3000000 + h.toNat * 4194304 + d.toNat * 32768 + a.toNat * 256 + r.toNat * 2 + w.toNat < 2 ^ 32)
theorem ldxImm (d : BitVec 7) (r : BitVec 4) (w : BitVec 1) (i : BitVec 7) : Statement (.ldxImm d r w i) := by
  have := d.isLt; have := r.isLt; have := w.isLt; have := i.isLt
  exact (by omega : 0xB4000000 + d.toNat * 32768 + r.toNat * 256 + w.toNat * 128 + i.toNat < 2 ^ 32)
theorem st (h : BitVec 2) (d : BitVec 7) (a : BitVec 7) (r : BitVec 4) : Statement (.st h d a r) := by
  have := h.isLt; have := d.isLt; have := a.isLt; have := r.isLt
  exact (by omega : 0xB5000000 + h.toNat * 4194304 + d.toNat * 32768 + a.toNat * 256 + r.toNat * 2 < 2 ^ 32)
theorem stImm (d : BitVec 7) (r : BitVec 4) (i : BitVec 8) : Statement (.stImm d r i) := by
  have := d.isLt; have := r.isLt; have := i.isLt
  exact (by omega : 0xB6000000 + d.toNat * 32768 + r.toNat * 256 + i.toNat < 2 ^ 32)
theorem stx (h : BitVec 2) (d : BitVec 7) (a : BitVec 7) (r : BitVec 4) (w : BitVec 1) : Statement (.stx h d a r w) := by
  have := h.isLt; have := d.isLt; have := a.isLt; have := r.isLt; have := w.isLt
  exact (by omega : 0xB7000000 + h.toNat * 4194304 + d.toNat * 32768 + a.toNat * 256 + r.toNat * 2 + w.toNat < 2 ^ 32)
theorem stxImm (d : BitVec 7) (r : BitVec 4) (w : BitVec 1) (i : BitVec 7) : Statement (.stxImm d r w i) := by
  have := d.isLt; have := r.isLt; have := w.isLt; have := i.isLt
  exact (by omega : 0xB8000000 + d.toNat * 32768 + r.toNat * 256 + w.toNat * 128 + i.toNat < 2 ^ 32)
theorem lda (h : BitVec 2) (d : BitVec 7) (a : BitVec 7) (r : BitVec 4) : Statement (.lda h d a r) := by
  have := h.isLt; have := d.isLt; have := a.isLt; have := r.isLt
  exact (by omega : 0xB9000000 + h.toNat * 4194304 + d.toNat * 32768 + a.toNat * 256 + r.toNat * 2 < 2 ^ 32)
theorem ldaImm (d : BitVec 7) (r : BitVec 4) (i : BitVec 8) : Statement (.ldaImm d r i) := by
  have := d.isLt; have := r.isLt; have := i.isLt
  exact (by omega : 0xBA000000 + d.toNat * 32768 + r.toNat * 256 + i.toNat < 2 ^ 32)
theorem stl (h : BitVec 2) (d : BitVec 7) (a : BitVec 7) (r : BitVec 4) : Statement (.stl h d a r) := by
  have := h.isLt; have := d.isLt; have := a.isLt; have := r.isLt
  exact (by omega : 0xBB000000 + h.toNat * 4194304 + d.toNat * 32768 + a.toNat * 256 + r.toNat * 2 < 2 ^ 32)
theorem stlImm (d : BitVec 7) (r : BitVec 4) (i : BitVec 8) : Statement (.stlImm d r i) := by
  have := d.isLt; have := r.isLt; have := i.isLt
  exact (by omega : 0xBC000000 + d.toNat * 32768 + r.toNat * 256 + i.toNat < 2 ^ 32)
theorem ldc (h : BitVec 2) (d : BitVec 7) (a : BitVec 7) (i : BitVec 8) : Statement (.ldc h d a i) := by
  have := h.isLt; have := d.isLt; have := a.isLt; have := i.isLt
  exact (by omega : 0xBD000000 + h.toNat * 4194304 + d.toNat * 32768 + a.toNat * 256 + i.toNat < 2 ^ 32)
theorem stc (h : BitVec 2) (d : BitVec 7) (a : BitVec 7) (i : BitVec 8) : Statement (.stc h d a i) := by
  have := h.isLt; have := d.isLt; have := a.isLt; have := i.isLt
  exact (by omega : 0xBE000000 + h.toNat * 4194304 + d.toNat * 32768 + a.toNat * 256 + i.toNat < 2 ^ 32)
theorem ldaCluster (h : BitVec 2) (d : BitVec 7) (a : BitVec 7) (i : BitVec 8) : Statement (.ldaCluster h d a i) := by
  have := h.isLt; have := d.isLt; have := a.isLt; have := i.isLt
  exact (by omega : 0xBF000000 + h.toNat * 4194304 + d.toNat * 32768 + a.toNat * 256 + i.toNat < 2 ^ 32)
theorem stlCluster (h : BitVec 2) (d : BitVec 7) (a : BitVec 7) (i : BitVec 8) : Statement (.stlCluster h d a i) := by
  have := h.isLt; have := d.isLt; have := a.isLt; have := i.isLt
  exact (by omega : 0xC0000000 + h.toNat * 4194304 + d.toNat * 32768 + a.toNat * 256 + i.toNat < 2 ^ 32)
theorem acpy (d : BitVec 7) (r : BitVec 4) (t : BitVec 1) (c : BitVec 1) : Statement (.acpy d r t c) := by
  have := d.isLt; have := r.isLt; have := t.isLt; have := c.isLt
  exact (by omega : 0xC1000000 + d.toNat * 32768 + r.toNat * 2048 + t.toNat * 1024 + c.toNat * 512 < 2 ^ 32)
theorem apln (d : BitVec 7) (r : BitVec 4) (t : BitVec 1) (c : BitVec 1) : Statement (.apln d r t c) := by
  have := d.isLt; have := r.isLt; have := t.isLt; have := c.isLt
  exact (by omega : 0xC2000000 + d.toNat * 32768 + r.toNat * 2048 + t.toNat * 1024 + c.toNat * 512 < 2 ^ 32)
theorem arrive (h : BitVec 2) (a : BitVec 7) (n : BitVec 8) : Statement (.arrive h a n) := by
  have := h.isLt; have := a.isLt; have := n.isLt
  exact (by omega : 0xC3000000 + h.toNat * 4194304 + a.toNat * 256 + n.toNat < 2 ^ 32)
theorem fence (m : BitVec 1) (s : BitVec 3) : Statement (.fence m s) := by
  have := m.isLt; have := s.isLt
  exact (by omega : 0xC4000000 + m.toNat * 8 + s.toNat < 2 ^ 32)
theorem publish (r : BitVec 4) : Statement (.publish r) := by
  have := r.isLt
  exact (by omega : 0xC5000000 + r.toNat * 8 < 2 ^ 32)
theorem publishVf (h : BitVec 2) (a : BitVec 7) (r : BitVec 4) : Statement (.publishVf h a r) := by
  have := h.isLt; have := a.isLt; have := r.isLt
  exact (by omega : 0xC6000000 + h.toNat * 4194304 + a.toNat * 256 + r.toNat < 2 ^ 32)
theorem pref (h : BitVec 2) (a : BitVec 7) (r : BitVec 4) : Statement (.pref h a r) := by
  have := h.isLt; have := a.isLt; have := r.isLt
  exact (by omega : 0xC7000000 + h.toNat * 4194304 + a.toNat * 256 + r.toNat * 2 < 2 ^ 32)
theorem prefImm (r : BitVec 4) (i : BitVec 8) : Statement (.prefImm r i) := by
  have := r.isLt; have := i.isLt
  exact (by omega : 0xC8000000 + r.toNat * 256 + i.toNat < 2 ^ 32)
theorem cbld (k : BitVec 3) (r : BitVec 4) (i : BitVec 8) : Statement (.cbld k r i) := by
  have := k.isLt; have := r.isLt; have := i.isLt
  exact (by omega : 0xC9000000 + k.toNat * 32768 + r.toNat * 256 + i.toNat < 2 ^ 32)
theorem atomGlobal (h : BitVec 2) (d : BitVec 7) (a : BitVec 7) (o : BitVec 3) (r : BitVec 4) : Statement (.atomGlobal h d a o r) := by
  have := h.isLt; have := d.isLt; have := a.isLt; have := o.isLt; have := r.isLt
  exact (by omega : 0xD0000000 + h.toNat * 4194304 + d.toNat * 32768 + a.toNat * 256 + o.toNat * 32 + r.toNat * 2 < 2 ^ 32)
theorem atomCluster (h : BitVec 2) (d : BitVec 7) (a : BitVec 7) (o : BitVec 3) : Statement (.atomCluster h d a o) := by
  have := h.isLt; have := d.isLt; have := a.isLt; have := o.isLt
  exact (by omega : 0xD1000000 + h.toNat * 4194304 + d.toNat * 32768 + a.toNat * 256 + o.toNat * 32 < 2 ^ 32)
theorem redGlobal (h : BitVec 2) (d : BitVec 7) (a : BitVec 7) (o : BitVec 3) (r : BitVec 4) : Statement (.redGlobal h d a o r) := by
  have := h.isLt; have := d.isLt; have := a.isLt; have := o.isLt; have := r.isLt
  exact (by omega : 0xD2000000 + h.toNat * 4194304 + d.toNat * 32768 + a.toNat * 256 + o.toNat * 32 + r.toNat * 2 < 2 ^ 32)
theorem redCluster (h : BitVec 2) (d : BitVec 7) (a : BitVec 7) (o : BitVec 3) : Statement (.redCluster h d a o) := by
  have := h.isLt; have := d.isLt; have := a.isLt; have := o.isLt
  exact (by omega : 0xD3000000 + h.toNat * 4194304 + d.toNat * 32768 + a.toNat * 256 + o.toNat * 32 < 2 ^ 32)
theorem atomfGlobal (h : BitVec 2) (d : BitVec 7) (a : BitVec 7) (o : BitVec 3) (r : BitVec 4) : Statement (.atomfGlobal h d a o r) := by
  have := h.isLt; have := d.isLt; have := a.isLt; have := o.isLt; have := r.isLt
  exact (by omega : 0xD4000000 + h.toNat * 4194304 + d.toNat * 32768 + a.toNat * 256 + o.toNat * 32 + r.toNat * 2 < 2 ^ 32)
theorem atomfCluster (h : BitVec 2) (d : BitVec 7) (a : BitVec 7) (o : BitVec 3) : Statement (.atomfCluster h d a o) := by
  have := h.isLt; have := d.isLt; have := a.isLt; have := o.isLt
  exact (by omega : 0xD5000000 + h.toNat * 4194304 + d.toNat * 32768 + a.toNat * 256 + o.toNat * 32 < 2 ^ 32)
theorem acasGlobal (h : BitVec 2) (d : BitVec 7) (a : BitVec 7) (r : BitVec 4) : Statement (.acasGlobal h d a r) := by
  have := h.isLt; have := d.isLt; have := a.isLt; have := r.isLt
  exact (by omega : 0xD6000000 + h.toNat * 4194304 + d.toNat * 32768 + a.toNat * 256 + r.toNat * 2 < 2 ^ 32)
theorem acasCluster (h : BitVec 2) (d : BitVec 7) (a : BitVec 7) : Statement (.acasCluster h d a) := by
  have := h.isLt; have := d.isLt; have := a.isLt
  exact (by omega : 0xD7000000 + h.toNat * 4194304 + d.toNat * 32768 + a.toNat * 256 < 2 ^ 32)
theorem atomp (d : BitVec 7) (r : BitVec 4) (k : BitVec 6) : Statement (.atomp d r k) := by
  have := d.isLt; have := r.isLt; have := k.isLt
  exact (by omega : 0xD8000000 + d.toNat * 32768 + r.toNat * 2048 + k.toNat * 32 < 2 ^ 32)
theorem waitmGlobal (h : BitVec 2) (d : BitVec 7) (a : BitVec 7) (c : BitVec 3) (r : BitVec 4) : Statement (.waitmGlobal h d a c r) := by
  have := h.isLt; have := d.isLt; have := a.isLt; have := c.isLt; have := r.isLt
  exact (by omega : 0xD9000000 + h.toNat * 4194304 + d.toNat * 32768 + a.toNat * 256 + c.toNat * 32 + r.toNat * 2 < 2 ^ 32)
theorem waitmCluster (h : BitVec 2) (d : BitVec 7) (a : BitVec 7) (c : BitVec 3) : Statement (.waitmCluster h d a c) := by
  have := h.isLt; have := d.isLt; have := a.isLt; have := c.isLt
  exact (by omega : 0xDA000000 + h.toNat * 4194304 + d.toNat * 32768 + a.toNat * 256 + c.toNat * 32 < 2 ^ 32)
theorem atomD (h : BitVec 2) (d : BitVec 7) (a : BitVec 7) (o : BitVec 3) (r : BitVec 4) : Statement (.atomD h d a o r) := by
  have := h.isLt; have := d.isLt; have := a.isLt; have := o.isLt; have := r.isLt
  exact (by omega : 0xDB000000 + h.toNat * 4194304 + d.toNat * 32768 + a.toNat * 256 + o.toNat * 32 + r.toNat * 2 < 2 ^ 32)
theorem redD (h : BitVec 2) (d : BitVec 7) (a : BitVec 7) (o : BitVec 3) (r : BitVec 4) : Statement (.redD h d a o r) := by
  have := h.isLt; have := d.isLt; have := a.isLt; have := o.isLt; have := r.isLt
  exact (by omega : 0xDC000000 + h.toNat * 4194304 + d.toNat * 32768 + a.toNat * 256 + o.toNat * 32 + r.toNat * 2 < 2 ^ 32)
theorem acasD (h : BitVec 2) (d : BitVec 7) (a : BitVec 7) (r : BitVec 4) : Statement (.acasD h d a r) := by
  have := h.isLt; have := d.isLt; have := a.isLt; have := r.isLt
  exact (by omega : 0xDD000000 + h.toNat * 4194304 + d.toNat * 32768 + a.toNat * 256 + r.toNat * 2 < 2 ^ 32)
theorem cacheopArm (d : BitVec 7) (r : BitVec 4) : Statement (.cacheopArm d r) := by
  have := d.isLt; have := r.isLt
  exact (by omega : 0xF8000000 + d.toNat * 32768 + r.toNat * 8 < 2 ^ 32)
theorem cacheopDisarm (d : BitVec 7) (r : BitVec 4) : Statement (.cacheopDisarm d r) := by
  have := d.isLt; have := r.isLt
  exact (by omega : 0xF8000001 + d.toNat * 32768 + r.toNat * 8 < 2 ^ 32)
theorem cacheopFlush (d : BitVec 7) (r : BitVec 4) : Statement (.cacheopFlush d r) := by
  have := d.isLt; have := r.isLt
  exact (by omega : 0xF8000002 + d.toNat * 32768 + r.toNat * 8 < 2 ^ 32)
theorem cacheopEvict (d : BitVec 7) (r : BitVec 4) : Statement (.cacheopEvict d r) := by
  have := d.isLt; have := r.isLt
  exact (by omega : 0xF8000003 + d.toNat * 32768 + r.toNat * 8 < 2 ^ 32)
theorem cacheopPackOn (d : BitVec 7) (r : BitVec 4) : Statement (.cacheopPackOn d r) := by
  have := d.isLt; have := r.isLt
  exact (by omega : 0xF8000004 + d.toNat * 32768 + r.toNat * 8 < 2 ^ 32)
theorem cacheopPackOff (d : BitVec 7) (r : BitVec 4) : Statement (.cacheopPackOff d r) := by
  have := d.isLt; have := r.isLt
  exact (by omega : 0xF8000005 + d.toNat * 32768 + r.toNat * 8 < 2 ^ 32)
theorem cacheopRangeFlush (h : BitVec 2) (a : BitVec 7) (b : BitVec 7) : Statement (.cacheopRangeFlush h a b) := by
  have := h.isLt; have := a.isLt; have := b.isLt
  exact (by omega : 0xF9000000 + h.toNat * 4194304 + a.toNat * 256 + b.toNat * 2 < 2 ^ 32)
theorem cacheopRangeEvict (h : BitVec 2) (a : BitVec 7) (b : BitVec 7) : Statement (.cacheopRangeEvict h a b) := by
  have := h.isLt; have := a.isLt; have := b.isLt
  exact (by omega : 0xF9000001 + h.toNat * 4194304 + a.toNat * 256 + b.toNat * 2 < 2 ^ 32)
theorem hcfg (d : BitVec 7) (t : BitVec 4) (g : BitVec 4) (s : BitVec 2) : Statement (.hcfg d t g s) := by
  have := d.isLt; have := t.isLt; have := g.isLt; have := s.isLt
  exact (by omega : 0xE8000000 + d.toNat * 32768 + t.toNat * 2048 + g.toNat * 128 + s.toNat * 32 < 2 ^ 32)
theorem hlookRows (d : BitVec 7) (s : BitVec 2) (f : BitVec 4) (c : BitVec 4) : Statement (.hlookRows d s f c) := by
  have := d.isLt; have := s.isLt; have := f.isLt; have := c.isLt
  exact (by omega : 0xE9000000 + d.toNat * 32768 + s.toNat * 8192 + f.toNat * 512 + c.toNat * 32 < 2 ^ 32)
theorem hlookPlanes (d : BitVec 7) (s : BitVec 2) (f : BitVec 4) (c : BitVec 4) : Statement (.hlookPlanes d s f c) := by
  have := d.isLt; have := s.isLt; have := f.isLt; have := c.isLt
  exact (by omega : 0xE9000001 + d.toNat * 32768 + s.toNat * 8192 + f.toNat * 512 + c.toNat * 32 < 2 ^ 32)
theorem hgrad (d : BitVec 7) (s : BitVec 2) (f : BitVec 4) (c : BitVec 4) : Statement (.hgrad d s f c) := by
  have := d.isLt; have := s.isLt; have := f.isLt; have := c.isLt
  exact (by omega : 0xEA000000 + d.toNat * 32768 + s.toNat * 8192 + f.toNat * 512 + c.toNat * 32 < 2 ^ 32)
theorem bstr (d : BitVec 7) (k : BitVec 3) : Statement (.bstr d k) := by
  have := d.isLt; have := k.isLt
  exact (by omega : 0xE0000000 + d.toNat * 32768 + k.toNat < 2 ^ 32)
theorem bstrImm (i : BitVec 11) (k : BitVec 3) : Statement (.bstrImm i k) := by
  have := i.isLt; have := k.isLt
  exact (by omega : 0xE0004000 + i.toNat * 8 + k.toNat < 2 ^ 32)
theorem bstg (d : BitVec 7) (e : BitVec 1) (t : BitVec 4) (s : BitVec 3) (m : BitVec 3) : Statement (.bstg d e t s m) := by
  have := d.isLt; have := e.isLt; have := t.isLt; have := s.isLt; have := m.isLt
  exact (by omega : 0xE1000000 + d.toNat * 32768 + e.toNat * 16384 + t.toNat * 1024 + s.toNat * 8 + m.toNat < 2 ^ 32)
theorem bchn (d : BitVec 7) (e : BitVec 1) (t : BitVec 4) (n : BitVec 4) (m : BitVec 3) : Statement (.bchn d e t n m) := by
  have := d.isLt; have := e.isLt; have := t.isLt; have := n.isLt; have := m.isLt
  exact (by omega : 0xE2000000 + d.toNat * 32768 + e.toNat * 16384 + t.toNat * 1024 + n.toNat * 64 + m.toNat < 2 ^ 32)
theorem btrn (d : BitVec 7) (e : BitVec 1) (t : BitVec 4) (n : BitVec 4) (m : BitVec 3) : Statement (.btrn d e t n m) := by
  have := d.isLt; have := e.isLt; have := t.isLt; have := n.isLt; have := m.isLt
  exact (by omega : 0xE3000000 + d.toNat * 32768 + e.toNat * 16384 + t.toNat * 1024 + n.toNat * 64 + m.toNat < 2 ^ 32)
theorem btrnW (d : BitVec 7) (e : BitVec 1) (t : BitVec 4) (s : BitVec 3) (m : BitVec 3) : Statement (.btrnW d e t s m) := by
  have := d.isLt; have := e.isLt; have := t.isLt; have := s.isLt; have := m.isLt
  exact (by omega : 0xE4000000 + d.toNat * 32768 + e.toNat * 16384 + t.toNat * 1024 + s.toNat * 8 + m.toNat < 2 ^ 32)
theorem bdns (d : BitVec 7) (e : BitVec 1) (t : BitVec 4) (a : BitVec 1) (b : BitVec 1) (f : BitVec 2) (c : BitVec 3) (m : BitVec 3) : Statement (.bdns d e t a b f c m) := by
  have := d.isLt; have := e.isLt; have := t.isLt; have := a.isLt; have := b.isLt; have := f.isLt; have := c.isLt; have := m.isLt
  exact (by omega : 0xE5000000 + d.toNat * 32768 + e.toNat * 16384 + t.toNat * 1024 + a.toNat * 512 + b.toNat * 256 + f.toNat * 64 + c.toNat * 8 + m.toNat < 2 ^ 32)
theorem bdrn (d : BitVec 7) (e : BitVec 1) (t : BitVec 4) (n : BitVec 4) (c : BitVec 3) (o : BitVec 3) : Statement (.bdrn d e t n c o) := by
  have := d.isLt; have := e.isLt; have := t.isLt; have := n.isLt; have := c.isLt; have := o.isLt
  exact (by omega : 0xE6000000 + d.toNat * 32768 + e.toNat * 16384 + t.toNat * 1024 + n.toNat * 64 + c.toNat * 8 + o.toNat < 2 ^ 32)
theorem btps (d : BitVec 7) : Statement (.btps d) := by
  have := d.isLt
  exact (by omega : 0xE7000000 + d.toNat * 32768 < 2 ^ 32)
theorem btpsOne (d : BitVec 7) (k : BitVec 4) : Statement (.btpsOne d k) := by
  have := d.isLt; have := k.isLt
  exact (by omega : 0xE7000001 + d.toNat * 32768 + k.toNat * 8 < 2 ^ 32)
theorem qpush (d : BitVec 7) (q : BitVec 2) : Statement (.qpush d q) := by
  have := d.isLt; have := q.isLt
  exact (by omega : 0xEB000000 + d.toNat * 32768 + q.toNat * 8 < 2 ^ 32)
theorem qpushN (d : BitVec 7) (z : BitVec 2) (q : BitVec 2) : Statement (.qpushN d z q) := by
  have := d.isLt; have := z.isLt; have := q.isLt
  exact (by omega : 0xEC000000 + d.toNat * 32768 + z.toNat * 32 + q.toNat * 8 < 2 ^ 32)
theorem qpushRt (d : BitVec 7) : Statement (.qpushRt d) := by
  have := d.isLt
  exact (by omega : 0xEC0000A0 + d.toNat * 32768 < 2 ^ 32)
theorem qpop (d : BitVec 7) (q : BitVec 2) : Statement (.qpop d q) := by
  have := d.isLt; have := q.isLt
  exact (by omega : 0xED000000 + d.toNat * 32768 + q.toNat * 8 < 2 ^ 32)
theorem qpopN (d : BitVec 7) (z : BitVec 2) (q : BitVec 2) : Statement (.qpopN d z q) := by
  have := d.isLt; have := z.isLt; have := q.isLt
  exact (by omega : 0xEE000000 + d.toNat * 32768 + z.toNat * 32 + q.toNat * 8 < 2 ^ 32)
theorem qstat (d : BitVec 7) (k : BitVec 3) : Statement (.qstat d k) := by
  have := d.isLt; have := k.isLt
  exact (by omega : 0xEF000000 + d.toNat * 32768 + k.toNat < 2 ^ 32)
theorem apgo (d : BitVec 7) (u : BitVec 1) (c : BitVec 3) : Statement (.apgo d u c) := by
  have := d.isLt; have := u.isLt; have := c.isLt
  exact (by omega : 0xF0000000 + d.toNat * 32768 + u.toNat * 64 + c.toNat * 8 < 2 ^ 32)
theorem apstop (u : BitVec 1) (c : BitVec 3) : Statement (.apstop u c) := by
  have := u.isLt; have := c.isLt
  exact (by omega : 0xF1000000 + u.toNat * 64 + c.toNat * 8 < 2 ^ 32)
theorem apBaseInstruction (w : BitVec 32) : Statement (.apBaseInstruction w) := by
  have := w.isLt
  exact (by omega : w.toNat < 2 ^ 32)
theorem apEnvironmentCall (w : BitVec 32) : Statement (.apEnvironmentCall w) := by
  have := w.isLt
  exact (by omega : w.toNat < 2 ^ 32)
theorem qPush (b : BitVec 5) (a : BitVec 5) : Statement (.qPush b a) := by
  have := b.isLt; have := a.isLt
  exact (by omega : 0x0000002B + b.toNat * 1048576 + a.toNat * 32768 < 2 ^ 32)
theorem qPop (b : BitVec 5) (a : BitVec 5) : Statement (.qPop b a) := by
  have := b.isLt; have := a.isLt
  exact (by omega : 0x0000102B + b.toNat * 1048576 + a.toNat * 32768 < 2 ^ 32)
theorem rtSuspend (a : BitVec 5) : Statement (.rtSuspend a) := by
  have := a.isLt
  exact (by omega : 0x0000202B + a.toNat * 32768 < 2 ^ 32)
theorem rtResume (d : BitVec 5) : Statement (.rtResume d) := by
  have := d.isLt
  exact (by omega : 0x0000302B + d.toNat * 128 < 2 ^ 32)
theorem gWait (a : BitVec 5) : Statement (.gWait a) := by
  have := a.isLt
  exact (by omega : 0x0000602B + a.toNat * 32768 < 2 ^ 32)
theorem gIssue (b : BitVec 5) (a : BitVec 5) : Statement (.gIssue b a) := by
  have := b.isLt; have := a.isLt
  exact (by omega : 0x0000005B + b.toNat * 1048576 + a.toNat * 32768 < 2 ^ 32)
theorem sIssue (b : BitVec 5) (a : BitVec 5) : Statement (.sIssue b a) := by
  have := b.isLt; have := a.isLt
  exact (by omega : 0x0000105B + b.toNat * 1048576 + a.toNat * 32768 < 2 ^ 32)
theorem bagSum (a : BitVec 5) : Statement (.bagSum a) := by
  have := a.isLt
  exact (by omega : 0x0000205B + a.toNat * 32768 < 2 ^ 32)
theorem bagMean (a : BitVec 5) : Statement (.bagMean a) := by
  have := a.isLt
  exact (by omega : 0x0000305B + a.toNat * 32768 < 2 ^ 32)
theorem rtBox (a : BitVec 5) (d : BitVec 5) : Statement (.rtBox a d) := by
  have := a.isLt; have := d.isLt
  exact (by omega : 0x0000405B + a.toNat * 32768 + d.toNat * 128 < 2 ^ 32)
theorem rtTri (a : BitVec 5) (d : BitVec 5) : Statement (.rtTri a d) := by
  have := a.isLt; have := d.isLt
  exact (by omega : 0x0000505B + a.toNat * 32768 + d.toNat * 128 < 2 ^ 32)
theorem emit (d : BitVec 7) (k : BitVec 3) : Statement (.emit d k) := by
  have := d.isLt; have := k.isLt
  exact (by omega : 0xF4000000 + d.toNat * 32768 + k.toNat * 8 < 2 ^ 32)
theorem emitReg (h : BitVec 2) (d : BitVec 7) (a : BitVec 7) : Statement (.emitReg h d a) := by
  have := h.isLt; have := d.isLt; have := a.isLt
  exact (by omega : 0xF5000000 + h.toNat * 4194304 + d.toNat * 32768 + a.toNat * 256 < 2 ^ 32)
theorem post (h : BitVec 2) (a : BitVec 7) : Statement (.post h a) := by
  have := h.isLt; have := a.isLt
  exact (by omega : 0xF6000000 + h.toNat * 4194304 + a.toNat * 256 < 2 ^ 32)
theorem postImm (i : BitVec 15) : Statement (.postImm i) := by
  have := i.isLt
  exact (by omega : 0xF7000000 + i.toNat < 2 ^ 32)
theorem sysc (s : BitVec 12) : Statement (.sysc s) := by
  have := s.isLt
  exact (by omega : 0xFA000000 + s.toNat * 8 < 2 ^ 32)
theorem syscReg (h : BitVec 2) (a : BitVec 7) : Statement (.syscReg h a) := by
  have := h.isLt; have := a.isLt
  exact (by omega : 0xFB000000 + h.toNat * 4194304 + a.toNat * 256 < 2 ^ 32)
theorem dataFlitReceive (port : Nat) (flit : List (BitVec 8)) : Statement (.dataFlitReceive port flit) := (by decide : 0 < 2 ^ 32)
theorem readMessage (m : Message) : Statement (.readMessage m) := (by decide : 0 < 2 ^ 32)
theorem readResponse (m : Message) : Statement (.readResponse m) := (by decide : 0 < 2 ^ 32)
theorem writeMessage (m : Message) : Statement (.writeMessage m) := (by decide : 0 < 2 ^ 32)
theorem atomicMessage (m : Message) : Statement (.atomicMessage m) := (by decide : 0 < 2 ^ 32)
theorem contributionMessage (m : Message) : Statement (.contributionMessage m) := (by decide : 0 < 2 ^ 32)
theorem acknowledgement (m : Message) : Statement (.acknowledgement m) := (by decide : 0 < 2 ^ 32)
theorem resultLine (m : Message) : Statement (.resultLine m) := (by decide : 0 < 2 ^ 32)
theorem correctedError (e : ErrorReport) : Statement (.correctedError e) := (by decide : 0 < 2 ^ 32)
theorem uncorrectableError (e : ErrorReport) : Statement (.uncorrectableError e) := (by decide : 0 < 2 ^ 32)
theorem nop : Statement (.nop) := (by decide : 0x00000000 < 2 ^ 32)
theorem exit : Statement (.exit) := (by decide : 0x01000000 < 2 ^ 32)
theorem ret : Statement (.ret) := (by decide : 0x07000000 < 2 ^ 32)
theorem join : Statement (.join) := (by decide : 0x09000000 < 2 ^ 32)
theorem regang : Statement (.regang) := (by decide : 0x0A000000 < 2 ^ 32)
theorem yield : Statement (.yield) := (by decide : 0x1A000000 < 2 ^ 32)
theorem sleepExpiry : Statement (.sleepExpiry) := (by decide : 0 < 2 ^ 32)
theorem eret : Statement (.eret) := (by decide : 0x1D000000 < 2 ^ 32)
theorem resultQueueWrite : Statement (.resultQueueWrite) := (by decide : 0 < 2 ^ 32)
theorem latchExpiry : Statement (.latchExpiry) := (by decide : 0 < 2 ^ 32)
theorem formatTrapEntry : Statement (.formatTrapEntry) := (by decide : 0 < 2 ^ 32)
theorem registerStarvation : Statement (.registerStarvation) := (by decide : 0 < 2 ^ 32)
theorem instructionFetch : Statement (.instructionFetch) := (by decide : 0 < 2 ^ 32)
theorem clusterSpaceAccess : Statement (.clusterSpaceAccess) := (by decide : 0 < 2 ^ 32)
theorem copyDataLanding : Statement (.copyDataLanding) := (by decide : 0 < 2 ^ 32)
theorem publishPerform : Statement (.publishPerform) := (by decide : 0 < 2 ^ 32)
theorem versionFenceArm : Statement (.versionFenceArm) := (by decide : 0 < 2 ^ 32)
theorem lineTranslation : Statement (.lineTranslation) := (by decide : 0 < 2 ^ 32)
theorem loadReturn : Statement (.loadReturn) := (by decide : 0 < 2 ^ 32)
theorem storeAcknowledgement : Statement (.storeAcknowledgement) := (by decide : 0 < 2 ^ 32)
theorem homeLoad : Statement (.homeLoad) := (by decide : 0 < 2 ^ 32)
theorem homeStore : Statement (.homeStore) := (by decide : 0 < 2 ^ 32)
theorem copyInvalidation : Statement (.copyInvalidation) := (by decide : 0 < 2 ^ 32)
theorem cachedCopyExpiry : Statement (.cachedCopyExpiry) := (by decide : 0 < 2 ^ 32)
theorem lineWriteBack : Statement (.lineWriteBack) := (by decide : 0 < 2 ^ 32)
theorem homeAtomic : Statement (.homeAtomic) := (by decide : 0 < 2 ^ 32)
theorem atomicReturn : Statement (.atomicReturn) := (by decide : 0 < 2 ^ 32)
theorem routineRun : Statement (.routineRun) := (by decide : 0 < 2 ^ 32)
theorem monitorCheck : Statement (.monitorCheck) := (by decide : 0 < 2 ^ 32)
theorem monitorRetry : Statement (.monitorRetry) := (by decide : 0 < 2 ^ 32)
theorem contribution : Statement (.contribution) := (by decide : 0 < 2 ^ 32)
theorem updateStepCompletion : Statement (.updateStepCompletion) := (by decide : 0 < 2 ^ 32)
theorem hcfgPerform : Statement (.hcfgPerform) := (by decide : 0 < 2 ^ 32)
theorem hlookAccept : Statement (.hlookAccept) := (by decide : 0 < 2 ^ 32)
theorem replicaRefill : Statement (.replicaRefill) := (by decide : 0 < 2 ^ 32)
theorem hgradScatter : Statement (.hgradScatter) := (by decide : 0 < 2 ^ 32)
theorem hashCommandCompletion : Statement (.hashCommandCompletion) := (by decide : 0 < 2 ^ 32)
theorem cellArrayGrant : Statement (.cellArrayGrant) := (by decide : 0 < 2 ^ 32)
theorem drainPathGrant : Statement (.drainPathGrant) := (by decide : 0 < 2 ^ 32)
theorem matrixCommandCompletion : Statement (.matrixCommandCompletion) := (by decide : 0 < 2 ^ 32)
theorem ctxYield : Statement (.ctxYield) := (by decide : 0x0000402B < 2 ^ 32)
theorem ctxEnd : Statement (.ctxEnd) := (by decide : 0x0000502B < 2 ^ 32)
theorem apOperationCompletion : Statement (.apOperationCompletion) := (by decide : 0 < 2 ^ 32)
theorem contextPark : Statement (.contextPark) := (by decide : 0 < 2 ^ 32)
theorem groupCloseTimeout : Statement (.groupCloseTimeout) := (by decide : 0 < 2 ^ 32)
theorem postArrival : Statement (.postArrival) := (by decide : 0 < 2 ^ 32)
theorem escapementPlacement : Statement (.escapementPlacement) := (by decide : 0 < 2 ^ 32)
theorem batchTimeout : Statement (.batchTimeout) := (by decide : 0 < 2 ^ 32)
theorem preemption : Statement (.preemption) := (by decide : 0 < 2 ^ 32)
theorem warpSave : Statement (.warpSave) := (by decide : 0 < 2 ^ 32)
theorem nodeCompletion : Statement (.nodeCompletion) := (by decide : 0 < 2 ^ 32)
theorem chunkRequest : Statement (.chunkRequest) := (by decide : 0 < 2 ^ 32)
theorem chunkHandout : Statement (.chunkHandout) := (by decide : 0 < 2 ^ 32)
theorem heartbeat : Statement (.heartbeat) := (by decide : 0 < 2 ^ 32)
theorem dieFailure : Statement (.dieFailure) := (by decide : 0 < 2 ^ 32)
theorem budgetWindowEnd : Statement (.budgetWindowEnd) := (by decide : 0 < 2 ^ 32)
theorem headroomReading : Statement (.headroomReading) := (by decide : 0 < 2 ^ 32)
theorem retryRequest : Statement (.retryRequest) := (by decide : 0 < 2 ^ 32)
theorem portDown : Statement (.portDown) := (by decide : 0 < 2 ^ 32)
theorem portUp : Statement (.portUp) := (by decide : 0 < 2 ^ 32)
theorem dieToDieLinkDown : Statement (.dieToDieLinkDown) := (by decide : 0 < 2 ^ 32)
theorem writeContextDescriptor : Statement (.writeContextDescriptor) := (by decide : 0 < 2 ^ 32)
theorem submitLaunch : Statement (.submitLaunch) := (by decide : 0 < 2 ^ 32)
theorem submitGraph : Statement (.submitGraph) := (by decide : 0 < 2 ^ 32)
theorem frameEvent : Statement (.frameEvent) := (by decide : 0 < 2 ^ 32)
theorem invalidateTranslations : Statement (.invalidateTranslations) := (by decide : 0 < 2 ^ 32)
theorem resumeRecordReplay : Statement (.resumeRecordReplay) := (by decide : 0 < 2 ^ 32)
theorem resumeRecordAbort : Statement (.resumeRecordAbort) := (by decide : 0 < 2 ^ 32)
theorem faultQueueHead : Statement (.faultQueueHead) := (by decide : 0 < 2 ^ 32)
theorem writeRoutineSlot : Statement (.writeRoutineSlot) := (by decide : 0 < 2 ^ 32)
theorem writeUpdateDescriptor : Statement (.writeUpdateDescriptor) := (by decide : 0 < 2 ^ 32)
theorem writeAccessProcessorImage : Statement (.writeAccessProcessorImage) := (by decide : 0 < 2 ^ 32)
theorem writePublishEntry : Statement (.writePublishEntry) := (by decide : 0 < 2 ^ 32)
theorem writeCollectiveDescriptor : Statement (.writeCollectiveDescriptor) := (by decide : 0 < 2 ^ 32)
theorem setRouteTable : Statement (.setRouteTable) := (by decide : 0 < 2 ^ 32)
theorem setApertureTable : Statement (.setApertureTable) := (by decide : 0 < 2 ^ 32)
theorem setOverflowArea : Statement (.setOverflowArea) := (by decide : 0 < 2 ^ 32)
theorem setCompressionMetadata : Statement (.setCompressionMetadata) := (by decide : 0 < 2 ^ 32)
theorem partitionReserve : Statement (.partitionReserve) := (by decide : 0 < 2 ^ 32)
theorem partitionRelease : Statement (.partitionRelease) := (by decide : 0 < 2 ^ 32)
theorem persistentLaunch : Statement (.persistentLaunch) := (by decide : 0 < 2 ^ 32)
theorem fieldControl : Statement (.fieldControl) := (by decide : 0 < 2 ^ 32)
theorem retrainPort : Statement (.retrainPort) := (by decide : 0 < 2 ^ 32)
theorem readStatus : Statement (.readStatus) := (by decide : 0 < 2 ^ 32)
theorem scrubReplay : Statement (.scrubReplay) := (by decide : 0 < 2 ^ 32)
theorem scrubAbort : Statement (.scrubAbort) := (by decide : 0 < 2 ^ 32)
theorem attestationReport : Statement (.attestationReport) := (by decide : 0 < 2 ^ 32)
theorem bringUpPackage : Statement (.bringUpPackage) := (by decide : 0 < 2 ^ 32)
theorem ringDoorbell : Statement (.ringDoorbell) := (by decide : 0 < 2 ^ 32)
theorem ringEnable : Statement (.ringEnable) := (by decide : 0 < 2 ^ 32)
theorem errorLogHead : Statement (.errorLogHead) := (by decide : 0 < 2 ^ 32)
theorem hostRegisterWrite : Statement (.hostRegisterWrite) := (by decide : 0 < 2 ^ 32)
theorem powerOn : Statement (.powerOn) := (by decide : 0 < 2 ^ 32)
theorem hostAttachTrained : Statement (.hostAttachTrained) := (by decide : 0 < 2 ^ 32)
theorem firmwareVerify : Statement (.firmwareVerify) := (by decide : 0 < 2 ^ 32)
theorem configurationLoad : Statement (.configurationLoad) := (by decide : 0 < 2 ^ 32)
theorem dieToDieLinkTrained : Statement (.dieToDieLinkTrained) := (by decide : 0 < 2 ^ 32)
theorem tgmStart : Statement (.tgmStart) := (by decide : 0 < 2 ^ 32)
theorem fieldPowerUp : Statement (.fieldPowerUp) := (by decide : 0 < 2 ^ 32)
theorem hbmStackTrained : Statement (.hbmStackTrained) := (by decide : 0 < 2 ^ 32)
theorem systemPortTrained : Statement (.systemPortTrained) := (by decide : 0 < 2 ^ 32)
theorem currentThrottle : Statement (.currentThrottle) := (by decide : 0 < 2 ^ 32)
theorem currentThrottleEnd : Statement (.currentThrottleEnd) := (by decide : 0 < 2 ^ 32)
theorem thermalThrottle : Statement (.thermalThrottle) := (by decide : 0 < 2 ^ 32)
theorem thermalThrottleEnd : Statement (.thermalThrottleEnd) := (by decide : 0 < 2 ^ 32)
theorem thermalTrip : Statement (.thermalTrip) := (by decide : 0 < 2 ^ 32)
theorem vwriWrite : Statement (.vwriWrite) := (by decide : 0 < 2 ^ 32)
theorem queueReturn : Statement (.queueReturn) := (by decide : 0 < 2 ^ 32)
theorem nodeFetchReturn : Statement (.nodeFetchReturn) := (by decide : 0 < 2 ^ 32)
theorem mirrorWrite : Statement (.mirrorWrite) := (by decide : 0 < 2 ^ 32)

end Sys2Proof.Laws.EncodingBound
end

