-- ==== Sys2Proof/Laws/Records.lean ====
section
/-!
SUPPORT. What writing memory at its home, posting a record and ending a command can change: all that each of them
does to the state, said once.
-/

namespace Sys2Proof.Machine

/-! ## Writes at a home (R256) -/

/-- Two tables hold the same warps but for the roll-back marks of those that speculate. -/
def SameWarps (t u : Tbl Warp) : Prop :=
  ∀ k, (tfind u k = none → tfind t k = none) ∧
    ∀ w, tfind u k = some w → ∃ sp, tfind t k = some { w with spec := sp }

theorem SameWarps.rfl {t : Tbl Warp} : SameWarps t t := fun _ => ⟨id, fun w h => ⟨w.spec, h⟩⟩

theorem SameWarps.trans {t u v : Tbl Warp} (h : SameWarps t u) (g : SameWarps u v) : SameWarps t v := fun k =>
  ⟨fun e => (h k).1 ((g k).1 e), fun w e => by
    obtain ⟨sp, e'⟩ := (g k).2 w e
    obtain ⟨sp', e''⟩ := (h k).2 _ e'
    exact ⟨sp', e''⟩⟩

theorem squash_eq (s : State) (l : List Nat) (by' : Option Nat) :
    ∃ ws, squash s l by' = { s with warps := ws } ∧ SameWarps ws s.warps := by
  refine ⟨_, rfl, fun k => ?_⟩
  generalize s.warps = t
  induction t with
  | nil => simp [tfind]
  | cons c t ih =>
    obtain ⟨a, v⟩ := c
    simp only [List.map_cons, tfind]
    by_cases h : a = k
    · simp only [h, if_true]
      refine ⟨fun h => (by simp at h), fun w hw => ?_⟩
      cases hw
      split
      · exact ⟨_, rfl⟩
      · exact ⟨_, rfl⟩
    · simpa [h] using ih

theorem written_eq (s : State) (pa : Nat) (b : List Byte) (e : Option Nat) :
    ∃ hl iv, homeWrite.written s pa b e = { s with mem := mstore s.mem pa b, homeLines := hl, invalidations := iv } := by
  unfold homeWrite.written
  generalize linesOf pa b.length = l
  have : ∀ s' : State, ∃ hl iv, l.foldl (fun s l => modHomeLine { s with
      invalidations := (copyHolders s l e).foldl addOnce s.invalidations } l
      fun h => { h with resident := true, unwritten := true }) s' =
        { s' with homeLines := hl, invalidations := iv } := by
    induction l with
    | nil => intro s'; exact ⟨_, _, rfl⟩
    | cons a l ih =>
      intro s'
      obtain ⟨hl, iv, h⟩ := ih (modHomeLine { s' with
        invalidations := (copyHolders s' a e).foldl addOnce s'.invalidations } a
        fun h => { h with resident := true, unwritten := true })
      exact ⟨hl, iv, h⟩
  obtain ⟨hl, iv, h⟩ := this { s with mem := mstore s.mem pa b }
  exact ⟨hl, iv, h⟩

theorem recheck_eq (s : State) (l : List Nat) : recheck s l = { s with monitors := (recheck s l).monitors } := rfl

/-- A write at its home: the bytes, what the home keeps of their lines, invalidations to come, the roll-back mark of
speculating warps, and monitors whose condition the bytes meet. -/
theorem homeWrite_eq (s : State) (pa : Nat) (b : List Byte) (e by' : Option Nat) :
    ∃ hl iv ws ms, homeWrite s pa b e by' =
        { s with mem := mstore s.mem pa b, homeLines := hl, invalidations := iv, warps := ws, monitors := ms } ∧
      SameWarps ws s.warps := by
  obtain ⟨hl, iv, h⟩ := written_eq s pa b e
  obtain ⟨ws, h1, h2⟩ := squash_eq (homeWrite.written s pa b e) (linesOf pa b.length) by'
  refine ⟨hl, iv, ws, (homeWrite s pa b e by').monitors, ?_, by simpa [h] using h2⟩
  rw [homeWrite, recheck_eq, h1, h]

/-! ## Records (R376, R439) -/

/-- Writing waiting error records: memory and what a write at its home changes, the log's counts, and events. -/
theorem flushErrors_eq (n : Nat) (s : State) :
    ∃ m hl iv ws ms ew et ev, flushErrors n s = { s with
        mem := m, homeLines := hl, invalidations := iv, warps := ws, monitors := ms
        errWaiting := ew, errTail := et, events := ev } ∧
      SameWarps ws s.warps ∧ et + ew.length = s.errTail + s.errWaiting.length ∧ (s.errWaiting = [] → m = s.mem) := by
  induction n generalizing s with
  | zero => exact ⟨_, _, _, _, _, _, _, _, rfl, .rfl, rfl, fun _ => rfl⟩
  | succ n ih =>
    unfold flushErrors
    split
    · exact ⟨_, _, _, _, _, _, _, _, rfl, .rfl, rfl, fun _ => rfl⟩
    · rename_i b r hb
      dsimp only
      split
      · exact ⟨_, _, _, _, _, _, _, _, rfl, .rfl, rfl, fun _ => rfl⟩
      · obtain ⟨hl, iv, ws, ms, e, hws⟩ := homeWrite_eq { s with errWaiting := r, errTail := s.errTail + 1 }
          (hostPa (s.errBase + 32 * (s.errTail % 2 ^ s.errLog))) b none none
        simp only [e]
        obtain ⟨m, hl, iv, ws', ms', ew, et, ev, h1, h2, h3, -⟩ := ih (sendEvent { s with
          mem := mstore s.mem (hostPa (s.errBase + 32 * (s.errTail % 2 ^ s.errLog))) b, homeLines := hl
          invalidations := iv, warps := ws, monitors := ms, errWaiting := r, errTail := s.errTail + 1 } 2 0 (s.errTail + 1))
        refine ⟨m, hl, iv, ws', ms', ew, et, ev, h1, h2.trans hws, ?_, fun h => by simp [hb] at h⟩
        rw [h3, hb]
        simp [sendEvent]
        omega

theorem postError_eq (s : State) (b : List Byte) :
    ∃ m hl iv ws ms ew et ev, postError s b = { s with
        mem := m, homeLines := hl, invalidations := iv, warps := ws, monitors := ms
        errWaiting := ew, errTail := et, events := ev } ∧
      SameWarps ws s.warps ∧ et + ew.length = s.errTail + s.errWaiting.length + 1 := by
  obtain ⟨m, hl, iv, ws, ms, ew, et, ev, h1, h2, h3, -⟩ :=
    flushErrors_eq (s.errWaiting.length + 1) { s with errWaiting := s.errWaiting ++ [b] }
  exact ⟨m, hl, iv, ws, ms, ew, et, ev, h1, h2, by simpa [Nat.add_assoc] using h3⟩

/-- Two contexts agree in all but their fault queue's records. -/
def SameContext (x y : Context) : Prop :=
  { x with fqTail := y.fqTail, waiting := y.waiting, behind := y.behind } = y

theorem SameContext.rfl {x : Context} : SameContext x x := Eq.refl _
theorem SameContext.trans {x y z : Context} (h : SameContext x y) (g : SameContext y z) : SameContext x z := by
  cases x; cases y; cases z; simp_all [SameContext]

/-- Writing a context's waiting records: memory and what a write at its home changes, that context's queue, and
events. -/
theorem flushRecords_eq (n : Nat) (s : State) (c : Nat) :
    ∃ m hl iv ws ms cs ev, flushRecords n s c = { s with
        mem := m, homeLines := hl, invalidations := iv, warps := ws, monitors := ms, contexts := cs
        events := ev } ∧
      SameWarps ws s.warps ∧ (∀ j, j ≠ c → tfind cs j = tfind s.contexts j) ∧
      (tfind s.contexts c = none → tfind cs c = none) ∧
      ∀ x, tfind s.contexts c = some x → ∃ y, tfind cs c = some y ∧ SameContext y x := by
  induction n generalizing s with
  | zero => exact ⟨_, _, _, _, _, _, _, rfl, .rfl, fun _ _ => rfl, id, fun x h => ⟨x, h, .rfl⟩⟩
  | succ n ih =>
    unfold flushRecords
    split
    · exact ⟨_, _, _, _, _, _, _, rfl, .rfl, fun _ _ => rfl, id, fun x h => ⟨x, h, .rfl⟩⟩
    · rename_i cx hcx
      simp only
      split
      · exact ⟨_, _, _, _, _, _, _, rfl, .rfl, fun _ _ => rfl, id, fun x h => ⟨x, h, .rfl⟩⟩
      · rename_i p hp
        split
        · exact ⟨_, _, _, _, _, _, _, rfl, .rfl, fun _ _ => rfl, id, fun x h => ⟨x, h, .rfl⟩⟩
        · obtain ⟨hl, iv, ws, ms, e, hws⟩ := homeWrite_eq s (cx.fq + 32 * (cx.fqTail % 2 ^ cx.fqlog)) p.bytes none none
          rw [e]
          obtain ⟨m, hl', iv', ws', ms', cs, ev, h1, h2, h3, h4, h5⟩ := ih (sendEvent (modCtx { s with
            mem := mstore s.mem (cx.fq + 32 * (cx.fqTail % 2 ^ cx.fqlog)) p.bytes, homeLines := hl
            invalidations := iv, warps := ws, monitors := ms } c fun x =>
              { x with waiting := x.waiting.erase p, fqTail := cx.fqTail + 1, behind := tput x.behind cx.fqTail p.behind })
              1 c (cx.fqTail + 1))
          refine ⟨m, hl', iv', ws', ms', cs, ev, h1, h2.trans hws, fun j hj => (h3 j hj).trans (tfind_tmod_ne _ _ _ _ hj),
            fun h => ?_, fun x hx => ?_⟩
          · rw [hcx] at h; cases h
          · obtain ⟨y, hy, e⟩ := h5 _ ((tfind_tmod_same _ _ _).trans (congrArg _ hx))
            exact ⟨y, hy, e.trans (by simp [SameContext])⟩

/-- Posting a record of a context for an operation, if any: memory and what a write at its home changes, its queue or the error log, and
events. -/
theorem postFor_eq (s : State) (c die : Nat) (b : List Byte) (behind : Resumable) (o : Option Nat) :
    ∃ m hl iv ws ms cs ew et ev, postFor s c die b behind o = { s with
        mem := m, homeLines := hl, invalidations := iv, warps := ws, monitors := ms, contexts := cs
        errWaiting := ew, errTail := et, events := ev } ∧
      SameWarps ws s.warps ∧ (∀ j, j ≠ c → tfind cs j = tfind s.contexts j) ∧
      (tfind s.contexts c = none → tfind cs c = none) ∧
      ∀ x, tfind s.contexts c = some x → ∃ y, tfind cs c = some y ∧ SameContext y x := by
  unfold postFor
  split
  · rename_i h
    obtain ⟨m, hl, iv, ws, ms, ew, et, ev, h1, h2, -⟩ := postError_eq s b
    exact ⟨m, hl, iv, ws, ms, s.contexts, ew, et, ev, h1, h2, fun _ _ => rfl, id, fun x h => ⟨x, h, .rfl⟩⟩
  · rename_i cx h
    obtain ⟨m, hl, iv, ws, ms, cs, ev, h1, h2, h3, h4, h5⟩ := flushRecords_eq (cx.waiting.length + 1)
      (modCtx s c fun x => { x with waiting := x.waiting ++ [⟨b, behind, die, o⟩] }) c
    refine ⟨m, hl, iv, ws, ms, cs, s.errWaiting, s.errTail, ev, h1, h2, ?_, ?_, ?_⟩
    · intro j hj
      exact (h3 j hj).trans (tfind_tmod_ne _ _ _ _ hj)
    · intro hn
      simp [h] at hn
    · intro x hx
      obtain ⟨y, hy, e⟩ := h5 _ ((tfind_tmod_same _ _ _).trans (congrArg _ hx))
      exact ⟨y, hy, e.trans (by simp [SameContext])⟩

/-! ## Commands (R438 to R440) -/

/-- Ending a command: its completion word, its ring, the event, and what a write at its home changes. -/
theorem finishCommand_eq (s : State) (r : Nat) (c : Command) (status : Nat) :
    ∃ hl iv ws ms, finishCommand s r c status =
        { s with
          mem := mstore s.mem (hostPa (c.done / 4 * 4)) (leBytes 4 status), homeLines := hl, invalidations := iv
          warps := ws, monitors := ms, rings := lmod s.rings r fun x => { x with head := (x.head + 1) % 2 ^ 32, awaits := none }
          events := s.events ++ [⟨3, r, (lget (lmod s.rings r fun x =>
            { x with head := (x.head + 1) % 2 ^ 32, awaits := none }) r default).head⟩] } ∧
      SameWarps ws s.warps := by
  obtain ⟨hl, iv, ws, ms, h1, h2⟩ := homeWrite_eq s (hostPa (c.done / 4 * 4)) (leBytes 4 status) none none
  exact ⟨hl, iv, ws, ms, by simp [finishCommand, hostWrite, h1, modRing, sendEvent, ringOf], h2⟩

end Sys2Proof.Machine
end

