-- ==== Sys2Proof/Tests/Slice0.lean ====
section
/-!
SUPPORT. Tests, and a witness for the hypotheses of each obligation.
-/

namespace Sys2Proof.Tests

open Sys2Proof.Machine Sys2Proof.Claims

set_option Elab.async false

/-- A device whose only warp finds `NOP` at address 0, its gang of all slices issuing under mode `m`; `f` gives the
warp what a test needs. -/
def gang (m : Word) (f : Warp → Warp := id) : State :=
  let s := State.reset.withFetchWord 32 0
  { s with
    issuer := .gang 1 0xFF
    warps := s.warps.map fun p => (p.1, f { p.2 with slices := p.2.slices.map fun x => { x with mode := m } }) }

/-- `Issues`, decided. -/
def issuesB (f : Form) (s : State) (k : Nat) (sl : BitVec 8) (w : Warp) : Bool :=
  decide (s.issuer = .gang k sl) && decide (tfind s.warps k = some w) && decide (w.slices.length = 8) &&
    !fenceHolds f w && f.accepts (gangMode w sl) && f.named.all (fun n => decide (w.win + n < w.ceil)) &&
    f.clear s k sl w && !f.stall s k && (grantFor f s k sl w).1

theorem issuesOf {f s k sl w} (h : issuesB f s k sl w = true) : Issues f s k sl w := by
  simp only [issuesB, Bool.and_eq_true, decide_eq_true_eq, Bool.not_eq_true', List.all_eq_true] at h
  obtain ⟨⟨⟨⟨⟨⟨⟨⟨h1, h2⟩, h3⟩, h4⟩, h5⟩, h6⟩, h7⟩, h8⟩, h9⟩ := h
  exact ⟨h1, h2, h3, h4, h5, h6, h7, h8, h9⟩

/-- The gang of warp 1 of `s` issues an instruction of form `f` at once, and `ok` holds of what its read cycle sees. -/
def Met (f : Form) (s : State) (ok : State → Nat → BitVec 8 → Warp → Prop := fun _ _ _ _ => True) : Prop :=
  Issues f s 1 0xFF (warpAt s 1) ∧
    ok (readAt f s 1 0xFF (warpAt s 1)) 1 0xFF (warpAt (readAt f s 1 0xFF (warpAt s 1)) 1)

/-- `topIs`, decided. -/
theorem topIs_of {p : EntryKind → Bool} {s w sl}
    (h : (bitsOf 8 sl).all (fun i => match (sliceAt w i).stack with | e :: _ => p e.kind | [] => false) = true) :
    topIs p s w sl := by
  intro i hi
  have := List.all_eq_true.mp h i hi
  split at this
  · exact ⟨_, _, ‹_›, this⟩
  · cases this

/-- The next state of an outcome. -/
def after (o : Out) : State :=
  match o with
  | .next t => t
  | _ => default

def isNext (o : Out) : Bool :=
  match o with
  | .next _ => true
  | _ => false

theorem nextOf {o : Out} (h : isNext o = true) : o = .next (after o) := by
  cases o with
  | next t => rfl
  | _ => cases h

/-- Every slice of a warp changed alike. -/
def allSlices (g : Slice → Slice) (w : Warp) : Warp := { w with slices := w.slices.map g }

/-! ## Lane instructions and the sequencer -/

theorem witness_IntegerAndLogicInstructionsComplete :
    (∃ row, IntegerRow (.imad 0 1 2 124) row ∧ Met row.form (gang 0)) ∧
      ∃ row, LogicRow (.bfi 0 1 2 3) row ∧ Met row.form (gang 0) :=
  ⟨⟨_, .imad, issuesOf (by decide +kernel), trivial⟩, ⟨_, .bfi, issuesOf (by decide +kernel), trivial⟩⟩

theorem witness_PredicateAndMoveInstructionsComplete :
    (∃ row, PredicateRow (.icmp 0 2 7 1 2) row ∧ Met row.form (gang 0)) ∧
      ∃ row, MovementRow (.sel 0 127 1 2) row ∧ Met row.form (gang 0) :=
  ⟨⟨_, .icmp, issuesOf (by decide +kernel), trivial⟩, ⟨_, .sel, issuesOf (by decide +kernel), trivial⟩⟩

theorem witness_FloatInstructionsComplete :
    (∃ row, FloatRow (.ffma 0 1 2 3) row ∧ Met row.form (gang 0x60)) ∧
      ∃ row, FloatCompareRow (.fcmp 0 2 1 2 3) row ∧ Met row.form (gang 0x80) :=
  ⟨⟨_, .ffma, issuesOf (by decide +kernel), trivial⟩, ⟨_, .fcmp, issuesOf (by decide +kernel), trivial⟩⟩

theorem witness_TranscendentalsAndConversionsComplete :
    (∃ row, TranscendentalRow (.ftanh 0 1 2) row ∧ Met row.form (gang 0x60)) ∧
      ∃ row, ConversionRow (.cvts 0 1 2 3 1) row ∧ Met row.form (gang 0x60) :=
  ⟨⟨_, .ftanh, issuesOf (by decide +kernel), trivial⟩, ⟨_, .cvts, issuesOf (by decide +kernel), trivial⟩⟩

/-- Operation 9 of warp 1 alone in flight. -/
def flying (s : State) (op : Op) (f : Warp → Warp := id) : State :=
  { s with ops := [(9, { op with warp := some 1 })], issuer := .event [9], warps := s.warps.map fun p => (p.1, f p.2) }

theorem witness_PermuteInstructionsComplete :
    (∃ row, PermuteRow (.vscan 0 1 2 1 0) row ∧ Met row.form (gang 0)) ∧
      Met { one 0 2 with writes := [1], far := fun s w sl => indexedRegs s w sl 2 } (gang 0) ∧
      Met { reads := [1, 2], hold := 0, a := 2, past := true, ownBanks := true } (gang 0) (fun s k sl w =>
        let p := planVwri 1 2 s w sl 300 0
        indexedPending w p.regs = false ∧ orderHeld s k sl [] p.regs = false ∧ (vwriAsk s k sl p).1 = true) ∧
      ∃ s o op k w, s.issuer = .event [o] ∧ tfind s.ops o = some op ∧ op.kind = .registerWrite ∧ op.warp = some k ∧
        tfind s.warps k = some w ∧ op.issued + 6 ≤ clockOf s op.die op.core ∧ lanesApart op.elems :=
  ⟨⟨_, .vscan, issuesOf (by decide +kernel), trivial⟩, ⟨issuesOf (by decide +kernel), trivial⟩,
    ⟨issuesOf (by decide +kernel), by decide +kernel⟩,
    { flying (gang 0) { (default : Op) with kind := .registerWrite, elems := [default] } with
      islands := List.replicate 6 { (default : Island) with st := 2, clock := 9 } }, 9, _, 1, _, rfl, rfl, rfl, rfl, rfl,
    by decide +kernel, by unfold lanesApart; decide +kernel⟩

theorem witness_BroadcastWritesTheNamedLane :
    (124 : BitVec 7).toNat ≤ 124 ∧ Met (permRow (one 0 2) 124 2 fun _ _ _ _ => 31).form (gang 0) :=
  ⟨by decide, issuesOf (by decide +kernel), trivial⟩

theorem witness_LaneInstructionsChangeNothingElse :
    ∃ row, AnyLaneRow (.mov 0 1 2) row ∧ Met row.form (gang 0) fun _ _ sl w => w.image = none ∧ quiet w sl :=
  ⟨_, .inr (.inr (.inr (.inl .mov))), issuesOf (by decide +kernel), by unfold quiet; decide +kernel⟩

/-- One result that writes 7 to register 3 of slice 0 with one issue cycle left. -/
def lastCycle : State :=
  gang 0 fun w => { w with slices := lmod w.slices 0 fun x => { x with queue := [⟨.reg 3, 15, [7, 7, 7, 7], 0, 1⟩] } }

theorem witness_QueuedResultsLandOnTime :
    Issues { past := true } lastCycle 1 0xFF (warpAt lastCycle 1) ∧ (3 < 1024 ∧ (warpAt lastCycle 1).image = none) ∧
      ∀ i ∈ bitsOf 8 0xFF, (sliceAt (warpAt lastCycle 1) i).queue =
        if i = 0 then [⟨.reg 3, 15, [7, 7, 7, 7], 0, 1⟩] else [] :=
  ⟨issuesOf (by decide +kernel), by decide +kernel, by decide +kernel⟩

/-- A gang whose slices hold these stack entries. -/
def stacked (l : List StackEntry) : State := gang 0 (allSlices fun x => { x with stack := l })

theorem witness_ControlFlowAndModeWritesComplete :
    (∃ row, ControlRow (.call 5) row ∧ Met row.form (gang 0) fun r _ sl w => row.ok r w sl) ∧
      (∃ row, ControlRow .join row ∧ Met row.form (stacked [⟨.mark, 0, 15⟩]) fun r _ sl w => row.ok r w sl) ∧
      (∃ row, ControlRow .ret row ∧ Met row.form (stacked [⟨.call, 8, 15⟩]) fun r _ sl w => row.ok r w sl) ∧
      (∃ row, ControlRow (.brc 2) row ∧ Met row.form (gang 1) fun r _ sl w => row.ok r w sl) ∧
      (∃ row, ControlRow (.calli 0 3) row ∧ Met row.form (gang 0) fun r _ sl w => row.ok r w sl) ∧
      ∃ row, SliceRegRow (.wrs 4 0x052) row ∧ Met row.form (gang 0) fun r _ sl w => row.ok r w sl :=
  ⟨⟨_, .call, issuesOf (by decide +kernel), by dsimp only [roomOnStack]; decide +kernel⟩,
    ⟨_, .join, issuesOf (by decide +kernel), topIs_of (by decide +kernel), by unfold someLaneLeft; decide +kernel⟩,
    ⟨_, .ret, issuesOf (by decide +kernel), topIs_of (by decide +kernel), by unfold someLaneLeft; decide +kernel⟩,
    ⟨_, .brc, issuesOf (by decide +kernel), by dsimp only [diverges]; decide +kernel⟩,
    ⟨_, .calli, issuesOf (by decide +kernel), by dsimp only [indirectRow]; decide +kernel⟩,
    ⟨_, .wrsTpcLo, issuesOf (by decide +kernel), trivial⟩⟩
/-- A gang of which slice 3 alone has a stack entry. -/
def mixed (e : EntryKind) : State :=
  gang 0 fun w => { w with slices := lmod w.slices 3 fun x => { x with stack := [⟨e, 8, 15⟩] } }

theorem mixed_top (e : EntryKind) : ∀ i ∈ bitsOf 8 0xFF,
    let w := warpAt (readAt { past := true } (mixed e) 1 0xFF (warpAt (mixed e) 1)) 1
    (sliceAt w i).stack = [] ∨ (sliceAt w i).stack = [⟨e, 8, 15⟩] := by
  cases e <;> decide +kernel

theorem witness_StackTrapsBeforeAnyEffect :
    (Met { past := true } (stacked (List.replicate 16 ⟨.call, 8, 15⟩)) fun _ _ sl w => trapsEnter w sl ∧
        ∃ i ∈ bitsOf 8 sl, (sliceAt w i).stack.length = 16) ∧
      (Met { past := true } (stacked []) fun _ _ sl w => trapsEnter w sl ∧ sl ≠ 0 ∧
        ∀ i ∈ bitsOf 8 sl, (sliceAt w i).stack = []) ∧
      (Met { past := true } (stacked [⟨.call, 8, 15⟩]) fun s _ sl w => trapsEnter w sl ∧ sl ≠ 0 ∧
        topIs (fun e => e == .call) s w sl) ∧
      (Met { past := true } (stacked [⟨.pending, 8, 15⟩]) fun s _ sl w => trapsEnter w sl ∧ sl ≠ 0 ∧
        topIs (fun e => e != .call) s w sl) ∧
      (Met { past := true } (mixed .call) fun _ _ sl w => trapsEnter w sl ∧ sl ≠ 0 ∧ ∀ i ∈ bitsOf 8 sl,
        (sliceAt w i).stack = [] ∨ ∃ e r, (sliceAt w i).stack = e :: r ∧ e.kind = .call) ∧
      Met { past := true } (mixed .mark) fun _ _ sl w => trapsEnter w sl ∧ sl ≠ 0 ∧ ∀ i ∈ bitsOf 8 sl,
        (sliceAt w i).stack = [] ∨ ∃ e r, (sliceAt w i).stack = e :: r ∧ e.kind ≠ .call :=
  ⟨⟨issuesOf (by decide +kernel), by unfold trapsEnter; decide +kernel⟩,
    ⟨issuesOf (by decide +kernel), by unfold trapsEnter; decide +kernel⟩,
    ⟨issuesOf (by decide +kernel), by unfold trapsEnter; decide +kernel, by decide, topIs_of (by decide +kernel)⟩,
    ⟨issuesOf (by decide +kernel), by unfold trapsEnter; decide +kernel, by decide, topIs_of (by decide +kernel)⟩,
    ⟨issuesOf (by decide +kernel), by unfold trapsEnter; decide +kernel, by decide,
      fun i hi => (mixed_top .call i hi).imp_right fun h => ⟨_, _, h, rfl⟩⟩,
    issuesOf (by decide +kernel), by unfold trapsEnter; decide +kernel, by decide,
      fun i hi => (mixed_top .mark i hi).imp_right fun h => ⟨_, _, h, by decide⟩⟩

/-- A gang whose lanes hold `v` in register 2, under mode `m`. -/
def holding (v : Word) (m : Word := 0) (f : Warp → Warp := id) : State :=
  gang m fun w => f { w with regs := (List.range 32).map fun l => (64 + l, v) }

/-- Bases 0 and 124 of a ceiling of 128 are windows; -4 and 128 are not. -/
theorem witness_SpecialRegistersAreReadAndWritten :
    (Met (plain 0 2) (gang 0) fun r _ sl w => windowOk w (warpOperand r w sl 2).toNat) ∧
      (Met { reads := [2] } (holding 124) fun r _ sl w => windowOk w (warpOperand r w sl 2).toNat) ∧
      (Met {} (gang 0) fun _ _ _ w => windowOk w (w.win + (124 : BitVec 15).toInt)) ∧
      (Met {} (gang 0) fun _ _ sl w => trapsEnter w sl ∧ ¬ windowOk w (w.win + (-4 : BitVec 15).toInt)) ∧
      (Met {} (gang 0) fun _ _ sl w => trapsEnter w sl ∧ ¬ windowOk w (w.win + (128 : BitVec 15).toInt)) ∧
      (∃ v, Selector 0x80F v ∧ Met (rdsRow 5 v).form (gang 0)) ∧ Met { writes := [5], past := true } (gang 0) ∧
      (Met { reads := [2] } (gang 0) fun _ _ sl w => quiet w sl) ∧ Met { reads := [2] } (gang 0) :=
  ⟨⟨issuesOf (by decide +kernel), by unfold windowOk; decide +kernel⟩,
    ⟨issuesOf (by decide +kernel), by unfold windowOk; decide +kernel⟩,
    ⟨issuesOf (by decide +kernel), by unfold windowOk; decide +kernel⟩,
    ⟨issuesOf (by decide +kernel), by unfold trapsEnter windowOk; decide +kernel⟩,
    ⟨issuesOf (by decide +kernel), by unfold trapsEnter windowOk; decide +kernel⟩,
    ⟨_, .stride (n := 7) (by decide), issuesOf (by decide +kernel), trivial⟩, ⟨issuesOf (by decide +kernel), trivial⟩,
    ⟨issuesOf (by decide +kernel), by unfold quiet; decide +kernel⟩, issuesOf (by decide +kernel), trivial⟩

/-- A gang whose slices are in their handler. -/
def handling : State := gang 0 (allSlices fun x => { x with handler := true, tmask := 15 })

theorem witness_TrapsEnterAndReturn :
    (Met { drains := true } (gang 0) fun _ _ sl w => trapsEnter w sl) ∧
      (Met { drains := true } handling fun _ _ sl w => w.spec = none ∧ ∃ j ∈ bitsOf 8 sl, (sliceAt w j).handler = true) ∧
      Met { drains := true, past := true } handling fun _ _ sl w => ∀ j ∈ bitsOf 8 sl,
        (sliceAt w j).handler = true ∧ (sliceAt w j).tmask ≠ 0 ∧ (sliceAt w j).ended = false :=
  ⟨⟨issuesOf (by decide +kernel), by unfold trapsEnter; decide +kernel⟩, ⟨issuesOf (by decide +kernel), by decide +kernel⟩,
    issuesOf (by decide +kernel), by decide +kernel⟩

/-- IADD under type 9; IADD of a register at the ceiling; a word that decodes to nothing. -/
theorem witness_ChecksOfAnIssueTrap :
    ∃ row, AnyLaneRow (.iadd 0 1 2 3) row ∧
      (∃ w, (gang 0x90).issuer = .gang 1 0xFF ∧ tfind (gang 0x90).warps 1 = some w ∧ w.slices.length = 8 ∧
        fenceHolds row.form w = false ∧ trapsEnter w 0xFF ∧ row.form.accepts (gangMode w 0xFF) = false) ∧
      (∃ (s : State) (w : Warp), s.issuer = .gang 1 0xFF ∧ tfind s.warps 1 = some w ∧ w.slices.length = 8 ∧ fenceHolds row.form w = false ∧
        trapsEnter w 0xFF ∧ row.form.accepts (gangMode w 0xFF) = true ∧ ∃ n ∈ row.form.named, w.ceil ≤ w.win + n) ∧
      ∃ (s : State) (v : Warp), s.issuer = .gang 1 0xFF ∧ tfind s.warps 1 = some v ∧ v.slices.length = 8 ∧ trapsEnter v 0xFF ∧
        s.fetched = some 1 ∧ decodeCore (1 : Word).toNat = .error .reservedField :=
  ⟨_, .inl .iadd, ⟨_, rfl, rfl, by decide +kernel, by decide +kernel, by unfold trapsEnter; decide +kernel, by decide +kernel⟩,
    ⟨gang 0 fun w => { w with ceil := 3 }, _, rfl, rfl, by decide +kernel, by decide +kernel,
      by unfold trapsEnter; decide +kernel, by decide +kernel, by decide +kernel⟩,
    { gang 0 with fetched := some 1 }, _, rfl, rfl, by decide +kernel, by unfold trapsEnter; decide +kernel, rfl, by decide +kernel⟩

/-- Slices 0 to 3 issue REGANG; slice 4 has shown its own, and the others have ended. -/
def regangers : State :=
  let s := gang 0 fun w => { w with slices := (List.range 8).map fun i =>
    { sliceAt w i with ended := decide (4 < i), regangAt := if i = 4 then some (sliceAt w i).pc else none } }
  { s with issuer := .gang 1 0x0F }

/-- A gang of slices 0 to 3 alone; a gang whose slices all end; a REGANG that completes. -/
theorem witness_SlicesEndAndRejoin :
    (∃ s : State, Issues { drains := true } s 1 0x0F (warpAt s 1) ∧
        ∃ j, j < 8 ∧ j ∉ bitsOf 8 0x0F ∧ (sliceAt (warpAt s 1) j).ended = false) ∧
      (Met { drains := true } (gang 0) fun r k sl w => countersZero w = true ∧ posting r k = false ∧ ∀ j, j < 8 → (sliceAt w j).ended = true ∨
        (j ∈ bitsOf 8 sl ∧ (afterExit (sliceAt w j) (guarded w j)).ended = true)) ∧
      Issues { drains := true, past := true } regangers 1 0x0F (warpAt regangers 1) ∧
        let r := readAt { drains := true, past := true } regangers 1 0x0F (warpAt regangers 1)
        ∀ i, i < 8 → (sliceAt (warpAt r 1) i).ended = false → i ∈ bitsOf 8 0x0F ∨ atRegang r (warpAt r 1) i = true :=
  ⟨⟨{ gang 0 with issuer := .gang 1 0x0F }, issuesOf (by decide +kernel), 4, by decide +kernel⟩,
    ⟨issuesOf (by decide +kernel), by decide +kernel⟩, issuesOf (by decide +kernel), by decide +kernel⟩
/-- A root template warp of a launch of level 3 with a ceiling of 8, and a warp that reads a level-3 image. -/
def rootTemplate : State :=
  gang 0 fun w => { w with self := true, ceil := 8, priv := 255, ident := { w.ident with ceil0 := 8, tlevel := 3 } }
def instanceWarp : State :=
  { gang 0 fun w => { w with image := some 5 } with images := [(5, { (default : Image) with level := 3, ceil := 8 })] }

theorem witness_TemplatesFreeze :
    (Met { drains := true } rootTemplate fun r k sl w => quiet w sl ∧ freezeState w sl = true ∧ countersZero w = true ∧
        w.self = true ∧ (3 : BitVec 3).toNat = w.ident.tlevel ∧ w.ceil ≤ w.ident.ceil0 ∧
        (∀ p ∈ r.ops, p.2.warp ≠ some k) ∧ posting r k = false ∧ r.images = [] ∧
        (∀ i, (groupAt r w.ident.group).nested = some i → i < r.fresh) ∧
        (∀ x i, tfind r.cohorts (cohortOf r w) = some x → x.nested = some i → i < r.fresh) ∧
        (vwrite r w.ident.ctx w.die (w.ident.save + w.ident.wid.toNat / 2 ^ w.ident.unitShift * (2048 + 128 * w.ident.ceil0))
          (imageBytes (imageFrom r w (gangPc w sl) w.ident.tlevel
            (w.ident.save + w.ident.wid.toNat / 2 ^ w.ident.unitShift * (2048 + 128 * w.ident.ceil0)) none) 0)).2 = none) ∧
      Met { drains := true } instanceWarp fun r _ sl w => quiet w sl ∧ freezeState w sl = true ∧ countersZero w = true ∧
        w.self = false ∧ (2 : BitVec 3).toNat ≤ 3 ∧ (∃ im, imageOf r w = some im ∧ (2 : BitVec 3).toNat < im.level) ∧
        nestedOf r w 2 = none ∧ isFreezer w 2 = true ∧
        ∀ c ∈ nestedCores r w 2, (tget r.cores c default).images.length < 8 :=
  ⟨⟨issuesOf (by decide +kernel), by unfold quiet; decide +kernel, by decide +kernel, by decide +kernel, by decide +kernel,
        by decide +kernel, by decide +kernel, by decide +kernel, by decide +kernel, by decide +kernel, fun _ h => (nomatch h), fun _ _ hx h => (by cases hx; cases h),
        by decide +kernel⟩,
    issuesOf (by decide +kernel), by unfold quiet; decide +kernel, by decide +kernel, by decide +kernel, by decide +kernel,
      by decide, ⟨_, rfl, by decide +kernel⟩, by decide +kernel, by decide +kernel, by decide +kernel⟩

/-- Ceilings reach 1024 and no further, and come down to 8. -/
theorem witness_CeilingsGrowAndShrink :
    (Met { drains := true } (gang 0) fun r k sl w => growable (896 : BitVec 15).toNat r k sl w) ∧
      (Met (draining 0 2) (holding 8) fun r k sl w => (warpOperand r w sl 2).toNat ≠ 0 ∧
        (warpOperand r w sl 2).toNat % 8 = 0 ∧ growable (warpOperand r w sl 2).toNat r k sl w) ∧
      (Met { drains := true } (gang 0) fun _ _ sl w => shrinkable (120 : BitVec 15).toNat w sl) ∧
      Met (draining 0 2) (holding 8) fun r _ sl w => (warpOperand r w sl 2).toNat ≠ 0 ∧
        (warpOperand r w sl 2).toNat % 8 = 0 ∧ shrinkable (warpOperand r w sl 2).toNat w sl :=
  ⟨⟨issuesOf (by decide +kernel), by unfold growable quiet; decide +kernel⟩,
    ⟨issuesOf (by decide +kernel), by unfold growable quiet; decide +kernel⟩,
    ⟨issuesOf (by decide +kernel), by unfold shrinkable quiet; decide +kernel⟩,
    issuesOf (by decide +kernel), by unfold shrinkable quiet; decide +kernel⟩

/-- Two warps in the workgroup, the other without a warp of its own among those that run. -/
def twoWarps (s : State) : State := { s with groups := s.groups.map fun p => (p.1, { p.2 with warps := [(0, 1), (1, 9)], names := [0, 1] }) }

theorem witness_DonationsMeetAtTheRendezvous :
    (Met (draining 0 2) (twoWarps (holding 1)) fun r _ sl w => (warpOperand r w sl 2).toNat ≠ w.ident.f1 ∧
        (warpOperand r w sl 2).toNat ∈ (groupAt r w.ident.group).names ∧
          8 * ((15 : BitVec 8).toNat + (w.donations.map Prod.snd).sum) + 8 ≤ w.ceil ∧
          8 * ((15 : BitVec 8).toNat + (w.donations.map Prod.snd).sum) + w.win < w.ceil) ∧
      (Met (draining 0 2) (gang 0) fun r _ sl w => (warpOperand r w sl 2).toNat = w.ident.f1) ∧
      Met { drains := true } (gang 0) fun r k sl w => w.donations = [] ∧ w.ended = false ∧
        groupWarps r w.ident.group = [k] ∧ ∀ i, i < 8 → (sliceAt w i).ended = false → i ∈ bitsOf 8 sl :=
  ⟨⟨issuesOf (by decide +kernel), by decide +kernel⟩, ⟨issuesOf (by decide +kernel), by decide +kernel⟩,
    issuesOf (by decide +kernel), by decide +kernel⟩

/-- `arrives`, decided but for the records it names. -/
theorem arrivesOf {key n s k sl w} (g : Group) (c : Cohort) (hg : tfind s.groups w.ident.group = some g)
    (hc : tfind s.cohorts g.cohort = some c)
    (h : (1 ≤ n ∧ n ≤ if key < 16 then 32 else 128) ∧ (released w sl (if key < 16 then 1 else 2) = true ∧
      k ∈ barrierWarps s w key ∧
      ((getBarrier s w key).latched = none ∨ (getBarrier s w key).latched = some n) ∧
      (barCounts w key).length = 8 ∧ (∀ i ∈ bitsOf 8 sl, lget (barCounts w key) i 0 = 0) ∧
      ∀ i < 8, i ∉ bitsOf 8 sl → (sliceAt w i).ended = true ∨ 0 < lget (barCounts w key) i 0)) :
    arrives key n s k sl w :=
  ⟨h.1, h.2.1, ⟨g, hg, fun _ => ⟨c, hc⟩⟩, h.2.2⟩

/-- Counts 1 and 32 for a workgroup's barrier 15, and 2 for a cohort's barrier. -/
theorem witness_BarriersGatherTheirArrivals :
    (Met { drains := true } (gang 0) fun r k sl w => arrives (barKey 0 15) 32 r k sl w ∧
        (getBarrier r w (barKey 0 15)).arrived + 1 < 32) ∧
      (Met { drains := true } (gang 0) fun r k sl w => arrives (barKey 0 15) 1 r k sl w ∧
        (getBarrier r w (barKey 0 15)).arrived + 1 = 1) ∧
      (Met { drains := true } (gang 0) fun r k sl w => arrives (barKey 1 0) 2 r k sl w ∧
        (getBarrier r w (barKey 1 0)).arrived + 1 < 2) ∧
      (Met (draining 0 2) (holding 2) fun r k sl w => arrives (barKey 1 0) (warpOperand r w sl 2).toNat r k sl w ∧
        (getBarrier r w (barKey 1 0)).arrived + 1 < (warpOperand r w sl 2).toNat) ∧
      Met (draining 0 2) (holding 1) fun r k sl w => arrives (barKey 1 0) (warpOperand r w sl 2).toNat r k sl w ∧
        (getBarrier r w (barKey 1 0)).arrived + 1 = (warpOperand r w sl 2).toNat :=
  ⟨⟨issuesOf (by decide +kernel), arrivesOf _ _ rfl rfl (by decide +kernel), by decide +kernel⟩,
    ⟨issuesOf (by decide +kernel), arrivesOf _ _ rfl rfl (by decide +kernel), by decide +kernel⟩,
    ⟨issuesOf (by decide +kernel), arrivesOf _ _ rfl rfl (by decide +kernel), by decide +kernel⟩,
    ⟨issuesOf (by decide +kernel), arrivesOf _ _ rfl rfl (by decide +kernel), by decide +kernel⟩,
    issuesOf (by decide +kernel), arrivesOf _ _ rfl rfl (by decide +kernel), by decide +kernel⟩

/-- Every slice waits, for the reason `x`. -/
def waiting (x : Wait) : State := gang 0 (allSlices fun y => { y with wait := x })

theorem witness_WaitsEndWhenTheirConditionHolds :
    (Met { draining 0 2 with past := true } (gang 0) fun r _ sl w =>
        countOf w (Path.ofCode (0 : BitVec 3).toNat) ≤ (warpOperand r w sl 2).toNat) ∧
      (Met (draining 0 2) (holding 0x7FFFF0) fun r _ sl w => (warpOperand r w sl 2).toNat % 16 = 0 ∧
        (warpOperand r w sl 2).toNat < 0x800000 ∧
        mnat (tget r.clusters w.clusterOf default).store ((warpOperand r w sl 2).toNat + 8) 4 % 2 = (0 : BitVec 1).toNat) ∧
      Met { drains := true } (gang 0) ∧
      ∃ (s : State) (k i : Nat) (w : Warp) (due : Nat), s.issuer = .event [k, i] ∧ tfind s.warps k = some w ∧ w.slices.length = 8 ∧ i < 8 ∧
        (sliceAt w i).wait = .sleep due ∧ due ≤ clockOf s w.die w.core :=
  ⟨⟨issuesOf (by decide +kernel), by decide +kernel⟩, ⟨issuesOf (by decide +kernel), by decide +kernel⟩,
    ⟨issuesOf (by decide +kernel), trivial⟩,
    { waiting (.sleep 0) with issuer := .event [1, 7] }, 1, 7, _, 0, rfl, rfl, by decide +kernel, by decide,
      by decide +kernel, by decide +kernel⟩

/-- A fetch that translates and whose bytes are there. -/
def fetchAt (s : State) (u : Walker) (va : Nat) : Option (State × Trans × State × List Byte) :=
  match translate s u va .fetch with
  | (m, .ok tr) => match physBytes m u.ctx u.die tr.pa 4 with
    | (m', some b) => some (m, tr, m', b)
    | _ => none
  | _ => none

theorem fetchOf {s u va p} (h : fetchAt s u va = some p) :
    translate s u va .fetch = (p.1, .ok p.2.1) ∧ physBytes p.1 u.ctx u.die p.2.1.pa 4 = (p.2.2.1, some p.2.2.2) := by
  unfold fetchAt at h
  split at h
  · split at h
    · obtain rfl := Option.some.inj h
      exact ⟨‹_›, ‹_›⟩
    · cases h
  · cases h

theorem witness_SequencerEventsComplete :
    (∀ d ∈ [Dest.none, .reg 3, .pred 7], ∃ (s : State) (k j : Nat) (w : Warp) (e : Result), s.issuer = .event [k, j] ∧
        tfind s.warps k = some w ∧ w.slices.length = 8 ∧ j < 8 ∧ (sliceAt w j).queue = [e] ∧ e.left = 0 ∧ e.dest = d) ∧
      (∃ (s : State) (sl : BitVec 8) (w : Warp) (a : AsyncTrap), s.issuer = .gang 1 sl ∧ tfind s.warps 1 = some w ∧ w.slices.length = 8 ∧ sl ≠ 0 ∧
        ∀ j ∈ bitsOf 8 sl, (sliceAt w j).asyncTrap = some a ∧ (sliceAt w j).handler = false ∧
          (sliceAt w j).ended = false ∧ latched (sliceAt w j) = false) ∧
      (∃ (s : State) (sl : BitVec 8) (w : Warp) (p : _) (m m' : State) (b : List Byte), s.issuer = .gang 1 sl ∧ tfind s.warps 1 = some w ∧
        translate s w.walker (gangPc w sl).toNat .fetch = (m, .ok p) ∧
        physBytes m w.ident.ctx w.die p.pa 4 = (m', some b) ∧ m'.stuck = []) ∧
      ∃ (s : State) (c k : Nat) (w : Warp), s.issuer = .event [c] ∧ warpsOn s (c / 288) (c % 288) = [(k, w)] ∧ tfind s.warps k = some w ∧
        w.slices.length = 8 ∧ (tget s.cores c default).starved = false ∧ w.die = c / 288 ∧ w.core = c % 288 ∧
        ∀ j, j < 8 → (sliceAt w j).wait = .grow ∧ (sliceAt w j).ended = false ∧ (sliceAt w j).handler = false :=
  ⟨fun d _ => ⟨{ gang 0 (allSlices fun x => { x with queue := [⟨d, 15, [1, 2, 3, 4], 1, 0⟩] }) with issuer := .event [1, 0] },
      1, 0, _, _, rfl, rfl, rfl, by decide, rfl, rfl, rfl⟩,
    ⟨gang 0 (allSlices fun x => { x with asyncTrap := some ⟨18, 0⟩ }), 0xFF, _, ⟨18, 0⟩, rfl, rfl, by decide +kernel,
      by decide, by decide +kernel⟩,
    by
      have g : (fetchAt (gang 0) (warpAt (gang 0) 1).walker (gangPc (warpAt (gang 0) 1) 0xFF).toNat).any
        (fun p => decide (p.2.2.1.stuck = [])) = true := by decide +kernel
      obtain ⟨p, h, g⟩ := (Option.any_eq_true _ _).mp g
      exact ⟨gang 0, 0xFF, _, _, _, _, _, rfl, rfl, (fetchOf h).1, (fetchOf h).2, of_decide_eq_true g⟩,
    { waiting .grow with issuer := .event [0] }, 0, 1, _, rfl, rfl, rfl, by decide +kernel, by decide +kernel,
      by decide +kernel, by decide +kernel, by decide +kernel⟩
/-! ## The memory access unit and the home slices -/

/-- A gang whose record 0 is `v`. -/
def recorded (v : BitVec 128) : State := gang 0 fun w => { w with recs := [(0, v)] }

theorem witness_GlobalAccessesAreIssued :
    (∃ g, GlobalAccess (.ldx 0 1 2 0 1) g ∧ Met g.form (gang 0) fun _ _ sl w => recordOk g.r w ∧
        (g.kind = .storeRelease → released w sl (modeScope (gangMode w sl)) = true)) ∧
      (∃ g, GlobalAccess (.stl 0 1 2 0) g ∧ Met g.form (gang 0x500000) fun _ _ sl w => recordOk g.r w ∧
        (g.kind = .storeRelease → released w sl (modeScope (gangMode w sl)) = true)) ∧
      (Met { reads := [2], hold := 0, a := 2, past := true, accepts := acceptsMem } (gang 0) fun _ _ _ w => recordOk 0 w) ∧
      Met { stall := logStall .ld 1 false 0 } (gang 0) fun _ _ _ w => recordOk 0 w :=
  ⟨⟨_, .ldx, issuesOf (by decide +kernel), by dsimp only [recordOk]; decide +kernel⟩,
    ⟨_, .stl, issuesOf (by decide +kernel), by dsimp only [recordOk]; decide +kernel⟩,
    ⟨issuesOf (by decide +kernel), by unfold recordOk; decide +kernel⟩,
    issuesOf (by decide +kernel), by unfold recordOk; decide +kernel⟩

theorem witness_ReservedRecordsTakeTheRecordTrap :
    ∃ g, GlobalAccess (.ld 0 1 2 0) g ∧ Met g.form (recorded (BitVec.allOnes 128)) fun _ _ sl w => trapsEnter w sl ∧
      ¬ recordOk g.r w :=
  ⟨_, .ld, issuesOf (by decide +kernel), by dsimp only [recordOk, trapsEnter]; decide +kernel⟩

theorem witness_WarpStateWritesAreQueued :
    (Met { reads := groupRegs 121 4, hold := 0, a := 121 } (gang 0) fun _ _ sl _ => sl ≠ 0) ∧
      (Met { reads := [2] } (gang 0) fun _ _ sl _ => sl ≠ 0) ∧ Met {} (gang 0) fun _ _ sl _ => sl ≠ 0 :=
  ⟨⟨issuesOf (by decide +kernel), by decide⟩, ⟨issuesOf (by decide +kernel), by decide⟩,
    issuesOf (by decide +kernel), by decide⟩

/-- A lane's element at an address, live. -/
def elem (lane addr : Nat) : Elem := { (default : Elem) with lane := lane, addr := addr, data := [1, 2, 3, 4] }

/-- An operation of a kind whose elements have all been translated. -/
def placedOp (k : OpKind) : Op :=
  { (default : Op) with kind := k, placed := true, z := 4, n := 1, dst := 3, elems := [elem 0 0x10, elem 31 0x20] }

/-- Operation 9 of warp 1 as it stands in `flying`. -/
def mine (op : Op) : Op := { op with warp := some 1 }

theorem cameBackOf {op : Op} (h : returned (flying (gang 0) op) 9 (mine op) = true) :
    CameBack (flying (gang 0) op) 9 1 (mine op) (warpAt (flying (gang 0) op) 1) := ⟨rfl, rfl, rfl, rfl, rfl, h⟩

/-- What has come back for warp 1. -/
def Back (s : State) (op : Op) (more : State → Op → Warp → Prop) : Prop :=
  CameBack s 9 1 op (warpAt s 1) ∧ lanesApart op.elems ∧ more s op (warpAt s 1)

def acquiring : Op := { placedOp .loadAcquire with mode := 0x200000 }
def oneElement (k : OpKind) : Op := { placedOp k with elems := [elem 0 0] }

theorem witness_LoadsReturnToTheirRegisters :
    Back (flying (gang 0) acquiring) (mine acquiring) (fun s op w => op.kind = .loadAcquire ∧ 2 ≤ modeScope op.mode ∧
        (tfind s.cores w.coreOf).isSome = true) ∧
      Back (flying (gang 0) (oneElement .codebook)) (mine (oneElement .codebook)) (fun s op w => op.kind = .codebook ∧
        (tfind s.groups w.ident.group).isSome = true ∧ op.elems = [elem 0 0]) ∧
      Back (flying (gang 0) (placedOp .store)) (mine (placedOp .store)) fun _ op _ => op.kind = .store :=
  ⟨⟨cameBackOf (by decide +kernel), by unfold lanesApart; decide +kernel, by decide +kernel⟩,
    ⟨cameBackOf (by decide +kernel), by unfold lanesApart; decide +kernel, by decide +kernel⟩,
    cameBackOf (by decide +kernel), by unfold lanesApart; decide +kernel, rfl⟩

/-- Request 5 alone, on its way to its home. -/
def arriving (q : Req) : State := { gang 0 with issuer := .event [5], reqs := [(5, q)], dieLink := true }

theorem atHomeOf {q : Req} (h : (!isRemote q.line && decide (cutOff (arriving q) q = false) && !linkHeld (arriving q) 5 q &&
    decide ((homeLine (arriving q) q.line).poison = none) && eligible (arriving q) 5 q &&
    (List.range 8).all fun i => ((lget (arriving q).perDie (q.home / 96) default).ready.getLsbD (4 + q.home % 96 / 32) &&
      (lget (arriving q).perDie (q.home / 96) default).ready.getLsbD (7 + i))) = true) : AtItsHome (arriving q) 5 q := by
  simp only [Bool.and_eq_true, decide_eq_true_eq, Bool.not_eq_true', List.all_eq_true] at h
  obtain ⟨⟨⟨⟨⟨h1, h2⟩, h3⟩, h4⟩, h5⟩, h6⟩ := h
  refine ⟨by decide, rfl, rfl, h1, ?_, ⟨h2, h3⟩, h4, h5⟩
  have := h6 (Config.stackOf (q.home % 96) % 8) (List.mem_range.mpr (Nat.mod_lt _ (by decide)))
  simp only [homeReady, fieldReady, Bool.and_eq_true, Bool.or_eq_true]
  exact ⟨this.1, .inr this.2⟩

/-- A request of a kind for the line at 0x8000, with two lanes' words. -/
def request (k : ReqKind) (code : Nat := 0) : Req :=
  ⟨k, 17, 0, 9, 0x8000, [(0x8000, [1, 0, 0, 0], 0), (0x8004, [2, 0, 0, 0], 1)], code, none, none, (0, 0), 1⟩

theorem witness_HomesServeLinesAndDropCopies :
    (∃ s id q op, AtItsHome s id q ∧ q.kind = .load ∧ q.remote = none ∧ tfind s.ops q.op = some op ∧
        ∀ c ∈ s.copies, c.pa ≠ q.line) ∧
      (∃ s id q, AtItsHome s id q ∧ q.kind = .store ∧ q.remote = none) ∧
      (∃ (s : State) (pa : Nat), s.issuer = .event [0, pa]) ∧
      (∃ (s : State) (pa : Nat) (b : List Byte), s.issuer = .event (0 :: pa :: b.map BitVec.toNat) ∧
        hostReaches s pa b.length = true ∧ b ≠ []) ∧
      (∃ (s : State) (n : Nat) (v : Invalidation), s.issuer = .event [n] ∧ s.invalidations[n]? = some v ∧
        acrossDown s (if v.holder < 100000 then v.holder / 288 else v.holder - 100000) v.pa = false ∧
        behindOnLink s n v = false) ∧
      (∃ (s : State) (h pa : Nat), s.issuer = .event [h, pa] ∧ isRemote pa = true ∧ (tfind s.cores h).isSome = true) ∧
      ∃ (s : State) (pa : Nat), s.issuer = .event [pa] :=
  ⟨⟨{ arriving (request .load) with ops := [(9, placedOp .load)] }, 5, _, _,
      have h := atHomeOf (q := request .load) (by decide +kernel)
      ⟨h.named, h.issuer, h.req, h.here, h.ready, by decide +kernel, h.sound, h.next⟩, rfl, rfl, rfl, by decide +kernel⟩,
    ⟨_, 5, request .store, atHomeOf (by decide +kernel), rfl, rfl⟩,
    ⟨{ gang 0 with issuer := .event [0, 0x8000] }, 0x8000, rfl⟩,
    ⟨{ gang 0 with issuer := .event [0, 2 ^ 48 + 124, 1, 2, 3, 4] }, 2 ^ 48 + 124, [1, 2, 3, 4], rfl, by decide +kernel, by decide⟩,
    ⟨{ gang 0 with issuer := .event [0], invalidations := [⟨100000, 0x8000⟩] }, 0, _, rfl, rfl, by decide +kernel,
      by decide +kernel⟩,
    ⟨{ gang 0 with issuer := .event [0, 3 * 2 ^ 48] }, 0, 3 * 2 ^ 48, rfl, by decide +kernel⟩,
    { gang 0 with issuer := .event [0x8000] }, _, rfl⟩

/-- A load that has yet to be translated. -/
def loadOp : Op := mine { placedOp .load with ctx := 1, placed := false, mask := 0x80000001 }
def loading : State := flying (gang 0) loadOp

/-- What the translation of its elements answers. -/
def isLines : Elem × Place → Bool
  | (_, .lines _ _ _) => true
  | _ => false

theorem isLines_of {l : List (Elem × Place)} (h : l.all isLines = true) :
    ∀ p ∈ l, ∃ ls fmt code, p.2 = .lines ls fmt code := by
  intro p hp
  have := List.all_eq_true.mp h p hp
  rcases p with ⟨e, c⟩
  cases c <;> first | exact ⟨_, _, _, rfl⟩ | cases this

theorem witness_LinesTranslateBeforeTheyAreReached :
    ∃ op w l s1, loading.issuer = .event [9] ∧ tfind loading.ops 9 = some op ∧ op.warp = some 1 ∧
      tfind loading.warps 1 = some w ∧ op.kind = .load ∧ op.placed = false ∧ op.faulted = false ∧
      op.resample = false ∧ pastFence loading 9 op 0 = false ∧ lanesApart op.elems ∧
      loading.ops.all (fun p => p.1 == 9) = true ∧ placeOp loading op = (s1, l) ∧ (∀ e ∈ op.elems, e.st ≠ .addrError) ∧
      l ≠ [] ∧ ∀ p ∈ l, ∃ ls fmt code, p.2 = .lines ls fmt code := by
  refine ⟨loadOp, warpAt loading 1, (placeOp loading loadOp).2, (placeOp loading loadOp).1, rfl, rfl, rfl, rfl, rfl, rfl,
    rfl, rfl, by decide +kernel, by unfold lanesApart; decide +kernel, by decide +kernel, Prod.mk.eta.symm, by decide +kernel, by decide +kernel, ?_⟩
  exact isLines_of (by decide +kernel)
theorem witness_ClusterSpaceInstructionsAreIssued :
    (∃ kind, ClusterAccess (.stlCluster 0 1 2 0) kind 0 1 2 0 ∧ Met (clusterForm kind 0 1 2) (gang 0x500000)
        fun _ _ sl w => kind = .clusterStoreRelease → released w sl (min 2 (modeScope (gangMode w sl))) = true) ∧
      (∃ n m out ok, ClusterAtomic (.atomfCluster 0 1 2 0) n m out ok 0 1 2 ∧
        Met (atomicForm 0 1 2 m out ok atStall) (gang 0x60)) ∧
      (Met (waitmForm 0 1 2) (gang 0) fun s _ sl w => gangLanes w sl ≠ [] ∧
        ∀ l ∈ gangLanes w sl, (srcReg s w 2 l).toNat % 4 = 0) ∧
      (Met (waitmForm 0 1 2) (gang 0 (allSlices fun x => { x with active := 0 })) fun s _ sl w => gangLanes w sl = [] ∧
        w.ended = false ∧ unnamed s s.fresh) ∧
      Met { reads := [2, 3, 4], hold := 0, a := 2, stall := atStall } (holding (2 ^ 30)) fun s _ sl w =>
        (warpOperand s w sl 2).toNat ≤ 2 ^ 30 :=
  ⟨⟨_, .stlCluster, issuesOf (by decide +kernel), fun _ => by decide +kernel⟩,
    ⟨_, _, _, _, .atomf, issuesOf (by decide +kernel), trivial⟩, ⟨issuesOf (by decide +kernel), by decide +kernel⟩,
    ⟨issuesOf (by decide +kernel), by unfold unnamed; decide +kernel⟩, issuesOf (by decide +kernel), by decide +kernel⟩

/-- A cluster-space operation whose two lanes reach the first word and the last. -/
def clusterOp (k : OpKind) : Op := mine { placedOp k with elems := [elem 0 0, elem 31 0x7FFFFC] }

/-- R243's settled barrier object: everything expected has arrived, and the last of the warps. -/
def settled : Memory := mputNat (mputNat (mputNat [] 0 4 128) 4 4 128) 14 2 3

theorem witness_ClusterStoreIsReadAndWritten :
    (∀ k ∈ [OpKind.clusterStoreRelease, .clusterLoad], let s := flying (gang 0) (clusterOp k)
      s.issuer = .event [9] ∧ tfind s.ops 9 = some (clusterOp k) ∧ (clusterOp k).warp = some 1 ∧
      tfind s.warps 1 = some (warpAt s 1) ∧ (warpAt s 1).ended = false ∧ (clusterOp k).faulted = false ∧
      pastFence s 9 (clusterOp k) 0 = false ∧ lanesApart (clusterOp k).elems ∧
      ∀ e ∈ (clusterOp k).elems, e.st = .live ∧ e.addr < 0x800000 ∧ clusterFollows s 9 (clusterOp k) e = false ∧
        ((clusterOp k).kind = .arrive → e.idx ≤ mnat (tget s.clusters (clusterOp k).cluster default).store (e.addr + 12) 2)) ∧
      (∃ op e, op = oneElement .arrive ∧ op.elems = [e] ∧
        e.idx ≤ mnat (tget (gang 0).clusters op.cluster default).store (e.addr + 12) 2) ∧
      mnat settled 12 2 = 0 ∧ mnat settled 0 4 ≤ mnat settled 4 4 :=
  ⟨by unfold lanesApart; decide +kernel, ⟨_, _, rfl, rfl, by decide +kernel⟩, by decide +kernel⟩

/-- A copy toward the cluster of two elements of four, both back. -/
def copied : Op := mine { placedOp .copy with code := 1, par := [0, 0, 0x40, 4, 0, 0] }

/-- Lanes that hold a copy's parameters in registers 4 to 7: address 0 of both, the barrier object at 0x40, 32 elements. -/
def copying (m : Word) : State :=
  gang m fun w => { w with regs := ((List.range 32).map fun l => (32 * 6 + l, 0x40)) ++ (List.range 32).map fun l => (32 * 7 + l, 32) }

theorem witness_CopiesAreIssuedAndLand :
    (Met (copyForm false 4 0 1) (copying 0) fun s _ sl w => copyOk false 4 0 0 s sl w) ∧
      (Met (copyForm true 4 0 0) (copying 0x60) fun s _ sl w => copyOk true 4 0 0 s sl w) ∧
      (let s := flying (gang 0) copied;
        s.issuer = .event [9] ∧ tfind s.ops 9 = some copied ∧ copied.kind = .copy ∧ copied.code = 1 ∧ copied.done = 0 ∧
        copied.z ≠ 0 ∧ copied.elems ≠ [] ∧
        copied.elems.length * copied.z < copyTotal false (modeType copied.mode) (copied.par.map BitVec.toNat) ∧
        ∀ e ∈ copied.elems, elemBack s 9 copied e = true ∧ e.st = .live) ∧
      Met { reads := [2], hold := 0, a := 2, drains := true, stall := clStall } (holding 0x7FFFF0) fun s _ sl w =>
        boAddress (warpOperand s w sl 2).toNat = true ∧ released w sl 2 = true :=
  ⟨⟨issuesOf (by decide +kernel), by unfold copyOk recordOk; decide +kernel⟩,
    ⟨issuesOf (by decide +kernel), by unfold copyOk recordOk; decide +kernel⟩, by decide +kernel,
    issuesOf (by decide +kernel), by decide +kernel⟩

/-- A warp with a store outstanding, in a context whose fences are speculative or not. -/
def storing (spec : Bool) : State :=
  let s := gang 0 fun w => { w with counters := { w.counters with st := [⟨9, false⟩] } }
  { s with contexts := s.contexts.map fun p => (p.1, { p.2 with fence := spec }) }

theorem witness_FencesMakeWritesVisible :
    let f : Form := { drains := true, accepts := fun md => decide ((0 : BitVec 1) = 1) || scopeOk md };
    (Met f (gang 0x500000) fun _ _ sl w => released w sl (fenceScope 0 5 (gangMode w sl)) = true) ∧
      (Met { drains := true } (storing false) fun s _ sl w => released w sl (fenceScope 1 2 (gangMode w sl)) = false ∧
        (tget s.contexts w.ident.ctx default).fence = false) ∧
      Met { drains := true } (storing true) fun s _ sl w => released w sl (fenceScope 1 2 (gangMode w sl)) = false ∧
        (tget s.contexts w.ident.ctx default).fence = true :=
  ⟨⟨issuesOf (by decide +kernel), by decide +kernel⟩, ⟨issuesOf (by decide +kernel), by decide +kernel⟩,
    issuesOf (by decide +kernel), by decide +kernel⟩

/-- Entry 0 enabled at version 4, with operations waiting at it; record 0 is published through it. -/
def published (l : List (Nat × Option Nat)) : State :=
  let s := recorded (2 ^ 61)
  { s with publish := [(0, { (default : PubEntry) with enabled := true, version := 4, counter := 2, waiting := l })] }

/-- A home slice of a die whose fields and stacks all run. -/
theorem homeReady_of {s : State} {h : Nat} (e : (lget s.perDie (h / 96) default).ready = 0x7FFF) : homeReady s h = true := by
  have b : ∀ n, n < 15 → (0x7FFF : BitVec 32).getLsbD n = true := by decide
  have := Nat.mod_lt (Config.stackOf (h % 96)) (show 0 < 8 by decide)
  simp only [homeReady, fieldReady, e, Bool.and_eq_true, Bool.or_eq_true]
  exact ⟨b _ (by omega), .inr (b _ (by omega))⟩

/-- With the die-to-die link up. -/
theorem atPublish_of {s p o} (hl : s.dieLink = true)
    (h : (lget s.perDie (pubHome s p / 96) default).ready = 0x7FFF) : atPublish s p o = true := by
  simp [atPublish, homeReady_of h, hl]

theorem witness_PublishingMovesAnEntryOn :
    (Met { drains := true, stall := stStall } (published []) fun s _ sl w => released w sl 5 = true ∧
        recPub (tget w.recs 0 0) = true ∧ (pubAt s (recEntry (tget w.recs 0 0))).enabled = true) ∧
      (Met { reads := [2], hold := 0, a := 2, drains := true, stall := stStall } (published []) fun s _ sl w =>
        released w sl 5 = true ∧ (warpOperand s w sl 2).toNat ≤ 65535 ∧ recPub (tget w.recs 0 0) = true ∧
          (pubAt s (recEntry (tget w.recs 0 0))).enabled = true) ∧
      (∃ (s : State) (p o : Nat) (rest : List (Nat × Option Nat)), s.issuer = .event [p] ∧
        (pubAt s p).waiting = (o, none) :: rest ∧ (pubAt s p).writers = [] ∧ atPublish s p o = true) ∧
      ∀ n ∈ [2, 3], ∃ (s : State) (p o : Nat) (rest : List (Nat × Option Nat)), s.issuer = .event [p] ∧
        (pubAt s p).waiting = (o, some n) :: rest ∧ (pubAt s p).counter = 2 ∧ atPublish s p o = true :=
  ⟨⟨issuesOf (by decide +kernel), by decide +kernel⟩, ⟨issuesOf (by decide +kernel), by decide +kernel⟩,
    ⟨{ published [(7, none)] with issuer := .event [0] }, 0, 7, [], rfl, rfl, rfl,
      atPublish_of (by decide +kernel) (by decide +kernel)⟩,
    fun n _ => ⟨{ published [(7, some n)] with issuer := .event [0] }, 0, 7, [], rfl, rfl, rfl,
      atPublish_of (show (published []).dieLink = true by decide +kernel)
        (show (lget (published []).perDie (pubHome (published []) 0 / 96) default).ready = 0x7FFF by decide +kernel)⟩⟩

/-- The next state of instruction `i` in `s`, in which its operation departs. -/
def Departing (i : Instr) (s : State) (p : Op → List (Elem × Place) → Prop) : Prop :=
  exec i s = .next (after (exec i s)) ∧ ∃ op l, tfind (after (exec i s)).ops s.fresh = some op ∧
    (placeOp { after (exec i s) with issuer := .event [s.fresh] } op).2 = l ∧ (∀ p ∈ l, ∃ ls fmt code, p.2 = .lines ls fmt code) ∧
    (let ls := (sortPlaces l).ok.flatMap Prod.snd;
      mustFollow { after (exec i s) with issuer := .event [s.fresh] } s.fresh op (op.vlines ++ ls.map OpLine.va) (ls.map OpLine.pa) =
        false ∧ (op.kind = .cacheop → op.code % 8 ≤ 1 → ∀ x ∈ ls, x.attr.red ≠ 0)) ∧
    (op.kind.writer = true → shadowFree (after (exec i s)) op.sample = true) ∧ (∀ e ∈ op.elems, e.st ≠ .addrError) ∧
    unnamed (after (exec i s)) s.fresh ∧ (tfind (after (exec i s)).warps 1).any (fun v => !v.ended) = true ∧ p op l

/-- The operation of `i` in `s`, as its issue leaves it. -/
def issued (i : Instr) (s : State) : Op := tget (after (exec i s)).ops s.fresh default
def issuedPlaces (i : Instr) (s : State) : List (Elem × Place) :=
  (placeOp { after (exec i s) with issuer := .event [s.fresh] } (issued i s)).2

theorem departingOf {i s p} (h : isNext (exec i s) = true)
    (h1 : (tfind (after (exec i s)).ops s.fresh).isSome = true) (h2 : (issuedPlaces i s).all isLines = true)
    (h3 : let ls := (sortPlaces (issuedPlaces i s)).ok.flatMap Prod.snd;
      let op := issued i s
      mustFollow { after (exec i s) with issuer := .event [s.fresh] } s.fresh op (op.vlines ++ ls.map OpLine.va) (ls.map OpLine.pa) =
        false ∧ (op.kind = .cacheop → op.code % 8 ≤ 1 → ∀ x ∈ ls, x.attr.red ≠ 0))
    (h4 : ((issued i s).kind.writer = true → shadowFree (after (exec i s)) (issued i s).sample = true) ∧
      (∀ e ∈ (issued i s).elems, e.st ≠ .addrError) ∧ unnamed (after (exec i s)) s.fresh ∧
      (tfind (after (exec i s)).warps 1).any (fun v => !v.ended) = true) (h5 : p (issued i s) (issuedPlaces i s)) :
    Departing i s p := by
  refine ⟨nextOf h, issued i s, issuedPlaces i s, ?_, rfl, isLines_of h2, h3, h4.1, h4.2.1, h4.2.2.1, h4.2.2.2, h5⟩
  cases e : tfind (after (exec i s)).ops s.fresh with
  | none => rw [e] at h1; cases h1
  | some x => simp [issued, tget, e]

/-- A gang whose record 0 is one element at address 0, of a page of counters or of plain words, lanes' registers 3 being `v`. -/
def oneWord (red : Bool) (v : Word) : State :=
  let s := gang 0 fun w => { w with recs := [(0, 2 ^ 96)], regs := (List.range 32).map fun l => (96 + l, v) }
  { s with
    mem := if red then mputNat s.mem 0x5000 8 (0x10007 + 2 ^ 51) else s.mem
    contexts := s.contexts.map fun p => (p.1, { p.2 with routines := [(63, [0])] }) }

theorem witness_AtomicsHoldUntilTheyTranslate :
    (∃ g, HeldAccess (.acasD 0 4 2 0) g ∧ (Met g.form (oneWord false 0) fun _ _ _ w => recordOk g.r w ∧
        (g.kind = .waitm → recPub (tget w.recs g.r.toNat 0) = false)) ∧
        Departing (.acasD 0 4 2 0) (oneWord false 0) fun op l => op.kind = .atomic ∧ l ≠ []) ∧
      (∃ g, HeldAccess (.waitmGlobal 0 4 2 5 0) g ∧ (∀ s ∈ [gang 0, oneWord false 0], Met g.form s fun _ _ _ w =>
          recordOk g.r w ∧ (g.kind = .waitm → recPub (tget w.recs g.r.toNat 0) = false)) ∧
        (Departing (.waitmGlobal 0 4 2 5 0) (gang 0) fun op l => op.kind = .waitm ∧ l = []) ∧
        Departing (.waitmGlobal 0 4 2 5 0) (oneWord false 0) fun op l => op.kind = .waitm ∧ l ≠ []) ∧
      ((Met { reads := groupRegs 4 3, waits := [5], stall := heldStall 0 } (oneWord false 0) fun s _ _ w =>
        recordOk 0 w ∧ (tfind (tget s.contexts w.ident.ctx default).routines 63).isSome = true) ∧
        Departing (.atomp 4 0 63) (oneWord false 0) fun op l => op.kind = .routine ∧ l ≠ []) ∧
      (∃ i n, CacheopRow i n 2 0 ∧ n = 0 ∧ (Met { reads := groupRegs 2 2, stall := heldStall 0 } (oneWord true 0x1FFFF)
        fun s _ sl w => recordOk 0 w ∧ (warpOperand s w sl 3).toNat % 65536 ≠ 0 ∧ (warpOperand s w sl 3).toNat < 2 ^ 17) ∧
        Departing i (oneWord true 0x1FFFF) fun op l => op.code % 8 ≤ 1 ∧ l ≠ []) ∧
      ∃ i n, CacheopRow i n 2 0 ∧ n = 5 ∧ (Met { reads := groupRegs 2 2, stall := heldStall 0 } (oneWord false 0)
        fun _ _ _ w => recordOk 0 w) ∧ Departing i (oneWord false 0) fun op l => op.kind = .cacheop ∧ l ≠ [] :=
  ⟨⟨_, .acasD, ⟨issuesOf (by decide +kernel), by dsimp only [recordOk]; decide +kernel⟩,
      departingOf (by decide +kernel) (by decide +kernel) (by decide +kernel) (by decide +kernel)
        (by unfold unnamed; decide +kernel) (by decide +kernel)⟩,
    ⟨_, .waitm, fun s h => by
        simp only [List.mem_cons, List.not_mem_nil, or_false] at h
        rcases h with rfl | rfl <;> exact ⟨issuesOf (by decide +kernel), by dsimp only [recordOk]; decide +kernel⟩,
      departingOf (by decide +kernel) (by decide +kernel) (by decide +kernel) (by decide +kernel)
        (by unfold unnamed; decide +kernel) (by decide +kernel),
      departingOf (by decide +kernel) (by decide +kernel) (by decide +kernel) (by decide +kernel)
        (by unfold unnamed; decide +kernel) (by decide +kernel)⟩,
    ⟨⟨issuesOf (by decide +kernel), by unfold recordOk; decide +kernel⟩,
      departingOf (by decide +kernel) (by decide +kernel) (by decide +kernel) (by decide +kernel)
        (by unfold unnamed; decide +kernel) (by decide +kernel)⟩,
    ⟨_, _, .arm, rfl, ⟨issuesOf (by decide +kernel), by unfold recordOk; decide +kernel⟩,
      departingOf (by decide +kernel) (by decide +kernel) (by decide +kernel) (by decide +kernel)
        (by unfold unnamed; decide +kernel) (by decide +kernel)⟩,
    _, _, .packOff, rfl, ⟨issuesOf (by decide +kernel), by unfold recordOk; decide +kernel⟩,
      departingOf (by decide +kernel) (by decide +kernel) (by decide +kernel) (by decide +kernel)
        (by unfold unnamed; decide +kernel) (by decide +kernel)⟩

theorem witness_AtomicsArePerformedAsOneStep :
    (∃ s id q, AtItsHome s id q ∧ q.kind = .atomic ∧ q.remote = none) ∧
      (∃ s id q, AtItsHome s id q ∧ q.kind = .cacheop ∧ q.remote = none ∧ q.code % 8 = 0) ∧
      (∃ s id q pa data lane, AtItsHome s id q ∧ q.kind = .routine ∧ q.remote = none ∧ q.parts = [(pa, data, lane)]) ∧
      Back (flying (gang 0) (placedOp .atomic)) (mine (placedOp .atomic)) fun _ op _ => op.kind = .atomic ∧ op.code < 64 :=
  ⟨⟨_, 5, request .atomic, atHomeOf (by decide +kernel), rfl, rfl⟩,
    ⟨_, 5, request .cacheop (8 * 0x10003), atHomeOf (by decide +kernel), rfl, rfl, rfl⟩,
    ⟨_, 5, { request .routine with parts := [(0x8004, [1, 0, 0, 0], 31)] }, _, _, _, atHomeOf (by decide +kernel), rfl, rfl, rfl⟩,
    cameBackOf (by decide +kernel), by unfold lanesApart; decide +kernel, rfl, by decide +kernel⟩
/-! ## The hash engine, the matrix engine and the queues -/

theorem witness_HashCommandsAreQueued :
    (∃ g, HashIssue (.hlookRows 4 3 15 0) g ∧ Met { reads := groupRegs g.d 4, drains := true } (gang 0) fun r _ sl w =>
        g.check ((quadOf r w sl g.d).map BitVec.toNat) = none ∧
        boAddress (g.bo ((quadOf r w sl g.d).map BitVec.toNat)) = true ∧ released w sl 2 = true ∧
          (clusterAt r w.clusterOf).hashQueue.length < 16) ∧
      ∃ g, HashIssue (.hcfg 4 0 1 3) g ∧ Met { reads := groupRegs g.d 4, drains := true } (gang 0) fun r _ sl w =>
        g.check ((quadOf r w sl g.d).map BitVec.toNat) = none ∧
        boAddress (g.bo ((quadOf r w sl g.d).map BitVec.toNat)) = true ∧ released w sl 2 = true ∧
          (clusterAt r w.clusterOf).hashQueue.length < 16 :=
  ⟨⟨_, .rows, issuesOf (by decide +kernel), by decide +kernel⟩, _, .hcfg, issuesOf (by decide +kernel), by decide +kernel⟩

/-- A dense level of 2 by 2 by 2 entries' grid, its descriptor at 0, and a record that holds its table. -/
def level : BitVec 128 := 0x3F800000 + 14 * 2 ^ 32 + 2 ^ 37
def table : BitVec 128 := 2 ^ 110
def hashSlot (tag : Option Nat) : HashSlot := ⟨0, true, [level], table, table, 0, 0, tag⟩

/-- Engine 0 with one command, slot 0 configured. -/
def hashing (cmd : HashCommand) (tag : Option Nat := none) : State :=
  { gang 0 with
    issuer := .event [0], ops := [(9, placedOp .refill)]
    clusters := [(0, { (default : Cluster) with
      store := mputNat [] 0 16 level.toNat, hashQueue := [cmd], slots := hashSlot tag :: List.replicate 3 default })] }

def hashWord (opcode : Nat) : HashCommand :=
  { (default : HashCommand) with word := BitVec.ofNat 32 (opcode * 2 ^ 24), mask := 1, table := table, grad := table, ctx := 0 }

/-- A gradient command of a context numbered 0. -/
def scattering : State := { hashing (hashWord 0xEA) with contexts := (gang 0).contexts.map fun p => (0, p.2) }

theorem placesOf {s c acc pg l} (h : (placeRanges s c acc pg l).2.2.isOk = true) :
    ∃ s1 pg1 ls, placeRanges s c acc pg l = (s1, pg1, .ok ls) := by
  rcases e : placeRanges s c acc pg l with ⟨m, q, p | p⟩
  · rw [e] at h; cases h
  · exact ⟨m, q, p, rfl⟩

theorem witness_HashEngineEventsComplete :
    (∃ s cmd, s.issuer = .event [0] ∧ (clusterAt s 0).hashQueue = [cmd] ∧ cmd.opcode = 0xE8 ∧ cmd.served = false ∧
        cmd.op = none ∧ lvGood level = true ∧ mnat (storeAt s 0) 0 16 = level.toNat ∧
        tableBad cmd.table (tableTop [level]) = false ∧ (lget cmd.quad 3 0).toNat % 16 + 1 = 1 ∧
        replicaBad (clusterAt s 0) cmd.slot (lget cmd.quad 1 0).toNat (tableTop [level]) = false ∧ cmd.slot < 4) ∧
      (∃ s cmd, s.issuer = .event [0] ∧ (clusterAt s 0).hashQueue = [cmd] ∧ cmd.opcode = 0xE9 ∧ cmd.accepted = false) ∧
      (∃ s cmd, s.issuer = .event [0] ∧ (clusterAt s 0).hashQueue = [cmd] ∧ cmd.opcode = 0xE9 ∧ cmd.accepted = true ∧
        cmd.served = false ∧ slotCheck cmd (slotAt s 0 cmd.slot) = none ∧ cmd.mask ≠ 0 ∧
        tagServes cmd (slotAt s 0 cmd.slot) = true ∧ (clusterAt s 0).hashFree ≤ engineClock s 0) ∧
      (∃ s cmd op, s.issuer = .event [0] ∧ (clusterAt s 0).hashQueue = [cmd] ∧ cmd.opcode = 0xE9 ∧
        cmd.accepted = true ∧ cmd.served = false ∧ slotCheck cmd (slotAt s 0 cmd.slot) = none ∧ cmd.mask ≠ 0 ∧
        tagServes cmd (slotAt s 0 cmd.slot) = false ∧ (clusterAt s 0).hashHeld = false ∧ cmd.op = some 9 ∧
        recPub (slotAt s 0 cmd.slot).table = false ∧ recBase (slotAt s 0 cmd.slot).table % 4 = 0 ∧ cmd.slot < 4 ∧
        tfind s.ops 9 = some op ∧ op.placed = true ∧ outstanding s 9 = false) ∧
      (∃ s cmd, s.issuer = .event [0] ∧ (clusterAt s 0).hashQueue = [cmd] ∧ cmd.opcode = 0xEA ∧ cmd.served = false ∧
        (clusterAt s 0).hashHeld = false ∧ cmd.op = some 9 ∧ outstanding s 9 = false) ∧
      (∃ s cmd s1 pg ls, s.issuer = .event [0] ∧ (clusterAt s 0).hashQueue = [cmd] ∧ cmd.opcode = 0xEA ∧
        cmd.served = false ∧ (clusterAt s 0).hashHeld = false ∧ cmd.op = none ∧
        slotCheck cmd (slotAt s 0 cmd.slot) = none ∧
        gradBad (slotAt s 0 cmd.slot).grad (tableTop (slotAt s 0 cmd.slot).levels) = false ∧
        placeRanges s ⟨cmd.ctx, 0 / 72, some (1000 + 0)⟩ .write [] ((tkeys ((gradAdds s 0 cmd (slotAt s 0 cmd.slot)).1.foldl
          (fun x p => tput x p.1 ()) ([] : Tbl Unit))).map fun a => (a, 4)) = (s1, pg, .ok ls)) ∧
      ∃ s cmd, s.issuer = .event [0] ∧ (clusterAt s 0).hashQueue = [cmd] ∧ cmd.served = true ∧
        (cmd.opcode = 0xE9 → (clusterAt s 0).hashFree ≤ engineClock s 0) :=
  ⟨⟨hashing (hashWord 0xE8), _, rfl, rfl, by decide +kernel, rfl, rfl, by decide +kernel⟩,
    ⟨hashing (hashWord 0xE9), _, rfl, rfl, by decide +kernel, rfl⟩,
    ⟨hashing { hashWord 0xE9 with accepted := true } (some 0), _, rfl, rfl, by decide +kernel, rfl, rfl, by decide +kernel⟩,
    ⟨hashing { hashWord 0xE9 with accepted := true, op := some 9 }, _, _, rfl, rfl, by decide +kernel, rfl, rfl,
      by decide +kernel, by decide +kernel, by decide +kernel, rfl, rfl, by decide +kernel, by decide +kernel,
      by decide +kernel, rfl, rfl, by decide +kernel⟩,
    ⟨hashing { hashWord 0xEA with op := some 9 }, _, rfl, rfl, by decide +kernel, rfl, rfl, rfl, by decide +kernel⟩,
    (placesOf (s := scattering) (c := ⟨(hashWord 0xEA).ctx, 0 / 72, some (1000 + 0)⟩) (acc := .write) (pg := [])
        (l := (tkeys ((gradAdds scattering 0 (hashWord 0xEA) (slotAt scattering 0 (hashWord 0xEA).slot)).1.foldl
          (fun x p => tput x p.1 ()) ([] : Tbl Unit))).map fun a => (a, 4))
        (by decide +kernel)).elim fun s1 h => h.elim fun pg h => h.elim fun ls h =>
      ⟨scattering, hashWord 0xEA, s1, pg, ls, rfl, rfl, by decide +kernel, rfl, rfl, rfl, by decide +kernel,
        by decide +kernel, by exact h⟩,
    hashing { hashWord 0xE9 with served := true }, _, rfl, rfl, rfl, fun _ => by decide +kernel⟩

/-- The word of an encoded instruction. -/
def wordOf (i : Instr) : Word := BitVec.ofNat 32 (encode i)

/-- A gang whose BDRN, already read, waits for an entry. -/
def tileWaits : State :=
  gang 0 fun w => { w with tileWait := [{ (default : MxEntry) with slices := 0xFF, word := wordOf (.bdrn 4 0 0 0 0 0) }] }

theorem witness_TileCommandsAreAccepted :
    (∃ i, TileIssue i 4 0 0 ∧ i = .bdns 4 0 0 0 0 0 0 0 ∧ Met (tileForm (wordOf i) 4) (gang 0) fun r k sl w =>
        waitingTile (wordOf i) w sl = none ∧ tileOk (tileEntry (wordOf i) r k sl 4) w sl ∧
          ¬ ((0 : BitVec 1) = 1 ∧ w.tiles.getLsbD 0 = false) ∧ tileRoom r w (tileEntry (wordOf i) r k sl 4)) ∧
      (∃ i, TileIssue i 4 0 0 ∧ i = .bdrn 4 0 0 0 0 0 ∧ Met (tileForm (wordOf i) 4) tileWaits fun r _ sl w =>
        ∃ en, waitingTile (wordOf i) w sl = some en ∧ tileRoom r w en) ∧
      (∃ i, TileIssue i 4 1 15 ∧ i = .bdns 4 1 15 0 0 0 0 0 ∧ Met (tileForm (wordOf i) 4) (gang 0) fun r k sl w =>
        waitingTile (wordOf i) w sl = none ∧ tileOk (tileEntry (wordOf i) r k sl 4) w sl ∧ w.tiles.getLsbD 15 = false) ∧
      ∃ i, TileIssue i 2 0 0 ∧ i = .bdns 2 0 0 0 0 0 0 0 ∧
        Met (tileForm (wordOf i) 2) (holding 1) fun r k sl w => trapsEnter w sl ∧ waitingTile (wordOf i) w sl = none ∧
          (tileEntry (wordOf i) r k sl 2).check = some 1 :=
  ⟨⟨_, .bdns, rfl, issuesOf (by decide +kernel), by unfold tileOk tileRoom; decide +kernel⟩,
    ⟨_, .bdrn, rfl, issuesOf (by decide +kernel), _, rfl, by unfold tileRoom; decide +kernel⟩,
    ⟨_, .bdns, rfl, issuesOf (by decide +kernel), by unfold tileOk; decide +kernel⟩,
    _, .bdns, rfl, issuesOf (by decide +kernel), by unfold trapsEnter; decide +kernel⟩

/-- Engine 0 with entry 31 taken. -/
def tiling (e : MxEntry) : State :=
  { gang 0 with
    issuer := .event [0, 31], ops := [(9, placedOp .drain)], clusters := [(0, { (default : Cluster) with mx := [(31, e)] })] }
def mxWord (opcode : Nat) (granted : Bool) : MxEntry :=
  { (default : MxEntry) with word := BitVec.ofNat 32 (opcode * 2 ^ 24), mask := 1, granted := granted, op := some 9 }

theorem witness_MatrixEngineEventsComplete :
    (∃ s e, s = { tiling e with issuer := .event [0] } ∧ (clusterAt s 0).cellFree ≤ engineClock s 0 ∧
        mxPick (clusterAt s 0) (engineClock s 0) false = some 31 ∧ tfind (clusterAt s 0).mx 31 = some e) ∧
      (∃ s e, s = { tiling e with issuer := .event [0] } ∧ (clusterAt s 0).drain = none ∧
        mxPick (clusterAt s 0) (engineClock s 0) true = some 31 ∧ tfind (clusterAt s 0).mx 31 = some e ∧ e.op = some 9) ∧
      (∃ s e, s = tiling e ∧ tfind (clusterAt s 0).mx 31 = some e ∧ e.granted = true ∧ e.held = false ∧
        e.opcode ≠ 0xE6 ∧ e.ends ≤ engineClock s 0 ∧ e.mask ≠ 0) ∧
      ∃ s e op, s = tiling e ∧ tfind (clusterAt s 0).mx 31 = some e ∧ e.granted = true ∧ e.held = false ∧
        e.opcode = 0xE6 ∧ e.wantsMax = false ∧ e.op = some 9 ∧ tfind s.ops 9 = some op ∧ op.placed = true ∧
        op.faulted = false ∧ outstanding s 9 = false :=
  ⟨⟨_, mxWord 0xE3 false, rfl, by decide +kernel⟩, ⟨_, mxWord 0xE6 false, rfl, by decide +kernel⟩,
    ⟨_, mxWord 0xE5 true, rfl, by decide +kernel⟩,
    _, mxWord 0xE6 true, _, rfl, rfl, rfl, rfl, by decide +kernel, by decide +kernel, rfl, rfl, rfl, rfl, by decide +kernel⟩

/-- Core 0 with these entries in queue 3. -/
def queued (l : List QueueEntry) : State :=
  { gang 0 with cores := [(0, { (default : Core) with ctx := 1, queues := List.replicate 4 ⟨l, none, []⟩ })] }

/-- Eight entries into a queue that holds 56; eight complete ones out. -/
theorem witness_QueueInstructionsComplete :
    (Met { reads := groupRegs 4 8, drains := true, stall := qStall } (queued (List.replicate 56 ⟨2, false, []⟩))
        fun s _ _ w => 8 ≤ freeEntries (queueAt s w.coreOf 3)) ∧
      (Met { waits := groupRegs 4 8, drains := true, stall := qStall } (queued (List.replicate 8 ⟨2, true, []⟩))
        fun s k sl w => 8 ≤ poppable (queueAt s w.coreOf 3) ∧ firstHolder (queueAt s w.coreOf 3) k sl = true) ∧
      Met { reads := groupRegs 4 4, drains := true, stall := qStall } (gang 0) ∧ Met { waits := [4] } (gang 0) ∧
      Back (flying (gang 0) (placedOp .queuePush)) (mine (placedOp .queuePush)) (fun _ op _ =>
        op.kind = .queuePush ∧ op.code < 4) ∧
      Back (flying (gang 0) (placedOp .queuePop)) (mine (placedOp .queuePop)) fun _ op _ => op.kind = .queuePop :=
  ⟨⟨issuesOf (by decide +kernel), by decide +kernel⟩, ⟨issuesOf (by decide +kernel), by decide +kernel⟩,
    ⟨issuesOf (by decide +kernel), trivial⟩, ⟨issuesOf (by decide +kernel), trivial⟩,
    ⟨cameBackOf (by decide +kernel), by unfold lanesApart; decide +kernel, rfl, by decide⟩,
    cameBackOf (by decide +kernel), by unfold lanesApart; decide +kernel, rfl⟩
/-! ## The access processors -/

def unit (x : Tbl Word) (m : Memory) (f : ApContext → ApContext) : ApUnit :=
  ⟨[], m, List.replicate 8 (f { (default : ApContext) with st := .running, x := x }), 0⟩

/-- Context 7 of core 0's second access processor executes, with data memory `m` and registers `x`. -/
def ap (x : Tbl Word := []) (m : Memory := []) (f : ApContext → ApContext := id) : State :=
  { gang 0 with
    issuer := .ap 0 1 7
    cores := [(0, { (default : Core) with ctx := 1, units := List.replicate 2 (unit x m f) })] }

theorem apRunsOf {x m f} (h : (apUnit (ap x m f) 0 1).ctxs.length = 8) : ApRuns (ap x m f) 0 1 7 :=
  ⟨rfl, by decide, by decide, h⟩

theorem witness_ContextsStartAndStop :
    (Met { reads := groupRegs 4 4, drains := true } (gang 0) fun s _ sl w =>
        released w sl 2 = true ∧ (apUnit s w.coreOf 1).ctxs.length = 8 ∧ (apCtx s w.coreOf 1 7).st = .idle ∧
          (lget (quadOf s w sl 4) 0 0).toNat % 4 = 0 ∧ (lget (quadOf s w sl 4) 0 0).toNat < 0x4000 ∧
          (lget (quadOf s w sl 4) 2 0).toNat % 512 = 0 ∧
          (lget (quadOf s w sl 4) 2 0).toNat + 2 ^ 32 * (lget (quadOf s w sl 4) 3 0).toNat < 2 ^ 57) ∧
      (Met {} { ap with issuer := .gang 1 0xFF } fun s _ _ w => (apUnit s w.coreOf 1).ctxs.length = 8 ∧
        (apCtx s w.coreOf 1 7).st ≠ .idle) ∧
      ApRuns ap 0 1 7 ∧ (apCtx ap 0 1 7).outstanding ≤ (rvGet (apCtx ap 0 1 7).x 31).toNat :=
  ⟨⟨issuesOf (by decide +kernel), by decide +kernel⟩, ⟨issuesOf (by decide +kernel), by decide +kernel⟩,
    apRunsOf (by decide +kernel), by decide +kernel⟩

/-- ADDI x5, x0, -1; LW x5, 0x7FC(x6) and SB x5, 0x7FF(x6) at 0x1800; a load at 0x2000. -/
theorem witness_AccessProcessorsRunRv32im :
    (∃ rd v pc, ApRuns ap 0 1 7 ∧ ApResult (apCtx ap 0 1 7) 0xFFF00293 rd v pc) ∧
      (let s := ap [(6, 0x1800)];
        ApRuns s 0 1 7 ∧ rvOp 0x7FC32283 = 0x03 ∧ rvF3 0x7FC32283 = 2 ∧
          (apLoadAt (apCtx s 0 1 7) 0x7FC32283).toNat % apBytes 2 = 0 ∧
          (apLoadAt (apCtx s 0 1 7) 0x7FC32283).toNat = 0x1FFC ∧ rvOp 0x7E530FA3 = 0x23 ∧ rvF3 0x7E530FA3 = 0 ∧
          (apStoreAt (apCtx s 0 1 7) 0x7E530FA3).toNat = 0x1FFF) ∧
      (let s := ap [(6, 0x2000)];
        ApRuns s 0 1 7 ∧ rvOp 0x00032283 = 0x03 ∧ rvF3 0x00032283 = 2 ∧
          (apLoadAt (apCtx s 0 1 7) 0x00032283).toNat = 0x2000) :=
  ⟨⟨_, _, _, apRunsOf (by decide +kernel), .opImm (by decide +kernel) (by decide +kernel)⟩,
    ⟨apRunsOf (by decide +kernel), by decide +kernel⟩, apRunsOf (by decide +kernel), by decide +kernel⟩

/-- Two complete entries in every queue of core 0. -/
def filled (s : State) : State :=
  { s with cores := s.cores.map fun p => (p.1, { p.2 with queues := List.replicate 4 ⟨List.replicate 2 ⟨2, true, []⟩, none, []⟩ }) }

/-- An answer that is there, and of which something holds. -/
theorem okOf {α ε : Type} {e : Except ε α} {f : α → Bool} (h : (match e with | .ok p => f p | .error _ => false) = true) :
    ∃ p, e = .ok p ∧ f p = true := by
  split at h
  · exact ⟨_, rfl, h⟩
  · cases h

/-- Core 0 with as many operations of its access processors as it has. -/
def crowded : State := { ap with ops := (List.range 32).map fun i => (i, { (default : Op) with kind := .bag, entry := i }) }

/-- q.push of one entry and q.pop of two, g.issue and s.issue of one entry, bag.sum of no rows. -/
theorem witness_AccessProcessorOperationsComplete :
    (ApRuns ap 0 1 7 ∧ queueWord true (apReg ap 0 1 7 1) (apReg ap 0 1 7 2) = .ok (0, 1) ∧ 1 ≤ freeEntries (queueAt ap 0 0) ∧
        (freeApOp ap 0).isSome = true ∧ (apCtx ap 0 1 7).outstanding < 63) ∧
      (∃ p, apIssue ap 0 1 7 (gatherOperands ap 0 1 (apReg ap 0 1 7 1) (apReg ap 0 1 7 2)) = .ok p ∧
        decide ((gatherWord p.word).2.1 ≤ freeEntries (queueAt ap 0 (gatherWord p.word).2.2.1)) = true) ∧
      (∃ p, apIssue crowded 0 1 7 (gatherOperands crowded 0 1 (apReg crowded 0 1 7 1) (apReg crowded 0 1 7 2)) = .ok p ∧
        decide (freeApOp crowded 0 = none) = true) ∧
      (∃ p, apIssue ap 0 1 7 (bagOperands ap 0 1 (apReg ap 0 1 7 1)) = .ok p ∧
        decide (1 ≤ freeEntries (queueAt ap 0 (bitsAt p.word 10 1))) = true) ∧
      (let s := filled (ap [(2, 6)]);
        ApRuns s 0 1 7 ∧ queueWord false (apReg s 0 1 7 1) (apReg s 0 1 7 2) = .ok (2, 2) ∧ 2 ≤ poppable (queueAt s 0 2)) ∧
      (let s := filled ap;
        ApRuns s 0 1 7 ∧ (freeApOp s 0).isSome = true ∧
          ∃ p, apIssue s 0 1 7 (gatherOperands s 0 1 (apReg s 0 1 7 1) (apReg s 0 1 7 2)) = .ok p ∧
            decide ((gatherWord p.word).2.1 ≤ poppable (queueAt s 0 ((gatherWord p.word).2.2.1 + 2)) ∧
              writerHeld s p.record = false) = true) ∧
      ∃ s op, s = { ap with issuer := .event [9], ops := [(9, op)] } ∧ op.kind.ap = true ∧ op.placed = true ∧
        op.faulted = false ∧ outstanding s 9 = false ∧ op.dst / 8 < 2 ∧
        (apUnit s (coreKey op.die op.core) (op.dst / 8)).ctxs.length = 8 :=
  ⟨⟨apRunsOf (by decide +kernel), rfl, by decide +kernel⟩, okOf (by decide +kernel), okOf (by decide +kernel),
    okOf (by decide +kernel), ⟨⟨rfl, by decide, by decide, by decide +kernel⟩, rfl, by decide +kernel⟩,
    ⟨⟨rfl, by decide, by decide, by decide +kernel⟩, by decide +kernel, okOf (by decide +kernel)⟩,
    _, { placedOp .bag with dst := 15 }, rfl, by decide +kernel⟩

/-- A node of 64 bytes fetched for context 7 of the second unit, at address 0. -/
def nodeOp : Op := { placedOp .nodeFetch with dst := 15, elems := [elem 0 0], par := [0] }

/-- A context whose node fetch has been asked for. -/
def fetching (op : Op) : State :=
  { ap (f := fun x => { x with fetching := some 9 }) with issuer := .event [9], ops := [(9, op)] }

/-- Core 0 whose queues are as given, its clock at 256. -/
def queueing (q : Queue) : State :=
  let s := gang 0
  { s with
    cores := [(0, { (default : Core) with queues := List.replicate 4 q })]
    islands := List.replicate 6 { (default : Island) with st := 2, clock := 256 } }

/-- Record 0 holds 2^14 elements. -/
def tree : State := ap [] (mputNat [] 0x1000 16 (2 ^ 110))

theorem witness_RayInstructionsComplete :
    (ApRuns (ap [(1, 0xFFFFFFFF)]) 0 1 7 ∧ (apReg (ap [(1, 0xFFFFFFFF)]) 0 1 7 1).msb = true ∧
        ctlDepth (apUnit (ap [(1, 0xFFFFFFFF)]) 0 1).dmem (travState 7) ≤ 16) ∧
      (ApRuns tree 0 1 7 ∧ ∀ tri ∈ [false, true],
        let br := apRecordAt tree 0 1 0;
        let e := elemAt br (recordBase tree br false) 4 (if tri then 12 else 16) 0 0 [];
        dmemNat tree 0 1 (travState 7 + 0x2C) 4 < 2 ^ 9 ∧ recSwz br < 6 ∧ e.st = .live ∧ e.addr % 64 = 0) ∧
      (∃ p, apIssue ap 0 1 7 (suspendOperands ap 0 1 7) = .ok p ∧
        decide (16 ≤ freeEntries (queueAt ap 0 (bitsAt p.word 8 1))) = true) ∧ ctlHeld (apUnit ap 0 1).dmem (travState 7) = false ∧
      (let s := ap [] (mputNat [] (travState 7 + 0x30) 4 0x200);
        ApRuns s 0 1 7 ∧ ctlHeld (apUnit s 0 1).dmem (travState 7) = true ∧
          mnat (apUnit s 0 1).dmem (travState 7 + 0x44) 4 % 2 = 0) ∧
      (∃ s q g, s = { queueing q with issuer := .event [0, 3] } ∧
          (queueAt s 0 3).openGroup = some g ∧ g.closes ≤ clockOf s (0 / 288) (0 % 288)) ∧
      (∃ m v, nodeOp.kind = .nodeFetch ∧ nodeOp.placed = true ∧ nodeOp.faulted = false ∧ outstanding (fetching nodeOp) 9 = false ∧
        nodeOp.elems = [elem 0 0] ∧ nodeOp.dst < 16 ∧ (apUnit (fetching nodeOp) 0 1).ctxs.length = 8 ∧
        fetchEffect false (apUnit (fetching nodeOp) 0 1).dmem (travState 7) (nodeOp.param 0)
          (mstore [] 0 (gotBytes nodeOp 0 nodeOp.size)) = some (m, v)) ∧
      ∃ s o op, s = { fetching { nodeOp with faulted := true } with issuer := .event [0, 1, 7] } ∧
        (apUnit s 0 1).ctxs.length = 8 ∧ (apCtx s 0 1 7).fetching = some o ∧ tfind s.ops o = some op ∧ op.faulted = true :=
  ⟨⟨apRunsOf (by decide +kernel), by decide +kernel⟩, ⟨apRunsOf (by decide +kernel), by decide +kernel⟩,
    okOf (by decide +kernel), by decide +kernel, ⟨apRunsOf (by decide +kernel), by decide +kernel⟩,
    ⟨_, ⟨[], some ⟨5, 3, 256⟩, []⟩, _, rfl, rfl, by decide +kernel⟩,
    (Option.isSome_iff_exists.mp (show (fetchEffect false (apUnit (fetching nodeOp) 0 1).dmem (travState 7) (nodeOp.param 0)
      (mstore [] 0 (gotBytes nodeOp 0 nodeOp.size))).isSome = true by decide +kernel)).elim fun p h =>
        ⟨p.1, p.2, rfl, rfl, rfl, by decide +kernel, rfl, by decide, by decide +kernel, by exact h⟩,
    _, 9, _, rfl, by decide +kernel, by decide +kernel, rfl, rfl⟩
/-! ## Home slices that reduce and monitor, and the task-graph machine -/

/-- An update step of the line at 0x8000 whose operation has nothing outstanding, `n` of its stores past. -/
def stepping (n : Nat) (code : Nat := 2) : State :=
  { gang 0 with
    issuer := .event [0x8000], ops := [(9, { placedOp .update with code := code, done := n })]
    steps := [(0x8000, ⟨0, 0, 0x8000, [], some 9, false⟩)] }

/-- A WAITM of one lane at its home: the word is at least 0, or at least 1. -/
def watching (v : Byte) : Req := { request .monitor 5 with parts := [(0x8000, [v, 0, 0, 0], 0)] }

def heldGang : State :=
  { arriving (watching 0) with
    ops := [(9, mine { placedOp .waitm with slices := 0xFF })]
    warps := (gang 0 (allSlices fun x => { x with wait := .held 9 })).warps }

/-- A monitor that finds no room and polls. -/
def polling : Monitor := { (default : Monitor) with op := 9, addr := 0x8000 }

def clockAt1024 : Island := { (default : Island) with st := 2, clock := 1024 }

/-- The line awaits one contribution. -/
def counted : State :=
  { arriving (request .contribution) with homeLines := [(0x8000, { (default : HomeLine) with target := 1 })] }

theorem witness_HomesReduceAndMonitor :
    (∃ s id q, AtItsHome s id q ∧ q.kind = .contribution ∧ q.remote = none ∧ q.collective = none ∧
        (homeLine s q.line).target = 0) ∧
      (∃ s id q, AtItsHome s id q ∧ q.kind = .contribution ∧ q.remote = none ∧ q.collective = none ∧
        (homeLine s q.line).target = 1 ∧ (homeLine s q.line).counter + 1 = 1 ∧ (homeLine s q.line).tag = none ∧ q.code ≠ 3) ∧
      (∀ c ∈ [1, 2], ∀ n ∈ [31, 32], ∃ st op, (stepping n c).issuer = .event [0x8000] ∧
        tfind (stepping n c).steps 0x8000 = some st ∧ st.waiting = false ∧ st.op = some 9 ∧
        tfind (stepping n c).ops 9 = some op ∧ op.code = c ∧ c ≠ 0 ∧ outstanding (stepping n c) 9 = false ∧ op.done = n) ∧
      (AtItsHome (arriving (watching 1)) 5 (watching 1) ∧ condHolds (arriving (watching 1)) 5 0x8000 1 = false) ∧
      (AtItsHome heldGang 5 (watching 0) ∧ condHolds heldGang 5 0x8000 0 = true ∧ ∃ op w, tfind heldGang.ops 9 = some op ∧
        op.kind = .waitm ∧ op.warp = some 1 ∧ tfind heldGang.warps 1 = some w ∧ w.ended = false ∧ op.placed = true ∧
        op.faulted = false ∧ (∀ p ∈ heldGang.reqs, p.2.op = 9 → p.1 = 5) ∧ heldGang.remote = [] ∧ heldGang.monitors = [] ∧
        ∃ j ∈ bitsOf 8 op.slices, (sliceAt w j).wait = .held 9) ∧
      ∃ s o m, s = { gang 0 with issuer := .event [o], monitors := [m], islands := List.replicate 6 clockAt1024 } ∧ m.op = o ∧
        m.armed = false ∧ m.cluster = false ∧ m.remote = none ∧
        m.checked + 1024 ≤ clockOf s (tget s.ops o default).die (tget s.ops o default).core :=
  ⟨⟨_, 5, request .contribution, atHomeOf (by decide +kernel), rfl, rfl, rfl, by decide +kernel⟩,
    ⟨counted, 5, request .contribution,
      have h := atHomeOf (q := request .contribution) (by decide +kernel)
      ⟨h.named, h.issuer, h.req, h.here, h.ready, by decide +kernel, by decide +kernel, by decide +kernel⟩, rfl, rfl, rfl,
      by decide +kernel⟩,
    fun c hc n _ => ⟨_, _, rfl, rfl, rfl, rfl, rfl, rfl, by revert c; decide, rfl, rfl⟩, ⟨atHomeOf (by decide +kernel), by decide +kernel⟩,
    ⟨have h := atHomeOf (q := watching 0) (by decide +kernel);
      ⟨h.named, h.issuer, h.req, h.here, h.ready, by decide +kernel, by decide +kernel, by decide +kernel⟩, by decide +kernel,
      _, _, rfl, rfl, rfl, rfl, rfl, rfl, rfl, by decide +kernel, rfl, rfl, by decide +kernel⟩,
    _, 9, polling, rfl, rfl, rfl, rfl, rfl, by decide +kernel⟩

/-- Graph 0 with node 0, its header one index of one warp, and node 1 a consumer; the machines of both dies run. -/
def node : Node :=
  { (default : Node) with
    st := .ready, prio := 1, hdr := some { (default : Header) with count := 1, ceil := 8, carve := 96 }
    succ := List.replicate 8 1, partials := [0, 0], input := [[], []], placedAt := [0, 0] }
def graph (x : Node := node) (y : Graph := default) (f : State → State := id) : State :=
  let s := gang 0;
  f { s with
    dieLink := true
    contexts := s.contexts.map fun p => (p.1, { p.2 with clusters := 1, savesz := 2 ^ 20 })
    graphs := [(0, { y with ctx := 1, pool := 64, poolUsed := [0, 0], nodes := [(0, x), (1, { (default : Node) with kind := 1 })] })] }

theorem witness_WorkIsPostedAndEmitted :
    (Met { reads := [2], hold := 0, a := 2 } graph fun s _ _ w => nodeListed s w.ident.graph w.ident.node) ∧
      (Met {} graph fun s _ _ w => nodeListed s w.ident.graph w.ident.node) ∧
      (Met { drains := true } graph fun s _ sl w => released w sl 5 = true ∧ queueOpen s w.ident.ctx w.die) ∧
      (Met { reads := groupRegs 4 4, drains := true } graph fun s _ sl w => emitOk 7 s sl w) ∧
      (Met { reads := groupRegs 4 4 ++ [2], drains := true, hold := 0, a := 2 } graph fun s _ sl w =>
        emitOk (warpOperand s w sl 2).toNat s sl w) ∧
      (∃ s, s = { graph { node with posts := [⟨1, 1, 7⟩] } with issuer := .event [1] } ∧
        (s.graphs.flatMap fun p => p.2.nodes.filterMap fun x => (x.2.posts.find? fun v => v.die = 1).map fun v =>
          (p.1, x.1, v)).head? = some (0, 0, ⟨1, 1, 7⟩) ∧ nodeListed s 0 0 ∧ (nodeAt s 0 0).posts = [⟨1, 1, 7⟩] ∧
        1 < (nodeAt s 0 0).partials.length) ∧
      ∃ s, s = { graph { node with timeout := 1, input := [[], [[5]]] } with
          issuer := .event [1, 0, 0], islands := List.replicate 6 clockAt1024 } ∧ nodeListed s 0 0 ∧
        (nodeAt s 0 0).timeout ≠ 0 ∧ lget (nodeAt s 0 0).input 1 [] ≠ [] ∧
        lget (nodeAt s 0 0).placedAt 1 0 + 64 * (nodeAt s 0 0).timeout ≤ clockB s 1 :=
  ⟨⟨issuesOf (by decide +kernel), by unfold nodeListed; decide +kernel⟩,
    ⟨issuesOf (by decide +kernel), by unfold nodeListed; decide +kernel⟩,
    ⟨issuesOf (by decide +kernel), by decide +kernel, _, rfl, rfl, by decide +kernel, by decide +kernel⟩,
    ⟨issuesOf (by decide +kernel), by unfold emitOk roomFor nodeListed; decide +kernel⟩,
    ⟨issuesOf (by decide +kernel), by unfold emitOk roomFor nodeListed; decide +kernel⟩,
    ⟨_, rfl, by unfold nodeListed; decide +kernel⟩, _, rfl, by unfold nodeListed; decide +kernel⟩
/-- A chunk of die 0 with index 0 still to be dispatched. -/
def chunk : Chunk := ⟨0, 0, 1, 0, 0, [], 5⟩

/-- Graph 0 without warps. -/
def empty (x : Node) (y : Graph := default) : State := graph x y fun s => { s with warps := [] }

theorem optionNone {α : Type} {x : Option α} (h : x.isNone = true) : x = none := Option.isNone_iff_eq_none.mp h

theorem witness_TaskGraphEventsComplete :
    (∃ s y, s = { graph node { (default : Graph) with
          background := true, left := [1, 1], windowNo := [0, 0], windowUsed := [true, false], exhausted := [false, false]
          budget := 1 } with
          issuer := .event [0, 0], islands := List.replicate 6 clockAt1024 } ∧
        tfind s.graphs 0 = some y ∧ y.background = true ∧ 0 < y.left.length ∧ 0 < y.windowNo.length ∧
        0 < y.exhausted.length ∧ clockB s 0 / 1024 = lget y.windowNo 0 0 + 1 ∧
        (lget y.windowUsed 0 false || residentOn s 0 0) = true ∧ lget y.left 0 0 = 1 ∧ y.budget ≠ 0 ∧
        bufferFull s y.ctx 0 = false) ∧
      (∃ s : State, s = { gang 0 with issuer := .event [1] } ∧ 3 * 1 + 2 < s.islands.length) ∧
      (∃ s : State, s = { graph with issuer := .event [1] } ∧ tgmRuns s 1 = true ∧ (dieAt s 1).stopped = false ∧
        s.dieLink = true) ∧
      (∃ s : State, s = { graph with
          issuer := .event [1], islands := List.replicate 6 { (default : Island) with st := 2, clock := 65536 } } ∧
        s.dies = 2 ∧ s.dieLink = true ∧ tgmRuns s 0 = true ∧ tgmRuns s 1 = true ∧
        (dieAt s 1).lastHeartbeat + 65536 ≤ clockB s (1 - 1)) ∧
      (∀ x ∈ [(node, none), ({ node with chunks := [chunk, { chunk with die := 1, first := 1, nextIndex := 1 }], hdr := node.hdr.map fun h => { h with count := 3, cohort := true } }, some 0)],
        ∃ s h, s = { empty { x.1 with counter := x.1.chunks.length } with issuer := .event [0, 0, 0] } ∧
        nodeListed s 0 0 ∧ (nodeAt s 0 0).hdr = some h ∧ mayRun s (graphAt s 0) 0 = true ∧ couldPlace s 0 0 0 h = true ∧ (nodeAt s 0 0).st = .ready ∧ (nodeAt s 0 0).kind ≠ 1 ∧
        0 ∉ (nodeAt s 0 0).requests ∧ (nodeAt s 0 0).mirroring = none ∧ (nextChunk (nodeAt s 0 0)).isSome = true ∧
        readyPool s 0 = [] ∧ (∀ p ∈ s.graphs, ∀ z ∈ p.2.nodes, (p.1, z.1) ≠ (0, 0) → nextChunk z.2 = none) ∧
        (x.2 = none → ∀ k ∈ (nodeAt s 0 0).chunks, k.die ≠ 0) ∧ (x.2 = some 0 → needsMore s 0 0 h = true)) ∧
      (∀ m ∈ [(some (1, true), none), (none, none), (none, some 1)], ∃ s,
        s = { empty { node with requests := [1], mirroring := m.1 } { (default : Graph) with owner := m.2 } with
          issuer := .event [0, 0] } ∧
        nodeListed s 0 0 ∧ (nodeAt s 0 0).st = .ready ∧ (nodeAt s 0 0).requests = [1] ∧
        nextChunk (nodeAt s 0 0) = some (0, 1) ∧ (nodeAt s 0 0).mirroring = m.1 ∧ alone s (graphAt s 0) = m.2.isSome) ∧
      ∃ s, s = { empty { node with mirroring := some (0, false) } with issuer := .event [1] } ∧
        tgmRuns s 1 = true ∧ s.dieLink = true ∧
        ((s.graphs.filter fun p => leaderOf s p.2 ≠ 1).flatMap fun p => (p.2.nodes.filter fun x =>
          x.2.mirroring.any fun m => !m.2).map fun x => (p.1, x.1)).head? = some (0, 0) ∧
        nodeListed s 0 0 ∧ (nodeAt s 0 0).mirroring = some (0, false) ∧ (nodeAt s 0 0).redo = [] ∧
        nextChunk (nodeAt s 0 0) = some (0, 1) :=
  ⟨⟨_, _, rfl, rfl, by decide +kernel⟩, ⟨_, rfl, by decide +kernel⟩, ⟨_, rfl, by decide +kernel⟩,
    ⟨_, rfl, by decide +kernel⟩,
    by
      intro x hx
      simp only [List.mem_cons, List.not_mem_nil, or_false] at hx
      rcases hx with rfl | rfl
      all_goals exact ⟨_, _, rfl, by unfold nodeListed; decide +kernel, rfl, by decide +kernel, by decide +kernel,
        by decide +kernel, by decide +kernel, by decide +kernel, by decide +kernel, by decide +kernel,
        List.isEmpty_iff.mp (by decide +kernel), by decide +kernel, by decide +kernel, by decide +kernel⟩,
    by
      intro m hm
      refine ⟨_, rfl, ?_⟩
      unfold nodeListed
      revert m
      decide +kernel,
    _, rfl, by unfold nodeListed; decide +kernel⟩

theorem witness_WorkIsPlacedSavedAndCompleted :
    (∃ s h p after cl, s = { empty { node with chunks := [chunk] } with issuer := .event [0] } ∧ dispatches s 0 = true ∧
        (∃ i, readyPool s 0 = [i] ∧ i.work = .chunk 0 0 chunk) ∧ nodeListed s 0 0 ∧ (nodeAt s 0 0).hdr = some h ∧
        nextDispatch (nodeAt s 0 0) h chunk = .place p after ∧ p.groups ≠ [] ∧
        chooseCluster s 0 0 0 (planWants s 0 0 h p) = some cl ∧ beforeStart s 0 0 h 0 cl = none ∧
        ((clusterAt s (clusterKey 0 cl)).ctx = (graphAt s 0).ctx ∨ s.savedGroups = []) ∧ tfind s.cohorts s.fresh = none ∧
        s.stuck = []) ∧
      (∃ s i, s = { graph { node with chunks := [chunk] } with issuer := .event [0] } ∧ dispatches s 0 = true ∧
        readyPool s 0 = [i] ∧ (∀ p ∈ s.warps, p.2.stopping = true → p.2.die ≠ 0) ∧ placeItem s 0 i = none ∧
        victims s 0 i.prio = [1] ∧
        (placeItem (vacated s ([1].flatMap (victimSet s))) 0 i).isSome = true) ∧
      (∃ s, s = { empty { node with counter := 1 } with issuer := .event [0, 0], cohorts := [] } ∧ nodeListed s 0 0 ∧
        nodeDone s 0 0 = true ∧ nodeOps s 0 0 = [] ∧ (nodeAt s 0 0).openOn = []) ∧
      ∃ s w, s = { graph node with
          issuer := .event [1], warps := (gang 0 (fun w => { w with stopping := true })).warps } ∧ tfind s.warps 1 = some w ∧
        w.stopping = true ∧ w.slices.any latched = false ∧ w.spec = none ∧ areaFits s w = true ∧ warpQuiet s 1 = true ∧ groupQuiet s 1 w = true := by
  refine ⟨⟨_, _, ⟨0, 0, [(0, none)], none⟩, { chunk with nextIndex := 1 }, 0, rfl, by decide +kernel,
    ⟨⟨.chunk 0 0 chunk, 1, 2, false, 5⟩, rfl, rfl⟩, by unfold nodeListed; decide +kernel, rfl, rfl, by decide, by decide +kernel,
    optionNone (by decide +kernel), by decide +kernel, by decide +kernel, by decide +kernel⟩, ?_, ⟨_, rfl, by unfold nodeListed; decide +kernel⟩,
    _, _, rfl, rfl, by decide +kernel⟩
  exact ⟨_, ⟨.chunk 0 0 chunk, 1, 2, false, 5⟩, rfl, by decide +kernel, rfl, by decide +kernel, optionNone (by decide +kernel),
    by decide +kernel, by decide +kernel⟩
/-! ## The host, bring-up and the links -/

/-- Ring 0 holds one command of context 1 with completion word 0x8000 and these operands; `f` does the rest. -/
def hosted (code : Nat) (args : List Nat) (f : State → State := id) : State :=
  let s := gang 0;
  let v := code + 2 ^ 32 + 2 ^ 64 * 0x8000 + (args.zipIdx.map fun p => p.1 * 2 ^ (128 + 64 * p.2)).sum;
  f { s with
    issuer := .event [0], dieLink := true
    rings := ⟨0x1000, 4, true, 1, 0, none⟩ :: List.replicate 15 default
    mem := mputNat s.mem (hostPa 0x1000) 64 v }

/-- A value of `n` bytes at 0x2000 of host memory. -/
def withBytes (n v : Nat) (s : State) : State := { s with mem := mputNat s.mem (hostPa 0x2000) n v }

/-- `Commanded` for ring 0, and `p` of the command, decided. -/
def ordered (s : State) (p : Command → Bool) : Bool :=
  match nextCommand s 0 with
  | some c => decide (s.issuer = .event [0]) && decide (0 < s.rings.length) && c.clean && decide (c.done % 4 = 0) &&
      decide (c.die < s.dies ∧ c.die < s.perDie.length) && decide (c.die = 1 → s.dieLink = true) && readyBit s c.die 3 &&
      decide (contextCommand c.code = true → (tfind s.contexts c.ctx).isSome = true) && p c
  | none => false

theorem commandedOf {s p} (h : ordered s p = true) : ∃ c, Commanded s 0 c ∧ p c = true := by
  unfold ordered at h
  split at h
  · simp only [Bool.and_eq_true, decide_eq_true_eq] at h
    obtain ⟨⟨⟨⟨⟨⟨⟨⟨h1, h2⟩, h3⟩, h4⟩, h5⟩, h6⟩, h7⟩, h8⟩, h9⟩ := h
    exact ⟨_, ⟨h1, ‹_›, h2, h3, h4, h5, h6, h7, h8⟩, h9⟩
  · cases h

/-- A context descriptor for context 5, and the same context in `behind` of what a resume record needs. -/
def descriptor : Nat := 0x1000 + 5 * 2 ^ 64 + 72 * 2 ^ 96 + 20 * 2 ^ 192
def faulting (r : Resumable) (s : State) : State :=
  { s with
    contexts := s.contexts.map fun p => (p.1, { p.2 with behind := [(2, r)] })
    steps := [(0x8000, ⟨0, 0, 0x8000, [], none, true⟩)] }

/-- A graph of one node at virtual address 0x100, its node table on the next page. -/
def tabled (s : State) : State := { s with mem := mputNat (mputNat s.mem 0x5008 8 0x20007) 0x10100 64 (0x1000 + 2 ^ 64) }

/-- The header of a launch of one index at virtual address 0x100. -/
def headered (s : State) : State :=
  { s with mem := mputNat s.mem 0x10100 64 (0x1C480 + 5 * 2 ^ 32 + (2 ^ 32 - 0x1C480 - 5) * 2 ^ 480) }

def partitioned (n : Nat) (s : State) : State :=
  { s with perDie := s.perDie.map fun x => { x with partition := some (n, 1) } }

/-- How the header of launch `c` reads: accepted, and whether it fits, or refused. -/
def launchAnswer (s : State) (c : Command) (p : Option Nat) : Option Bool :=
  match (launchHeader s c.ctx (c.op 0) (hostPa c.done) p).2 with
  | .ok h => some (p.all fun d => partitionFits (submitLaunch s c.ctx (c.op 0) (hostPa c.done) p) s.fresh 0 h d)
  | .error _ => none

theorem witness_LaunchAndContextCommandsComplete :
    (∃ s c, Commanded s 0 c ∧ (decide (c.code = 0x01 ∧ contextBad (hostBytes s (c.op 0) 64) = false ∧
        efield (leNat (hostBytes s (c.op 0) 64)) 64 16 ≠ 0) && s.warps.all fun p =>
        decide (p.2.ident.ctx ≠ efield (leNat (hostBytes s (c.op 0) 64)) 64 16)) = true) ∧
      (∀ ok ∈ [some true, none], ∃ s c, Commanded s 0 c ∧
        decide (c.code = 0x02 ∧ c.op 0 % 64 = 0 ∧ launchAnswer s c none = ok) = true) ∧
      (∀ k ∈ [false, true], ∃ s c, Commanded s 0 c ∧ decide (c.code = 0x03 ∧ c.op 0 % 64 = 0 ∧
        (readGraph s c.ctx (leaderOf s (newGraph s c.ctx)) (c.op 0)).2.isSome = k) = true) ∧
      (∃ s c, Commanded s 0 c ∧ decide (c.code = 0x04) = true) ∧
      (∃ s c, Commanded s 0 c ∧ decide (c.code = 0x05 ∧ (ringOf s 0).awaits = none ∧ 
          s.ops.all (fun p => decide (p.2.ctx = c.ctx → stillUses s p.1 = false)) = true ∧
          s.reqs.all (fun p => decide (p.2.ofUnit = true → p.2.ctx ≠ c.ctx)) = true ∧
          s.remote.all (fun p => decide (p.2.req.ofUnit = true → p.2.req.ctx ≠ c.ctx)) = true) = true) ∧
      (∃ s c, Commanded s 0 c ∧ decide (c.code = 0x06 ∧ c.op 1 = 0 ∧ (tfind s.warps 1).isSome = true ∧
        tget (tget s.contexts c.ctx default).behind (c.op 0) .none = .fetch 1 0xFF) = true) ∧
      (∃ s c, Commanded s 0 c ∧ decide (c.code = 0x06 ∧ c.op 1 = 1 ∧
        tget (tget s.contexts c.ctx default).behind (c.op 0) .none = .update 0x8000 ∧
        (tfind s.steps 0x8000).map UpdateStep.waiting = some true) = true) ∧
      (∃ s c, Commanded s 0 c ∧ decide (c.code = 0x07) = true) ∧
      ∀ ok ∈ [some true, some false, none], ∃ s c, Commanded s 0 c ∧
        decide (c.code = 0x0F ∧ c.op 0 % 64 = 0 ∧ c.op 1 < s.dies ∧ launchAnswer s c (some (c.op 1)) = ok) = true :=
  ⟨⟨hosted 1 [0x2000] (withBytes 64 descriptor), commandedOf (by decide +kernel)⟩,
    (by
      intro k hk
      simp only [List.mem_cons, List.not_mem_nil, or_false] at hk
      rcases hk with rfl | rfl
      · exact ⟨hosted 2 [0x100] headered, commandedOf (by decide +kernel)⟩
      · exact ⟨hosted 2 [0x40], commandedOf (by decide +kernel)⟩),
    (by
      intro k hk
      simp only [List.mem_cons, List.not_mem_nil, or_false] at hk
      rcases hk with rfl | rfl
      · exact ⟨hosted 3 [0x40], commandedOf (by decide +kernel)⟩
      · exact ⟨hosted 3 [0x100] tabled, commandedOf (by decide +kernel)⟩), ⟨hosted 4 [], commandedOf (by decide +kernel)⟩,
    ⟨hosted 5 [0, 0x1000] (fun s => { s with ops := [(9, { placedOp .load with ctx := 1 })] }), commandedOf (by decide +kernel)⟩,
    ⟨hosted 6 [2, 0] (faulting (.fetch 1 0xFF)), commandedOf (by decide +kernel)⟩,
    ⟨hosted 6 [2, 1] (faulting (.update 0x8000)), commandedOf (by decide +kernel)⟩,
    ⟨hosted 7 [0], commandedOf (by decide +kernel)⟩, by
      intro k hk
      simp only [List.mem_cons, List.not_mem_nil, or_false] at hk
      rcases hk with rfl | rfl | rfl
      · exact ⟨hosted 0x0F [0x100, 1] fun s => partitioned 16 (headered s), commandedOf (by decide +kernel)⟩
      · exact ⟨hosted 0x0F [0x100, 1] headered, commandedOf (by decide +kernel)⟩
      · exact ⟨hosted 0x0F [0x40, 1], commandedOf (by decide +kernel)⟩⟩

/-- A record of the error log at position 3, with the request held behind it. -/
def logged (s : State) : State :=
  { s with errors := [⟨3, 4, 0, 0x8000, .none, some 5⟩], reqs := [(5, request .store)] }
theorem witness_TableAndStatusCommandsComplete :
    (∀ ok ∈ [true, false], ∃ s c, Commanded s 0 c ∧ decide (c.code = 0x08 ∧ c.op 0 < 64 ∧ 1 ≤ c.op 1 ∧ c.op 1 ≤ 16 ∧
        routineOk ((List.range (c.op 1)).map fun i => BitVec.ofNat 32 (wordAt (hostBytes s (c.op 2) (4 * c.op 1)) i)) = ok) = true) ∧
      (∃ s c, Commanded s 0 c ∧ decide (c.code = 0x09 ∧ c.op 0 < 64 ∧ updateBad (hostBytes s (c.op 1) 64) = false) = true) ∧
      (∃ s c, Commanded s 0 c ∧ decide (c.code = 0x0A ∧ c.op 1 = 16384) = true) ∧
      (∃ s c, Commanded s 0 c ∧ decide (c.code = 0x0B ∧ c.op 0 < 256 ∧ c.op 3 < 2 ^ 32 ∧ c.op 4 ≤ 1) = true) ∧
      (∃ s c, Commanded s 0 c ∧ decide (c.code = 0x0C ∧ c.op 0 < 1024 ∧ carried s c.ctx (c.op 0) = false ∧
        collDone s c.ctx (c.op 0) = true) = true) ∧
      (∀ k ∈ [0, 1, 2, 3], ∃ s c, Commanded s 0 c ∧ decide (c.code = 0x0D ∧ c.op 0 = k ∧ c.op 1 < 2 ^ 48 ∧
        1024 ≤ c.op 2 / 256 ∧ c.op 2 / 256 ≤ 2 ^ 20) = true) ∧
      (∀ none ∈ [true, false], ∃ s c, Commanded s 0 c ∧ decide (c.code = 0x0E ∧ c.op 0 = 0 ∧ c.op 1 < s.dies ∧
        c.op 1 < s.perDie.length ∧ c.op 2 = 16 ∧ (dieAt s (c.op 1)).partition.isNone = none) = true) ∧
      (∀ free ∈ [true, false], ∃ s c, Commanded s 0 c ∧ decide (c.code = 0x0E ∧ c.op 0 = 1 ∧ c.op 1 < s.dies ∧
        c.op 1 < s.perDie.length ∧ (dieAt s (c.op 1)).partition = some (16, c.ctx) ∧ (s.warps.all fun p =>
          decide (p.2.die = c.op 1 → ofPartition s p.2 = false)) = free) = true) ∧
      (∃ s c, Commanded s 0 c ∧ decide (c.code = 0x10 ∧ c.op 0 ≤ 2 ∧ c.op 1 ≤ 3 ∧ 3 * c.die + c.op 0 < s.islands.length) = true) ∧
      (∃ s c, Commanded s 0 c ∧ decide (c.code = 0x11 ∧ c.op 0 = 35 ∧ (tget s.ports (c.op 0) default).up = false) = true) ∧
      (∃ s c, Commanded s 0 c ∧ decide (c.code = 0x12 ∧ hostPa c.done + 4 ≤ hostPa (c.op 0)) = true) ∧
      (∀ k ∈ [0, 1], ∃ s c, Commanded s 0 c ∧ decide (c.code = 0x13 ∧ c.op 1 = k ∧
        (s.errors.find? fun e => e.pos = c.op 0) = some ⟨3, 4, 0, 0x8000, .none, some 5⟩ ∧
        tfind s.reqs 5 = some (request .store) ∧ opIssuer s 9 (tget s.ops 9 default) = none ∧
        0x8000 + 128 ≤ hostPa c.done) = true) ∧
      ∃ s c, Commanded s 0 c ∧ decide (c.code = 0x14 ∧ c.op 2 = 0 ∧ hostPa c.done + 4 ≤ hostPa (c.op 1)) = true := by
  refine ⟨?_, ⟨hosted 9 [63, 0x2000] (withBytes 64 0), commandedOf (by decide +kernel)⟩,
    ⟨hosted 0x0A [0x2000, 16384], commandedOf (by decide +kernel)⟩,
    ⟨hosted 0x0B [255, 0, 0, 7, 1], commandedOf (by decide +kernel)⟩,
    ⟨hosted 0x0C [1023, 0x2000], commandedOf (by decide +kernel)⟩, ?_, ?_, ?_,
    ⟨hosted 0x10 [2, 3, 60], commandedOf (by decide +kernel)⟩, ⟨hosted 0x11 [35], commandedOf (by decide +kernel)⟩,
    ⟨hosted 0x12 [0x9000], commandedOf (by decide +kernel)⟩, ?_,
    ⟨hosted 0x14 [0x2000, 0x9000], commandedOf (by decide +kernel)⟩⟩ <;> intro k hk <;>
    simp only [List.mem_cons, List.not_mem_nil, or_false] at hk
  · rcases hk with rfl | rfl
    · exact ⟨hosted 8 [63, 1, 0x2000] (withBytes 4 0x00000513), commandedOf (by decide +kernel)⟩
    · exact ⟨hosted 8 [63, 1, 0x2000] (withBytes 4 0), commandedOf (by decide +kernel)⟩
  · rcases hk with rfl | rfl | rfl | rfl
    · exact ⟨hosted 0x0D [0, 0x2000, 2 ^ 18], commandedOf (by decide +kernel)⟩
    · exact ⟨hosted 0x0D [1, 0x2000, 2 ^ 18], commandedOf (by decide +kernel)⟩
    · exact ⟨hosted 0x0D [2, 0x2000, 2 ^ 18], commandedOf (by decide +kernel)⟩
    · exact ⟨hosted 0x0D [3, 0x2000, 2 ^ 18], commandedOf (by decide +kernel)⟩
  · rcases hk with rfl | rfl
    · exact ⟨hosted 0x0E [0, 1, 16], commandedOf (by decide +kernel)⟩
    · exact ⟨hosted 0x0E [0, 1, 16] (partitioned 2), commandedOf (by decide +kernel)⟩
  · rcases hk with rfl | rfl
    · exact ⟨hosted 0x0E [1, 0] (partitioned 16), commandedOf (by decide +kernel)⟩
    · exact ⟨hosted 0x0E [1, 0] fun s => partitioned 16 { s with
        warps := s.warps.map fun p => (p.1, { p.2 with core := 284 })
        graphs := [(0, { (default : Graph) with ctx := 1, persistent := some 0 })] }, commandedOf (by decide +kernel)⟩
  · rcases hk with rfl | rfl
    · exact ⟨hosted 0x13 [3, 0, 0x2000] logged, commandedOf (by decide +kernel)⟩
    · exact ⟨hosted 0x13 [3, 1] logged, commandedOf (by decide +kernel)⟩
/-- Ring 0 holds a bring-up command for die 1, its link up or not, and its ready map. -/
def packageCommand (link : Bool) (r : BitVec 32) : State :=
  hosted 0x115 [] fun s => { s with dieLink := link, perDie := s.perDie.map fun x => { x with ready := r } }

/-- What a bring-up command meets, decided, and whether it is refused with status 3. -/
def packageMet (s : State) (refused : Bool) : Bool :=
  (nextCommand s 0).any fun c => decide (s.issuer = .event [0] ∧ c.code = 0x15 ∧ 0 < s.rings.length ∧ c.clean = true ∧
    c.done % 4 = 0 ∧ c.die < s.dies ∧ (refused = true ↔
      (c.die = 1 ∧ s.dieLink = false) ∨ (readyBit s c.die 3 = false ∧ readyBit s c.die 15 = false)))

theorem witness_RefusedCommandsAndRegistersComplete :
    (∃ s : State, s = hosted 0x12 [] (fun s => { s with mem := mputNat s.mem (hostPa 0x1008) 1 1 }) ∧ s.issuer = .event [0] ∧
        0 < s.rings.length ∧ ((nextCommand s 0).bind commandInstr) = some .readStatus ∧
        (nextCommand s 0).map (fun c => decide (c.done % 4 = 0)) = some false) ∧
      (∃ s : State, s = hosted 0xFF [] ∧ 0 < s.rings.length ∧ (nextCommand s 0).map commandInstr = some none) ∧
      (∀ v ∈ [7, 0x10C, 0x104, 0], ∃ s : State, s = { gang 0 with
          issuer := .event [15, v], rings := List.replicate 16 ⟨0x1000, 0, false, 0, 0, none⟩ } ∧ pageOpen s = true ∧
        15 < s.rings.length ∧ (ringOf s 15).enabled = false ∧ (ringOf s 15).base % 4096 = 0) ∧
      (∃ s : State, s = { gang 0 with issuer := .event [3] } ∧ pageOpen s = true ∧ s.errWaiting = []) ∧
      ∀ off ∈ [0x100 + 32 * 15, 0x104 + 32 * 15, 0x300, 0x304, 0x308], ∃ s : State,
        s = { gang 0 with issuer := .event [off, 20], rings := List.replicate 16 default } ∧ pageOpen s = true ∧
        (ringOf s 15).enabled = false ∧ 7 ≤ 20 % 32 ∧ 20 % 32 ≤ 20 :=
  ⟨⟨_, rfl, rfl, by decide +kernel⟩, ⟨_, rfl, by decide +kernel⟩,
    by intro v hv; refine ⟨_, rfl, ?_⟩; revert v; decide +kernel, ⟨_, rfl, by decide +kernel⟩,
    by intro v hv; refine ⟨_, rfl, ?_⟩; revert v; decide +kernel⟩

/-- Bring-up as far as bits `r` of the ready maps, on both dies. -/
def broughtUp (r : BitVec 32) (args : List Nat) (verified link : Bool) (st : Nat := 1) : State :=
  { gang 0 with
    issuer := .event args, dieLink := link
    islands := List.replicate 6 { (default : Island) with st := st }
    perDie := List.replicate 2 { (default : Die) with
      ready := r, verified := verified, measures := List.replicate 8 (List.replicate 64 0) } }

/-- Whether an image verifies is open, so of the two clauses about it the one or the other is met. -/
theorem witness_BringUpEventsComplete :
    (packageMet (packageCommand false 0x7FFF) true = true ∧ packageMet (packageCommand true 0) true = true ∧
        packageMet (packageCommand true 8) false = true ∧ packageMet (packageCommand true 0x8000) false = true) ∧
      (∃ s : State, s = broughtUp 0 [4] false false ∧ fieldB s 0 = true ∧ readyBit s 0 1 = false ∧ s.perDie ≠ []) ∧
      (∃ s : State, s = broughtUp 2 [0] false false ∧ mayVerify s 0 = true ∧ 0 < s.perDie.length ∧
        (dieAt s 0).measures.length = 8 ∧ (imageVerifies s.firmware = true ∨ imageVerifies s.firmware = false)) ∧
      (∃ s : State, s = broughtUp 2 [0] true false ∧ 0 < s.perDie.length ∧ (dieAt s 0).verified = true ∧ fieldB s 0 = true) ∧
      (∃ s : State, s = broughtUp 3 [] true false ∧ s.dies = 2 ∧ s.perDie.length = 2 ∧ (dieAt s 0).verified = true ∧
        s.dieLink = false ∧ s.dieLinkLost = false ∧ (dieAt s 0).failed = false ∧ (dieAt s 1).failed = false ∧
        fieldB s 0 = true ∧ fieldB s 1 = true) ∧
      (∃ s : State, s = broughtUp 7 [1] true true ∧ 1 < s.dies ∧ 1 < s.perDie.length ∧ readyBit s 1 0 = true ∧
        fieldB s 1 = true ∧ s.dieLink = true) ∧
      (∀ st ∈ [0, 1], ∃ s : State, s = broughtUp 15 [1, 2] true true st ∧ readyBit s 1 3 = true ∧ 3 * 1 + 2 < s.islands.length ∧
        1 < s.perDie.length ∧ (lget s.islands (3 * 1 + 2) default).st = st) ∧
      (∃ s : State, s = broughtUp 0x7F [1, 7] true true ∧ fieldsUp s 1 = true ∧ 1 < s.perDie.length) ∧
      ∃ s : State, s = broughtUp 0x7F [35] true true ∧ 35 < 18 * s.dies ∧ fieldsUp s (35 / 18) = true ∧
        tfind s.ports 35 = none :=
  ⟨by decide +kernel, ⟨_, rfl, by decide +kernel, by decide +kernel, List.cons_ne_nil _ _⟩,
    ⟨_, rfl, by decide +kernel, by decide +kernel, by decide +kernel, by cases imageVerifies _ <;> simp⟩,
    ⟨_, rfl, by decide +kernel⟩, ⟨_, rfl, by decide +kernel⟩, ⟨_, rfl, by decide +kernel⟩,
    by intro v hv; refine ⟨_, rfl, ?_⟩; revert v; decide +kernel, ⟨_, rfl, by decide +kernel⟩,
    _, rfl, by decide +kernel⟩

/-- Currents of 1399 A and 1451 A, temperatures of 99, 119 and 120 degrees, on die 1's field B. -/
theorem witness_ProtectionAndStorageErrorsComplete :
    (∀ a ∈ [1399, 1451, 99, 105, 119, 120], ∃ s : State, s = { gang 0 with issuer := .event [4, a] } ∧ 4 < s.islands.length ∧
        (lget s.islands 4 default).st ≠ 0 ∧ (lget s.islands 4 default).st ≠ 3 ∧ 4 / 3 < s.perDie.length ∧
        (let s1 := dropIsland s 4 a
          let n := (s1.warps.filter fun p => islandCore 4 p.2.coreOf).length
          (∀ d, d < s.dies → bufferedOn s1 d + n ≤ 256) ∧ s1.errWaiting.length + n ≤ 256)) ∧
      (∀ k ∈ [1, 2, 3, 4, 5, 6, 7, 8, 9, 11], ∃ (e : ErrorReport) (s : State), s.errWaiting.length < 256 ∧ e.struct = k ∧
        e.die < s.perDie.length ∧ (k = 1 → (tfind s.warps e.target).isSome = true) ∧
        (k = 7 → 16 ≤ e.target) ∧ (k ≠ 1 → (tfind s.ops e.target).isSome = true)) ∧
      ∀ k ∈ [7, 10], ∃ (e : ErrorReport) (s : State), s.errWaiting.length < 256 ∧ e.struct = k ∧ e.target < 16 ∧
        (tfind s.cores (coreKey e.die e.unit)).isSome = true ∧ (coreAt s (coreKey e.die e.unit)).units.length = 2 ∧
        ∀ u ∈ (coreAt s (coreKey e.die e.unit)).units, u.ctxs.length = 8 :=
  ⟨by intro v hv; refine ⟨_, rfl, ?_⟩; revert v; decide +kernel,
    fun k _ => ⟨{ (default : ErrorReport) with struct := k, target := if k = 1 then 1 else 20 },
      { gang 0 with ops := [(20, placedOp .load)] }, by decide +kernel, rfl, by show 0 < (gang 0).perDie.length; decide +kernel,
      fun h => by subst h; decide +kernel, fun h => by subst h; decide, fun h => by simp only [if_neg h]; decide +kernel⟩,
    by
      intro k hk
      simp only [List.mem_cons, List.not_mem_nil, or_false] at hk
      rcases hk with rfl | rfl
      · exact ⟨{ (default : ErrorReport) with struct := 7, target := 15 }, ap, by decide +kernel⟩
      · exact ⟨{ (default : ErrorReport) with struct := 10, target := 15 }, ap, by decide +kernel⟩⟩

/-- A data flit with sequence number 0 and no message in it, and port 3 of a device, up. -/
def flitBody : List Byte := [0x00, 0x10] ++ List.replicate 246 0
def flit : List Byte := flitBody ++ leBytes 8 (crc64 flitBody).toNat
theorem goodFlitOf {b : List Byte} (h : b.length = 248) : goodFlit (b ++ leBytes 8 (crc64 b).toNat) := by
  refine ⟨by rw [List.length_append, h, length_leBytes], ?_⟩
  rw [List.take_left' h, List.drop_left' h, List.take_of_length_le (length_leBytes _ _).le, leNat_leBytes]
  exact Nat.mod_eq_of_lt (crc64 b).isLt

theorem flit_good : goodFlit flit :=
  goodFlitOf (by rw [flitBody, List.length_append, List.length_replicate]; rfl)

def portUp : Port := { (default : Port) with up := true }
def linked (p : Port) (m : List Message) (rem : Tbl RemoteReq := []) : State :=
  let s := gang 0;
  { s with
    issuer := .event [3, 0], ports := [(3, p)], inbox := m.map fun x => (3, x), remote := rem, dieLink := true
    ops := [(9, placedOp .load)] }
def message (kind vc : Nat) : Message := { (default : Message) with kind := kind, vc := vc, desc := 0xFFFF, mask := 3, data := List.replicate 128 1 }

/-- The same while no home slice runs. -/
def idle (s : State) : State := { s with perDie := s.perDie.map fun x => { x with ready := 0 } }

theorem homeIdle_of {s : State} {h : Nat} (e : (lget s.perDie (h / 96) default).ready = 0) : homeReady s h = false := by
  simp [homeReady, fieldReady, e]

theorem fieldIdle_of {s : State} {h : Nat} (e : (lget s.perDie (h / 96) default).ready = 0) : fieldReady s h = false := by
  simp [fieldReady, e]

theorem arrivesOf' {k vc : Nat} {rem : Tbl RemoteReq} (h : arrival (linked portUp [message k vc] rem) (message k vc) = some 3) :
    Arrives (linked portUp [message k vc] rem) 3 (message k vc) k := ⟨h, rfl⟩

/-- A descriptor of a collective of two devices with one block, its first epoch under way. -/
def collectiveBytes : List Byte :=
  leBytes 64 (4 + 2 ^ 5 + 2 ^ 16 + 2 * 2 ^ 32 + 2 ^ 128)
def collecting : State :=
  let s := linked portUp [result];
  { s with contexts := s.contexts.map fun p =>
      (p.1, { p.2 with collectives := [(4, collectiveBytes)], epochs := [(4, 1)] }) }
where
  result : Message := { message 6 0 with ctx := 1, desc := 4, epoch := 1 }

/-- The result line held as an operation of its device. -/
def resultHeld : State :=
  let m := collecting.result
  (addOp (owe { collecting with inbox := collecting.inbox.erase (3, m) } 3 m) { (default : Op) with
    kind := .result, die := 3 / 18, ctx := m.ctx, collective := some (m.desc, m.epoch), done := 65536
    elems := [{ (default : Elem) with offset := m.line * 128, data := m.data }] }).2

theorem vwriteOf {s c d a b} (h : (vwrite s c d a b).2 = none) : ∃ s1, vwrite s c d a b = (s1, none) :=
  ⟨(vwrite s c d a b).1, Prod.ext rfl h⟩

theorem witness_LinksCarryFlitsAndMessages :
    (∃ s pt, s = linked pt [] ∧ tfind s.ports 3 = some pt ∧ pt.up = true ∧ goodFlit flit ∧
        leNat (flit.take 2) / 4096 = 1 ∧ leNat (flit.take 2) % 4096 = pt.expected ∧
        ∀ m ∈ (takeMessages ((pt.rxBytes ++ (flit.drop 8).take 240).length + 1) (pt.rxBytes ++ (flit.drop 8).take 240)).1,
          badMessage s m = false) ∧
      (∃ s pt, s = linked pt [] ∧ tfind s.ports 3 = some pt ∧ pt.up = true ∧ leNat (flit.take 2) / 4096 = 1 ∧
        leNat (flit.take 2) % 4096 ≠ pt.expected) ∧
      (∀ n ∈ [15, 16], ∃ s pt, s = linked pt [] ∧ s.issuer = .event [3, 0] ∧ tfind s.ports 3 = some pt ∧ pt.up = true ∧
        pt.unacked.dropWhile (fun x => x.seq ≠ 0) = [⟨0, [], [], n⟩]) ∧
      (∃ s pt, s = { linked pt [] with issuer := .event [3] } ∧ tfind s.ports 3 = some pt ∧ pt.up = true) ∧
      (∃ s pt, s = linked pt [] ∧ tfind s.ports 3 = some pt ∧ pt.up = false ∧ pt.retraining = true ∧ portField s 3 = true) ∧
      (∃ s y, s = graph ∧ s.dies = 2 ∧ s.dieLink = true ∧ s.perDie.length = 2 ∧ tgmRuns s 0 = true ∧ tgmRuns s 1 = true ∧
        s.reqs = [] ∧ s.remote = [] ∧ s.monitors = [] ∧ s.publish = [] ∧ s.graphs = [(0, y)] ∧ 0 < s.fresh ∧
        y.complete = false ∧ y.owner = none) ∧
      (∀ k ∈ [0, 2, 3, 4], let s := idle (linked portUp [message k 0])
        homeReady s (homeOf s ((message k 0).line * 128)) = false ∧ (message k 0).line * 128 < 2 ^ 48 ∧
          fieldReady s (homeOf s ((message k 0).line * 128)) = false ∧ isRemote ((message k 0).line * 128) = false ∧
          Arrives s 3 (message k 0) k) ∧
      (∀ k ∈ [0, 2, 3, 4], let s := linked portUp [message k 0]
        HomeTakes s 3 (message k 0) ∧ Arrives s 3 (message k 0) k ∧ (message k 0).desc = 0xFFFF ∧
          (homeLine s ((message k 0).line * 128)).target = 0) ∧
      (∃ x op, let s := linked portUp [message 1 1] [(65536, x)]
        Arrives s 3 (message 1 1) 1 ∧ answered s (message 1 1) = some (65536, x) ∧ x.req.kind = .load ∧
        x.req.ofUnit = false ∧ tfind s.ops x.req.op = some op ∧ (message 1 1).data.length = 128) ∧
      (∃ x, let s := linked portUp [message 5 1] [(65536, x)]
        Arrives s 3 (message 5 1) 5 ∧ answered s (message 5 1) = some (65536, x)) ∧
      ∃ s1, let m := collecting.result
        let b := collective collecting m.ctx m.desc
        Arrives collecting 3 m 6 ∧ cdGood b = true ∧ cdKind b = 0 ∧ 0 < m.epoch ∧ m.epoch = collEpoch collecting m.ctx m.desc ∧
        collDone collecting m.ctx m.desc = false ∧ (tfind collecting.contexts m.ctx).isSome = true ∧
        tget (tget collecting.contexts m.ctx default).epochLines m.desc 0 + 1 < 32 * cdBlocks b ∧
        vwrite resultHeld m.ctx (3 / 18) (cdRes b + m.line * 128) m.data = (s1, none) :=
  ⟨⟨_, portUp, rfl, rfl, rfl, flit_good, by decide +kernel, by decide +kernel, by decide +kernel⟩,
    ⟨_, { portUp with expected := 1 }, rfl, rfl, rfl, by decide +kernel⟩,
    fun n _ => ⟨_, { portUp with unacked := [⟨7, [], [], 0⟩, ⟨0, [], [], n⟩] }, rfl, rfl, rfl, rfl, rfl⟩, ⟨_, portUp, rfl, rfl, rfl⟩,
    ⟨_, { (default : Port) with retraining := true }, rfl, rfl, rfl, rfl, by decide +kernel⟩, ⟨_, _, rfl, rfl, rfl, by decide +kernel, by decide +kernel, by decide +kernel, rfl, rfl, rfl, rfl, rfl, by decide +kernel,
      rfl, rfl⟩,
    fun k h => ⟨homeIdle_of (by decide +kernel +revert), by decide +kernel +revert, fieldIdle_of (by decide +kernel +revert),
      by decide +kernel +revert, by revert k; decide +kernel, rfl⟩,
    fun k h => ⟨⟨by decide +kernel +revert, homeReady_of (by decide +kernel +revert), by decide +kernel +revert,
      by decide +kernel +revert, fun x hx => nomatch hx⟩, arrivesOf' (by revert k; decide +kernel), rfl,
      by decide +kernel +revert⟩,
    ⟨⟨request .load, 3, 0, false⟩, _, arrivesOf' (by decide +kernel), by decide +kernel, rfl, by decide, rfl, by decide +kernel⟩,
    ⟨⟨request .store, 3, 0, false⟩, arrivesOf' (by decide +kernel), by decide +kernel⟩,
    (vwriteOf (s := resultHeld) (c := 1) (d := 0)
      (a := cdRes (collective collecting 1 4) + 0 * 128) (b := collecting.result.data) (by decide +kernel)).elim fun s1 h =>
        ⟨s1, ⟨by decide +kernel, rfl⟩, by decide +kernel, by decide +kernel, by decide, by decide +kernel, by decide +kernel,
          by decide +kernel, by decide +kernel, by exact h⟩⟩

/-! ## Words and steps -/

/-- Fields at their greatest values. -/
theorem witness_WordsDecodeToWhatTheyEncode :
    (isCoreWord (.imad 3 124 127 127) = true ∧ Instr.wellFormed (.imad 3 124 127 127) = true) ∧
      isApWord (.rtTri 31 31) = true ∧ Instr.wellFormed (.rtTri 31 31) = true := by decide +kernel

theorem witness_DecodedInstructionsHaveTheirWord :
    (∃ i, decodeCore 0x0A000000 = .ok i) ∧ ∃ i, decodeAp 0x00000013 = .ok i :=
  ⟨⟨.regang, by decide +kernel⟩, .apBaseInstruction 0x13, by decide +kernel⟩

/-- The first turn of `withFetchWord`, the word at address 0 being NOP. -/
def first : State := portState (State.reset.withFetchWord 32 0) 0 0
def firstGang : State := { first with issuer := .gang 1 0xFF, fetched := none, held := false }

/-- Ring 0's turn, the command of frame events next. -/
def ringsTurn : State :=
  { hosted 4 [] with turn := .ring 0, issuer := .event [0], fetched := none, held := false, stuck := [], used := [] }

theorem witness_StepRunsTheInstructionOfItsTurn :
    ((State.reset.withFetchWord 32 0).turn = .port 0 0 0 ∧
        (∃ c, candidates first 0 0 0 = [c] ∧ c.warp = 1 ∧ c.slices = 0xFF) ∧
        islandOn (State.reset.withFetchWord 32 0) (islandOf 0 0) = true ∧ entersTrap firstGang 1 0xFF = false ∧
        ∃ f t, exec .instructionFetch firstGang = .next f ∧ f.fetched = some 0 ∧ decodeCore (0 : Word).toNat = .ok .nop ∧
          exec .nop f = .next t ∧ heldUp firstGang t = false ∧ t.held = false) ∧
      (let s := State.reset.withFetchWord 32 0x0000502B;
        s.turn = .ap 0 0 0 ∧ (tfind s.cores 0).isSome = true ∧ islandOn s (islandOf 0 0) = true ∧ apOrder (apUnit s 0 0) = [0] ∧
        (apCtx (apState s 0 0 0) 0 0 0).pc.toNat < 0x4000 ∧ decodeAp (apFetch (apState s 0 0 0) 0 0 0).toNat = .ok .ctxEnd ∧
        ∃ t, exec .ctxEnd (apState s 0 0 0) = .next t ∧ heldUp (apState s 0 0 0) t = false ∧ t.held = false) ∧
      (∃ c t, ringsTurn.turn = .ring 0 ∧ nextCommand ringsTurn 0 = some c ∧ commandInstr c = some .frameEvent ∧
        exec .frameEvent ringsTurn = .next t ∧ heldUp ringsTurn t = false) ∧
      (∀ i ∈ [Instr.powerOn, .registerStarvation, .thermalTrip], isEvent i = true ∧
        ∃ t, exec i (eventState State.reset i [0]) = .next t ∧ heldUp (eventState State.reset i [0]) t = false) := by
  refine ⟨⟨rfl, ?_, by decide +kernel, by decide +kernel, _, _, nextOf (by decide +kernel), by decide +kernel, by decide +kernel,
      nextOf (by decide +kernel), by decide +kernel, by decide +kernel⟩,
    ⟨rfl, by decide +kernel, by decide +kernel, by decide +kernel, by decide +kernel,
      by decide +kernel, _, nextOf (by decide +kernel), by decide +kernel, by decide +kernel⟩, ?_, ?_⟩
  · rcases h : candidates first 0 0 0 with _ | ⟨c, _ | ⟨d, r⟩⟩
    all_goals have g : ((candidates first 0 0 0).map fun c => (c.warp, c.slices)) = [(1, 0xFF)] := by decide +kernel
    all_goals simp only [h, List.map_cons, List.map_nil, List.cons.injEq, Prod.mk.injEq, reduceCtorEq, and_false, and_true] at g
    exact ⟨c, rfl, g⟩
  · have n : ((nextCommand ringsTurn 0).bind commandInstr) = some .frameEvent := by decide +kernel
    rcases h : nextCommand ringsTurn 0 with _ | c
    · rw [h] at n; cases n
    · exact ⟨c, _, rfl, rfl, by rw [h] at n; exact n, nextOf (by decide +kernel), by decide +kernel⟩
  · intro i hi
    simp only [List.mem_cons, List.not_mem_nil, or_false] at hi
    rcases hi with rfl | rfl | rfl <;> exact ⟨by decide, _, nextOf (by decide +kernel), by decide +kernel⟩

/-- Memory that lists a byte. -/
theorem witness_DeviceMemoryStaysCanonical :
    (hosted 4 []).mem.wf = true ∧ ∃ t, step { hosted 4 [] with turn := .ring 0 } = .next t :=
  ⟨by decide +kernel, _, nextOf (by decide +kernel)⟩

/-! ## Words: the listing that ends spec/04_encoding.md, then one word or more of each family from its tables -/

theorem test_listing : [0x0C000031, 0x5501D678, 0x30030512, 0x5601A468, 0x76840514, 0x74067E16, 0xB1070704, 0x02FFFFF9].map
    decodeCore = [.ok (.modei 6 1), .ok (.movi 3 0x5678), .ok (.iadd 0 6 5 9), .ok (.movh 0 3 0x2468),
      .ok (.ffma 2 8 5 10), .ok (.fmul 0 12 126 11), .ok (.ld 0 14 7 2), .ok (.bra 0xFFFFF9)] := by decide +kernel

/-- R118: fields by their places: d at 15, a at 8, b at 1, hold at 22, predicates at 15, 8 and 1, record at 1 or 8. -/
theorem test_words_sequencer : [0x04 * 2 ^ 24 + 3 * 2 ^ 22 + 127 * 2 ^ 8, 0x11 * 2 ^ 24 + 6, 0x12 * 2 ^ 24 + 896,
      0x14 * 2 ^ 24 + 2 * 2 ^ 8 + 128, 0x16 * 2 ^ 24 + 2 ^ 21 + 15 * 2 ^ 15 + 128, 0x18 * 2 ^ 24 + 2 * 2 ^ 8 + 4,
      0x0F * 2 ^ 24 + 5 * 2 ^ 15 + 0x808 * 2 ^ 3, 0x21 * 2 ^ 24 + 9 * 2 ^ 8 + 128 + 3].map decodeCore =
    [.ok (.bri 3 127), .ok (.freeze 6), .ok (.grow 896), .ok (.donate 0 2 128), .ok (.bar 1 15 128), .ok (.waitc 0 2 4),
      .ok (.rds 5 0x808), .ok (.baraReg 0 9 1 3)] := by decide +kernel

theorem test_words_lane : [0x51 * 2 ^ 24 + 5 * 2 ^ 18 + 7 * 2 ^ 15 + 1 * 2 ^ 8 + 2 * 2, 0x58 * 2 ^ 24 + 3 * 2 ^ 15 + 2 * 2 ^ 8 + 1 * 2 + 1,
      0x5B * 2 ^ 24 + 3 * 2 ^ 15 + 4 * 2 ^ 8 + 1, 0x4B * 2 ^ 24 + 124 * 2 ^ 15 + 31, 0x81 * 2 ^ 24 + 7 * 2 ^ 18 + 9 * 2 ^ 8,
      0x8F * 2 ^ 24 + 2 * 2 ^ 15 + 3 * 2 ^ 8 + 5 * 2, 0xA5 * 2 ^ 24 + 1 * 2 ^ 15 + 2 * 2 ^ 8 + 8 + 5,
      0xA9 * 2 ^ 24 + 2 * 2 ^ 18 + 1 * 2 ^ 15 + 6 * 2 ^ 8].map decodeCore =
    [.ok (.icmp 0 5 7 1 2), .ok (.pand 3 2 1 1), .ok (.pmovReg 0 3 4), .ok (.rotImm 0 124 0 31), .ok (.fcmpZ 0 7 0 9),
      .ok (.cvtFi 0 2 3 5), .ok (.vscan 0 1 2 1 5), .ok (.vvote 2 1 6)] := by decide +kernel

theorem test_words_memory : [0xB0 * 2 ^ 24 + 15 * 2 ^ 15 + 4 * 2 ^ 8, 0xB3 * 2 ^ 24 + 8 * 2 ^ 15 + 1 * 2 ^ 8 + 15 * 2 + 1,
      0xB4 * 2 ^ 24 + 8 * 2 ^ 15 + 3 * 2 ^ 8 + 128 + 127, 0xC4 * 2 ^ 24 + 8 + 5, 0xC9 * 2 ^ 24 + 7 * 2 ^ 15 + 9 * 2 ^ 8 + 255,
      0xD0 * 2 ^ 24 + 1 * 2 ^ 15 + 2 * 2 ^ 8 + 6 * 2 ^ 5 + 3 * 2, 0xD8 * 2 ^ 24 + 4 * 2 ^ 15 + 15 * 2 ^ 11 + 63 * 2 ^ 5,
      0xDA * 2 ^ 24 + 1 * 2 ^ 15 + 2 * 2 ^ 8 + 5 * 2 ^ 5].map decodeCore =
    [.ok (.brec 0 15 4), .ok (.ldx 0 8 1 15 1), .ok (.ldxImm 8 3 1 127), .ok (.fence 1 5), .ok (.cbld 7 9 255),
      .ok (.atomGlobal 0 1 2 6 3), .ok (.atomp 4 15 63), .ok (.waitmCluster 0 1 2 5)] := by decide +kernel

/-- R311, R287, R347, R342, R394: engine and scheduling commands; R353, R338: access-processor words. -/
theorem test_words_units : decodeCore (0xE7 * 2 ^ 24 + 3 * 2 ^ 15) = .ok (.btps 3) ∧
    decodeCore (0xF5 * 2 ^ 24 + 8 * 2 ^ 15 + 3 * 2 ^ 8) = .ok (.emitReg 0 8 3) ∧
    decodeCore (0xF6 * 2 ^ 24 + 2 ^ 22 + 3 * 2 ^ 8) = .ok (.post 1 3) ∧ decodeCore (0xFA * 2 ^ 24 + 5 * 2 ^ 3) = .ok (.sysc 5) ∧
    decodeAp (31 * 2 ^ 20 + 30 * 2 ^ 15 + 0x2B) = .ok (.qPush 31 30) ∧ decodeAp (7 * 2 ^ 15 + 4 * 2 ^ 12 + 5 * 2 ^ 7 + 0x5B) = .ok (.rtBox 7 5) ∧
    (decodeAp (6 * 2 ^ 12 + 0x5B)).isOk = false ∧ decodeAp 0x00100073 = .ok (.apEnvironmentCall 0x00100073) := by
  decide +kernel

/-- R105, R110, R117, R118: an unassigned opcode, a reserved bit, a written register 125, an odd pair, a reserved code. -/
theorem test_words_refused : [0x22 * 2 ^ 24, 1, 0x30 * 2 ^ 24 + 125 * 2 ^ 15, 0xB3 * 2 ^ 24 + 7 * 2 ^ 15, 0x51 * 2 ^ 24 + 6 * 2 ^ 18,
    0x0B * 2 ^ 24 + 2 ^ 15].all (fun w => !(decodeCore w).isOk) = true := by decide +kernel

/-! ## Ill-formed instructions, one for each check of WellFormed -/

theorem test_illFormed : ([.iadd 0 125 0 0, .brec 0 0 124, .brec 0 0 2, .stx 0 1 0 0 0, .modei 16 0, .modei 2 3, .rds 0 0x00A, .rds 0 0x030,
    .rdsClockLo 125, .wrs 0 0x051, .freeze 1, .freeze 7, .grow 0, .grow 4, .shrink 12, .donate 0 0 0, .donate 0 0 129, .bar 0 0 0, .bar 0 0 33,
    .bara 1 0 129, .waitc 0 0 5, .icmp 0 6 0 0 0, .fcmp 0 8 0 0 0, .cvt 0 0 0 5, .cvtFi 0 0 0 6, .vred 0 0 0 6, .vvote 3 0 0,
    .arrive 0 0 0, .fence 1 6, .fence 0 1, .atomGlobal 0 0 0 7 0, .redGlobal 0 0 0 6 0, .atomfGlobal 0 0 0 3 0, .acasGlobal 0 1 0 0,
    .acasD 0 2 0 0, .waitmGlobal 0 0 0 6 0, .cacheopArm 1 0, .bstg 0 0 1 0 1, .bstg 0 0 0 0 0, .bchn 0 0 0 10 1, .bdns 0 0 0 0 0 3 0 0,
    .bdrn 120 0 0 0 0 0, .qpush 0 1, .qpop 0 2, .qpushN 2 1 2, .qstat 0 3, .emit 2 0, .apBaseInstruction 0, .apEnvironmentCall 0] :
    List Instr).all (fun i => !i.wellFormed) = true := by decide +kernel

/-! ## Meanings -/

/-- Slice `i` of warp 1 in the next state. -/
def slice (o : Out) (i : Nat) : Slice := sliceOf (after o) 1 i

/-- What lane `l` of warp 1 has in the last entry of its slice's result queue. -/
def got (o : Out) (l : Nat) : Option (Word × Nat) :=
  (slice o (l / 4)).queue.getLast?.map fun e => (lget e.vals (l % 4) 0, e.left)

/-- The listing: MOVI gives 0xFFFFD678; MOVH makes 0x12345678 of 0x5678; both with latency 2. -/
theorem test_movi_movh : got (exec (.movi 3 0x5678) (gang 0)) 31 = some (0xFFFFD678, 1) ∧
    got (exec (.movh 0 2 0x2468) (holding 0x5678)) 0 = some (0x12345678, 1) := by decide +kernel

/-- R176: a sum wraps, and saturates under mode.sat. -/
theorem test_iadd : got (exec (.iaddi 0 4 2 1) (holding 0x7FFFFFFF)) 5 = some (0x80000000, 1) ∧
    got (exec (.iaddi 0 4 2 1) (holding 0x7FFFFFFF 0x800)) 5 = some (0x7FFFFFFF, 1) := by decide +kernel

/-- R180: a shift of the width or more gives 0, an arithmetic one the sign; a rotate takes the remainder. -/
theorem test_shifts : got (exec (.shl 0 4 2 2) (holding 40)) 0 = some (0, 1) ∧
    got (exec (.sar 0 4 2 2) (holding 0x80000020)) 0 = some (0xFFFFFFFF, 1) ∧
    got (exec (.rotImm 0 4 2 4) (holding 0x80000001)) 0 = some (0x18, 1) := by decide +kernel

/-- R188: 1.5 + 1.5 = 3; R189: 1.5 * 1.5 - 1.5 = 0.75 with one rounding; latency 4. -/
theorem test_float : got (exec (.fadd 0 4 2 2) (holding 0x3FC00000 0x60)) 0 = some (0x40400000, 3) ∧
    got (exec (.ffmaNd 0 2 2 2) (holding 0x3FC00000 0x60)) 0 = some (0x3F400000, 3) := by decide +kernel

/-- R208: a sum of 32 lanes' ones, and an exclusive scan of them, with latency 6. -/
theorem test_reductions : got (exec (.vred 0 4 2 0) (holding 1)) 9 = some (32, 5) ∧
    got (exec (.vscan 0 4 2 1 0) (holding 1)) 9 = some (9, 5) := by decide +kernel

/-- The listing's branch, from 0x101C to 0x1004. -/
theorem test_bra : (slice (exec (.bra 0xFFFFF9) (gang 0 (allSlices fun x => { x with pc := 0x101C }))) 7).pc = 0x1004 := by
  decide +kernel

/-- R141: lanes 0 alone take the branch: the rest go on, and the target waits on the stack. -/
theorem test_brc : let x := slice (exec (.brc 2) (gang 1 fun w => { w with preds := [(0, 2)] })) 0
    (x.pc, x.active, x.stack) = (4, 14, [⟨.pending, 12, 1⟩]) := by decide +kernel

/-- R140: RET returns to its CALL and takes the mask back. -/
theorem test_call_ret : (slice (exec (.call 3) (gang 0)) 0).stack = [⟨.call, 4, 15⟩] ∧
    (slice (exec .ret (stacked [⟨.call, 8, 7⟩])) 0).pc = 8 ∧ (slice (exec .ret (stacked [⟨.call, 8, 7⟩])) 0).active = 7 := by
  decide +kernel

/-- R166, R167: TRAP 5 is cause 7 with value 5, mode 0, and the next address to return to; ERET returns there. -/
theorem test_trap_eret : (let x := slice (exec (.trap 5) (gang 0x60)) 0;
      (x.tcause, x.tval, x.tpc, x.tmode, x.mode, x.handler) = (7, 5, 4, 0x60, 0, true)) ∧
    (let x := slice (exec .eret (gang 0 (allSlices fun x => { x with handler := true, tpc := 8, tmode := 0x60, tmask := 3 }))) 0;
      (x.pc, x.mode, x.active, x.handler) = (8, 0x60, 3, false)) := by decide +kernel

/-- R120, R166: a word that is no instruction is cause 0 with the word as its value. -/
theorem test_undefined_word : (let x := slice (step (State.reset.withFetchWord 32 0x22000000)) 0;
    (x.tcause, x.tval, x.handler) = (0, 0x22000000, true)) := by decide +kernel

/-- R233, R230: a store of four bytes to the last word of the cluster store, least significant first. -/
theorem test_clusterStore :
    mbytes (tget (after (exec .clusterSpaceAccess (flying (gang 0) (clusterOp .clusterStore)))).clusters 0 default).store 0x7FFFFC 4 =
      [1, 2, 3, 4] := by decide +kernel

/-- R338: ADDI of -1 to x6 writes x5, and x0 stays 0. -/
theorem test_addi : let x := apCtx (after (exec (.apBaseInstruction 0xFFF30293) (ap [(6, 0)]))) 0 1 7
    (rvGet x.x 5, rvGet x.x 0, x.pc) = (0xFFFFFFFF, 0, 4) := by decide +kernel

/-- R31, R30: the first step after the placing of NOP moves every slice on; R442: the first step of all is power-on. -/
theorem test_steps : (slice (step (State.reset.withFetchWord 32 0)) 7).pc = 4 ∧
    (lget (after (step State.reset)).islands 1 default).st = 1 ∧ (after (step State.reset)).now = 1 := by decide +kernel
end Sys2Proof.Tests
end

section
/-!
PROOFS. Physical memory stays in its canonical form (R4, R41, R254, R256). `step` reaches most of the model, so there
is one lemma for each operation on the state, in the order of the files of the model: it leaves memory alone (`…_mem`),
or it keeps the form (`…_wf`), and so does what an instruction or an event answers (`…_canonical`). Memory is written by
`mstore`, whose law is `wf_mstore`, and bring-up keeps a part of it; the proof for any other operation is its branches,
each closed by the lemmas of what it calls.
-/

namespace Sys2Proof.Machine

/-- The state in which an instruction or an event leaves the device, if it does, has its memory in canonical form. -/
def Canonical : Out → Prop
  | .next t => t.mem.wf
  | .fault _ => True
  | .refused _ => True

/-- What an instruction does in its read cycle leaves memory in canonical form. -/
def Eff.Canonical : Eff → Prop
  | .done s => s.mem.wf
  | .wait s _ => s.mem.wf
  | .trap .. => True
  | .trapEach .. => True
  | .andTrap s _ _ => s.mem.wf

theorem foldl_mem {α : Type} {g : State → α → State} (hg : ∀ s a, (g s a).mem = s.mem) (l : List α) (s : State) :
    (l.foldl g s).mem = s.mem :=
  foldl_keep State.mem g hg l s

theorem foldl_wf {α : Type} {g : State → α → State} (hg : ∀ s a, s.mem.wf → (g s a).mem.wf) (l : List α) {s : State}
    (hs : s.mem.wf) : (l.foldl g s).mem.wf :=
  List.foldlRecOn (motive := fun s : State => s.mem.wf = true) l g hs fun s hs a _ => hg s a hs

/-! ## Machine/Warps.lean -/

@[simp] theorem modSlice_mem (s : State) (k i f) : (modSlice s k i f).mem = s.mem := rfl

@[simp] theorem modGang_mem (s : State) (k sl f) : (modGang s k sl f).mem = s.mem :=
  foldl_mem (fun _ _ => modSlice_mem ..) ..

@[simp] theorem dropRequests_mem (s : State) (c f) : (dropRequests s c f).mem = s.mem := by
  unfold dropRequests
  split <;> simp

@[simp] theorem privatise_mem (s : State) (k g) : (privatise s k g).mem = s.mem := by
  simp [privatise]

@[simp] theorem freshenLatch_mem (s : State) (k i f) : (freshenLatch s k i f).mem = s.mem := by
  unfold freshenLatch
  split <;> simp

@[simp] theorem reconverge_mem (s : State) (k sl) : (reconverge s k sl).mem = s.mem := rfl

@[simp] theorem raiseCounter_mem (s : State) (k p o) : (raiseCounter s k p o).mem = s.mem := rfl

@[simp] theorem lowerCounter_mem (s : State) (k p o) : (lowerCounter s k p o).mem = s.mem := rfl

@[simp] theorem markPending_mem (s : State) (k sl regs o) : (markPending s k sl regs o).mem = s.mem := rfl

@[simp] theorem clearMarks_mem (s : State) (k o) : (clearMarks s k o).mem = s.mem := rfl

/-! ## Machine/Translate.lean -/

@[simp] theorem modHomeLine_mem (s : State) (pa f) : (modHomeLine s pa f).mem = s.mem := rfl

theorem homeWrite.written_wf {s : State} (hs : s.mem.wf) (pa b except) : (homeWrite.written s pa b except).mem.wf := by
  obtain ⟨hl, iv, e⟩ := written_eq s pa b except
  rw [e]
  exact wf_mstore _ _ _ hs

theorem homeWrite_wf {s : State} (hs : s.mem.wf) (pa b except by') : (homeWrite s pa b except by').mem.wf :=
  homeWrite.written_wf hs ..

@[simp] theorem sendEvent_mem (s : State) (kind number count) : (sendEvent s kind number count).mem = s.mem := rfl

theorem flushErrors_wf {s : State} (hs : s.mem.wf) (n) : (flushErrors n s).mem.wf := by
  induction n generalizing s with
  | zero => exact hs
  | succ n ih => grind [flushErrors, homeWrite_wf, sendEvent_mem]

theorem postError_wf {s : State} (hs : s.mem.wf) (b) : (postError s b).mem.wf :=
  flushErrors_wf (by simpa using hs) ..

theorem flushRecords_wf {s : State} (hs : s.mem.wf) (n c) : (flushRecords n s c).mem.wf := by
  induction n generalizing s with
  | zero => exact hs
  | succ n ih => grind [flushRecords, homeWrite_wf, modCtx_mem, sendEvent_mem]

theorem postFor_wf {s : State} (hs : s.mem.wf) (c die b behind o) : (postFor s c die b behind o).mem.wf := by
  unfold postFor
  split
  · exact postError_wf hs ..
  · exact flushRecords_wf (by simpa using hs) ..

theorem postRecord_wf {s : State} (hs : s.mem.wf) (c die b behind) : (postRecord s c die b behind).mem.wf :=
  postFor_wf hs _ _ _ _ _

theorem flushAll_wf {s : State} (hs : s.mem.wf) : (flushAll s).mem.wf := by
  grind [flushAll, flushErrors_wf, flushRecords_wf, foldl_wf]

theorem ifRoom_wf {s t : State} (hs : s.mem.wf) (ht : t.mem.wf) : (ifRoom s t).mem.wf := by
  grind [ifRoom]

@[simp] theorem sendUnit_mem (s : State) (r) : (sendUnit s r).mem = s.mem := rfl

@[simp] theorem askLine_mem (s : State) (c die line) : (askLine c die s line).mem = s.mem := by
  unfold askLine
  dsimp only
  split
  · rfl
  · rfl

@[simp] theorem stick_mem (s : State) (c die l) : (stick s c die l).mem = s.mem := rfl

@[simp] theorem physBytes_mem (s : State) (c die pa n) : (physBytes s c die pa n).1.mem = s.mem := by
  unfold physBytes
  split <;> simp

@[simp] theorem dropCopies_mem (s : State) (die line) : (dropCopies s die line).mem = s.mem := rfl

theorem physWrite_wf {s : State} (hs : s.mem.wf) (c die pa b) : (physWrite s c die pa b).mem.wf := by
  grind [physWrite, homeWrite_wf, sendUnit_mem, stick_mem, dropCopies_mem, foldl_wf]

@[simp] theorem walk_mem (s : State) (u acc va n t w x) : (walk s u acc va n t w x).1.mem = s.mem := by
  induction n generalizing s t w x with
  | zero => rfl
  | succ n ih => grind [walk, physBytes_mem]

theorem touchLeaf_wf {s : State} (hs : s.mem.wf) (u leaf acc) : (touchLeaf s u leaf acc).mem.wf := by
  grind [touchLeaf, sendUnit_mem, physWrite_wf]

@[simp] theorem findTrans.walked_mem (s : State) (u va acc) : (findTrans.walked u va acc s).1.mem = s.mem := by
  unfold findTrans.walked
  split <;> simp

@[simp] theorem findTrans.found_mem (s : State) (u va acc) : (findTrans.found s u va acc).1.mem = s.mem := by
  grind [findTrans.found, draw_mem, findTrans.walked_mem]

@[simp] theorem findTrans_mem (s : State) (u va acc) : (findTrans s u va acc).1.mem = s.mem := by
  grind [findTrans, findTrans.found_mem]

theorem useTrans_wf {s : State} (hs : s.mem.wf) (u acc t) : (useTrans s u acc t).mem.wf := by
  unfold useTrans
  split
  · exact touchLeaf_wf (by simpa using hs) ..
  · exact touchLeaf_wf hs ..

theorem translate_wf {s : State} (hs : s.mem.wf) (u va acc) : (translate s u va acc).1.mem.wf := by
  grind [translate, findTrans_mem, useTrans_wf]

theorem vread_wf {s : State} (hs : s.mem.wf) (c die va n) : (vread s c die va n).1.mem.wf := by
  induction n generalizing s va with
  | zero => exact hs
  | succ n ih => grind [vread, translate_wf, physBytes_mem]

theorem vwrite_wf {s : State} (hs : s.mem.wf) (c die va b) : (vwrite s c die va b).1.mem.wf := by
  induction b generalizing s va with
  | nil => exact hs
  | cons x r ih => grind [vwrite, translate_wf, physWrite_wf]

/-! ## Machine/Save.lean -/

theorem writeSave_wf {s : State} (hs : s.mem.wf) (w a now) : (writeSave s w a now).mem.wf := by
  grind [writeSave, vwrite_wf, foldl_wf]

theorem saveImage_wf {s : State} (hs : s.mem.wf) (c die a) : (saveImage s c die a).1.mem.wf := by
  grind [saveImage, vread_wf]

theorem readSave_wf {s : State} (hs : s.mem.wf) (sv) : (readSave s sv).1.mem.wf := by
  grind [readSave, saveImage_wf]

theorem poolTake_mem {s t : State} {c size align a : Nat} (e : poolTake s c size align = some (a, t)) :
    t.mem = s.mem := by
  grind [poolTake, modCtx_mem]

@[simp] theorem poolFree_mem (s : State) (c a) : (poolFree s c a).mem = s.mem := rfl

theorem saveChain_wf {s : State} (hs : s.mem.wf) (c die n k) : (saveChain s c die n k).mem.wf := by
  induction n generalizing s k with
  | zero => exact hs
  | succ n ih => grind [saveChain, poolTake_mem, vwrite_wf]

/-! ## Machine/Ops.lean -/

theorem updateWarp_wf {s : State} (hs : s.mem.wf) (k f) : (updateWarp s k f).mem.wf := by
  unfold updateWarp
  split
  · exact hs
  · split
    · exact hs
    · split
      · exact readSave_wf hs ..
      · exact writeSave_wf (readSave_wf hs ..) ..

@[simp] theorem makeRestorable_mem (s : State) (k) : (makeRestorable s k).mem = s.mem := rfl

@[simp] theorem releaseNested_mem (s : State) : (releaseNested s).mem = s.mem :=
  foldl_mem (fun s _ => by simp) ..

@[simp] theorem letGo_mem (s : State) (k sl o) : (letGo s k sl o).mem = s.mem := rfl

@[simp] theorem trimImages_mem (s : State) (c) : (trimImages s c).mem = s.mem := by
  unfold trimImages
  dsimp only
  split
  · simp
  · simp

@[simp] theorem dropGrants_mem (s : State) (c k) : (dropGrants s c k).mem = s.mem := by
  unfold dropGrants
  split <;> simp

@[simp] theorem dropHolding_mem (s : State) (c k sl) : (dropHolding s c k sl).mem = s.mem := by
  unfold dropHolding
  split <;> simp

@[simp] theorem dropWaiting_mem (s : State) (c k sl) : (dropWaiting s c k sl).mem = s.mem := by
  simp [dropWaiting]

@[simp] theorem reap_mem (s : State) (k) : (reap s k).mem = s.mem := by
  grind [reap, modGroup_mem, trimImages_mem, dropGrants_mem]

@[simp] theorem lower_mem (s : State) (k p o) : (lower s k p o).mem = s.mem := by
  simp [lower]

@[simp] theorem endOp_mem (s : State) (o) : (endOp s o).mem = s.mem := by
  unfold endOp
  split <;> simp

@[simp] theorem staleRemote_mem (s : State) (die core scope) : (staleRemote s die core scope).mem = s.mem := rfl

@[simp] theorem acquire_mem (s : State) (die core scope) : (acquire s die core scope).mem = s.mem := by
  grind [acquire, modCore_mem, staleRemote_mem]

@[simp] theorem acquireWarp_mem (s : State) (k scope) : (acquireWarp s k scope).mem = s.mem := by
  simp [acquireWarp]

@[simp] theorem unsample_mem (s : State) (o) : (unsample s o).mem = s.mem := rfl

@[simp] theorem killPast_mem (s : State) (k since) : (killPast s k since).mem = s.mem :=
  foldl_mem (fun s _ => by simp) ..

@[simp] theorem backToFence_mem (s : State) (k) : (backToFence s k).mem = s.mem := by
  unfold backToFence
  split <;> simp

theorem removeWarp_wf {s : State} (hs : s.mem.wf) (k restorable stopped) :
    (removeWarp s k restorable stopped).1.mem.wf := by
  grind [removeWarp, writeSave_wf, poolTake_mem, saveChain_wf, trimImages_mem, dropGrants_mem, dropHolding_mem,
    backToFence_mem]

theorem doubleTrap_wf {s : State} (hs : s.mem.wf) (k cause pc) : (doubleTrap s k cause pc).mem.wf := by
  unfold doubleTrap
  split
  · exact hs
  · exact postRecord_wf (removeWarp_wf hs ..) ..

@[simp] theorem landFlags_mem (s : State) (k o fl) : (landFlags s k o fl).mem = s.mem := rfl

@[simp] theorem performWrites_mem (s : State) (o) : (performWrites s o).mem = s.mem := by
  unfold performWrites
  split
  · rfl
  · split
    · rfl
    · simp

@[simp] theorem drainGang_mem (s : State) (k sl) : (drainGang s k sl).mem = s.mem :=
  foldl_mem (fun s _ => by simp) ..

theorem trapSlices_wf {s : State} (hs : s.mem.wf) (k sl cause vals past) :
    (trapSlices s k sl cause vals past).mem.wf := by
  grind [trapSlices, modWarp_mem, modSlice_mem, dropWaiting_mem, doubleTrap_wf, drainGang_mem, foldl_wf]

theorem trapGang_wf {s : State} (hs : s.mem.wf) (k sl cause val past) : (trapGang s k sl cause val past).mem.wf :=
  trapSlices_wf hs ..

@[simp] theorem askCore_mem (s : State) (die core mine) : (askCore s die core mine).2.mem = s.mem := by
  unfold askCore
  dsimp only
  split
  · rfl
  · rfl

@[simp] theorem askGranules_mem (s : State) (k sl kind n) : (askGranules s k sl kind n).2.mem = s.mem := by
  simp [askGranules]

@[simp] theorem settleFence_mem (s : State) (k) : (settleFence s k).mem = s.mem := by
  grind [settleFence, modWarp_mem, acquireWarp_mem, killPast_mem]

@[simp] theorem holdGang_mem (s : State) (k sl why) : (holdGang s k sl why).mem = s.mem := by
  simp [holdGang]

@[simp] theorem stampIssue_mem (s : State) (k sl) : (stampIssue s k sl).mem = s.mem := by
  simp [stampIssue]

theorem issueTraps_wf {s : State} (hs : s.mem.wf) (k sl cause vals past) :
    (issueTraps s k sl cause vals past).mem.wf := by
  unfold issueTraps
  split
  · simpa using hs
  · simpa using trapSlices_wf hs ..

theorem issueTrap_wf {s : State} (hs : s.mem.wf) (k sl cause val past) : (issueTrap s k sl cause val past).mem.wf :=
  issueTraps_wf hs ..

@[simp] theorem finishIssue_mem (s : State) (f k sl held) : (finishIssue f s k sl held).mem = s.mem := by
  simp [finishIssue]

@[simp] theorem grantFor_mem (s : State) (f k sl w) : (grantFor f s k sl w).2.mem = s.mem := by
  unfold grantFor
  dsimp only
  split
  · simp
  · simp

@[simp] theorem readCycle_mem (f) (s s0 : State) (k sl w) : (readCycle f s s0 k sl w).mem = s0.mem := by
  grind [readCycle, privatise_mem, drainGang_mem, modWarp_mem, freshenLatch_mem, modGang_mem, foldl_mem]

theorem issueGang_wf {f : Form} {eff : State → Nat → BitVec 8 → Eff}
    (heff : ∀ s k sl, s.mem.wf → (eff s k sl).Canonical) {s : State} (hs : s.mem.wf) (k sl w) :
    (issueGang f eff s k sl w).mem.wf := by
  grind [issueGang, holdGang_mem, grantFor_mem, readCycle_mem, issueTrap_wf, issueTraps_wf, finishIssue_mem,
    modWarp_mem, Eff.Canonical]

/-- R120: issuing keeps the form if what the instruction does in its read cycle does. -/
theorem issue_canonical {f : Form} {eff : State → Nat → BitVec 8 → Eff}
    (heff : ∀ s k sl, s.mem.wf → (eff s k sl).Canonical) {s : State} (hs : s.mem.wf) : Canonical (issue f eff s) := by
  grind [issue, issueGang_wf, Canonical]

/-- An instruction that always passes to the next one. -/
theorem passing_canonical {eff : State → Nat → BitVec 8 → State} (heff : ∀ s k sl, s.mem.wf → (eff s k sl).mem.wf)
    {s : State} (hs : s.mem.wf) (k sl) : (passing eff s k sl).Canonical := by
  grind [passing, modGang_mem, Eff.Canonical]

theorem refuseWord_canonical {s : State} (hs : s.mem.wf) : Canonical (refuseWord s) := by
  unfold refuseWord
  split
  · split
    · exact issueTrap_wf hs ..
    · trivial
  · trivial

/-! ## Machine/Operands.lean -/

@[simp] theorem queueLanes_mem (s : State) (k sl dest lat mask f) :
    (queueLanes s k sl dest lat mask f).mem = s.mem := rfl

theorem laneReg_canonical {s : State} (hs : s.mem.wf) (f d lat val) : Canonical (laneReg f d lat val s) :=
  issue_canonical (fun _ _ _ h => passing_canonical (fun _ _ _ h => by simpa using h) h _ _) hs

theorem lanePred_canonical {s : State} (hs : s.mem.wf) (f p lat val) : Canonical (lanePred f p lat val s) :=
  issue_canonical (fun _ _ _ h => passing_canonical (fun _ _ _ h => by simpa using h) h _ _) hs

/-! ## Machine/FloatOps.lean -/

theorem fltOp_canonical {s : State} (hs : s.mem.wf) (h d a b two flags lat f) :
    Canonical (fltOp h d a b two flags lat f s) := by
  unfold fltOp
  exact laneReg_canonical hs _ _ _ _

theorem fcmpOp_canonical {s : State} (hs : s.mem.wf) (h cond p a b) : Canonical (fcmpOp h cond p a b s) := by
  unfold fcmpOp
  exact lanePred_canonical hs _ _ _ _

theorem transOp_canonical {s : State} (hs : s.mem.wf) (op h d a) : Canonical (transOp op h d a s) := by
  unfold transOp
  exact laneReg_canonical hs ..

/-! ## Machine/Access.lean -/

@[simp] theorem setPub_mem (s : State) (p e) : (setPub s p e).mem = s.mem := rfl

@[simp] theorem sampleVersion_mem (s : State) (die core o rec writer) :
    (sampleVersion s die core o rec writer).1.mem = s.mem := by
  grind [sampleVersion, acquire_mem, setPub_mem]

@[simp] theorem abandonReqs_mem (s : State) (o) : (abandonReqs s o).mem = s.mem := rfl

@[simp] theorem addOp_mem (s : State) (op) : (addOp s op).2.mem = s.mem := rfl

@[simp] theorem holdFor_mem (s : State) (k sl o) : (holdFor s k sl o).mem = s.mem := by
  simp [holdFor]

theorem placePage_wf {s : State} (hs : s.mem.wf) (u acc pg va) : (placePage s u acc pg va).1.mem.wf := by
  grind [placePage, translate_wf]

theorem placeAddrs_wf {s : State} (hs : s.mem.wf) (u acc pg l) : (placeAddrs s u acc pg l).1.mem.wf := by
  induction l generalizing s pg with
  | nil => exact hs
  | cons va r ih => grind [placeAddrs, placePage_wf]

@[simp] theorem peekPage_mem (s : State) (u pg va) : (peekPage s u pg va).1.mem = s.mem := by
  grind [peekPage, findTrans_mem]

theorem usePage_wf {s : State} (hs : s.mem.wf) (u pg t) : (usePage s u pg t).1.mem.wf := by
  unfold usePage
  split
  · exact hs
  · exact useTrans_wf hs ..

theorem placeScaled_wf {s : State} (hs : s.mem.wf) (u pg fmt start count va) :
    (placeScaled s u pg fmt start count va).1.mem.wf := by
  grind [placeScaled, placeAddrs_wf]

theorem placeCodes_wf {s : State} (hs : s.mem.wf) (u ty n pg e) : (placeCodes s u ty n pg e).1.mem.wf := by
  unfold placeCodes
  split
  · exact hs
  · exact placeScaled_wf hs ..

theorem placeBytes_wf {s : State} (hs : s.mem.wf) (u acc ty z n pg e) : (placeBytes s u acc ty z n pg e).1.mem.wf := by
  grind [placeBytes, placePage_wf, placeAddrs_wf, placeScaled_wf, placeCodes_wf]

theorem placeElem_wf {s : State} (hs : s.mem.wf) (u acc ty z n pg e) : (placeElem s u acc ty z n pg e).1.mem.wf := by
  grind [placeElem, peekPage_mem, usePage_wf, placeCodes_wf, placeBytes_wf]

theorem placeElems_wf {s : State} (hs : s.mem.wf) (u acc ty z n pg l) : (placeElems s u acc ty z n pg l).1.mem.wf := by
  induction l generalizing s pg with
  | nil => exact hs
  | cons e r ih => grind [placeElems, placeElem_wf]

theorem placeOp_wf {s : State} (hs : s.mem.wf) (op) : (placeOp s op).1.mem.wf := by
  grind [placeOp, placeElems_wf]

@[simp] theorem dropLog_mem (s : State) (k o) : (dropLog s k o).mem = s.mem := rfl

theorem lateTrap_wf {s : State} (hs : s.mem.wf) (k o sl cause v) : (lateTrap s k o sl cause v).mem.wf :=
  updateWarp_wf hs ..

theorem formatTrap_wf {s : State} (hs : s.mem.wf) (k o sl va) : (formatTrap s k o sl va).mem.wf :=
  lateTrap_wf hs ..

theorem opRecord_wf {s : State} (hs : s.mem.wf) (o op kind entry va resume lanes behind) :
    (opRecord s o op kind entry va resume lanes behind).mem.wf :=
  postFor_wf hs ..

theorem postAddressErrors_wf {s : State} (hs : s.mem.wf) (o op kind l) : (postAddressErrors s o op kind l).mem.wf := by
  unfold postAddressErrors
  split
  · exact hs
  · exact opRecord_wf hs ..

@[simp] theorem sendReq_mem (s : State) (r) : (sendReq s r).mem = s.mem := rfl

@[simp] theorem sendStores_mem (s : State) (o op ok) : (sendStores s o op ok).mem = s.mem :=
  foldl_mem (fun _ _ => sendReq_mem ..) ..

@[simp] theorem gotLine_mem (s : State) (o pa b) : (gotLine s o pa b).mem = s.mem := rfl

@[simp] theorem noteLoaded_mem (s : State) (o op pa) : (noteLoaded s o op pa).mem = s.mem := by
  unfold noteLoaded
  split <;> simp

@[simp] theorem sendLoads_mem (s : State) (o op ls) : (sendLoads s o op ls).mem = s.mem := by
  grind [sendLoads, draw_mem, sendReq_mem, gotLine_mem, noteLoaded_mem, foldl_mem]

/-! ## Machine/Sequencer.lean -/

theorem flow_canonical {s : State} (hs : s.mem.wf) (k sl f) : (flow s k sl f).Canonical := by
  grind [flow, modSlice_mem, foldl_wf, Eff.Canonical]

theorem execNop_canonical {s : State} (hs : s.mem.wf) : Canonical (execNop s) := by
  unfold execNop
  refine issue_canonical (fun s k sl hs => ?_) hs
  grind [passing_canonical]

theorem execBra_canonical {s : State} (hs : s.mem.wf) (o) : Canonical (execBra o s) :=
  issue_canonical (fun _ _ _ hs => flow_canonical hs ..) hs

theorem execBrc_canonical {s : State} (hs : s.mem.wf) (o) : Canonical (execBrc o s) := by
  unfold execBrc
  refine issue_canonical (fun s k sl hs => ?_) hs
  dsimp only
  split
  · trivial
  · exact flow_canonical hs ..

theorem indirect_canonical {s : State} (hs : s.mem.wf) (call h a) : Canonical (indirect call h a s) := by
  unfold indirect
  refine issue_canonical (fun s k sl hs => ?_) hs
  grind [flow_canonical, Eff.Canonical]

theorem execCall_canonical {s : State} (hs : s.mem.wf) (o) : Canonical (execCall o s) := by
  unfold execCall
  refine issue_canonical (fun s k sl hs => ?_) hs
  split
  · trivial
  · exact flow_canonical hs ..

theorem execMark_canonical {s : State} (hs : s.mem.wf) (o) : Canonical (execMark o s) := by
  unfold execMark
  refine issue_canonical (fun s k sl hs => ?_) hs
  split
  · trivial
  · exact flow_canonical hs ..

@[simp] theorem setBarrier_mem (s : State) (w key b) : (setBarrier s w key b).mem = s.mem := by
  unfold setBarrier
  split <;> simp

theorem endPhase_wf {s : State} (hs : s.mem.wf) (w key b) : (endPhase s w key b).mem.wf := by
  grind [endPhase, updateWarp_wf, acquireWarp_mem, setBarrier_mem, foldl_wf]

theorem arriveAt_wf {s : State} (hs : s.mem.wf) (k key count) : (arriveAt s k key count).mem.wf := by
  unfold arriveAt
  dsimp only
  split
  · exact endPhase_wf (by simpa using hs) ..
  · simpa using hs

theorem barrierEff_canonical {s : State} (hs : s.mem.wf) (waits key count k sl) :
    (barrierEff waits key count s k sl).Canonical := by
  grind [barrierEff, modWarp_mem, modGang_mem, arriveAt_wf, Eff.Canonical]

theorem lateArrival_wf {s : State} (hs : s.mem.wf) (k key) : (lateArrival s k key).mem.wf := by
  grind [lateArrival, modGang_mem, trapGang_wf, arriveAt_wf]

theorem execBar_canonical {s : State} (hs : s.mem.wf) (c n i) : Canonical (execBar c n i s) :=
  issue_canonical (fun _ _ _ hs => barrierEff_canonical hs ..) hs

theorem execBara_canonical {s : State} (hs : s.mem.wf) (c n i) : Canonical (execBara c n i s) :=
  issue_canonical (fun _ _ _ hs => barrierEff_canonical hs ..) hs

theorem execBarReg_canonical {s : State} (hs : s.mem.wf) (h a c n) : Canonical (execBarReg h a c n s) :=
  issue_canonical (fun _ _ _ hs => barrierEff_canonical hs ..) hs

theorem execBaraReg_canonical {s : State} (hs : s.mem.wf) (h a c n) : Canonical (execBaraReg h a c n s) :=
  issue_canonical (fun _ _ _ hs => barrierEff_canonical hs ..) hs

theorem tryRend_wf {s : State} (hs : s.mem.wf) (g r k sl) : (tryRend s g r k sl).2.mem.wf := by
  grind [tryRend, updateWarp_wf, askCore_mem, foldl_wf]

theorem execRend_canonical {s : State} (hs : s.mem.wf) (n) : Canonical (execRend n s) := by
  unfold execRend
  refine issue_canonical (fun s k sl hs => ?_) hs
  grind [modWarp_mem, modGang_mem, tryRend_wf, Eff.Canonical]

theorem execDonate_canonical {s : State} (hs : s.mem.wf) (h a n) : Canonical (execDonate h a n s) := by
  unfold execDonate
  refine issue_canonical (fun s k sl hs => ?_) hs
  grind [modWarp_mem, passing_canonical, Eff.Canonical]

theorem settleEnds_wf {s : State} (hs : s.mem.wf) (k) : (settleEnds s k).mem.wf := by
  grind [settleEnds, modWarp_mem, reap_mem, lateArrival_wf, foldl_wf]

theorem execExit_canonical {s : State} (hs : s.mem.wf) : Canonical (execExit s) := by
  unfold execExit
  refine issue_canonical (fun s k sl hs => ?_) hs
  grind [modWarp_mem, modSlice_mem, settleEnds_wf, foldl_wf, Eff.Canonical]

theorem popping_canonical {s : State} (hs : s.mem.wf) (joins pop k sl) : (popping joins pop s k sl).Canonical := by
  grind [popping, modSlice_mem, reconverge_mem, settleEnds_wf, foldl_wf, Eff.Canonical]

theorem execJoin_canonical {s : State} (hs : s.mem.wf) : Canonical (execJoin s) :=
  issue_canonical (fun _ _ _ hs => popping_canonical hs ..) hs

theorem execRet_canonical {s : State} (hs : s.mem.wf) : Canonical (execRet s) :=
  issue_canonical (fun _ _ _ hs => popping_canonical hs ..) hs

theorem execRegang_canonical {s : State} (hs : s.mem.wf) : Canonical (execRegang s) := by
  unfold execRegang
  refine issue_canonical (fun s k sl hs => ?_) hs
  grind [modWarp_mem, modGang_mem, reconverge_mem, Eff.Canonical]

theorem execMode_canonical {s : State} (hs : s.mem.wf) (h a) : Canonical (execMode h a s) :=
  issue_canonical (fun _ _ _ hs => flow_canonical hs ..) hs

theorem execModei_canonical {s : State} (hs : s.mem.wf) (v f) : Canonical (execModei v f s) :=
  issue_canonical (fun _ _ _ hs => flow_canonical hs ..) hs

theorem setWindow_canonical {s : State} (hs : s.mem.wf) (k sl v) : (setWindow s k sl v).Canonical := by
  grind [setWindow, modWarp_mem, passing_canonical, Eff.Canonical]

theorem execWin_canonical {s : State} (hs : s.mem.wf) (h a) : Canonical (execWin h a s) :=
  issue_canonical (fun _ _ _ hs => setWindow_canonical hs ..) hs

theorem execWini_canonical {s : State} (hs : s.mem.wf) (i) : Canonical (execWini i s) :=
  issue_canonical (fun _ _ _ hs => setWindow_canonical hs ..) hs

@[simp] theorem writeLanes_mem (s : State) (k sl d lat fl v) : (writeLanes s k sl d lat fl v).mem = s.mem := rfl

theorem execRds_canonical {s : State} (hs : s.mem.wf) (d sel) : Canonical (execRds d sel s) := by
  unfold execRds
  refine issue_canonical (fun s k sl hs => ?_) hs
  grind [passing_canonical, writeLanes_mem]

theorem execRdsClockLo_canonical {s : State} (hs : s.mem.wf) (d) : Canonical (execRdsClockLo d s) := by
  unfold execRdsClockLo
  refine issue_canonical (fun s k sl hs => ?_) hs
  grind [modGang_mem, passing_canonical, writeLanes_mem]

@[simp] theorem writeSpecial_mem (s : State) (sel f k sl) : (writeSpecial sel f s k sl).mem = s.mem := by
  unfold writeSpecial
  split
  · rfl
  all_goals exact foldl_mem (fun _ _ => modSlice_mem ..) ..

theorem execWrs_canonical {s : State} (hs : s.mem.wf) (d sel) : Canonical (execWrs d sel s) := by
  unfold execWrs
  refine issue_canonical (fun s k sl hs => ?_) hs
  grind [passing_canonical, writeSpecial_mem]

theorem execWrsWin_canonical {s : State} (hs : s.mem.wf) (d) : Canonical (execWrsWin d s) :=
  issue_canonical (fun _ _ _ hs => setWindow_canonical hs ..) hs

theorem execWrsFlags_canonical {s : State} (hs : s.mem.wf) (d) : Canonical (execWrsFlags d s) := by
  unfold execWrsFlags
  refine issue_canonical (fun s k sl hs => ?_) hs
  grind [modWarp_mem, passing_canonical]

theorem execWrsSrseed_canonical {s : State} (hs : s.mem.wf) (d) : Canonical (execWrsSrseed d s) := by
  unfold execWrsSrseed
  refine issue_canonical (fun s k sl hs => ?_) hs
  grind [modWarp_mem, passing_canonical]

theorem finishRoot_wf {s : State} (hs : s.mem.wf) (k im u) : (finishRoot s k im u).mem.wf :=
  settleEnds_wf (by simpa using hs) ..

theorem rootFreeze.write_canonical {s : State} (hs : s.mem.wf) (k sl w im u addr from') :
    (rootFreeze.write k sl w im u addr from' s).Canonical := by
  grind [rootFreeze.write, newId_mem, postRecord_wf, vwrite_wf, finishRoot_wf, Eff.Canonical]

theorem rootFreeze_canonical {s : State} (hs : s.mem.wf) (k sl) : (rootFreeze s k sl).Canonical := by
  grind [rootFreeze, endOp_mem, rootFreeze.write_canonical, Eff.Canonical]

theorem nestedFreeze_canonical {s : State} (hs : s.mem.wf) (k sl lvl) : (nestedFreeze s k sl lvl).Canonical := by
  grind [nestedFreeze, modWarp_mem, modCore_mem, modGroup_mem, modCohort_mem, newId_mem, trimImages_mem,
    passing_canonical, foldl_wf, Eff.Canonical]

theorem execFreeze_canonical {s : State} (hs : s.mem.wf) (l) : Canonical (execFreeze l s) := by
  unfold execFreeze
  refine issue_canonical (fun s k sl hs => ?_) hs
  grind [modWarp_mem, rootFreeze_canonical, nestedFreeze_canonical, Eff.Canonical]

theorem growEff_canonical {s : State} (hs : s.mem.wf) (n k sl) : (growEff n s k sl).Canonical := by
  grind [growEff, modWarp_mem, askGranules_mem, passing_canonical, Eff.Canonical]

theorem shrinkEff_canonical {s : State} (hs : s.mem.wf) (n k sl) : (shrinkEff n s k sl).Canonical := by
  grind [shrinkEff, modWarp_mem, passing_canonical, Eff.Canonical]

theorem execGrow_canonical {s : State} (hs : s.mem.wf) (i) : Canonical (execGrow i s) :=
  issue_canonical (fun _ _ _ hs => growEff_canonical hs ..) hs

theorem execShrink_canonical {s : State} (hs : s.mem.wf) (i) : Canonical (execShrink i s) :=
  issue_canonical (fun _ _ _ hs => shrinkEff_canonical hs ..) hs

theorem amountEff_canonical {eff : Nat → State → Nat → BitVec 8 → Eff}
    (heff : ∀ n s k sl, s.mem.wf → (eff n s k sl).Canonical) {s : State} (hs : s.mem.wf) (f k sl) :
    (amountEff f eff s k sl).Canonical := by
  grind [amountEff, Eff.Canonical]

theorem execGrowReg_canonical {s : State} (hs : s.mem.wf) (h a) : Canonical (execGrowReg h a s) := by
  unfold execGrowReg
  refine issue_canonical (fun s k sl hs => ?_) hs
  grind [growEff_canonical, amountEff_canonical]

theorem execShrinkReg_canonical {s : State} (hs : s.mem.wf) (h a) : Canonical (execShrinkReg h a s) := by
  unfold execShrinkReg
  refine issue_canonical (fun s k sl hs => ?_) hs
  grind [shrinkEff_canonical, amountEff_canonical]

theorem execWaitc_canonical {s : State} (hs : s.mem.wf) (h a p) : Canonical (execWaitc h a p s) := by
  unfold execWaitc
  refine issue_canonical (fun s k sl hs => ?_) hs
  grind [passing_canonical, Eff.Canonical]

theorem execWaitp_canonical {s : State} (hs : s.mem.wf) (h a p) : Canonical (execWaitp h a p s) := by
  unfold execWaitp
  refine issue_canonical (fun s k sl hs => ?_) hs
  grind [acquireWarp_mem, passing_canonical, Eff.Canonical]

theorem execYield_canonical {s : State} (hs : s.mem.wf) : Canonical (execYield s) := by
  unfold execYield
  refine issue_canonical (fun s k sl hs => ?_) hs
  grind [draw_mem, modWarp_mem, passing_canonical]

theorem execSleep_canonical {s : State} (hs : s.mem.wf) (i) : Canonical (execSleep i s) := by
  unfold execSleep
  refine issue_canonical (fun s k sl hs => ?_) hs
  grind [modWarp_mem, modGang_mem, passing_canonical, Eff.Canonical]

theorem execSleepExpiry_canonical {s : State} (hs : s.mem.wf) : Canonical (execSleepExpiry s) := by
  grind [execSleepExpiry, modWarp_mem, updateWarp_wf, makeRestorable_mem, Canonical]

theorem execTrap_canonical {s : State} (hs : s.mem.wf) (i) : Canonical (execTrap i s) := by
  unfold execTrap
  refine issue_canonical (fun s k sl hs => ?_) hs
  trivial

theorem execEret_canonical {s : State} (hs : s.mem.wf) : Canonical (execEret s) := by
  unfold execEret
  refine issue_canonical (fun s k sl hs => ?_) hs
  dsimp only
  split
  · trivial
  · exact settleEnds_wf (by simpa using hs) ..

theorem execResultQueueWrite_canonical {s : State} (hs : s.mem.wf) : Canonical (execResultQueueWrite s) := hs

theorem execLatchExpiry_canonical {s : State} (hs : s.mem.wf) : Canonical (execLatchExpiry s) := hs

theorem execFormatTrapEntry_canonical {s : State} (hs : s.mem.wf) : Canonical (execFormatTrapEntry s) := by
  grind [execFormatTrapEntry, modWarp_mem, modGang_mem, drainGang_mem, stampIssue_mem, Canonical]

theorem execRegisterStarvation_canonical {s : State} (hs : s.mem.wf) : Canonical (execRegisterStarvation s) := by
  grind [execRegisterStarvation, modWarp_mem, modCore_mem, postRecord_wf, dropGrants_mem, trapSlices_wf, foldl_wf,
    Canonical]

theorem fetchFault_wf {s : State} (hs : s.mem.wf) (k sl kind) : (fetchFault s k sl kind).mem.wf := by
  unfold fetchFault
  dsimp only
  split
  · simpa using hs
  · exact postRecord_wf (by simpa using hs) ..

theorem execInstructionFetch_canonical {s : State} (hs : s.mem.wf) : Canonical (execInstructionFetch s) := by
  grind [execInstructionFetch, physBytes_mem, translate_wf, fetchFault_wf, Canonical]

/-! ## Machine/Memory.lean -/

@[simp] theorem pushWarpWrite_mem (s : State) (k sl what lat) : (pushWarpWrite s k sl what lat).mem = s.mem := rfl

theorem execBrec_canonical {s : State} (hs : s.mem.wf) (h r a) : Canonical (execBrec h r a s) := by
  unfold execBrec
  refine issue_canonical (fun s k sl hs => ?_) hs
  grind [passing_canonical, pushWarpWrite_mem]

theorem throughRecord_canonical {go : State → Nat → BitVec 8 → Eff} (hgo : ∀ s k sl, s.mem.wf → (go s k sl).Canonical)
    {s : State} (hs : s.mem.wf) (r k sl) : (throughRecord r go s k sl).Canonical := by
  grind [throughRecord, Eff.Canonical]

@[simp] theorem startAccess_mem (s : State) (f ix lanes k sl) : (startAccess f ix lanes s k sl).mem = s.mem := by
  grind [startAccess, modWarp_mem, newId_mem, raiseCounter_mem, markPending_mem, sampleVersion_mem]

theorem globalLoad_canonical {s : State} (hs : s.mem.wf) (kind n h d r ix) :
    Canonical (globalLoad kind n h d r ix s) := by
  unfold globalLoad
  refine issue_canonical (fun s k sl hs => ?_) hs
  grind [passing_canonical, throughRecord_canonical, startAccess_mem]

theorem globalStore_canonical {s : State} (hs : s.mem.wf) (kind n h d r ix) :
    Canonical (globalStore kind n h d r ix s) := by
  unfold globalStore
  refine issue_canonical (fun s k sl hs => ?_) hs
  grind [passing_canonical, throughRecord_canonical, startAccess_mem, Eff.Canonical]

theorem execCbld_canonical {s : State} (hs : s.mem.wf) (c r i) : Canonical (execCbld c r i s) := by
  unfold execCbld
  refine issue_canonical (fun s k sl hs => ?_) hs
  grind [modWarp_mem, newId_mem, raiseCounter_mem, passing_canonical, sampleVersion_mem, throughRecord_canonical]

theorem prefetch_canonical {s : State} (hs : s.mem.wf) (h r ix) : Canonical (prefetch h r ix s) := by
  unfold prefetch
  refine issue_canonical (fun s k sl hs => ?_) hs
  grind [passing_canonical, addOp_mem, throughRecord_canonical]

theorem markFault_wf {s : State} (hs : s.mem.wf) (k o lanes) : (markFault s k o lanes).mem.wf :=
  updateWarp_wf (by simpa using hs) ..

theorem translateLogged_wf {s : State} (hs : s.mem.wf) (o k op) : (translateLogged s o k op).mem.wf := by
  grind [translateLogged, placeOp_wf, dropLog_mem, formatTrap_wf, opRecord_wf, postAddressErrors_wf, sendStores_mem,
    sendLoads_mem, markFault_wf]

theorem translatePrefetch_wf {s : State} (hs : s.mem.wf) (o op) : (translatePrefetch s o op).mem.wf := by
  grind [translatePrefetch, placeOp_wf, sendReq_mem, foldl_wf]

theorem replayLogged_wf {s : State} (hs : s.mem.wf) (o k op) : (replayLogged s o k op).mem.wf := by
  grind [replayLogged, unsample_mem, sampleVersion_mem, abandonReqs_mem]

theorem abortLogged_wf {s : State} (hs : s.mem.wf) (o k) : (abortLogged s o k).mem.wf :=
  updateWarp_wf (by simpa using hs) ..

@[simp] theorem writeLoaded_mem (s : State) (o k op) : (writeLoaded s o k op).mem = s.mem := rfl

@[simp] theorem writeCodebook_mem (s : State) (o k op) : (writeCodebook s o k op).mem = s.mem := rfl

theorem execLoadReturn_canonical {s : State} (hs : s.mem.wf) : Canonical (execLoadReturn s) := by
  grind [execLoadReturn, lower_mem, endOp_mem, acquireWarp_mem, unsample_mem, writeLoaded_mem, writeCodebook_mem,
    Canonical]

theorem execStoreAcknowledgement_canonical {s : State} (hs : s.mem.wf) : Canonical (execStoreAcknowledgement s) := by
  grind [execStoreAcknowledgement, lower_mem, endOp_mem, unsample_mem, landFlags_mem, Canonical]

@[simp] theorem modStore_mem (s : State) (c f) : (modStore s c f).mem = s.mem := rfl

@[simp] theorem boExpect_mem (s : State) (c a n) : (boExpect s c a n).mem = s.mem := rfl

@[simp] theorem boArrived_mem (s : State) (c a n) : (boArrived s c a n).mem = s.mem := rfl

@[simp] theorem boCount_mem (s : State) (c a n) : (boCount s c a n).mem = s.mem := rfl

@[simp] theorem startCluster_mem (s : State) (kind d addr z data k sl) :
    (startCluster kind d addr z data s k sl).mem = s.mem := rfl

theorem clusterLoad_canonical {s : State} (hs : s.mem.wf) (kind h d a i) : Canonical (clusterLoad kind h d a i s) := by
  unfold clusterLoad
  refine issue_canonical (fun s k sl hs => ?_) hs
  grind [markPending_mem, passing_canonical, startCluster_mem]

theorem clusterStore_canonical {s : State} (hs : s.mem.wf) (kind h d a i) :
    Canonical (clusterStore kind h d a i s) := by
  unfold clusterStore
  refine issue_canonical (fun s k sl hs => ?_) hs
  grind [passing_canonical, startCluster_mem, Eff.Canonical]

theorem execArrive_canonical {s : State} (hs : s.mem.wf) (h a n) : Canonical (execArrive h a n s) := by
  unfold execArrive
  refine issue_canonical (fun s k sl hs => ?_) hs
  grind [raiseCounter_mem, passing_canonical, addOp_mem, Eff.Canonical]

@[simp] theorem writeTarget_mem (s : State) (o op b x) : (writeTarget s o op b x).mem = s.mem := by
  cases x <;> simp [writeTarget]

@[simp] theorem readyTarget_mem (s : State) (write x) : (readyTarget s write x).2.mem = s.mem := by
  cases x <;> grind [readyTarget, privatise_mem, askCore_mem]

@[simp] theorem readyElems_mem (s : State) (o op write) : (readyElems s o op write).2.mem = s.mem := by
  unfold readyElems
  exact foldl_keep (fun acc : List Nat × State => acc.2.mem) _ (fun acc e => by grind [readyTarget_mem]) _ _

@[simp] theorem finishElem_mem (s : State) (o e reached v) : (finishElem s o e reached v).mem = s.mem := rfl

@[simp] theorem performCluster_mem (s : State) (o op write e) : (performCluster s o op write e).mem = s.mem := by
  grind [performCluster, writeTarget_mem, finishElem_mem]

theorem endCluster_wf {s : State} (hs : s.mem.wf) (o k) : (endCluster s o k).mem.wf := by
  grind [endCluster, modWarp_mem, lower_mem, endOp_mem, acquireWarp_mem, landFlags_mem, postAddressErrors_wf]

theorem performArrive_wf {s : State} (hs : s.mem.wf) (o k op) : (performArrive s o k op).mem.wf := by
  grind [performArrive, lower_mem, endOp_mem, opRecord_wf, boCount_mem]

@[simp] theorem speculate_mem (s : State) (k sl scope) : (speculate s k sl scope).mem = s.mem := rfl

theorem execFence_canonical {s : State} (hs : s.mem.wf) (m sc) : Canonical (execFence m sc s) := by
  unfold execFence
  refine issue_canonical (fun s k sl hs => ?_) hs
  grind [acquireWarp_mem, passing_canonical, speculate_mem, Eff.Canonical]

theorem publishEff_canonical {s : State} (hs : s.mem.wf) (r target k sl) : (publishEff r target s k sl).Canonical := by
  grind [publishEff, raiseCounter_mem, passing_canonical, setPub_mem, addOp_mem, Eff.Canonical]

theorem execPublish_canonical {s : State} (hs : s.mem.wf) (r) : Canonical (execPublish r s) :=
  issue_canonical (fun _ _ _ hs => publishEff_canonical hs ..) hs

theorem execPublishVf_canonical {s : State} (hs : s.mem.wf) (h a r) : Canonical (execPublishVf h a r s) :=
  issue_canonical (fun _ _ _ hs => publishEff_canonical hs ..) hs

@[simp] theorem endPublish_mem (s : State) (o) : (endPublish s o).mem = s.mem := by
  unfold endPublish
  split <;> simp

theorem execPublishPerform_canonical {s : State} (hs : s.mem.wf) : Canonical (execPublishPerform s) := by
  grind [execPublishPerform, setPub_mem, endPublish_mem, Canonical]

@[simp] theorem countPublish_mem (s : State) (p) : (countPublish s p).mem = s.mem := rfl

theorem execVersionFenceArm_canonical {s : State} (hs : s.mem.wf) : Canonical (execVersionFenceArm s) := by
  grind [execVersionFenceArm, setPub_mem, endPublish_mem, Canonical]

/-! ## Machine/Remote.lean -/

@[simp] theorem modPort_mem (s : State) (p f) : (modPort s p f).mem = s.mem := rfl

@[simp] theorem sendControl_mem (s : State) (p type seq) : (sendControl s p type seq).mem = s.mem := rfl

@[simp] theorem owe_mem (s : State) (p m) : (owe s p m).mem = s.mem := by
  unfold owe
  dsimp only
  split
  · simp
  · rfl

@[simp] theorem flushPort_mem (n) (s : State) (p) : (flushPort n s p).mem = s.mem := by
  induction n generalizing s with
  | zero => rfl
  | succ n ih => grind [flushPort, modPort_mem]

@[simp] theorem pumpPort_mem (n) (s : State) (p) : (pumpPort n s p).mem = s.mem := by
  induction n generalizing s with
  | zero => rfl
  | succ n ih => grind [pumpPort, flushPort_mem, modPort_mem]

@[simp] theorem pumpPorts_mem (s : State) : (pumpPorts s).mem = s.mem :=
  foldl_mem (fun _ _ => pumpPort_mem ..) ..

@[simp] theorem sendOn_mem (s : State) (p m) : (sendOn s p m).mem = s.mem := by
  simp [sendOn]

@[simp] theorem sendMessage_mem (s : State) (die m) : (sendMessage s die m).mem = s.mem := by
  unfold sendMessage
  split
  · split
    · rfl
    · simp
  · rfl

@[simp] theorem sendRemote_mem (s : State) (id r) : (sendRemote s id r).mem = s.mem := by
  unfold sendRemote
  dsimp only
  split
  · rfl
  · split
    · rfl
    · simp

theorem postErrorFor_wf {s : State} (hs : s.mem.wf) (ctx die b) : (postErrorFor s ctx die b).mem.wf := by
  unfold postErrorFor
  dsimp only
  split
  · exact postRecord_wf (postError_wf hs ..) ..
  · exact postError_wf hs ..

theorem recordPoison_wf {s : State} (hs : s.mem.wf) (home line ctx p behind req) :
    (recordPoison s home line ctx p behind req).mem.wf :=
  postErrorFor_wf (by simpa using hs) ..

theorem holdPoisoned_wf {s : State} (hs : s.mem.wf) (id r p) : (holdPoisoned s id r p).mem.wf := by
  unfold holdPoisoned
  split
  · exact hs
  · exact recordPoison_wf hs ..

theorem holdUnit_wf {s : State} (hs : s.mem.wf) (c die line) : (holdUnit s c die line).mem.wf := by
  unfold holdUnit
  split
  · dsimp only
    split
    · exact hs
    · exact recordPoison_wf hs ..
  · exact hs

@[simp] theorem writeBack_mem (s : State) (pa) : (writeBack s pa).mem = s.mem := by
  unfold writeBack
  split <;> simp

@[simp] theorem replaceLine_mem (s : State) (home) : (replaceLine s home).mem = s.mem := by
  unfold replaceLine
  dsimp only
  split
  · rfl
  · split
    · simp
    · rfl

/-- A request at its home keeps the form if performing it does. -/
theorem serveReq_wf {f : State → Nat → Req → State} (hf : ∀ s id r, s.mem.wf → (f s id r).mem.wf) {s : State}
    (hs : s.mem.wf) (kinds id) : (serveReq kinds f s id).mem.wf := by
  grind [serveReq, sendRemote_mem, holdPoisoned_wf, replaceLine_mem]

theorem atHome_canonical {f : State → Nat → Req → State} (hf : ∀ s id r, s.mem.wf → (f s id r).mem.wf) {s : State}
    (hs : s.mem.wf) (kinds) : Canonical (atHome kinds f s) :=
  serveReq_wf hf hs _ _

@[simp] theorem doneReq_mem (s : State) (id) : (doneReq s id).mem = s.mem := rfl

@[simp] theorem reply_mem (s : State) (m kind arg data) : (reply s m kind arg data).mem = s.mem := by
  simp [reply]

/-! ## Machine/Engine.lean -/

theorem placeRanges_wf {s : State} (hs : s.mem.wf) (u acc pg l) : (placeRanges s u acc pg l).1.mem.wf := by
  induction l generalizing s pg with
  | nil => exact hs
  | cons p r ih => grind [placeRanges, placePage_wf, placeAddrs_wf]

@[simp] theorem engineReads_mem (s : State) (o op src ls) : (engineReads s o op src ls).mem = s.mem :=
  foldl_mem (fun _ _ => sendReq_mem ..) ..

@[simp] theorem engineWrites_mem (s : State) (o op src es) : (engineWrites s o op src es).mem = s.mem := by
  grind [engineWrites, sendReq_mem, foldl_mem]

/-! ## Machine/Home.lean -/

@[simp] theorem fillCache_mem (s : State) (c ctx pa filled b) : (fillCache s c ctx pa filled b).mem = s.mem := by
  unfold fillCache
  dsimp only
  split
  · rfl
  · rfl

@[simp] theorem fillLoaded_mem (s : State) (op line filled b) : (fillLoaded s op line filled b).mem = s.mem := by
  unfold fillLoaded
  dsimp only
  split
  · simp
  · rfl

@[simp] theorem addCopy_mem (s : State) (die line filled b) : (addCopy s die line filled b).mem = s.mem := by
  simp [addCopy]

@[simp] theorem dropOwn_mem (s : State) (op line) : (dropOwn s op line).mem = s.mem := by
  unfold dropOwn
  dsimp only
  split
  · rfl
  · rfl

@[simp] theorem loadedHome_mem (s : State) (r op b) : (loadedHome s r op b).mem = s.mem := by
  unfold loadedHome
  dsimp only
  split
  · simp
  · simp

theorem servedCopy_mem {s t : State} {r op} (e : servedCopy s r op = some t) : t.mem = s.mem := by
  grind [servedCopy, draw_mem, gotLine_mem, fillLoaded_mem, dropOwn_mem]

@[simp] theorem performLoad_mem (s : State) (id r) : (performLoad s id r).mem = s.mem := by
  unfold performLoad
  split
  · simp
  · cases e : servedCopy (doneReq s id) r (tget s.ops r.op default) with
    | none => simp [e]
    | some t => simp [e, servedCopy_mem e]

theorem servedRemote_mem {s t : State} {id r} (e : servedRemote s id r = some t) : t.mem = s.mem := by
  grind [servedRemote, doneReq_mem, servedCopy_mem]

@[simp] theorem hostLoad_mem (s : State) (pa) : (hostLoad s pa).mem = s.mem := by
  unfold hostLoad
  split <;> simp

theorem hostStore_wf {s : State} (hs : s.mem.wf) (pa b) : (hostStore s pa b).mem.wf := by
  unfold hostStore
  split
  · exact homeWrite_wf hs ..
  · exact hs

theorem execHomeLoad_canonical {s : State} (hs : s.mem.wf) : Canonical (execHomeLoad s) := by
  grind [execHomeLoad, atHome_canonical, performLoad_mem, servedRemote_mem, hostLoad_mem, Canonical]

@[simp] theorem updateOwnCopy_mem (s : State) (c line parts) : (updateOwnCopy s c line parts).mem = s.mem := by
  unfold updateOwnCopy
  split <;> simp

theorem performStore_wf {s : State} (hs : s.mem.wf) (id r) : (performStore s id r).mem.wf := by
  grind [performStore, homeWrite_wf, dropCopies_mem, doneReq_mem, reply_mem, updateOwnCopy_mem, foldl_wf]

theorem execHomeStore_canonical {s : State} (hs : s.mem.wf) : Canonical (execHomeStore s) := by
  grind [execHomeStore, atHome_canonical, hostStore_wf, performStore_wf, Canonical]

theorem execCopyInvalidation_canonical {s : State} (hs : s.mem.wf) : Canonical (execCopyInvalidation s) := by
  grind [execCopyInvalidation, modCore_mem, foldl_wf, Canonical]

theorem execCachedCopyExpiry_canonical {s : State} (hs : s.mem.wf) : Canonical (execCachedCopyExpiry s) := by
  unfold execCachedCopyExpiry
  dsimp only
  split
  · split
    · exact hs
    · exact hs
  · exact hs

theorem execLineWriteBack_canonical {s : State} (hs : s.mem.wf) : Canonical (execLineWriteBack s) := by
  grind [execLineWriteBack, writeBack_mem, Canonical]

@[simp] theorem startHeld_mem (s : State) (kind code r z dst lanes idx data k sl) :
    (startHeld kind code r z dst lanes idx data s k sl).mem = s.mem := by
  simp [startHeld]

theorem globalAtomic_canonical {s : State} (hs : s.mem.wf) (op z n out accepts h d a r) :
    Canonical (globalAtomic op z n out accepts h d a r s) := by
  unfold globalAtomic
  refine issue_canonical (fun s k sl hs => ?_) hs
  grind [throughRecord_canonical, startHeld_mem, Eff.Canonical]

theorem clusterAtomic_canonical {s : State} (hs : s.mem.wf) (op n out accepts h d a) :
    Canonical (clusterAtomic op n out accepts h d a s) := by
  unfold clusterAtomic
  refine issue_canonical (fun s k sl hs => ?_) hs
  grind [raiseCounter_mem, markPending_mem, passing_canonical, addOp_mem]

theorem execAtomp_canonical {s : State} (hs : s.mem.wf) (d r n) : Canonical (execAtomp d r n s) := by
  unfold execAtomp
  refine issue_canonical (fun s k sl hs => ?_) hs
  grind [throughRecord_canonical, startHeld_mem, Eff.Canonical]

theorem atomLanes_wf {s : State} (hs : s.mem.wf) (code except by' l) : (atomLanes code except by' s l).1.mem.wf := by
  induction l generalizing s with
  | nil => exact hs
  | cons p r ih => exact ih (homeWrite_wf hs _ _ _ _)

@[simp] theorem giveResults_mem (s : State) (o l) : (giveResults s o l).mem = s.mem := rfl

@[simp] theorem answerReq_mem (s : State) (id r l) : (answerReq s id r l).mem = s.mem := by
  unfold answerReq
  split <;> simp

theorem performCacheop_wf {s : State} (hs : s.mem.wf) (id r) : (performCacheop s id r).mem.wf := by
  grind [performCacheop, modHomeLine_mem, homeWrite_wf, writeBack_mem, answerReq_mem]

theorem performAtomic_wf {s : State} (hs : s.mem.wf) (id r) : (performAtomic s id r).mem.wf := by
  unfold performAtomic
  split
  · exact performCacheop_wf hs ..
  · simpa using atomLanes_wf hs ..

theorem execHomeAtomic_canonical {s : State} (hs : s.mem.wf) : Canonical (execHomeAtomic s) := by
  grind [execHomeAtomic, atHome_canonical, performAtomic_wf]

theorem routineLanes_wf {s : State} (hs : s.mem.wf) (code line by' l) : (routineLanes code line by' s l).1.mem.wf := by
  induction l generalizing s with
  | nil => exact hs
  | cons p r ih => exact ih (homeWrite_wf hs _ _ _ _)

theorem performRoutine_wf {s : State} (hs : s.mem.wf) (id r) : (performRoutine s id r).mem.wf := by
  unfold performRoutine
  simpa using routineLanes_wf hs ..

theorem execRoutineRun_canonical {s : State} (hs : s.mem.wf) : Canonical (execRoutineRun s) := by
  grind [execRoutineRun, atHome_canonical, performRoutine_wf]

@[simp] theorem wakeSaved_mem (s : State) (o) : (wakeSaved s o).mem = s.mem := by
  unfold wakeSaved
  split
  · split
    · rfl
    · rfl
  · rfl

@[simp] theorem satisfied_mem (s : State) (m) : (satisfied s m).mem = s.mem := by
  unfold satisfied
  split
  · rfl
  · split
    · simp
    · simp

@[simp] theorem checkLane_mem (s : State) (m) : (checkLane s m).mem = s.mem := by
  unfold checkLane
  split <;> simp

@[simp] theorem settleWaitm_mem (s : State) (o) : (settleWaitm s o).mem = s.mem := by
  grind [settleWaitm, letGo_mem, lower_mem, endOp_mem, acquireWarp_mem, landFlags_mem]

@[simp] theorem checkMonitors_mem (s : State) : (checkMonitors s).mem = s.mem := by
  grind [checkMonitors, reply_mem, satisfied_mem, settleWaitm_mem, foldl_mem]

theorem execWaitmGlobal_canonical {s : State} (hs : s.mem.wf) (h d a c r) :
    Canonical (execWaitmGlobal h d a c r s) := by
  unfold execWaitmGlobal
  refine issue_canonical (fun s k sl hs => ?_) hs
  grind [throughRecord_canonical, startHeld_mem, Eff.Canonical]

theorem execWaitmCluster_canonical {s : State} (hs : s.mem.wf) (h d a c) : Canonical (execWaitmCluster h d a c s) := by
  unfold execWaitmCluster
  refine issue_canonical (fun s k sl hs => ?_) hs
  grind [raiseCounter_mem, addOp_mem, holdFor_mem, postAddressErrors_wf, settleWaitm_mem, Eff.Canonical]

@[simp] theorem performMonitor_mem (s : State) (id r) : (performMonitor s id r).mem = s.mem := by
  grind [performMonitor, doneReq_mem, reply_mem, checkLane_mem, settleWaitm_mem, foldl_mem]

theorem execMonitorCheck_canonical {s : State} (hs : s.mem.wf) : Canonical (execMonitorCheck s) := by
  grind [execMonitorCheck, atHome_canonical, performMonitor_mem]

theorem execMonitorRetry_canonical {s : State} (hs : s.mem.wf) : Canonical (execMonitorRetry s) := by
  grind [execMonitorRetry, reply_mem, checkLane_mem, settleWaitm_mem, foldl_wf, Canonical]

theorem cacheop_canonical {s : State} (hs : s.mem.wf) (op d r) : Canonical (cacheop op d r s) := by
  unfold cacheop
  refine issue_canonical (fun s k sl hs => ?_) hs
  grind [throughRecord_canonical, startHeld_mem, Eff.Canonical]

theorem rangeReqs_wf {s : State} (hs : s.mem.wf) (o op l) : (rangeReqs s o op l).mem.wf := by
  induction l generalizing s op with
  | nil => exact hs
  | cons va r ih => grind [rangeReqs, translate_wf, sendReq_mem]

theorem cacheopRange_canonical {s : State} (hs : s.mem.wf) (op h a b) : Canonical (cacheopRange op h a b s) := by
  unfold cacheopRange
  refine issue_canonical (fun s k sl hs => ?_) hs
  grind [raiseCounter_mem, passing_canonical, addOp_mem, rangeReqs_wf, Eff.Canonical]

@[simp] theorem departHeld_mem (s : State) (o k op ok) : (departHeld s o k op ok).mem = s.mem := by
  grind [departHeld, markPending_mem, letGo_mem, sendReq_mem, settleWaitm_mem, foldl_mem]

theorem translateHeld_wf {s : State} (hs : s.mem.wf) (o k op) : (translateHeld s o k op).mem.wf := by
  grind [translateHeld, modWarp_mem, endOp_mem, unsample_mem, issueTrap_wf, placeOp_wf, formatTrap_wf, opRecord_wf,
    postAddressErrors_wf, departHeld_mem]

@[simp] theorem replayHeld_mem (s : State) (o op) : (replayHeld s o op).mem = s.mem := rfl

@[simp] theorem abortHeld_mem (s : State) (o) : (abortHeld s o).mem = s.mem := rfl

@[simp] theorem writeResults_mem (s : State) (o k op) : (writeResults s o k op).mem = s.mem := rfl

@[simp] theorem finishAtomic_mem (s : State) (o k op) : (finishAtomic s o k op).mem = s.mem := by
  simp [finishAtomic]

theorem execAtomicReturn_canonical {s : State} (hs : s.mem.wf) : Canonical (execAtomicReturn s) := by
  grind [execAtomicReturn, finishAtomic_mem, Canonical]

@[simp] theorem performAtomCluster_mem (s : State) (o op e) : (performAtomCluster s o op e).mem = s.mem := by
  unfold performAtomCluster
  dsimp only
  split
  · rfl
  · simp

@[simp] theorem performWaitCluster_mem (s : State) (o op e) : (performWaitCluster s o op e).mem = s.mem := by
  grind [performWaitCluster, finishElem_mem, checkLane_mem]

theorem execClusterSpaceAccess_canonical {s : State} (hs : s.mem.wf) : Canonical (execClusterSpaceAccess s) := by
  grind [execClusterSpaceAccess, postAddressErrors_wf, readyElems_mem, performCluster_mem, endCluster_wf,
    performArrive_wf, settleWaitm_mem, finishAtomic_mem, performAtomCluster_mem, performWaitCluster_mem, foldl_wf,
      Canonical]

/-! ## Machine/Copies.lean -/

@[simp] theorem startCopy_mem (s : State) (planes dir mark br p rec k sl) :
    (startCopy planes dir mark br p rec s k sl).mem = s.mem := by
  simp [startCopy]

theorem issueCopy_canonical {s : State} (hs : s.mem.wf) (planes d r t c) : Canonical (issueCopy planes d r t c s) := by
  unfold issueCopy
  refine issue_canonical (fun s k sl hs => ?_) hs
  grind [passing_canonical, throughRecord_canonical, startCopy_mem, Eff.Canonical]

theorem placePlane_wf {s : State} (hs : s.mem.wf) (op pg e) : (placePlane s op pg e).1.mem.wf := by
  unfold placePlane
  split
  · exact placeScaled_wf hs ..
  · exact placeScaled_wf hs ..

theorem planeGeometry_wf {s : State} (hs : s.mem.wf) (op pg k) : (planeGeometry s op pg k).1.mem.wf := by
  grind [planeGeometry, peekPage_mem, usePage_wf]

theorem placeCopy_wf {s : State} (hs : s.mem.wf) (op pg e) : (placeCopy s op pg e).1.mem.wf := by
  grind [placeCopy, placeElem_wf, placePlane_wf]

theorem placeRun_wf {s : State} (hs : s.mem.wf) (op pg l) : (placeRun op s pg l).1.mem.wf := by
  induction l generalizing s pg with
  | nil => exact hs
  | cons k r ih => grind [placeRun, planeGeometry_wf, placeCopy_wf]

theorem copyErrors_wf {s : State} (hs : s.mem.wf) (o op kind l) : (copyErrors s o op kind l).mem.wf := by
  unfold copyErrors
  split
  · exact hs
  · exact opRecord_wf hs ..

@[simp] theorem sendCopy_mem (s : State) (o op ok) : (sendCopy s o op ok).mem = s.mem := by
  grind [sendCopy, sendReq_mem, foldl_mem]

theorem translateCopy_wf {s : State} (hs : s.mem.wf) (o op) : (translateCopy s o op).mem.wf := by
  unfold translateCopy
  split
  · exact hs
  extract_lets from' t new op1 src s1 bad beyond s2 trapped s3 s4
  have h1 : s1.mem.wf := placeRun_wf hs _ _ _
  have h2 : s2.mem.wf := copyErrors_wf (copyErrors_wf h1 _ _ _ _) _ _ _ _
  have h3 : s3.mem.wf := by
    unfold s3
    split
    · exact formatTrap_wf h2 _ _ _ _
    · exact h2
  have h4 : s4.mem.wf := by simpa [s4] using h3
  split
  · exact h4
  · exact opRecord_wf h4 _ _ _ _ _ _ _ _

@[simp] theorem replayCopy_mem (s : State) (o op) : (replayCopy s o op).mem = s.mem := rfl

@[simp] theorem abortCopy_mem (s : State) (o op) : (abortCopy s o op).mem = s.mem := rfl

theorem lateFlags_wf {s : State} (hs : s.mem.wf) (k fl) : (lateFlags s k fl).mem.wf := by
  unfold lateFlags
  split
  · exact hs
  · exact updateWarp_wf hs ..

theorem copyFlags_wf {s : State} (hs : s.mem.wf) (op fl) : (copyFlags s op fl).mem.wf := by
  unfold copyFlags
  split
  · exact lateFlags_wf hs ..
  · exact hs

@[simp] theorem landBytes_mem (s : State) (o op total n) : (landBytes s o op total n).mem = s.mem := by
  unfold landBytes
  split
  · rfl
  · split
    · simp
    · simp

theorem landCopy_wf {s : State} (hs : s.mem.wf) (o op) : (landCopy s o op).mem.wf := by
  grind [landCopy, modStore_mem, copyFlags_wf, landBytes_mem]

theorem landPlanes_wf {s : State} (hs : s.mem.wf) (o op) : (landPlanes s o op).mem.wf := by
  unfold landPlanes
  split
  · exact hs
  · dsimp only
    split
    · simpa using hs
    · simpa using copyFlags_wf hs ..

theorem execCopyDataLanding_canonical {s : State} (hs : s.mem.wf) : Canonical (execCopyDataLanding s) := by
  unfold execCopyDataLanding
  dsimp only
  split
  · exact hs
  · split
    · exact landCopy_wf hs ..
    · exact landPlanes_wf hs ..
    · exact hs

@[simp] theorem reissueCopy_mem (s : State) (o) : (reissueCopy s o).mem = s.mem := rfl

/-! ## Machine/Hash.lean -/

@[simp] theorem modSlot_mem (s : State) (c i f) : (modSlot s c i f).mem = s.mem := rfl

@[simp] theorem modHead_mem (s : State) (c f) : (modHead s c f).mem = s.mem := rfl

@[simp] theorem acceptLook_mem (s : State) (c) : (acceptLook s c).mem = s.mem := by
  unfold acceptLook
  dsimp only
  split
  · rfl
  · simp

theorem hashCommand_canonical {s : State} (hs : s.mem.wf) (word d lanes check total rt rg bo) :
    Canonical (hashCommand word d lanes check total rt rg bo s) := by
  unfold hashCommand
  refine issue_canonical (fun s k sl hs => ?_) hs
  grind [passing_canonical, modCluster_mem, boExpect_mem, acceptLook_mem, Eff.Canonical]

theorem hlook_canonical {s : State} (hs : s.mem.wf) (word d f c size per) : Canonical (hlook word d f c size per s) :=
  hashCommand_canonical hs ..

@[simp] theorem hashServed_mem (s : State) (c fl) : (hashServed s c fl).mem = s.mem := by
  unfold hashServed
  split <;> simp

theorem hashTrap_wf {s : State} (hs : s.mem.wf) (c v) : (hashTrap s c v).mem.wf := by
  unfold hashTrap
  split
  · exact hs
  · simpa using lateTrap_wf hs ..

theorem execHashCommandCompletion_canonical {s : State} (hs : s.mem.wf) : Canonical (execHashCommandCompletion s) := by
  grind [execHashCommandCompletion, modCluster_mem, boArrived_mem, lateFlags_wf, Canonical]

theorem execHcfgPerform_canonical {s : State} (hs : s.mem.wf) : Canonical (execHcfgPerform s) := by
  grind [execHcfgPerform, modSlot_mem, hashServed_mem, hashTrap_wf, Canonical]

@[simp] theorem serveLook_mem (s : State) (c cmd sl) : (serveLook s c cmd sl).mem = s.mem := by
  unfold serveLook
  split <;> simp

theorem execHlookAccept_canonical {s : State} (hs : s.mem.wf) : Canonical (execHlookAccept s) := by
  grind [execHlookAccept, acceptLook_mem, hashServed_mem, hashTrap_wf, serveLook_mem, Canonical]

theorem hashRecord_wf {s : State} (hs : s.mem.wf) (c cmd kind va write resume) :
    (hashRecord s c cmd kind va write resume).mem.wf :=
  postRecord_wf hs ..

theorem hashFault_wf {s : State} (hs : s.mem.wf) (c cmd kind va write) : (hashFault s c cmd kind va write).mem.wf :=
  hashRecord_wf (by simpa using hs) ..

@[simp] theorem fillReplica_mem (s : State) (c cmd sl b) : (fillReplica s c cmd sl b).mem = s.mem := rfl

theorem tableLines_wf {s : State} (hs : s.mem.wf) (u pg l) : (tableLines u s pg l).1.mem.wf := by
  induction l generalizing s pg with
  | nil => exact hs
  | cons va r ih => grind [tableLines, placePage_wf]

theorem startRefill_wf {s : State} (hs : s.mem.wf) (c o cmd sl) : (startRefill s c o cmd sl).mem.wf := by
  grind [startRefill, abandonReqs_mem, engineReads_mem, modSlot_mem, hashTrap_wf, hashFault_wf, tableLines_wf]

theorem execReplicaRefill_canonical {s : State} (hs : s.mem.wf) : Canonical (execReplicaRefill s) := by
  grind [execReplicaRefill, sampleVersion_mem, modHead_mem, hashRecord_wf, hashFault_wf, fillReplica_mem,
    startRefill_wf, Canonical]

@[simp] theorem sendAdds_mem (s : State) (c o op l) : (sendAdds s c o op l).mem = s.mem :=
  foldl_mem (fun _ _ => sendReq_mem ..) ..

theorem scatter_wf {s : State} (hs : s.mem.wf) (c cmd sl) : (scatter s c cmd sl).mem.wf := by
  grind [scatter, addOp_mem, placeRanges_wf, modHead_mem, hashFault_wf, sendAdds_mem]

theorem execHgradScatter_canonical {s : State} (hs : s.mem.wf) : Canonical (execHgradScatter s) := by
  grind [execHgradScatter, hashServed_mem, hashTrap_wf, scatter_wf, Canonical]

@[simp] theorem hashReplay_mem (s : State) (c) : (hashReplay s c).mem = s.mem := rfl

@[simp] theorem hashAbort_mem (s : State) (c) : (hashAbort s c).mem = s.mem := by
  grind [hashAbort, modOp_mem, modHead_mem, hashServed_mem, fillReplica_mem, hashReplay_mem]

/-! ## Machine/AccessProc.lean -/

@[simp] theorem modUnit_mem (s : State) (c u f) : (modUnit s c u f).mem = s.mem := rfl

@[simp] theorem modApCtx_mem (s : State) (c u x f) : (modApCtx s c u x f).mem = s.mem := rfl

@[simp] theorem modQueue_mem (s : State) (c q f) : (modQueue s c q f).mem = s.mem := rfl

@[simp] theorem dmemPut_mem (s : State) (c u a n v) : (dmemPut s c u a n v).mem = s.mem := rfl

theorem apPost_wf {s : State} (hs : s.mem.wf) (c u x kind pc word val) : (apPost s c u x kind pc word val).mem.wf :=
  postRecord_wf hs ..

@[simp] theorem closeGroup_mem (s : State) (c q) : (closeGroup s c q).mem = s.mem := by
  unfold closeGroup
  split <;> simp

@[simp] theorem settleGroups_mem (s : State) (c) : (settleGroups s c).mem = s.mem := by
  unfold settleGroups
  dsimp only
  split
  · rfl
  · exact foldl_mem (fun _ _ => closeGroup_mem ..) ..

@[simp] theorem dropFetch_mem (s : State) (c u x) : (dropFetch s c u x).mem = s.mem := by
  unfold dropFetch
  split <;> simp

@[simp] theorem apIdle_mem (s : State) (c u x cause) : (apIdle s c u x cause).mem = s.mem := by
  simp [apIdle]

theorem apExceptAt_wf {s : State} (hs : s.mem.wf) (c u x kind pc word val) :
    (apExceptAt s c u x kind pc word val).mem.wf := by
  unfold apExceptAt
  simpa using apPost_wf hs ..

/-- An access-processor instruction keeps the form if its effect on the unit does. -/
theorem apRun_canonical {f : State → Nat → Nat → Nat → State} (hf : ∀ s c u x, s.mem.wf → (f s c u x).mem.wf)
    {s : State} (hs : s.mem.wf) : Canonical (apRun f s) := by
  grind [apRun, Canonical]

theorem apExcept_wf {s : State} (hs : s.mem.wf) (c u x kind val) : (apExcept s c u x kind val).mem.wf :=
  apExceptAt_wf hs ..

@[simp] theorem apDone_mem (s : State) (c u x rd v pc) : (apDone s c u x rd v pc).mem = s.mem := rfl

@[simp] theorem apNext_mem (s : State) (c u x) : (apNext s c u x).mem = s.mem := rfl

@[simp] theorem apBlock_mem (s : State) (c u x p) : (apBlock s c u x p).mem = s.mem := by
  simp [apBlock]

theorem apJump_wf {s : State} (hs : s.mem.wf) (c u x rd target) : (apJump s c u x rd target).mem.wf := by
  unfold apJump
  split
  · exact apExcept_wf hs ..
  · exact hs

theorem apLoad_wf {s : State} (hs : s.mem.wf) (c u x w) : (apLoad s c u x w).mem.wf := by
  grind [apLoad, apExcept_wf, apDone_mem]

theorem apStore_wf {s : State} (hs : s.mem.wf) (c u x w) : (apStore s c u x w).mem.wf := by
  unfold apStore
  split
  · exact apExcept_wf hs ..
  · dsimp only
    split
    · exact apExcept_wf hs ..
    · exact hs

@[simp] theorem apWait_mem (s : State) (c u x threshold) : (apWait s c u x threshold).mem = s.mem := by
  unfold apWait
  split <;> simp

theorem apBase_wf {s : State} (hs : s.mem.wf) (w c u x) : (apBase w s c u x).mem.wf := by
  grind [apBase, apExcept_wf, apDone_mem, apNext_mem, apJump_wf, apLoad_wf, apStore_wf, apWait_mem]

theorem execApBaseInstruction_canonical {s : State} (hs : s.mem.wf) (w) : Canonical (execApBaseInstruction w s) := by
  grind [execApBaseInstruction, apRun_canonical, apBase_wf]

theorem execApEnvironmentCall_canonical {s : State} (hs : s.mem.wf) (w) : Canonical (execApEnvironmentCall w s) := by
  grind [execApEnvironmentCall, apRun_canonical, apExcept_wf]

theorem execCtxYield_canonical {s : State} (hs : s.mem.wf) : Canonical (execCtxYield s) := by
  grind [execCtxYield, modApCtx_mem, apRun_canonical, apNext_mem]

theorem execCtxEnd_canonical {s : State} (hs : s.mem.wf) : Canonical (execCtxEnd s) := by
  grind [execCtxEnd, apIdle_mem, apRun_canonical, apNext_mem]

theorem execGWait_canonical {s : State} (hs : s.mem.wf) (a) : Canonical (execGWait a s) := by
  grind [execGWait, apRun_canonical, apWait_mem]

theorem execQPush_canonical {s : State} (hs : s.mem.wf) (b a) : Canonical (execQPush b a s) := by
  grind [execQPush, newId_mem, modQueue_mem, apRun_canonical, apExcept_wf, apNext_mem, apBlock_mem]

theorem execQPop_canonical {s : State} (hs : s.mem.wf) (b a) : Canonical (execQPop b a s) := by
  grind [execQPop, modUnit_mem, modQueue_mem, apRun_canonical, apExcept_wf, apNext_mem, apBlock_mem]

@[simp] theorem setStatus_mem (s : State) (c dst bit) : (setStatus s c dst bit).mem = s.mem := rfl

@[simp] theorem startApOp_mem (s : State) (c u x op br entry idx data) :
    (startApOp s c u x op br entry idx data).2.mem = s.mem := by
  simp [startApOp]

@[simp] theorem startGather_mem (s : State) (scatter p c u x) : (startGather scatter p s c u x).mem = s.mem := by
  grind [startGather, modQueue_mem, apNext_mem, apBlock_mem, startApOp_mem]

theorem issueGather_canonical {s : State} (hs : s.mem.wf) (scatter b a) : Canonical (issueGather scatter b a s) := by
  grind [issueGather, apRun_canonical, apExcept_wf, startGather_mem]

@[simp] theorem startBag_mem (s : State) (mean p c u x) : (startBag mean p s c u x).mem = s.mem := by
  grind [startBag, modQueue_mem, apNext_mem, apBlock_mem, startApOp_mem]

theorem issueBag_canonical {s : State} (hs : s.mem.wf) (mean a) : Canonical (issueBag mean a s) := by
  grind [issueBag, apRun_canonical, apExcept_wf, startBag_mem]

theorem apFault_wf {s : State} (hs : s.mem.wf) (o op kind va mask behind) :
    (apFault s o op kind va mask behind).mem.wf :=
  postFor_wf hs ..

theorem apPlace_wf {s : State} (hs : s.mem.wf) (op pg l) : (apPlace op s pg l).1.mem.wf := by
  induction l generalizing s pg with
  | nil => exact hs
  | cons e r ih => grind [apPlace, placeElem_wf]

theorem translateAp_wf {s : State} (hs : s.mem.wf) (o op) : (translateAp s o op).mem.wf := by
  unfold translateAp
  split
  · exact hs
  extract_lets c t new op1 src s1 s2 scaled s3 bad beyond report s4 ls s5
  have h1 : s1.mem.wf := apPlace_wf hs _ _ _
  have h2 : s2.mem.wf := by grind [setStatus_mem]
  have h3 : s3.mem.wf := foldl_wf (fun s e hs => apPost_wf (by simpa using hs) _ _ _ _ _ _ _) _ h2
  have hr : ∀ (s : State) kind l, s.mem.wf → (report s kind l).mem.wf := by grind [apFault_wf]
  have h4 : s4.mem.wf := hr _ _ _ (hr _ _ _ h3)
  have h5 : s5.mem.wf := by grind [sendReq_mem, engineReads_mem, foldl_wf]
  split
  · exact h5
  · exact apFault_wf h5 _ _ _ _ _ _

@[simp] theorem replayAp_mem (s : State) (o op) : (replayAp s o op).mem = s.mem := rfl

@[simp] theorem abortAp_mem (s : State) (o op) : (abortAp s o op).mem = s.mem := rfl

theorem execApOperationCompletion_canonical {s : State} (hs : s.mem.wf) : Canonical (execApOperationCompletion s) := by
  grind [execApOperationCompletion, endOp_mem, unsample_mem, modApCtx_mem, modQueue_mem, Canonical]

theorem rayDone_wf {s : State} (hs : s.mem.wf) (c u x rd pc n word r) : (rayDone s c u x rd pc n word r).mem.wf := by
  unfold rayDone
  split
  · exact apExceptAt_wf hs ..
  · exact hs

theorem startFetch_wf {s : State} (hs : s.mem.wf) (tri n rd c u x) : (startFetch tri n rd s c u x).mem.wf := by
  grind [startFetch, newId_mem, sampleVersion_mem, modApCtx_mem, apExcept_wf]

theorem execRtBox_canonical {s : State} (hs : s.mem.wf) (a d) : Canonical (execRtBox a d s) := by
  grind [execRtBox, apRun_canonical, rayDone_wf, startFetch_wf]

theorem execRtTri_canonical {s : State} (hs : s.mem.wf) (a d) : Canonical (execRtTri a d s) := by
  grind [execRtTri, apRun_canonical, startFetch_wf]

theorem translateFetch_wf {s : State} (hs : s.mem.wf) (o op) : (translateFetch s o op).mem.wf := by
  grind [translateFetch, modOp_mem, placeRanges_wf, engineReads_mem, apExceptAt_wf]

theorem execNodeFetchReturn_canonical {s : State} (hs : s.mem.wf) : Canonical (execNodeFetchReturn s) := by
  unfold execNodeFetchReturn
  dsimp only
  split
  · exact hs
  · split
    · exact hs
    · exact rayDone_wf (by simpa using hs) ..

theorem execContextPark_canonical {s : State} (hs : s.mem.wf) : Canonical (execContextPark s) := by
  grind [execContextPark, vwrite_wf, modApCtx_mem, apPost_wf, settleGroups_mem, dropFetch_mem, apFault_wf, Canonical]

theorem replayPark_wf {s : State} (hs : s.mem.wf) (cx die z x) : (replayPark s cx die z x).1.mem.wf := by
  grind [replayPark, vread_wf]

theorem apReplay_wf {s : State} (hs : s.mem.wf) (c u x) : (apReplay s c u x).mem.wf := by
  unfold apReplay
  simpa using replayPark_wf hs ..

@[simp] theorem apAbort_mem (s : State) (c u x) : (apAbort s c u x).mem = s.mem := by
  unfold apAbort
  split <;> simp

theorem resumeSaved_wf {s : State} (hs : s.mem.wf) (abort g u x) : (resumeSaved abort s g u x).mem.wf := by
  grind [resumeSaved, replayPark_wf]

@[simp] theorem forgetBehind_mem (s : State) (r) : (forgetBehind s r).mem = s.mem := rfl

@[simp] theorem suspend_mem (s : State) (p prim c u x) : (suspend p prim s c u x).mem = s.mem := by
  grind [suspend, newId_mem, modUnit_mem, modApCtx_mem, modQueue_mem, closeGroup_mem, settleGroups_mem, apNext_mem,
    apBlock_mem]

theorem execRtSuspend_canonical {s : State} (hs : s.mem.wf) (a) : Canonical (execRtSuspend a s) := by
  grind [execRtSuspend, apRun_canonical, apExcept_wf, suspend_mem]

theorem execRtResume_canonical {s : State} (hs : s.mem.wf) (d) : Canonical (execRtResume d s) := by
  grind [execRtResume, modUnit_mem, apRun_canonical, apDone_mem]

theorem execGroupCloseTimeout_canonical {s : State} (hs : s.mem.wf) : Canonical (execGroupCloseTimeout s) := by
  grind [execGroupCloseTimeout, closeGroup_mem, Canonical]

theorem deliver_wf {s : State} (hs : s.mem.wf) (c word v) : (deliver s c word v).mem.wf := by
  grind [deliver, modUnit_mem, modApCtx_mem, apPost_wf]

theorem queuePush_canonical {s : State} (hs : s.mem.wf) (d q n) : Canonical (queuePush d q n s) := by
  unfold queuePush
  refine issue_canonical (fun s k sl hs => ?_) hs
  grind [raiseCounter_mem, passing_canonical, addOp_mem, modQueue_mem, Eff.Canonical]

theorem execQpushRt_canonical {s : State} (hs : s.mem.wf) (d) : Canonical (execQpushRt d s) := by
  unfold execQpushRt
  refine issue_canonical (fun s k sl hs => ?_) hs
  grind [raiseCounter_mem, passing_canonical, addOp_mem]

theorem queuePop_canonical {s : State} (hs : s.mem.wf) (d q n) : Canonical (queuePop d q n s) := by
  unfold queuePop
  refine issue_canonical (fun s k sl hs => ?_) hs
  grind [raiseCounter_mem, markPending_mem, passing_canonical, addOp_mem, modQueue_mem, Eff.Canonical]

theorem execQstat_canonical {s : State} (hs : s.mem.wf) (d k) : Canonical (execQstat d k s) := by
  unfold execQstat
  refine issue_canonical (fun s k sl hs => ?_) hs
  grind [markPending_mem, passing_canonical, addOp_mem]

@[simp] theorem writePopped_mem (s : State) (o k op) : (writePopped s o k op).mem = s.mem := rfl

theorem execQueueReturn_canonical {s : State} (hs : s.mem.wf) : Canonical (execQueueReturn s) := by
  grind [execQueueReturn, modWarp_mem, lower_mem, endOp_mem, modQueue_mem, settleGroups_mem, deliver_wf,
    writePopped_mem, foldl_wf, Canonical]

theorem apStart_wf {s : State} (hs : s.mem.wf) (c u x coll word start arg lo hi) :
    (apStart s c u x coll word start arg lo hi).mem.wf := by
  grind [apStart, modApCtx_mem, dmemPut_mem, apPost_wf]

theorem execApgo_canonical {s : State} (hs : s.mem.wf) (d u c) : Canonical (execApgo d u c s) := by
  unfold execApgo
  refine issue_canonical (fun s k sl hs => ?_) hs
  grind [passing_canonical, apStart_wf, Eff.Canonical]

theorem execApstop_canonical {s : State} (hs : s.mem.wf) (u c) : Canonical (execApstop u c s) := by
  unfold execApstop
  refine issue_canonical (fun s k sl hs => ?_) hs
  grind [passing_canonical, apIdle_mem, forgetBehind_mem]

/-! ## Machine/Matrix.lean -/

theorem warpWriter_canonical {s : State} (hs : s.mem.wf) (d f) : Canonical (warpWriter d f s) := by
  unfold warpWriter
  refine issue_canonical (fun s k sl hs => ?_) hs
  grind [passing_canonical, pushWarpWrite_mem]

theorem execBstrImm_canonical {s : State} (hs : s.mem.wf) (i k) : Canonical (execBstrImm i k s) := by
  unfold execBstrImm
  refine issue_canonical (fun s k sl hs => ?_) hs
  grind [passing_canonical, pushWarpWrite_mem]

@[simp] theorem acceptTile_mem (s : State) (c n e) : (acceptTile s c n e).mem = s.mem := by
  grind [acceptTile, modCluster_mem, newId_mem, sampleVersion_mem]

theorem enterTile_canonical {s : State} (hs : s.mem.wf) (k sl en) : (enterTile s k sl en).Canonical := by
  grind [enterTile, modWarp_mem, passing_canonical, acceptTile_mem, Eff.Canonical]

theorem tileCommand_canonical {s : State} (hs : s.mem.wf) (word d e t) : Canonical (tileCommand word d e t s) := by
  unfold tileCommand
  refine issue_canonical (fun s k sl hs => ?_) hs
  grind [passing_canonical, boExpect_mem, boArrived_mem, enterTile_canonical, Eff.Canonical]

theorem execCellArrayGrant_canonical {s : State} (hs : s.mem.wf) : Canonical (execCellArrayGrant s) := by
  grind [execCellArrayGrant, modCluster_mem, Canonical]

theorem execDrainPathGrant_canonical {s : State} (hs : s.mem.wf) : Canonical (execDrainPathGrant s) := by
  unfold execDrainPathGrant
  dsimp only
  split
  · exact hs
  · split
    · exact hs
    · exact hs

theorem drainRecord_wf {s : State} (hs : s.mem.wf) (c o e entry kind va lanes resume) :
    (drainRecord s c o e entry kind va lanes resume).mem.wf :=
  postFor_wf hs ..

theorem drainElemRecord_wf {s : State} (hs : s.mem.wf) (c o e entry kind l resume) :
    (drainElemRecord s c o e entry kind l resume).mem.wf := by
  grind [drainElemRecord, drainRecord_wf]

theorem drainLines_wf {s : State} (hs : s.mem.wf) (u pg l) : (drainLines u s pg l).1.mem.wf := by
  induction l generalizing s pg with
  | nil => exact hs
  | cons va r ih => grind [drainLines, placePage_wf]

theorem translateDrain_wf {s : State} (hs : s.mem.wf) (o op) : (translateDrain s o op).mem.wf := by
  unfold translateDrain
  extract_lets c
  split
  · exact hs
  rename_i e _
  split
  · exact hs
  rename_i es fl _
  extract_lets live first todo t some' good scaled es1 bad told beyond trapped op1 src s1 s2 s3 sent s4
  split
  · exact hs
  split
  · exact drainElemRecord_wf (by simpa using hs) _ _ _ _ _ _ _
  have h1 : s1.mem.wf := drainLines_wf hs _ _ _
  have h2 : s2.mem.wf := drainElemRecord_wf (drainElemRecord_wf h1 _ _ _ _ _ _ _) _ _ _ _ _ _ _
  have h3 : s3.mem.wf := by
    unfold s3
    split
    · exact formatTrap_wf h2 _ _ _ _
    · exact h2
  have h4 : s4.mem.wf := by simpa [s4] using h3
  split
  · exact h4
  · exact drainElemRecord_wf h4 _ _ _ _ _ _ _

@[simp] theorem replayDrain_mem (s : State) (o op) : (replayDrain s o op).mem = s.mem := rfl

@[simp] theorem resampleDrain_mem (s : State) (o op) : (resampleDrain s o op).mem = s.mem := by
  simp [resampleDrain]

@[simp] theorem abortDrain_mem (s : State) (o op) : (abortDrain s o op).mem = s.mem := by
  unfold abortDrain
  split <;> simp

theorem completeTile_wf {s : State} (hs : s.mem.wf) (c i e fl) : (completeTile s c i e fl).mem.wf :=
  lateFlags_wf hs ..

theorem sendMax_wf {s : State} (hs : s.mem.wf) (c i o op e mx) : (sendMax s c i o op e mx).mem.wf := by
  grind [sendMax, modCluster_mem, modOp_mem, sampleVersion_mem, formatTrap_wf, sendReq_mem, placeRanges_wf,
    drainRecord_wf]

theorem settleDrain_wf {s : State} (hs : s.mem.wf) (c i e) : (settleDrain s c i e).mem.wf := by
  grind [settleDrain, endOp_mem, unsample_mem, countPublish_mem, completeTile_wf, sendMax_wf]

theorem execMatrixCommandCompletion_canonical {s : State} (hs : s.mem.wf) :
    Canonical (execMatrixCommandCompletion s) := by
  grind [execMatrixCommandCompletion, modStore_mem, completeTile_wf, settleDrain_wf, Canonical]

@[simp] theorem mxSuspend_mem (s : State) (e) : (mxSuspend s e).1.mem = s.mem := by
  grind [mxSuspend]

/-! ## Machine/Reduce.lean -/

theorem resultHeld_wf {s : State} (hs : s.mem.wf) (o op write f) : (resultHeld s o op write f).mem.wf := by
  grind [resultHeld, modOp_mem, postRecord_wf]

theorem finishEpoch_wf {s : State} (hs : s.mem.wf) (o d op) : (finishEpoch s o d op).mem.wf := by
  grind [finishEpoch, modCtx_mem, vwrite_wf, resultHeld_wf]

theorem countResult_wf {s : State} (hs : s.mem.wf) (o d op) : (countResult s o d op).mem.wf := by
  grind [countResult, modCtx_mem, modOp_mem, finishEpoch_wf]

theorem writeOwnResult_wf {s : State} (hs : s.mem.wf) (o d op) : (writeOwnResult s o d op).mem.wf := by
  grind [writeOwnResult, vwrite_wf, resultHeld_wf, countResult_wf]

theorem sendResults_wf {s : State} (hs : s.mem.wf) (o d e n) : (sendResults o d e n s).mem.wf := by
  induction n generalizing s with
  | zero => exact hs
  | succ n ih => grind [sendResults, writeOwnResult_wf, modOp_mem, vread_wf, resultHeld_wf, sendMessage_mem]

theorem runResult_wf {s : State} (hs : s.mem.wf) (o) : (runResult s o).mem.wf := by
  grind [runResult, finishEpoch_wf, sendResults_wf]

theorem resumeResult_wf {s : State} (hs : s.mem.wf) (o op abort) : (resumeResult s o op abort).mem.wf := by
  grind [resumeResult, modCtx_mem, modOp_mem, countResult_wf, runResult_wf]

theorem startResult_wf {s : State} (hs : s.mem.wf) (c d e die done code offset v) :
    (startResult s c d e die done code offset v).mem.wf := by
  grind [startResult, addOp_mem, runResult_wf]

theorem completeOwned_wf {s : State} (hs : s.mem.wf) (line t) : (completeOwned s line t).mem.wf := by
  grind [completeOwned, homeWrite_wf, startResult_wf]

theorem addContribution_wf {s : State} (hs : s.mem.wf) (code line img by') :
    (addContribution s code line img by').mem.wf :=
  homeWrite_wf hs ..

theorem startUpdate_wf {s : State} (hs : s.mem.wf) (line) : (startUpdate s line).mem.wf := by
  grind [startUpdate, modHomeLine_mem, homeWrite_wf]

theorem countLine_wf {s : State} (hs : s.mem.wf) (code line) : (countLine s code line).mem.wf := by
  grind [countLine, modHomeLine_mem, completeOwned_wf, startUpdate_wf]

theorem contribute_wf {s : State} (hs : s.mem.wf) (r) : (contribute s r).mem.wf := by
  grind [contribute, addContribution_wf, countLine_wf]

theorem writeOverflow_wf {s : State} (hs : s.mem.wf) (home) : (writeOverflow s home).mem.wf := by
  grind [writeOverflow, physWrite_wf, foldl_wf]

theorem dropOverflow_wf {s : State} (hs : s.mem.wf) (out) : (dropOverflow s out).mem.wf := by
  grind [dropOverflow, writeOverflow_wf, foldl_wf]

@[simp] theorem ackContribution_mem (s : State) (id r status) : (ackContribution s id r status).mem = s.mem := by
  unfold ackContribution
  split <;> simp

theorem performContribution_wf {s : State} (hs : s.mem.wf) (id r) : (performContribution s id r).mem.wf := by
  grind [performContribution, postRecord_wf, contribute_wf, writeOverflow_wf, ackContribution_mem]

theorem execContribution_canonical {s : State} (hs : s.mem.wf) : Canonical (execContribution s) := by
  grind [execContribution, atHome_canonical, performContribution_wf]

theorem replayOverflow_wf {s : State} (hs : s.mem.wf) (line t) : (replayOverflow s line t).mem.wf := by
  grind [replayOverflow, contribute_wf, dropOverflow_wf, foldl_wf]

theorem armLine_wf {s : State} (hs : s.mem.wf) (line t target) : (armLine s line t target).mem.wf := by
  grind [armLine, modHomeLine_mem, replayOverflow_wf]

theorem armLines_wf {s : State} (hs : s.mem.wf) (c die d e b l) : (armLines s c die d e b l).1.mem.wf := by
  induction l generalizing s with
  | nil => exact hs
  | cons off r ih => grind [armLines, translate_wf, armLine_wf, stick_mem]

@[simp] theorem raiseEpoch_mem (s : State) (c d) : (raiseEpoch s c d).mem = s.mem := rfl

theorem faultUpdate_wf {s : State} (hs : s.mem.wf) (st ud kind va write) :
    (faultUpdate s st ud kind va write).mem.wf := by
  grind [faultUpdate, postRecord_wf]

@[simp] theorem endUpdate_mem (s : State) (line) : (endUpdate s line).mem = s.mem := rfl

theorem beginUpdate_wf {s : State} (hs : s.mem.wf) (st ud) : (beginUpdate s st ud).mem.wf := by
  grind [beginUpdate, postRecord_wf, addOp_mem, placeRanges_wf, engineReads_mem, faultUpdate_wf, endUpdate_mem]

theorem translateUpdate_wf {s : State} (hs : s.mem.wf) (st ud o op) : (translateUpdate s st ud o op).mem.wf := by
  grind [translateUpdate, modOp_mem, setPub_mem, placeRanges_wf, faultUpdate_wf]

theorem execUpdateStepCompletion_canonical {s : State} (hs : s.mem.wf) : Canonical (execUpdateStepCompletion s) := by
  grind [execUpdateStepCompletion, modOp_mem, endOp_mem, unsample_mem, countPublish_mem, engineReads_mem,
    engineWrites_mem, endUpdate_mem, beginUpdate_wf, translateUpdate_wf, Canonical]

/-! ## Machine/Graphs.lean -/

@[simp] theorem modGraph_mem (s : State) (g f) : (modGraph s g f).mem = s.mem := rfl

@[simp] theorem modNode_mem (s : State) (g n f) : (modNode s g n f).mem = s.mem := rfl

@[simp] theorem modDie_mem (s : State) (d f) : (modDie s d f).mem = s.mem := rfl

theorem readHeader_wf {s : State} (hs : s.mem.wf) (c die addr) : (readHeader s c die addr).1.mem.wf := by
  grind [readHeader, vread_wf]

theorem readGraph_wf {s : State} (hs : s.mem.wf) (c die addr) : (readGraph s c die addr).1.mem.wf := by
  grind [readGraph, vread_wf]

@[simp] theorem endWindow_mem (s : State) (g d) : (endWindow s g d).mem = s.mem := rfl

@[simp] theorem endWindows_mem (s : State) (g d n) : (endWindows g d n s).mem = s.mem := by
  induction n generalizing s with
  | zero => rfl
  | succ n ih => grind [endWindows, endWindow_mem]

theorem tellExhausted_wf {s : State} (hs : s.mem.wf) (g d) : (tellExhausted s g d).mem.wf := by
  grind [tellExhausted, postRecord_wf, modGraph_mem]

theorem budgetTick_wf {s : State} (hs : s.mem.wf) (g d) : (budgetTick s g d).mem.wf := by
  grind [budgetTick, endWindows_mem, tellExhausted_wf]

theorem budgetTicks_wf {s : State} (hs : s.mem.wf) : (budgetTicks s).mem.wf := by
  grind [budgetTicks, budgetTick_wf, foldl_wf]

theorem execBudgetWindowEnd_canonical {s : State} (hs : s.mem.wf) : Canonical (execBudgetWindowEnd s) :=
  budgetTick_wf hs ..

@[simp] theorem frameReset_mem (s : State) (g) : (frameReset s g).mem = s.mem := rfl

@[simp] theorem frameEvents_mem (s : State) (which) : (frameEvents s which).mem = s.mem := by
  grind [frameEvents, frameReset_mem, foldl_mem]

@[simp] theorem formBatch_mem (s : State) (g n d) : (formBatch s g n d).mem = s.mem := by
  grind [formBatch, newId_mem, modNode_mem]

@[simp] theorem placeEmitted_mem (s : State) (g n d v) : (placeEmitted s g n d v).mem = s.mem := by
  grind [placeEmitted, modGraph_mem, modNode_mem, formBatch_mem]

theorem execBatchTimeout_canonical {s : State} (hs : s.mem.wf) : Canonical (execBatchTimeout s) := by
  grind [execBatchTimeout, formBatch_mem, Canonical]

theorem postGraph_wf {s : State} (hs : s.mem.wf) (g kind code addr val) : (postGraph s g kind code addr val).mem.wf :=
  postRecord_wf hs ..

theorem readyNode_wf {s : State} (hs : s.mem.wf) (g n) : (readyNode s g n).1.mem.wf := by
  grind [readyNode, newId_mem, modNode_mem, readHeader_wf, postGraph_wf]

theorem resolveEdge_wf {s : State} (hs : s.mem.wf) (g m taken failed) : (resolveEdge s g m taken failed).1.mem.wf := by
  grind [resolveEdge, modNode_mem, formBatch_mem, readyNode_wf, foldl_wf]

theorem recordNode_wf {s : State} (hs : s.mem.wf) (g n status) : (recordNode s g n status).mem.wf := by
  grind [recordNode, vwrite_wf, modNode_mem, frameEvents_mem]

theorem settleNodes_wf {s : State} (hs : s.mem.wf) (g n l) : (settleNodes g n s l).mem.wf := by
  induction n generalizing s l with
  | zero => exact hs
  | succ n ih =>
    cases l with
    | nil => exact hs
    | cons p r =>
      refine ih ?_ _
      exact List.foldlRecOn (motive := fun acc : State × List (Nat × Nat) => acc.1.mem.wf = true) _ _
        (recordNode_wf hs _ _ _) fun acc hacc p _ => resolveEdge_wf hacc _ _ _ _

theorem writeDone_wf {s : State} (hs : s.mem.wf) (g) : (writeDone s g).mem.wf := by
  grind [writeDone, physWrite_wf, vwrite_wf]

theorem finishGraph_wf {s : State} (hs : s.mem.wf) (g) : (finishGraph s g).mem.wf := by
  grind [finishGraph, modGraph_mem, writeDone_wf]

theorem completeNode_wf {s : State} (hs : s.mem.wf) (g n status) : (completeNode s g n status).mem.wf := by
  grind [completeNode, settleNodes_wf, finishGraph_wf]

theorem startNode_wf {s : State} (hs : s.mem.wf) (g n) : (startNode s g n).mem.wf := by
  grind [startNode, readyNode_wf, completeNode_wf]

theorem startGraph_wf {s : State} (hs : s.mem.wf) (g) : (startGraph s g).mem.wf := by
  grind [startGraph, startNode_wf, foldl_wf]

theorem submitGraph_wf {s : State} (hs : s.mem.wf) (c addr) : (submitGraph s c addr).mem.wf := by
  grind [submitGraph, newId_mem, readGraph_wf, postGraph_wf, startGraph_wf]

theorem submitLaunch_wf {s : State} (hs : s.mem.wf) (c hdr done persistent) :
    (submitLaunch s c hdr done persistent).mem.wf := by
  grind [submitLaunch, newId_mem, startGraph_wf]

theorem postValue_canonical {s : State} (hs : s.mem.wf) (v f) : Canonical (postValue v f s) :=
  issue_canonical (fun _ _ _ hs => passing_canonical (fun _ _ _ hs => by simpa using hs) hs _ _) hs

theorem execPostArrival_canonical {s : State} (hs : s.mem.wf) : Canonical (execPostArrival s) := by
  grind [execPostArrival, reap_mem, modNode_mem, Canonical]

theorem systemCall_canonical {s : State} (hs : s.mem.wf) (n f) : Canonical (systemCall n f s) := by
  unfold systemCall
  refine issue_canonical (fun s k sl hs => ?_) hs
  grind [passing_canonical, postRecord_wf, Eff.Canonical]

@[simp] theorem placeRecords_mem (s : State) (g n d l) : (placeRecords g n d s l).1.mem = s.mem := by
  induction l generalizing s with
  | nil => rfl
  | cons v r ih => grind [placeRecords, placeEmitted_mem]

theorem pumpEmit_canonical {s : State} (hs : s.mem.wf) (e k sl) : (pumpEmit e s k sl).Canonical := by
  grind [pumpEmit, passing_canonical, modGraph_mem, placeRecords_mem, Eff.Canonical]

theorem emitEff_canonical {s : State} (hs : s.mem.wf) (slot d k sl) : (emitEff slot d s k sl).Canonical := by
  grind [emitEff, pumpEmit_canonical, passing_canonical, modGraph_mem, Eff.Canonical]

theorem execEmit_canonical {s : State} (hs : s.mem.wf) (d k) : Canonical (execEmit d k s) :=
  issue_canonical (fun _ _ _ hs => emitEff_canonical hs ..) hs

theorem execEmitReg_canonical {s : State} (hs : s.mem.wf) (h d a) : Canonical (execEmitReg h d a s) :=
  issue_canonical (fun _ _ _ hs => emitEff_canonical hs ..) hs

@[simp] theorem handOut_mem (s : State) (g n d) : (handOut s g n d).mem = s.mem := by
  grind [handOut, newId_mem, modNode_mem]

theorem execChunkHandout_canonical {s : State} (hs : s.mem.wf) : Canonical (execChunkHandout s) := by
  grind [execChunkHandout, modNode_mem, handOut_mem, Canonical]

theorem execMirrorWrite_canonical {s : State} (hs : s.mem.wf) : Canonical (execMirrorWrite s) := by
  grind [execMirrorWrite, modNode_mem, Canonical]

theorem loseChunk_wf {s : State} (hs : s.mem.wf) (g n v first count) : (loseChunk s g n v first count).mem.wf := by
  grind [loseChunk, postRecord_wf, modNode_mem]

theorem loseDie_wf {s : State} (hs : s.mem.wf) (d v led g n dead) : (loseDie d v led s g n dead).mem.wf := by
  grind [loseDie, modNode_mem, loseChunk_wf, foldl_wf]

theorem elect_wf {s : State} (hs : s.mem.wf) (v gs) : (elect s v gs).mem.wf := by
  grind [elect, postRecord_wf, foldl_wf]

theorem failDie_wf {s : State} (hs : s.mem.wf) (d) : (failDie s d).mem.wf := by
  grind [failDie, modDie_mem, loseDie_wf, elect_wf, foldl_wf]

@[simp] theorem splitGraph_mem (s : State) (g) : (splitGraph s g).mem = s.mem := rfl

theorem partGraph_wf {s : State} (hs : s.mem.wf) (g) : (partGraph s g).mem.wf := by
  grind [partGraph, loseDie_wf, splitGraph_mem, foldl_wf]

theorem partGraphs_wf {s : State} (hs : s.mem.wf) : (partGraphs s).mem.wf := by
  grind [partGraphs, elect_wf, partGraph_wf, foldl_wf]

theorem execHeartbeat_canonical {s : State} (hs : s.mem.wf) : Canonical (execHeartbeat s) := by
  grind [execHeartbeat, modDie_mem, Canonical]

theorem execDieFailure_canonical {s : State} (hs : s.mem.wf) : Canonical (execDieFailure s) := by
  grind [execDieFailure, failDie_wf, Canonical]

theorem execHeadroomReading_canonical {s : State} (hs : s.mem.wf) : Canonical (execHeadroomReading s) := by
  grind [execHeadroomReading, draw_mem, foldl_wf, Canonical]

/-! ## Machine/Pool.lean -/

theorem writeRecord_wf {s : State} (hs : s.mem.wf) (c die b) : (writeRecord s c die b).2.mem.wf := by
  grind [writeRecord, vwrite_wf, poolTake_mem]

theorem writeGroupRecords_wf {s : State} (hs : s.mem.wf) (g c) : (writeGroupRecords s g c).mem.wf := by
  grind [writeGroupRecords, writeRecord_wf]

theorem rewriteGroupRecords_wf {s : State} (hs : s.mem.wf) (g c f) : (rewriteGroupRecords s g c f).mem.wf := by
  grind [rewriteGroupRecords, vwrite_wf, poolFree_mem, writeRecord_wf]

/-! ## Machine/Placement.lean -/

theorem keepSlots_wf {s : State} (hs : s.mem.wf) (k ctx) : (keepSlots s k ctx).mem.wf := by
  grind [keepSlots, rewriteGroupRecords_wf, foldl_wf]

theorem claimCluster_wf {s : State} (hs : s.mem.wf) (k ctx) : (claimCluster s k ctx).mem.wf := by
  grind [claimCluster, modCluster_mem, keepSlots_wf]

@[simp] theorem claimCore_mem (s : State) (k ctx carve) : (claimCore s k ctx carve).mem = s.mem := rfl

@[simp] theorem fetchChain_mem (s : State) (k image) : (fetchChain s k image).mem = s.mem := rfl

@[simp] theorem startWarp_mem (s : State) (die core scope x) : (startWarp s die core scope x).mem = s.mem := by
  unfold startWarp
  split <;> simp

@[simp] theorem startGroup_mem (s : State) (g n h die cl co p q) : (startGroup s g n h die cl co p q).mem = s.mem := by
  grind [startGroup, newId_mem, claimCore_mem, startWarp_mem, foldl_mem]

@[simp] theorem markStarted_mem (s : State) (g n die cl) : (markStarted s g n die cl).mem = s.mem := rfl

theorem startCohort_wf {s : State} (hs : s.mem.wf) (g n h die cl p) : (startCohort s g n h die cl p).mem.wf := by
  grind [startCohort, newId_mem, modNode_mem, claimCluster_wf, startGroup_mem, markStarted_mem, foldl_wf]

@[simp] theorem storeWrite_mem (s : State) (c a b) : (storeWrite s c a b).mem = s.mem := rfl

@[simp] theorem endTiles_mem (s : State) (o op) : (endTiles s o op).mem = s.mem := rfl

theorem runTiles_wf {s : State} (hs : s.mem.wf) (o n) : (runTiles o n s).mem.wf := by
  induction n generalizing s with
  | zero => exact hs
  | succ n ih => grind [runTiles, endTiles_mem, modOp_mem, storeWrite_mem, vwrite_wf, vread_wf, postRecord_wf]

theorem startTiles_wf {s : State} (hs : s.mem.wf) (g n die cl out) : (startTiles s g n die cl out).mem.wf := by
  grind [startTiles, newId_mem, claimCluster_wf]

theorem continueTiles_wf {s : State} (hs : s.mem.wf) (o op) : (continueTiles s o op).mem.wf :=
  runTiles_wf hs ..

theorem resumeTiles_wf {s : State} (hs : s.mem.wf) (o op abort) : (resumeTiles s o op abort).mem.wf := by
  grind [resumeTiles, modOp_mem, storeWrite_mem, runTiles_wf]

theorem runStart_wf {s : State} (hs : s.mem.wf) (o) : (runStart s o).mem.wf := by
  grind [runStart, modOp_mem, postRecord_wf, startResult_wf, armLines_wf]

theorem startCollective_wf {s : State} (hs : s.mem.wf) (g n die d) : (startCollective s g n die d).mem.wf := by
  grind [startCollective, newId_mem, raiseEpoch_mem, modNode_mem, runStart_wf]

theorem resumeStart_wf {s : State} (hs : s.mem.wf) (o abort) : (resumeStart s o abort).mem.wf := by
  grind [resumeStart, modOp_mem, runStart_wf]

theorem beforeStart_wf {s t : State} (hs : s.mem.wf) {g n h die cl} (e : beforeStart s g n h die cl = some (some t)) :
    t.mem.wf := by
  grind [beforeStart, startCollective_wf, startTiles_wf]

theorem placePlan_wf {s t : State} (hs : s.mem.wf) {g n h die p} (e : placePlan s g n h die p = some t) : t.mem.wf := by
  grind [placePlan, startCohort_wf, beforeStart_wf]

@[simp] theorem setChunk_mem (s : State) (g n k) : (setChunk s g n k).mem = s.mem := rfl

theorem dispatchChunk_wf {s t : State} (hs : s.mem.wf) {g n h k} (e : dispatchChunk s g n h k = some t) : t.mem.wf := by
  grind [dispatchChunk, placePlan_wf, setChunk_mem]

theorem placeAll_wf {s : State} (hs : s.mem.wf) {g n h l r} (e : placeAll s g n h l = some r) : r.1.mem.wf := by
  unfold placeAll at e
  split at e
  · cases e
  · split at e
    · cases e
      exact foldl_wf (fun _ _ hs => startCohort_wf hs _ _ _ _ _ _) _ hs
    · rename_i places _ _
      obtain ⟨t, ht, rfl⟩ := Option.map_eq_some_iff.1 e
      obtain ⟨q, hq, e⟩ := List.exists_of_findSome?_eq_some ht
      obtain ⟨p, -, hp⟩ := List.mem_filterMap.1 hq
      exact beforeStart_wf hs (hp.trans (congrArg some e))

theorem dispatchLaunch_wf {s t : State} (hs : s.mem.wf) {g n h} (e : dispatchLaunch s g n h = some t) : t.mem.wf := by
  unfold dispatchLaunch at e
  extract_lets x l plans at e
  split at e
  · cases e
  · split at e
    · exact placePlan_wf hs e
    · split at e
      · cases e
      · obtain ⟨r, hr, rfl⟩ := Option.map_eq_some_iff.1 e
        have hr := placeAll_wf hs hr
        split
        · exact hr
        · simpa using hr

theorem startBatch_wf {s : State} (hs : s.mem.wf) (g n h cl b) : (startBatch s g n h cl b).mem.wf := by
  grind [startBatch, modWarp_mem, newId_mem, modGraph_mem, modNode_mem, claimCluster_wf, claimCore_mem, startWarp_mem,
    markStarted_mem]

theorem placeBatch_wf {s t : State} (hs : s.mem.wf) {g n h b} (e : placeBatch s g n h b = some t) : t.mem.wf := by
  grind [placeBatch, beforeStart_wf, startBatch_wf]

/-! ## Machine/Preempt.lean -/

theorem abandonOp_wf {s : State} (hs : s.mem.wf) (o) : (abandonOp s o).mem.wf := by
  grind [abandonOp, updateWarp_wf, endOp_mem, unsample_mem, abandonReqs_mem, forgetBehind_mem]

theorem dropWaitm_wf {s : State} (hs : s.mem.wf) (o) : (dropWaitm s o).mem.wf := by
  grind [dropWaitm, abandonOp_wf]

@[simp] theorem renamePark_mem (s : State) (ctx f) : (renamePark s ctx f).mem = s.mem := rfl

theorem takeCore_wf {s : State} (hs : s.mem.wf) (c g) : (takeCore s c g).1.mem.wf := by
  grind [takeCore, modCore_mem, vwrite_wf, forgetBehind_mem, renamePark_mem, foldl_wf]

theorem takeCommands_wf {s : State} (hs : s.mem.wf) (c g) : (takeCommands s c g).1.mem.wf := by
  unfold takeCommands
  extract_lets x cmds ops headGone s1 mine m
  have h1 : s1.mem.wf := foldl_wf (fun _ _ hs => abandonOp_wf hs _) _ (by split <;> simpa using hs)
  have hm : m.1.mem.wf := List.foldlRecOn (motive := fun acc : State × List MxEntry => acc.1.mem.wf = true) _ _ h1
    fun acc hacc e _ => by simpa using hacc
  simpa using hm

theorem carryRegions_wf {s : State} (hs : s.mem.wf) (co cl id) : (carryRegions s co cl id).mem.wf := by
  grind [carryRegions, modNode_mem, rewriteGroupRecords_wf, foldl_wf]

theorem writeCohortRecord_wf {s : State} (hs : s.mem.wf) (co g id) : (writeCohortRecord s co g id).mem.wf := by
  grind [writeCohortRecord, writeRecord_wf]

theorem saveGroup_wf {s : State} (hs : s.mem.wf) (w) : (saveGroup s w).mem.wf := by
  grind [saveGroup, newId_mem, abandonReqs_mem, forgetBehind_mem, writeGroupRecords_wf, takeCore_wf, takeCommands_wf,
    carryRegions_wf, writeCohortRecord_wf, foldl_wf]

theorem execWarpSave_canonical {s : State} (hs : s.mem.wf) : Canonical (execWarpSave s) := by
  grind [execWarpSave, modWarp_mem, backToFence_mem, removeWarp_wf, abandonOp_wf, saveGroup_wf, foldl_wf, Canonical]

@[simp] theorem movePark_mem (s : State) (ctx g new) : (movePark s ctx g new).mem = s.mem := rfl

@[simp] theorem restoreSlots_mem (s : State) (k sv) : (restoreSlots s k sv).mem = s.mem := by
  grind [restoreSlots, modSlot_mem, foldl_mem]

theorem restoreGroup_wf {s : State} (hs : s.mem.wf) (g die cl) : (restoreGroup s g die cl).mem.wf := by
  grind [restoreGroup, modCore_mem, modCluster_mem, modGroup_mem, poolFree_mem, reissueCopy_mem, acceptLook_mem,
    modNode_mem, claimCluster_wf, claimCore_mem, storeWrite_mem, movePark_mem, restoreSlots_mem, foldl_wf]

theorem restoreWarp_wf {s : State} (hs : s.mem.wf) (k die core) : (restoreWarp s k die core).mem.wf := by
  grind [restoreWarp, modCore_mem, newId_mem, readSave_wf, poolFree_mem, acquire_mem, forgetBehind_mem, modGraph_mem,
    fetchChain_mem, dropWaitm_wf, foldl_wf]

theorem restoreCohort_wf {s : State} (hs : s.mem.wf) (co die cl gs) : (restoreCohort s co die cl gs).mem.wf := by
  grind [restoreCohort, modCohort_mem, restoreGroup_wf, restoreWarp_wf, foldl_wf]

theorem placeItem_wf {s t : State} (hs : s.mem.wf) {die i} (e : placeItem s die i = some t) : t.mem.wf := by
  unfold placeItem at e
  split at e
  · obtain ⟨cl, -, rfl⟩ := Option.map_eq_some_iff.1 e
    exact restoreCohort_wf hs _ _ _ _
  · grind [restoreWarp_wf]
  · obtain ⟨h, -, e⟩ := Option.bind_eq_some_iff.1 e
    exact placeBatch_wf hs e
  · obtain ⟨h, -, e⟩ := Option.bind_eq_some_iff.1 e
    exact dispatchChunk_wf hs e
  · obtain ⟨h, -, e⟩ := Option.bind_eq_some_iff.1 e
    exact dispatchLaunch_wf hs e

theorem execEscapementPlacement_canonical {s : State} (hs : s.mem.wf) : Canonical (execEscapementPlacement s) := by
  unfold execEscapementPlacement
  extract_lets die d
  have hp : ∀ t ∈ (readyPool d.2 die).filterMap (placeItem d.2 die), t.mem.wf := fun t ht => by
    obtain ⟨i, -, e⟩ := List.mem_filterMap.1 ht
    exact placeItem_wf (s := d.2) hs e
  split
  · exact hs
  split
  · exact hs
  rename_i s1 r e
  rw [e] at hp
  have hr : ((r.find? (·.stuck.isEmpty)).getD s1).mem.wf := by
    cases e : r.find? (·.stuck.isEmpty) with
    | none => exact hp s1 (by simp)
    | some t => exact hp t (by simp [List.mem_of_find?_eq_some e])
  simp only [Canonical]
  split
  · exact hp s1 (by simp)
  · exact hr

@[simp] theorem stopWarps_mem (s : State) (l) : (stopWarps s l).mem = s.mem := by
  grind [stopWarps, modWarp_mem, foldl_mem]

theorem execPreemption_canonical {s : State} (hs : s.mem.wf) : Canonical (execPreemption s) := by
  grind [execPreemption, stopWarps_mem, Canonical]

theorem execChunkRequest_canonical {s : State} (hs : s.mem.wf) : Canonical (execChunkRequest s) := by
  grind [execChunkRequest, modNode_mem, Canonical]

theorem execNodeCompletion_canonical {s : State} (hs : s.mem.wf) : Canonical (execNodeCompletion s) := by
  grind [execNodeCompletion, modNode_mem, completeNode_wf, startTiles_wf, Canonical]

theorem checkPersistent_wf {s : State} (hs : s.mem.wf) (g) : (checkPersistent s g).mem.wf := by
  grind [checkPersistent, postGraph_wf, completeNode_wf]

/-! ## Machine/Links.lean -/

theorem postLink_wf {s : State} (hs : s.mem.wf) (kind port die) : (postLink s kind port die).mem.wf := by
  grind [postLink, postError_wf, postRecord_wf, foldl_wf]

theorem dropMessage_wf {s : State} (hs : s.mem.wf) (p m) : (dropMessage s p m).mem.wf :=
  postRecord_wf hs ..

@[simp] theorem logAgain_mem (s : State) (k o op) : (logAgain s k o op).mem = s.mem := by
  grind [logAgain, modWarp_mem]

theorem loseLoad_wf {s : State} (hs : s.mem.wf) (o k op lines) : (loseLoad s o k op lines).mem.wf := by
  grind [loseLoad, abandonReqs_mem, opRecord_wf, markFault_wf, logAgain_mem]

theorem loseCopy_wf {s : State} (hs : s.mem.wf) (o op lines) : (loseCopy s o op lines).mem.wf := by
  grind [loseCopy, modOp_mem, abandonReqs_mem, opRecord_wf, reissueCopy_mem]

theorem loseAp_wf {s : State} (hs : s.mem.wf) (o op lines) : (loseAp s o op lines).mem.wf := by
  grind [loseAp, modOp_mem, abandonReqs_mem, apFault_wf]

@[simp] theorem loseFetch_mem (s : State) (o op lines) : (loseFetch s o op lines).mem = s.mem := rfl

theorem loseRefill_wf {s : State} (hs : s.mem.wf) (o op lines) : (loseRefill s o op lines).mem.wf := by
  grind [loseRefill, modOp_mem, abandonReqs_mem, hashFault_wf]

theorem loseUpdate_wf {s : State} (hs : s.mem.wf) (o op lines) : (loseUpdate s o op lines).mem.wf := by
  grind [loseUpdate, modOp_mem, endOp_mem, abandonReqs_mem, faultUpdate_wf]

theorem loseReads_wf {s : State} (hs : s.mem.wf) (o op lines) : (loseReads s o op lines).mem.wf := by
  grind [loseReads, loseLoad_wf, loseCopy_wf, loseAp_wf, loseFetch_mem, loseRefill_wf, loseUpdate_wf]

theorem loseWrites_wf {s : State} (hs : s.mem.wf) (o port op l) : (loseWrites s o port op l).mem.wf := by
  grind [loseWrites, postRecord_wf, wakeSaved_mem, settleWaitm_mem, lateFlags_wf]

theorem loseOp_wf {s : State} (hs : s.mem.wf) (o port l) : (loseOp s o port l).mem.wf := by
  grind [loseOp, loseReads_wf, loseWrites_wf]

theorem loseAll_wf {s : State} (hs : s.mem.wf) (port l) : (loseAll s port l).mem.wf := by
  grind [loseAll, loseOp_wf, foldl_wf]

@[simp] theorem takeSent_mem (s : State) (gone) : (takeSent s gone).1.mem = s.mem := rfl

theorem portDown_wf {s : State} (hs : s.mem.wf) (p) : (portDown s p).mem.wf := by
  grind [portDown, modPort_mem, postLink_wf, loseAll_wf, takeSent_mem]

theorem execPortDown_canonical {s : State} (hs : s.mem.wf) : Canonical (execPortDown s) :=
  portDown_wf hs ..

theorem portStart_wf {s : State} (hs : s.mem.wf) (p) : (portStart s p).mem.wf := by
  grind [portStart, postLink_wf]

theorem execPortUp_canonical {s : State} (hs : s.mem.wf) : Canonical (execPortUp s) := by
  grind [execPortUp, portStart_wf, Canonical]

theorem portTimeouts_wf {s : State} (hs : s.mem.wf) : (portTimeouts s).mem.wf := by
  grind [portTimeouts, portDown_wf, foldl_wf]

theorem resend_wf {s : State} (hs : s.mem.wf) (p seq) : (resend s p seq).mem.wf := by
  grind [resend, modPort_mem, portDown_wf]

theorem execRetryRequest_canonical {s : State} (hs : s.mem.wf) : Canonical (execRetryRequest s) :=
  resend_wf hs ..

@[simp] theorem takeAck_mem (s : State) (p f) : (takeAck s p f).mem = s.mem := by
  simp [takeAck]

@[simp] theorem askRetry_mem (s : State) (p) : (askRetry s p).mem = s.mem := rfl

theorem acceptFlit_wf {s : State} (hs : s.mem.wf) (p pt f) : (acceptFlit s p pt f).mem.wf := by
  grind [acceptFlit, modPort_mem, sendControl_mem, owe_mem, dropMessage_wf, foldl_wf]

theorem execDataFlitReceive_canonical {s : State} (hs : s.mem.wf) (p f) : Canonical (execDataFlitReceive p f s) := by
  grind [execDataFlitReceive, resend_wf, takeAck_mem, askRetry_mem, acceptFlit_wf, Canonical]

theorem onMessage_canonical {f : State → Nat → Message → State} (hf : ∀ s p m, s.mem.wf → (f s p m).mem.wf) {s : State}
    (hs : s.mem.wf) (kind m) : Canonical (onMessage kind f m s) := by
  grind [onMessage, owe_mem, Canonical]

theorem performReq_wf {s : State} (hs : s.mem.wf) (kind id r) : (performReq kind s id r).mem.wf := by
  cases kind with
  | load => simpa [performReq] using hs
  | store => exact performStore_wf hs id r
  | atomic => exact performAtomic_wf hs id r
  | cacheop => exact performAtomic_wf hs id r
  | routine => exact performRoutine_wf hs id r
  | monitor => simpa [performReq] using hs
  | contribution => exact performContribution_wf hs id r

theorem remoteReq_wf {s : State} (hs : s.mem.wf) (p m kind code parts) : (remoteReq s p m kind code parts).mem.wf := by
  grind [remoteReq, sendReq_mem, serveReq_wf, performReq_wf]

theorem execReadMessage_canonical {s : State} (hs : s.mem.wf) (m) : Canonical (execReadMessage m s) := by
  grind [execReadMessage, onMessage_canonical, remoteReq_wf]

theorem execWriteMessage_canonical {s : State} (hs : s.mem.wf) (m) : Canonical (execWriteMessage m s) := by
  grind [execWriteMessage, onMessage_canonical, remoteReq_wf]

theorem execAtomicMessage_canonical {s : State} (hs : s.mem.wf) (m) : Canonical (execAtomicMessage m s) := by
  grind [execAtomicMessage, onMessage_canonical, remoteReq_wf]

theorem execContributionMessage_canonical {s : State} (hs : s.mem.wf) (m) :
    Canonical (execContributionMessage m s) := by
  grind [execContributionMessage, onMessage_canonical, remoteReq_wf]

@[simp] theorem remoteLoaded_mem (s : State) (x b) : (remoteLoaded s x b).mem = s.mem := by
  grind [remoteLoaded, draw_mem, gotLine_mem, fillLoaded_mem, addCopy_mem, dropOwn_mem]

theorem execReadResponse_canonical {s : State} (hs : s.mem.wf) (m) : Canonical (execReadResponse m s) := by
  grind [execReadResponse, pumpPorts_mem, dropOwn_mem, giveResults_mem, wakeSaved_mem, settleWaitm_mem,
    onMessage_canonical, remoteLoaded_mem]

@[simp] theorem remoteStored_mem (s : State) (r) : (remoteStored s r).mem = s.mem := by
  grind [remoteStored, dropCopies_mem, dropOwn_mem, updateOwnCopy_mem]

theorem execAcknowledgement_canonical {s : State} (hs : s.mem.wf) (m) : Canonical (execAcknowledgement m s) := by
  grind [execAcknowledgement, pumpPorts_mem, onMessage_canonical, remoteStored_mem]

theorem execResultLine_canonical {s : State} (hs : s.mem.wf) (m) : Canonical (execResultLine m s) := by
  grind [execResultLine, startResult_wf, dropMessage_wf, onMessage_canonical]

theorem maybePerform_wf {s : State} (hs : s.mem.wf) (id r) : (maybePerform s id r).mem.wf := by
  grind [maybePerform, draw_mem, performStore_wf, atomLanes_wf, routineLanes_wf, performContribution_wf]

theorem losePublish_wf {s : State} (hs : s.mem.wf) (p o) : (losePublish s p o).mem.wf := by
  grind [losePublish, postRecord_wf, setPub_mem, endPublish_mem, lateFlags_wf]

theorem takeCrossed_wf {s : State} (hs : s.mem.wf) : (takeCrossed s).1.mem.wf := by
  grind [takeCrossed, maybePerform_wf, foldl_wf]

theorem loseAcross_wf {s : State} (hs : s.mem.wf) : (loseAcross s).mem.wf := by
  grind [loseAcross, loseAll_wf, takeSent_mem, losePublish_wf, takeCrossed_wf, foldl_wf]

theorem linkDown_wf {s : State} (hs : s.mem.wf) : (linkDown s).mem.wf := by
  grind [linkDown, modDie_mem, partGraphs_wf, postLink_wf, loseAcross_wf, foldl_wf]

theorem execDieToDieLinkDown_canonical {s : State} (hs : s.mem.wf) : Canonical (execDieToDieLinkDown s) :=
  linkDown_wf hs

/-! ## Machine/Lines.lean -/

theorem translateOp_wf {s : State} (hs : s.mem.wf) (o op) : (translateOp s o op).mem.wf := by
  grind [translateOp, translateLogged_wf, translatePrefetch_wf, translateHeld_wf, translateCopy_wf, translateAp_wf,
    translateFetch_wf, translateDrain_wf, runResult_wf, continueTiles_wf]

@[simp] theorem resampled_mem (s : State) (o op) : (resampled s o op).mem = s.mem := by
  simp [resampled]

theorem continueOp_wf {s : State} (hs : s.mem.wf) (o op) : (continueOp s o op).mem.wf := by
  grind [continueOp, resampleDrain_mem, translateOp_wf, resampled_mem]

theorem execLineTranslation_canonical {s : State} (hs : s.mem.wf) : Canonical (execLineTranslation s) := by
  grind [execLineTranslation, ifRoom_wf, continueOp_wf, Canonical]

theorem abortCluster_wf {s : State} (hs : s.mem.wf) (o op) : (abortCluster s o op).mem.wf := by
  grind [abortCluster, modOp_mem, lower_mem, endOp_mem, lateFlags_wf]

theorem resumeOp_wf {s : State} (hs : s.mem.wf) (o abort) : (resumeOp s o abort).mem.wf := by
  grind [resumeOp, modOp_mem, replayLogged_wf, abortLogged_wf, replayHeld_mem, abortHeld_mem, replayCopy_mem,
    abortCopy_mem, replayAp_mem, abortAp_mem, replayDrain_mem, abortDrain_mem, resumeResult_wf, resumeTiles_wf,
      resumeStart_wf, abortCluster_wf]

theorem resumeFetch_wf {s : State} (hs : s.mem.wf) (k sl abort) : (resumeFetch s k sl abort).mem.wf := by
  grind [resumeFetch, updateWarp_wf, trapGang_wf, lateTrap_wf]

theorem resumeMatrix_wf {s : State} (hs : s.mem.wf) (c i abort) : (resumeMatrix s c i abort).mem.wf := by
  grind [resumeMatrix, modCluster_mem, completeTile_wf]

@[simp] theorem resumeUpdate_mem (s : State) (line abort) : (resumeUpdate s line abort).mem = s.mem := by
  grind [resumeUpdate, endOp_mem, unsample_mem, abandonReqs_mem, endUpdate_mem]

theorem resumeBehind_wf {s : State} (hs : s.mem.wf) (abort x) : (resumeBehind s abort x).mem.wf := by
  unfold resumeBehind
  grind [hashReplay_mem, hashAbort_mem, apReplay_wf, apAbort_mem, resumeSaved_wf, resumeOp_wf, resumeFetch_wf,
    resumeMatrix_wf, resumeUpdate_mem]

/-! ## Machine/Host.lean -/

@[simp] theorem modRing_mem (s : State) (r f) : (modRing s r f).mem = s.mem := rfl

@[simp] theorem setReady_mem (s : State) (d i) : (setReady s d i).mem = s.mem := rfl

@[simp] theorem clearReady_mem (s : State) (d i) : (clearReady s d i).mem = s.mem := rfl

theorem execRingEnable_canonical {s : State} (hs : s.mem.wf) : Canonical (execRingEnable s) := by
  grind [execRingEnable, modRing_mem, Canonical]

theorem execRingDoorbell_canonical {s : State} (hs : s.mem.wf) : Canonical (execRingDoorbell s) := by
  grind [execRingDoorbell, modRing_mem, Canonical]

theorem execErrorLogHead_canonical {s : State} (hs : s.mem.wf) : Canonical (execErrorLogHead s) := by
  grind [execErrorLogHead, flushErrors_wf, Canonical]

theorem execHostRegisterWrite_canonical {s : State} (hs : s.mem.wf) : Canonical (execHostRegisterWrite s) := by
  grind [execHostRegisterWrite, flushErrors_wf, modRing_mem, Canonical]

theorem hostWrite_wf {s : State} (hs : s.mem.wf) (a b) : (hostWrite s a b).mem.wf :=
  homeWrite_wf hs ..

theorem finishCommand_wf {s : State} (hs : s.mem.wf) (r c status) : (finishCommand s r c status).mem.wf :=
  hostWrite_wf hs ..

theorem hostCommand_canonical {run : State → Nat → Command → Option (State × Nat)}
    (hrun : ∀ s r c x, s.mem.wf → run s r c = some x → x.1.mem.wf) {s : State} (hs : s.mem.wf) (code mine bad) :
    Canonical (hostCommand code mine bad run s) := by
  grind [hostCommand, finishCommand_wf, Canonical]

theorem plainCommand_canonical {run : State → Command → State × Nat} (hrun : ∀ s c, s.mem.wf → (run s c).1.mem.wf)
    {s : State} (hs : s.mem.wf) (code bad) : Canonical (plainCommand code bad run s) :=
  hostCommand_canonical (by grind) hs _ _ _

@[simp] theorem putContext_mem (s : State) (b) : (putContext s b).mem = s.mem := by
  grind [putContext]

theorem execWriteContextDescriptor_canonical {s : State} (hs : s.mem.wf) :
    Canonical (execWriteContextDescriptor s) := by
  grind [execWriteContextDescriptor, hostCommand_canonical, putContext_mem]

theorem execSubmitLaunch_canonical {s : State} (hs : s.mem.wf) : Canonical (execSubmitLaunch s) := by
  grind [execSubmitLaunch, submitLaunch_wf, plainCommand_canonical]

theorem execSubmitGraph_canonical {s : State} (hs : s.mem.wf) : Canonical (execSubmitGraph s) := by
  grind [execSubmitGraph, submitGraph_wf, plainCommand_canonical]

theorem execFrameEvent_canonical {s : State} (hs : s.mem.wf) : Canonical (execFrameEvent s) := by
  grind [execFrameEvent, frameEvents_mem, plainCommand_canonical]

theorem execPersistentLaunch_canonical {s : State} (hs : s.mem.wf) : Canonical (execPersistentLaunch s) := by
  grind [execPersistentLaunch, submitLaunch_wf, checkPersistent_wf, plainCommand_canonical]

@[simp] theorem renewCheck_mem (s : State) (hit o op) : (renewCheck hit s o op).mem = s.mem := by
  grind [renewCheck, modOp_mem, wakeSaved_mem]

@[simp] theorem renewChecks_mem (s : State) (c hit) : (renewChecks s c hit).mem = s.mem := by
  grind [renewChecks, renewCheck_mem, foldl_mem]

@[simp] theorem execInvalidateTranslations.begin'_mem (s : State) :
    (execInvalidateTranslations.begin' s).mem = s.mem := by
  grind [execInvalidateTranslations.begin', modRing_mem]

theorem execInvalidateTranslations_canonical {s : State} (hs : s.mem.wf) :
    Canonical (execInvalidateTranslations s) := by
  grind [execInvalidateTranslations, hostCommand_canonical, renewChecks_mem, execInvalidateTranslations.begin'_mem]

theorem resumeRecord_wf {s : State} (hs : s.mem.wf) (abort c) : (resumeRecord abort s c).1.mem.wf := by
  grind [resumeRecord, modCtx_mem, resumeBehind_wf]

theorem execResumeRecordReplay_canonical {s : State} (hs : s.mem.wf) : Canonical (execResumeRecordReplay s) := by
  grind [execResumeRecordReplay, hostCommand_canonical, resumeRecord_wf]

theorem execResumeRecordAbort_canonical {s : State} (hs : s.mem.wf) : Canonical (execResumeRecordAbort s) := by
  grind [execResumeRecordAbort, hostCommand_canonical, resumeRecord_wf]

theorem execFaultQueueHead_canonical {s : State} (hs : s.mem.wf) : Canonical (execFaultQueueHead s) := by
  grind [execFaultQueueHead, modCtx_mem, flushRecords_wf, plainCommand_canonical]

@[simp] theorem extendMeasure_mem (s : State) (d i x) : (extendMeasure s d i x).mem = s.mem := rfl

theorem execWriteRoutineSlot_canonical {s : State} (hs : s.mem.wf) : Canonical (execWriteRoutineSlot s) := by
  grind [execWriteRoutineSlot, modCtx_mem, plainCommand_canonical, extendMeasure_mem]

theorem execWriteUpdateDescriptor_canonical {s : State} (hs : s.mem.wf) : Canonical (execWriteUpdateDescriptor s) := by
  grind [execWriteUpdateDescriptor, plainCommand_canonical]

theorem execWriteAccessProcessorImage_canonical {s : State} (hs : s.mem.wf) :
    Canonical (execWriteAccessProcessorImage s) := by
  grind [execWriteAccessProcessorImage, modCtx_mem, plainCommand_canonical, extendMeasure_mem]

theorem execWritePublishEntry_canonical {s : State} (hs : s.mem.wf) : Canonical (execWritePublishEntry s) := by
  grind [execWritePublishEntry, setPub_mem, plainCommand_canonical]

theorem execWriteCollectiveDescriptor_canonical {s : State} (hs : s.mem.wf) :
    Canonical (execWriteCollectiveDescriptor s) := by
  grind [execWriteCollectiveDescriptor, modCtx_mem, dropOverflow_wf, plainCommand_canonical]

theorem areaCommand_canonical {run : State → Command → State} (hrun : ∀ s c, s.mem.wf → (run s c).mem.wf)
    {s : State} (hs : s.mem.wf) (mine bad) : Canonical (areaCommand mine bad run s) :=
  hostCommand_canonical (by grind) hs _ _ _

theorem execSetRouteTable_canonical {s : State} (hs : s.mem.wf) : Canonical (execSetRouteTable s) := by
  grind [execSetRouteTable, areaCommand_canonical]

theorem execSetApertureTable_canonical {s : State} (hs : s.mem.wf) : Canonical (execSetApertureTable s) := by
  grind [execSetApertureTable, areaCommand_canonical]

theorem execSetOverflowArea_canonical {s : State} (hs : s.mem.wf) : Canonical (execSetOverflowArea s) := by
  grind [execSetOverflowArea, areaCommand_canonical]

theorem execSetCompressionMetadata_canonical {s : State} (hs : s.mem.wf) :
    Canonical (execSetCompressionMetadata s) := by
  grind [execSetCompressionMetadata, areaCommand_canonical]

theorem execPartitionReserve_canonical {s : State} (hs : s.mem.wf) : Canonical (execPartitionReserve s) := by
  grind [execPartitionReserve, modDie_mem, hostCommand_canonical]

theorem execPartitionRelease_canonical {s : State} (hs : s.mem.wf) : Canonical (execPartitionRelease s) := by
  grind [execPartitionRelease, modDie_mem, hostCommand_canonical]

theorem execFieldControl_canonical {s : State} (hs : s.mem.wf) : Canonical (execFieldControl s) := by
  grind [execFieldControl, plainCommand_canonical]

theorem execRetrainPort_canonical {s : State} (hs : s.mem.wf) : Canonical (execRetrainPort s) := by
  grind [execRetrainPort, plainCommand_canonical]

theorem execReadStatus_canonical {s : State} (hs : s.mem.wf) : Canonical (execReadStatus s) := by
  grind [execReadStatus, hostWrite_wf, plainCommand_canonical]

theorem releaseLine_wf {s : State} (hs : s.mem.wf) (e) : (releaseLine s e).mem.wf := by
  grind [releaseLine, resumeBehind_wf, foldl_wf]

theorem scrub_wf {s : State} (hs : s.mem.wf) (e b) : (scrub s e b).mem.wf := by
  grind [scrub, modHomeLine_mem, homeWrite_wf, storeWrite_mem, resumeBehind_wf, releaseLine_wf]

theorem abortReq_wf {s : State} (hs : s.mem.wf) (id r) : (abortReq s id r).mem.wf := by
  grind [abortReq, gotLine_mem, doneReq_mem, reply_mem, settleWaitm_mem, lateFlags_wf]

theorem abortError_wf {s : State} (hs : s.mem.wf) (e) : (abortError s e).mem.wf := by
  grind [abortError, resumeBehind_wf, abortReq_wf]

theorem errorCommand_canonical {run : State → Command → HeldError → State}
    (hrun : ∀ s c e, s.mem.wf → (run s c e).mem.wf) {s : State} (hs : s.mem.wf) (mine bad) :
    Canonical (errorCommand mine bad run s) :=
  hostCommand_canonical (by grind) hs _ _ _

theorem execScrubReplay_canonical {s : State} (hs : s.mem.wf) : Canonical (execScrubReplay s) := by
  grind [execScrubReplay, scrub_wf, errorCommand_canonical]

theorem execScrubAbort_canonical {s : State} (hs : s.mem.wf) : Canonical (execScrubAbort s) := by
  grind [execScrubAbort, abortError_wf, errorCommand_canonical]

theorem errorPost_wf {s : State} (hs : s.mem.wf) (e kind save) : (errorPost s e kind save).mem.wf :=
  postErrorFor_wf hs ..

theorem reportCorrected_wf {s : State} (hs : s.mem.wf) (e) : (reportCorrected s e).mem.wf := by
  grind [reportCorrected, errorPost_wf]

theorem execCorrectedError_canonical {s : State} (hs : s.mem.wf) (e) : Canonical (execCorrectedError e s) := by
  grind [execCorrectedError, reportCorrected_wf, Canonical]

theorem holdBehind_wf {s : State} (hs : s.mem.wf) (keep x) : (holdBehind s keep x).mem.wf := by
  unfold holdBehind
  split
  case h_5 c u x =>
    split
    · simpa using hs
    · simpa using vwrite_wf (s := dropFetch s c u x) (by simpa using hs) _ _ _ _
  all_goals simpa using hs

@[simp] theorem execUncorrectableError.poison_mem (s : State) (e) :
    (execUncorrectableError.poison s e).mem = s.mem := rfl

theorem execUncorrectableError_canonical {s : State} (hs : s.mem.wf) (e) : Canonical (execUncorrectableError e s) := by
  grind [execUncorrectableError, modCore_mem, removeWarp_wf, modDie_mem, errorPost_wf, reportCorrected_wf,
    holdBehind_wf, execUncorrectableError.poison_mem, Canonical]

theorem execAttestationReport_canonical {s : State} (hs : s.mem.wf) : Canonical (execAttestationReport s) := by
  grind [execAttestationReport, hostWrite_wf, plainCommand_canonical, extendMeasure_mem]

/-! ## Machine/BringUp.lean -/

theorem risingFrom_filter {α : Type} {b : Nat} (t : Tbl α) (p : Nat × α → Bool) (h : risingFrom b t = true) :
    risingFrom b (t.filter p) = true := by
  induction t generalizing b with
  | nil => rfl
  | cons c t ih =>
    obtain ⟨hb, ht⟩ : b < c.1 ∧ risingFrom c.1 t = true := by simpa [risingFrom] using h
    rw [List.filter_cons]
    split
    · simp [risingFrom, hb, ih ht]
    · exact ih (risingFrom_weaken t ht hb.le)

theorem rising_filter {α : Type} (t : Tbl α) (p : Nat × α → Bool) (h : rising t = true) :
    rising (t.filter p) = true := by
  cases t with
  | nil => rfl
  | cons c t =>
    rw [List.filter_cons]
    split
    · exact risingFrom_filter t p h
    · exact rising_of_risingFrom _ (risingFrom_filter t p h)

/-- What host memory keeps while the package has no power is in canonical form (R442). -/
theorem hostMemory_wf {m : Memory} (hm : m.wf) : (hostMemory m).wf := by
  simp only [Memory.wf, Bool.and_eq_true, List.all_eq_true] at hm ⊢
  exact ⟨rising_filter m _ hm.1, fun c hc => hm.2 c (List.mem_of_mem_filter hc)⟩

theorem restart_wf {s : State} (hs : s.mem.wf) : (restart s).mem.wf :=
  hostMemory_wf hs

theorem execPowerOn_canonical {s : State} (hs : s.mem.wf) : Canonical (execPowerOn s) :=
  restart_wf hs

theorem execBringUpPackage_canonical {s : State} (hs : s.mem.wf) : Canonical (execBringUpPackage s) := by
  grind [execBringUpPackage, finishCommand_wf, restart_wf, Canonical]

theorem execHostAttachTrained_canonical {s : State} (hs : s.mem.wf) : Canonical (execHostAttachTrained s) := by
  grind [execHostAttachTrained, setReady_mem, Canonical]

theorem execFirmwareVerify_canonical {s : State} (hs : s.mem.wf) : Canonical (execFirmwareVerify s) := by
  grind [execFirmwareVerify, modDie_mem, setReady_mem, extendMeasure_mem, Canonical]

theorem execConfigurationLoad_canonical {s : State} (hs : s.mem.wf) : Canonical (execConfigurationLoad s) := by
  grind [execConfigurationLoad, setReady_mem, Canonical]

theorem execDieToDieLinkTrained_canonical {s : State} (hs : s.mem.wf) : Canonical (execDieToDieLinkTrained s) := by
  grind [execDieToDieLinkTrained, setReady_mem, Canonical]

theorem execTgmStart_canonical {s : State} (hs : s.mem.wf) : Canonical (execTgmStart s) := by
  grind [execTgmStart, modDie_mem, setReady_mem, Canonical]

theorem execFieldPowerUp_canonical {s : State} (hs : s.mem.wf) : Canonical (execFieldPowerUp s) := by
  grind [execFieldPowerUp, setReady_mem, Canonical]

theorem execHbmStackTrained_canonical {s : State} (hs : s.mem.wf) : Canonical (execHbmStackTrained s) := by
  grind [execHbmStackTrained, setReady_mem, Canonical]

theorem execSystemPortTrained_canonical {s : State} (hs : s.mem.wf) : Canonical (execSystemPortTrained s) := by
  grind [execSystemPortTrained, portStart_wf, Canonical]

@[simp] theorem modIsland_mem (s : State) (i f) : (modIsland s i f).mem = s.mem := rfl

theorem execCurrentThrottle_canonical {s : State} (hs : s.mem.wf) : Canonical (execCurrentThrottle s) := by
  grind [execCurrentThrottle, modIsland_mem, Canonical]

theorem execCurrentThrottleEnd_canonical {s : State} (hs : s.mem.wf) : Canonical (execCurrentThrottleEnd s) := by
  grind [execCurrentThrottleEnd, modIsland_mem, Canonical]

theorem loseWarp_wf {s : State} (hs : s.mem.wf) (k w) : (loseWarp s k w).mem.wf := by
  grind [loseWarp, endOp_mem, unsample_mem, abandonReqs_mem, postErrorFor_wf, foldl_wf]

theorem loseWarps_wf {s : State} (hs : s.mem.wf) (i) : (loseWarps s i).mem.wf := by
  grind [loseWarps, ifRoom_wf, loseWarp_wf, foldl_wf]

@[simp] theorem dropHomes_mem (s : State) (i) : (dropHomes s i).mem = s.mem := rfl

theorem dropFieldB_wf {s : State} (hs : s.mem.wf) (d) : (dropFieldB s d).mem.wf := by
  grind [dropFieldB, modDie_mem, linkDown_wf, clearReady_mem]

theorem dropIsland_wf {s : State} (hs : s.mem.wf) (i t) : (dropIsland s i t).mem.wf := by
  grind [dropIsland, endOp_mem, unsample_mem, abandonReqs_mem, portDown_wf, clearReady_mem, modIsland_mem,
    dropHomes_mem, dropFieldB_wf, foldl_wf]

theorem tripIsland_wf {s : State} (hs : s.mem.wf) (i t) : (tripIsland s i t).mem.wf := by
  grind [tripIsland, loseWarps_wf, dropIsland_wf]

theorem execThermalTrip_canonical {s : State} (hs : s.mem.wf) : Canonical (execThermalTrip s) := by
  grind [execThermalTrip, tripIsland_wf, Canonical]

theorem execThermalThrottle_canonical {s : State} (hs : s.mem.wf) : Canonical (execThermalThrottle s) := by
  grind [execThermalThrottle, modIsland_mem, execThermalTrip_canonical, Canonical]

theorem execThermalThrottleEnd_canonical {s : State} (hs : s.mem.wf) : Canonical (execThermalThrottleEnd s) := by
  grind [execThermalThrottleEnd, modIsland_mem, Canonical]

/-! ## Machine/Integer.lean -/

theorem intOp_canonical {s : State} (hs : s.mem.wf) (h d a b acc f) : Canonical (intOp h d a b acc f s) := by
  unfold intOp
  exact laneReg_canonical hs ..

theorem compareOp_canonical {s : State} (hs : s.mem.wf) (h c p a b) : Canonical (compareOp h c p a b s) :=
  lanePred_canonical hs ..

theorem execIcmpImm_canonical {s : State} (hs : s.mem.wf) (h c p a i) : Canonical (execIcmpImm h c p a i s) :=
  compareOp_canonical hs ..

theorem execSel_canonical {s : State} (hs : s.mem.wf) (h d a b) : Canonical (execSel h d a b s) := by
  unfold execSel
  refine issue_canonical (fun s k sl hs => ?_) hs
  grind [passing_canonical, queueLanes_mem]

/-! ## Machine/Permute.lean -/

@[simp] theorem freshenAll_mem (s : State) (k f) : (freshenAll s k f).mem = s.mem := by
  grind [freshenAll, freshenLatch_mem, foldl_mem]

theorem permute_canonical {s : State} (hs : s.mem.wf) (h d a b from') : Canonical (permute h d a b from' s) :=
  issue_canonical (fun _ _ _ hs => passing_canonical (fun _ _ _ hs => by simpa using hs) hs _ _) hs

theorem reduceOp_canonical {s : State} (hs : s.mem.wf) (h d a op run) : Canonical (reduceOp h d a op run s) := by
  unfold reduceOp
  refine issue_canonical (fun s k sl hs => ?_) hs
  grind [modWarp_mem, passing_canonical, queueLanes_mem]

theorem execVred_canonical {s : State} (hs : s.mem.wf) (h d a o) : Canonical (execVred h d a o s) := by
  unfold execVred
  exact reduceOp_canonical hs ..

theorem execVscan_canonical {s : State} (hs : s.mem.wf) (h d a e o) : Canonical (execVscan h d a e o s) := by
  unfold execVscan
  exact reduceOp_canonical hs ..

@[simp] theorem startVwri_mem (s : State) (d a k sl) : (startVwri d a s k sl).mem = s.mem := rfl

theorem execVwri_canonical {s : State} (hs : s.mem.wf) (h d a) : Canonical (execVwri h d a s) := by
  unfold execVwri
  refine issue_canonical (fun s k sl hs => ?_) hs
  grind [modWarp_mem, privatise_mem, askGranules_mem, passing_canonical, startVwri_mem, foldl_wf, Eff.Canonical]

theorem execVwriWrite_canonical {s : State} (hs : s.mem.wf) : Canonical (execVwriWrite s) := by
  grind [execVwriWrite, performWrites_mem, Canonical]

theorem execVbal_canonical {s : State} (hs : s.mem.wf) (d p) : Canonical (execVbal d p s) := by
  unfold execVbal
  refine issue_canonical (fun s k sl hs => ?_) hs
  grind [passing_canonical, queueLanes_mem]

theorem execVvote_canonical {s : State} (hs : s.mem.wf) (v d p) : Canonical (execVvote v d p s) := by
  unfold execVvote
  refine issue_canonical (fun s k sl hs => ?_) hs
  grind [passing_canonical, queueLanes_mem]

/-! ## Machine/Dispatch.lean -/

/-- Every instruction and every event keeps physical memory in canonical form. -/
theorem exec_canonical {s : State} (hs : s.mem.wf) (i) : Canonical (exec i s) := by
  cases i
  case bra => exact execBra_canonical hs ..
  case brc => exact execBrc_canonical hs ..
  case bri | calli => exact indirect_canonical hs ..
  case call => exact execCall_canonical hs ..
  case mark => exact execMark_canonical hs ..
  case mode => exact execMode_canonical hs ..
  case modei => exact execModei_canonical hs ..
  case win => exact execWin_canonical hs ..
  case wini => exact execWini_canonical hs ..
  case rds => exact execRds_canonical hs ..
  case rdsClockLo => exact execRdsClockLo_canonical hs ..
  case wrs => exact execWrs_canonical hs ..
  case wrsWin => exact execWrsWin_canonical hs ..
  case wrsFlags => exact execWrsFlags_canonical hs ..
  case wrsSrseed => exact execWrsSrseed_canonical hs ..
  case freeze => exact execFreeze_canonical hs ..
  case grow => exact execGrow_canonical hs ..
  case shrink => exact execShrink_canonical hs ..
  case growReg => exact execGrowReg_canonical hs ..
  case shrinkReg => exact execShrinkReg_canonical hs ..
  case donate => exact execDonate_canonical hs ..
  case rend => exact execRend_canonical hs ..
  case bar => exact execBar_canonical hs ..
  case bara => exact execBara_canonical hs ..
  case barReg => exact execBarReg_canonical hs ..
  case baraReg => exact execBaraReg_canonical hs ..
  case waitc => exact execWaitc_canonical hs ..
  case waitp => exact execWaitp_canonical hs ..
  case sleep => exact execSleep_canonical hs ..
  case trap => exact execTrap_canonical hs ..
  case iadd | iaddi | isub | imul | imulImm | imulh | imad | imin | iminImm | imax | imaxImm | iabs | and | andImm
    | or | orImm | xor | xorImm | andn | not | shl | shlImm | shr | shrImm | sar | sarImm | rot | rotImm | popc
    | clz | brev | bfe | bfi | lea => unfold exec; exact intOp_canonical hs ..
  case icmp => exact compareOp_canonical hs ..
  case icmpImm => exact execIcmpImm_canonical hs ..
  case sel => exact execSel_canonical hs ..
  case mov | movi | movh | cvt | cvtFi | cvtIf | cvtIi | cvtb | cvtbD | cvts | cbenc | vrdi =>
    unfold exec; exact laneReg_canonical hs ..
  case pand | por | pnot | pmov | pmovReg => unfold exec; exact lanePred_canonical hs ..
  case fadd | faddAbs | fsub | fsubAbs | fmul | fmulAbs | ffma | ffmaNp | ffmaNd | ffmaNn | fmin | fminNan | fminAbs
    | fmax | fmaxNan | fmaxAbs | fsqrt | ffloor | ffrac => unfold exec; exact fltOp_canonical hs ..
  case fcmp | fcmpZ => exact fcmpOp_canonical hs ..
  case frcp | frsq | fexp2 | flog2 | fsin | fsinPi | fcos | fcosPi | ftanh => exact transOp_canonical hs ..
  case vperm | vshfl | vbfx | vbcast => exact permute_canonical hs ..
  case vred => exact execVred_canonical hs ..
  case vscan => exact execVscan_canonical hs ..
  case vwri => exact execVwri_canonical hs ..
  case vbal => exact execVbal_canonical hs ..
  case vvote => exact execVvote_canonical hs ..
  case brec => exact execBrec_canonical hs ..
  case ld | ldImm | ldx | ldxImm | lda | ldaImm => exact globalLoad_canonical hs ..
  case st | stImm | stx | stxImm | stl | stlImm => exact globalStore_canonical hs ..
  case ldc | ldaCluster => exact clusterLoad_canonical hs ..
  case stc | stlCluster => exact clusterStore_canonical hs ..
  case acpy | apln => exact issueCopy_canonical hs ..
  case arrive => exact execArrive_canonical hs ..
  case fence => exact execFence_canonical hs ..
  case publish => exact execPublish_canonical hs ..
  case publishVf => exact execPublishVf_canonical hs ..
  case pref | prefImm => exact prefetch_canonical hs ..
  case cbld => exact execCbld_canonical hs ..
  case atomGlobal | redGlobal | atomfGlobal | acasGlobal | atomD | redD | acasD => exact globalAtomic_canonical hs ..
  case atomCluster | redCluster | atomfCluster | acasCluster => exact clusterAtomic_canonical hs ..
  case atomp => exact execAtomp_canonical hs ..
  case waitmGlobal => exact execWaitmGlobal_canonical hs ..
  case waitmCluster => exact execWaitmCluster_canonical hs ..
  case cacheopArm | cacheopDisarm | cacheopFlush | cacheopEvict | cacheopPackOn | cacheopPackOff =>
    exact cacheop_canonical hs ..
  case cacheopRangeFlush | cacheopRangeEvict => exact cacheopRange_canonical hs ..
  case hcfg | hgrad => unfold exec; exact hashCommand_canonical hs ..
  case hlookRows | hlookPlanes => exact hlook_canonical hs ..
  case bstr | btps | btpsOne => unfold exec; exact warpWriter_canonical hs ..
  case bstrImm => exact execBstrImm_canonical hs ..
  case bstg | bchn | btrn | btrnW | bdns | bdrn => exact tileCommand_canonical hs ..
  case qpush | qpushN => exact queuePush_canonical hs ..
  case qpushRt => exact execQpushRt_canonical hs ..
  case qpop | qpopN => exact queuePop_canonical hs ..
  case qstat => exact execQstat_canonical hs ..
  case apgo => exact execApgo_canonical hs ..
  case apstop => exact execApstop_canonical hs ..
  case apBaseInstruction => exact execApBaseInstruction_canonical hs ..
  case apEnvironmentCall => exact execApEnvironmentCall_canonical hs ..
  case qPush => exact execQPush_canonical hs ..
  case qPop => exact execQPop_canonical hs ..
  case rtSuspend => exact execRtSuspend_canonical hs ..
  case rtResume => exact execRtResume_canonical hs ..
  case gWait => exact execGWait_canonical hs ..
  case gIssue | sIssue => exact issueGather_canonical hs ..
  case bagSum | bagMean => exact issueBag_canonical hs ..
  case rtBox => exact execRtBox_canonical hs ..
  case rtTri => exact execRtTri_canonical hs ..
  case emit => exact execEmit_canonical hs ..
  case emitReg => exact execEmitReg_canonical hs ..
  case post | postImm => unfold exec; exact postValue_canonical hs ..
  case sysc | syscReg => unfold exec; exact systemCall_canonical hs ..
  case dataFlitReceive => exact execDataFlitReceive_canonical hs ..
  case readMessage => exact execReadMessage_canonical hs ..
  case readResponse => exact execReadResponse_canonical hs ..
  case writeMessage => exact execWriteMessage_canonical hs ..
  case atomicMessage => exact execAtomicMessage_canonical hs ..
  case contributionMessage => exact execContributionMessage_canonical hs ..
  case acknowledgement => exact execAcknowledgement_canonical hs ..
  case resultLine => exact execResultLine_canonical hs ..
  case correctedError => exact execCorrectedError_canonical hs ..
  case uncorrectableError => exact execUncorrectableError_canonical hs ..
  case nop => exact execNop_canonical hs
  case exit => exact execExit_canonical hs
  case ret => exact execRet_canonical hs
  case join => exact execJoin_canonical hs
  case regang => exact execRegang_canonical hs
  case yield => exact execYield_canonical hs
  case sleepExpiry => exact execSleepExpiry_canonical hs
  case eret => exact execEret_canonical hs
  case resultQueueWrite => exact execResultQueueWrite_canonical hs
  case latchExpiry => exact execLatchExpiry_canonical hs
  case formatTrapEntry => exact execFormatTrapEntry_canonical hs
  case registerStarvation => exact execRegisterStarvation_canonical hs
  case instructionFetch => exact execInstructionFetch_canonical hs
  case clusterSpaceAccess => exact execClusterSpaceAccess_canonical hs
  case copyDataLanding => exact execCopyDataLanding_canonical hs
  case publishPerform => exact execPublishPerform_canonical hs
  case versionFenceArm => exact execVersionFenceArm_canonical hs
  case lineTranslation => exact execLineTranslation_canonical hs
  case loadReturn => exact execLoadReturn_canonical hs
  case storeAcknowledgement => exact execStoreAcknowledgement_canonical hs
  case homeLoad => exact execHomeLoad_canonical hs
  case homeStore => exact execHomeStore_canonical hs
  case copyInvalidation => exact execCopyInvalidation_canonical hs
  case cachedCopyExpiry => exact execCachedCopyExpiry_canonical hs
  case lineWriteBack => exact execLineWriteBack_canonical hs
  case homeAtomic => exact execHomeAtomic_canonical hs
  case atomicReturn => exact execAtomicReturn_canonical hs
  case routineRun => exact execRoutineRun_canonical hs
  case monitorCheck => exact execMonitorCheck_canonical hs
  case monitorRetry => exact execMonitorRetry_canonical hs
  case contribution => exact execContribution_canonical hs
  case updateStepCompletion => exact execUpdateStepCompletion_canonical hs
  case hcfgPerform => exact execHcfgPerform_canonical hs
  case hlookAccept => exact execHlookAccept_canonical hs
  case replicaRefill => exact execReplicaRefill_canonical hs
  case hgradScatter => exact execHgradScatter_canonical hs
  case hashCommandCompletion => exact execHashCommandCompletion_canonical hs
  case cellArrayGrant => exact execCellArrayGrant_canonical hs
  case drainPathGrant => exact execDrainPathGrant_canonical hs
  case matrixCommandCompletion => exact execMatrixCommandCompletion_canonical hs
  case ctxYield => exact execCtxYield_canonical hs
  case ctxEnd => exact execCtxEnd_canonical hs
  case apOperationCompletion => exact execApOperationCompletion_canonical hs
  case contextPark => exact execContextPark_canonical hs
  case groupCloseTimeout => exact execGroupCloseTimeout_canonical hs
  case postArrival => exact execPostArrival_canonical hs
  case escapementPlacement => exact execEscapementPlacement_canonical hs
  case batchTimeout => exact execBatchTimeout_canonical hs
  case preemption => exact execPreemption_canonical hs
  case warpSave => exact execWarpSave_canonical hs
  case nodeCompletion => exact execNodeCompletion_canonical hs
  case chunkRequest => exact execChunkRequest_canonical hs
  case chunkHandout => exact execChunkHandout_canonical hs
  case heartbeat => exact execHeartbeat_canonical hs
  case dieFailure => exact execDieFailure_canonical hs
  case budgetWindowEnd => exact execBudgetWindowEnd_canonical hs
  case headroomReading => exact execHeadroomReading_canonical hs
  case retryRequest => exact execRetryRequest_canonical hs
  case portDown => exact execPortDown_canonical hs
  case portUp => exact execPortUp_canonical hs
  case dieToDieLinkDown => exact execDieToDieLinkDown_canonical hs
  case writeContextDescriptor => exact execWriteContextDescriptor_canonical hs
  case submitLaunch => exact execSubmitLaunch_canonical hs
  case submitGraph => exact execSubmitGraph_canonical hs
  case frameEvent => exact execFrameEvent_canonical hs
  case invalidateTranslations => exact execInvalidateTranslations_canonical hs
  case resumeRecordReplay => exact execResumeRecordReplay_canonical hs
  case resumeRecordAbort => exact execResumeRecordAbort_canonical hs
  case faultQueueHead => exact execFaultQueueHead_canonical hs
  case writeRoutineSlot => exact execWriteRoutineSlot_canonical hs
  case writeUpdateDescriptor => exact execWriteUpdateDescriptor_canonical hs
  case writeAccessProcessorImage => exact execWriteAccessProcessorImage_canonical hs
  case writePublishEntry => exact execWritePublishEntry_canonical hs
  case writeCollectiveDescriptor => exact execWriteCollectiveDescriptor_canonical hs
  case setRouteTable => exact execSetRouteTable_canonical hs
  case setApertureTable => exact execSetApertureTable_canonical hs
  case setOverflowArea => exact execSetOverflowArea_canonical hs
  case setCompressionMetadata => exact execSetCompressionMetadata_canonical hs
  case partitionReserve => exact execPartitionReserve_canonical hs
  case partitionRelease => exact execPartitionRelease_canonical hs
  case persistentLaunch => exact execPersistentLaunch_canonical hs
  case fieldControl => exact execFieldControl_canonical hs
  case retrainPort => exact execRetrainPort_canonical hs
  case readStatus => exact execReadStatus_canonical hs
  case scrubReplay => exact execScrubReplay_canonical hs
  case scrubAbort => exact execScrubAbort_canonical hs
  case attestationReport => exact execAttestationReport_canonical hs
  case bringUpPackage => exact execBringUpPackage_canonical hs
  case ringDoorbell => exact execRingDoorbell_canonical hs
  case ringEnable => exact execRingEnable_canonical hs
  case errorLogHead => exact execErrorLogHead_canonical hs
  case hostRegisterWrite => exact execHostRegisterWrite_canonical hs
  case powerOn => exact execPowerOn_canonical hs
  case hostAttachTrained => exact execHostAttachTrained_canonical hs
  case firmwareVerify => exact execFirmwareVerify_canonical hs
  case configurationLoad => exact execConfigurationLoad_canonical hs
  case dieToDieLinkTrained => exact execDieToDieLinkTrained_canonical hs
  case tgmStart => exact execTgmStart_canonical hs
  case fieldPowerUp => exact execFieldPowerUp_canonical hs
  case hbmStackTrained => exact execHbmStackTrained_canonical hs
  case systemPortTrained => exact execSystemPortTrained_canonical hs
  case currentThrottle => exact execCurrentThrottle_canonical hs
  case currentThrottleEnd => exact execCurrentThrottleEnd_canonical hs
  case thermalThrottle => exact execThermalThrottle_canonical hs
  case thermalThrottleEnd => exact execThermalThrottleEnd_canonical hs
  case thermalTrip => exact execThermalTrip_canonical hs
  case vwriWrite => exact execVwriWrite_canonical hs
  case queueReturn => exact execQueueReturn_canonical hs
  case nodeFetchReturn => exact execNodeFetchReturn_canonical hs
  case mirrorWrite => exact execMirrorWrite_canonical hs

/-! ## Machine/Turns.lean -/

theorem reach_wf {s : State} (hs : s.mem.wf) (l) : (reach s l).mem.wf := by
  grind [reach, ifRoom_wf, askLine_mem, holdUnit_wf, foldl_wf]

@[simp] theorem spend_mem (s : State) : (spend s).mem = s.mem := by
  unfold spend
  split <;> simp

theorem attempt_wf {s t : State} (hs : s.mem.wf) (ht : t.mem.wf) : (attempt s t).mem.wf := by
  grind [attempt, ifRoom_wf, spend_mem, reach_wf]

theorem runWord_canonical {s : State} (hs : s.mem.wf) (w) : Canonical (runWord w s) := by
  grind [runWord, refuseWord_canonical, exec_canonical]

theorem runGang_canonical {s : State} (hs : s.mem.wf) (k sl) : Canonical (runGang s k sl) := by
  grind [runGang, holdGang_mem, execFormatTrapEntry_canonical, execInstructionFetch_canonical, runWord_canonical,
    Canonical]

theorem tryGang_canonical {s : State} (hs : s.mem.wf) (k sl) : Canonical (tryGang s k sl) := by
  grind [tryGang, holdGang_mem, attempt_wf, runGang_canonical, Canonical]

theorem tryGangs_canonical {s : State} (hs : s.mem.wf) (l) : Canonical (tryGangs l s) := by
  induction l generalizing s with
  | nil => exact hs
  | cons c r ih =>
    have hc := tryGang_canonical hs c.warp c.slices
    cases r with
    | nil => exact hc
    | cons d r => grind [tryGangs, Canonical]

@[simp] theorem unstarve_mem (s : State) (c) : (unstarve s c).mem = s.mem := by
  unfold unstarve
  split <;> simp

theorem refreshWaits_wf {s : State} (hs : s.mem.wf) (c) : (refreshWaits s c).mem.wf := by
  grind [refreshWaits, modGang_mem, foldl_wf]

theorem portTurn_canonical {s : State} (hs : s.mem.wf) (die core port) : Canonical (portTurn s die core port) := by
  grind [portTurn, tryGangs_canonical, unstarve_mem, Canonical]

theorem runContext_canonical {s : State} (hs : s.mem.wf) (c u x) : Canonical (runContext s c u x) := by
  grind [runContext, apExceptAt_wf, apExcept_wf, exec_canonical, Canonical]

theorem tryContext_canonical {s : State} (hs : s.mem.wf) (c u x) : Canonical (tryContext s c u x) := by
  grind [tryContext, attempt_wf, runContext_canonical, Canonical]

theorem tryContexts_canonical {s : State} (hs : s.mem.wf) (c u l) : Canonical (tryContexts c u l s) := by
  induction l generalizing s with
  | nil => exact hs
  | cons x r ih => grind [tryContexts, tryContext_canonical, modApCtx_mem, modUnit_mem, Canonical]

theorem apTurn_canonical {s : State} (hs : s.mem.wf) (die core unit) : Canonical (apTurn s die core unit) := by
  grind [apTurn, tryContexts_canonical, Canonical]

theorem attempted_canonical {s : State} (hs : s.mem.wf) {o : Out} (ho : Canonical o) : Canonical (attempted s o) := by
  cases o with
  | next t => exact attempt_wf hs ho
  | fault r => trivial
  | refused r => trivial

theorem ringTurn_canonical {s : State} (hs : s.mem.wf) (r) : Canonical (ringTurn s r) := by
  grind [ringTurn, finishCommand_wf, exec_canonical, attempted_canonical, Canonical]

theorem eventTurn_canonical {s : State} (hs : s.mem.wf) (i args) : Canonical (eventTurn s i args) := by
  grind [eventTurn, exec_canonical, unstarve_mem, refreshWaits_wf, attempted_canonical, Canonical]

@[simp] theorem moveClocks_mem (s : State) : (moveClocks s).mem = s.mem := rfl

@[simp] theorem settle_mem (s : State) : (settle s).mem = s.mem := by
  grind [settle, settleFence_mem, checkMonitors_mem, foldl_mem]

theorem timeouts_wf {s : State} (hs : s.mem.wf) : (timeouts s).mem.wf := by
  grind [timeouts, ifRoom_wf, budgetTicks_wf, portTimeouts_wf]

theorem endStep_wf {s : State} (hs : s.mem.wf) : (endStep s).mem.wf := by
  grind [endStep, flushAll_wf, moveClocks_mem, settle_mem, timeouts_wf]

theorem act_canonical {s : State} (hs : s.mem.wf) : Canonical (act s) := by
  grind [act, portTurn_canonical, apTurn_canonical, ringTurn_canonical, eventTurn_canonical]

/-! ## Machine/Step.lean -/

theorem step_canonical {s : State} (hs : s.mem.wf) : Canonical (step s) := by
  grind [step, endStep_wf, act_canonical, Canonical]

/-- Settles O59: the step keeps physical memory in canonical form because every instruction, command, event and turn
does, down to the stores of the home slices. -/
theorem deviceMemoryStaysCanonical : Obligations.DeviceMemoryStaysCanonical := by
  unfold Obligations.DeviceMemoryStaysCanonical
  intro s t hs e
  have h := step_canonical hs
  rwa [e] at h

end Sys2Proof.Machine
end

section
/-!
PROOFS. The access processors (R337 to R345): what a change of one unit or context leaves of its core, how a context
ends, and its RV32IM instructions.
-/

namespace Sys2Proof.Machine

open Sys2Proof.Claims

/-! ## Bytes of a number (R4) -/

theorem mbytes_mstore_same (m : Memory) (a : Nat) (l : List Byte) : mbytes (mstore m a l) a l.length = l := by
  induction l generalizing m a with
  | nil => rfl
  | cons b l ih =>
    have hb : mread (mstore (mwrite m a b) (a + 1) l) a = b := by
      rw [mread_mstore_outside _ _ _ _ (by omega), mread_mwrite_same]
    simp [mbytes, mstore, hb, ih]

theorem mnat_mputNat_same (m : Memory) (a n v : Nat) : mnat (mputNat m a n v) a n = v % 256 ^ n := by
  have h := mbytes_mstore_same m a (leBytes n v)
  rw [length_leBytes] at h
  rw [mnat, mputNat, h, leNat_leBytes]

/-- A word read as a signed number of its own width is that word. -/
theorem ofInt_toSigned (v : Nat) : BitVec.ofInt 32 (toSigned 32 v) = BitVec.ofNat 32 v := by
  apply BitVec.eq_of_toNat_eq
  simp only [toSigned, BitVec.toNat_ofInt, BitVec.toNat_ofNat]
  split <;> omega

/-! ## Units and contexts of a core (R337, R340, R343) -/

@[simp] theorem length_unitsOf (c : Core) : (unitsOf c).length = 2 := by
  unfold unitsOf
  split
  · assumption
  · rfl

/-- Units are part of the cores alone. -/
theorem apUnit_of_cores {s t : State} (h : t.cores = s.cores) (c u : Nat) : apUnit t c u = apUnit s c u := by
  simp only [apUnit, coreAt, h]

theorem apUnit_modUnit {u : Nat} (hu : u < 2) (s : State) (c : Nat) (f : ApUnit → ApUnit) :
    apUnit (modUnit s c u f) c u = f (apUnit s c u) := by
  have h : unitsOf { coreAt s c with units := lmod (unitsOf (coreAt s c)) u f } = lmod (unitsOf (coreAt s c)) u f :=
    if_pos (by rw [length_lmod, length_unitsOf])
  simp only [apUnit, coreAt, modUnit, modCore_cores, tget_tput_same] at h ⊢
  rw [h, lget_lmod_same _ _ _ _ (by simpa using hu)]

theorem apUnit_modApCtx {u : Nat} (hu : u < 2) (s : State) (c x : Nat) (f : ApContext → ApContext) :
    apUnit (modApCtx s c u x f) c u = { apUnit s c u with ctxs := lmod (apUnit s c u).ctxs x f } :=
  apUnit_modUnit hu s c _

/-- The effect of an instruction on its unit is the one that the claims name. -/
theorem apUnit_apDone {u : Nat} (hu : u < 2) (s : State) (c x rd : Nat) (v : Word) (pc : Nat) :
    apUnit (apDone s c u x rd v pc) c u = apAfter s c u x rd v pc (apUnit s c u).dmem :=
  apUnit_modApCtx hu s c x _

/-! ## Closing groups, taking back fetches, posting records -/

@[simp] theorem unitsOf_modQueue (s : State) (c q : Nat) (f : Queue → Queue) :
    unitsOf (coreAt (modQueue s c q f) c) = unitsOf (coreAt s c) := by
  simp only [coreAt, modQueue, modCore_cores, tget_tput_same]
  rfl

theorem apUnit_settleGroups (s : State) (c u : Nat) : apUnit (settleGroups s c) c u = apUnit s c u := by
  have hclose : ∀ s q, apUnit (closeGroup s c q) c u = apUnit s c u := fun s q => by
    unfold closeGroup
    split
    · rfl
    · simp [apUnit]
  unfold settleGroups
  dsimp only
  split
  · rfl
  · exact foldl_keep (fun s => apUnit s c u) _ hclose _ _

theorem endOp_cores (s : State) (o : Nat) : (endOp s o).cores = s.cores := by
  unfold endOp
  dsimp only
  split <;> rfl

theorem postFor_cores (s : State) (c die : Nat) (b : List Byte) (r : Resumable) (o : Option Nat) :
    (postFor s c die b r o).cores = s.cores := by
  obtain ⟨m, hl, iv, ws, ms, cs, ew, et, ev, h, -⟩ := postFor_eq s c die b r o
  rw [h]

/-- Taking back a context's fetch leaves its unit's contexts listed. -/
theorem length_ctxs_dropFetch {u : Nat} (hu : u < 2) (s : State) (c x : Nat) :
    (apUnit (dropFetch s c u x) c u).ctxs.length = (apUnit s c u).ctxs.length := by
  unfold dropFetch
  split
  · rfl
  · rename_i o _
    have h : apUnit (abandonReqs (endOp (unsample s o) o) o) c u = apUnit s c u :=
      apUnit_of_cores (endOp_cores (unsample s o) o) c u
    rw [apUnit_modApCtx hu, length_lmod, h]

/-! ## The end of a context (R342, R345) -/

theorem apEnded_apIdle {u x cause : Nat} (hu : u < 2) (s : State) (c : Nat) (hx : x < (apUnit s c u).ctxs.length)
    (hc : cause < 2 ^ 32) : apEnded (apIdle s c u x cause) c u x cause := by
  have hx' : x < (apUnit (dropFetch s c u x) c u).ctxs.length := by rwa [length_ctxs_dropFetch hu]
  have hunit : apUnit (apIdle s c u x cause) c u = _ :=
    (apUnit_settleGroups _ c u).trans ((apUnit_modUnit hu _ c _).trans (by rw [apUnit_modApCtx hu]))
  refine ⟨?_, ?_⟩
  · rw [apCtx, hunit, lget_lmod_same _ _ _ _ hx']
  · rw [dmemNat, hunit, mnat_mputNat_same]
    exact Nat.mod_eq_of_lt hc

theorem apEnded_apExcept {s : State} {c u x kind : Nat} (h : ApRuns s c u x) (hk : kind < 2 ^ 32) (val : Word) :
    apEnded (apExcept s c u x kind val) c u x kind := by
  have hpost : apUnit (apPost s c u x kind (apCtx s c u x).pc.toNat (fetchedWord s) val) c u = apUnit s c u :=
    apUnit_of_cores (postFor_cores ..) c u
  exact apEnded_apIdle h.unit _ c (by rw [hpost, h.ctxs]; exact h.ctx) hk

/-! ## RV32IM (R338) -/

theorem exec_apBaseInstruction {s : State} {c u x : Nat} (h : ApRuns s c u x) (w : BitVec 32) :
    exec (.apBaseInstruction w) s = .next (apBase w s c u x) := by
  simp [exec, execApBaseInstruction, apRun, h.issuer]

theorem apJump_of_aligned {target : Word} (ha : target.toNat % 4 = 0) (ht : target.toNat < 0x4000) (s : State)
    (c u x rd : Nat) : apJump s c u x rd target =
      apDone s c u x rd (BitVec.ofNat 32 ((apCtx s c u x).pc.toNat + 4)) target.toNat := by
  unfold apJump
  rw [if_neg (by omega)]

/-- A computing, jumping or branching instruction: one destination and the next address. -/
theorem apBase_of_apResult {s : State} {c u x : Nat} {w : Word} {rd : Nat} {v : Word} {pc : Nat}
    (h : ApResult (apCtx s c u x) w rd v pc) : apBase w s c u x = apDone s c u x rd v pc := by
  unfold apBase
  cases h with
  | lui hop => simp only [hop]
  | auipc hop => simp only [hop]
  | jal hop hp ha ht => simp only [hop, ← hp, apJump_of_aligned ha ht]
  | jalr hop hf hp ha ht => simp only [hop, hf, ← hp, apJump_of_aligned ha ht, if_true]
  | taken hop hb hp ha ht => simp only [hop, hb, ← hp, apJump_of_aligned ha ht]
  | notTaken hop hb => simp only [hop, hb, apNext]
  | opImm hop hok => simp only [hop, hok, if_true]
  | op hop hm hok => simp only [hop, hm, hok, if_true, if_false]
  | mul hop hm => simp only [hop, hm, if_true]
  | fence hop hf ho => simp only [hop, hf, ho, apWait, apNext, if_true, Nat.le_refl]

theorem apBase_load {w : Word} (hop : rvOp w = 0x03) (s : State) (c u x : Nat) :
    apBase w s c u x = apLoad s c u x w := by
  simp only [apBase, hop]

theorem apBase_store {w : Word} (hop : rvOp w = 0x23) (s : State) (c u x : Nat) :
    apBase w s c u x = apStore s c u x w := by
  simp only [apBase, hop]

theorem rvSize_load {f3 : Nat} (h : f3 ∈ [0, 1, 2, 4, 5]) : rvSize f3 false = some (apBytes f3) := by
  simp only [List.mem_cons, List.not_mem_nil, or_false] at h
  rcases h with rfl | rfl | rfl | rfl | rfl <;> rfl

theorem rvSize_store {f3 : Nat} (h : f3 ∈ [0, 1, 2]) : rvSize f3 true = some (apBytes f3) := by
  simp only [List.mem_cons, List.not_mem_nil, or_false] at h
  rcases h with rfl | rfl | rfl <;> rfl

/-- What a load makes of the bytes it reads: LB and LH extend a sign, LW, LBU and LHU none. -/
theorem apLoaded_eq {f3 : Nat} (h : f3 ∈ [0, 1, 2, 4, 5]) (v : Nat) :
    (if f3 < 4 then BitVec.ofInt 32 (toSigned (8 * apBytes f3) v) else BitVec.ofNat 32 v) = apLoaded f3 v := by
  simp only [List.mem_cons, List.not_mem_nil, or_false] at h
  rcases h with rfl | rfl | rfl | rfl | rfl
  · rfl
  · rfl
  · exact ofInt_toSigned v
  · rfl
  · rfl

theorem apLoad_of_aligned {s : State} {c u x : Nat} {w : Word} (hf : rvF3 w ∈ [0, 1, 2, 4, 5])
    (ha : (apLoadAt (apCtx s c u x) w).toNat % apBytes (rvF3 w) = 0)
    (hin : (apLoadAt (apCtx s c u x) w).toNat < 0x2000) :
    apLoad s c u x w = apDone s c u x (rvRd w)
      (apLoaded (rvF3 w) (mnat (apUnit s c u).dmem (apLoadAt (apCtx s c u x) w).toNat (apBytes (rvF3 w))))
      ((apCtx s c u x).pc.toNat + 4) := by
  rw [← apLoaded_eq hf]
  unfold apLoadAt at *
  simp only [apLoad, rvSize_load hf]
  rw [if_neg (by omega)]
  rfl

/-- R345: a load that is misaligned, or outside the data memory. -/
theorem apLoad_of_bad_address {s : State} {c u x : Nat} {w : Word} (hf : rvF3 w ∈ [0, 1, 2, 4, 5])
    (h : ¬ ((apLoadAt (apCtx s c u x) w).toNat % apBytes (rvF3 w) = 0 ∧ (apLoadAt (apCtx s c u x) w).toNat < 0x2000)) :
    apLoad s c u x w = apExcept s c u x 0x42 (apLoadAt (apCtx s c u x) w) := by
  unfold apLoadAt at *
  simp only [apLoad, rvSize_load hf]
  rw [if_pos (by omega)]

theorem apStore_of_aligned {s : State} {c u x : Nat} {w : Word} (hf : rvF3 w ∈ [0, 1, 2])
    (ha : (apStoreAt (apCtx s c u x) w).toNat % apBytes (rvF3 w) = 0)
    (hin : (apStoreAt (apCtx s c u x) w).toNat < 0x2000) :
    apStore s c u x w = apNext (modUnit s c u fun y => { y with
      dmem := progStore y.dmem (apStoreAt (apCtx s c u x) w).toNat
        (leBytes (apBytes (rvF3 w)) (rvGet (apCtx s c u x).x (rvRs2 w)).toNat) }) c u x := by
  unfold apStoreAt at *
  simp only [apStore, rvSize_store hf]
  rw [if_neg (by omega)]

/-- Bytes put into a unit's data memory before its instruction completes. -/
theorem apUnit_apNext_modDmem {u : Nat} (hu : u < 2) (s : State) (c x : Nat) (f : Memory → Memory) :
    apUnit (apNext (modUnit s c u fun y => { y with dmem := f y.dmem }) c u x) c u =
      apAfter s c u x 0 0 ((apCtx s c u x).pc.toNat + 4) (f (apUnit s c u).dmem) := by
  rw [apNext, apUnit_apDone hu]
  simp only [apAfter, apCtx, apUnit_modUnit hu]

/-- Settles O41: each instruction of the base set is brought to the one change of its unit that `apDone` makes, or, for
a load at a bad address, to the end of its context. -/
theorem accessProcessorsRunRv32im : Obligations.AccessProcessorsRunRv32im := by
  unfold Obligations.AccessProcessorsRunRv32im
  refine ⟨fun s c u x w rd v pc hr h => ?_, fun s c u x w hr hop hf => ?_, fun s c u x w hr hop hf => ?_,
    fun s c u x w hr ⟨hop, hf, hbad⟩ => ?_, fun r => ⟨rfl, fun v => rfl⟩⟩
  · exact ⟨_, exec_apBaseInstruction hr w, by rw [apBase_of_apResult h]; rfl,
      by rw [apBase_of_apResult h, apUnit_apDone hr.unit]⟩
  · intro y a n ha hin
    have hload := (apBase_load hop s c u x).trans (apLoad_of_aligned hf ha hin)
    exact ⟨_, exec_apBaseInstruction hr w, by rw [hload]; rfl, by rw [hload, apUnit_apDone hr.unit]⟩
  · intro y a n ha hin
    have hstore := (apBase_store hop s c u x).trans (apStore_of_aligned hf ha hin)
    exact ⟨_, exec_apBaseInstruction hr w, by rw [hstore]; rfl,
      by rw [hstore, apUnit_apNext_modDmem hr.unit s c x fun m => progStore m _ _]⟩
  · refine ⟨_, exec_apBaseInstruction hr w, ?_⟩
    rw [apBase_load hop, apLoad_of_bad_address hf hbad]
    exact apEnded_apExcept hr (by decide) _

end Sys2Proof.Machine
end

section
/-!
PROOFS. The command rings and the host page (R438 to R440): what ending a command leaves behind, that a malformed
command of any code only ends, and what the page's registers take.
-/

namespace Sys2Proof.Machine

open Sys2Proof.Claims

/-! ## Ending a command -/

theorem ringOf_modRing {s : State} {r : Nat} (hr : r < s.rings.length) (f : Ring → Ring) :
    ringOf (modRing s r f) r = f (ringOf s r) :=
  lget_lmod_same s.rings r f default hr

theorem finished_finishCommand {s : State} {r : Nat} (hr : r < s.rings.length) (c : Command) (status : Nat) :
    Finished s (finishCommand s r c status) r c status := by
  obtain ⟨hl, iv, ws, ms, h, -⟩ := finishCommand_eq s r c status
  have hbytes := mbytes_mstore_same s.mem (hostPa (c.done / 4 * 4)) (leBytes 4 status)
  rw [length_leBytes] at hbytes
  rw [h]
  refine ⟨hbytes, ?_, ?_, ?_⟩
  · simp only [ringOf, lget_lmod_same _ _ _ _ hr]
  · simp only [ringOf, lget_lmod_same _ _ _ _ hr]
  · simp only [ringOf, lget_lmod_same _ _ _ _ hr, List.getLast?_concat]

/-- Ending a command changes no context, no graph, no die and no byte of memory but its completion word. -/
theorem finishCommand_keeps (s : State) (r : Nat) (c : Command) (status : Nat) :
    (finishCommand s r c status).contexts = s.contexts ∧ (finishCommand s r c status).graphs = s.graphs ∧
      (finishCommand s r c status).perDie = s.perDie ∧
      ∀ a, (a < hostPa (c.done / 4 * 4) ∨ hostPa (c.done / 4 * 4) + 4 ≤ a) →
        mread (finishCommand s r c status).mem a = mread s.mem a := by
  obtain ⟨hl, iv, ws, ms, h, -⟩ := finishCommand_eq s r c status
  rw [h]
  exact ⟨rfl, rfl, rfl, fun a ha => mread_mstore_outside _ _ _ _ (by rwa [length_leBytes])⟩

/-! ## Malformed commands (R440) -/

theorem commandBad_iff (s : State) (c : Command) :
    commandBad s c = true ↔ c.clean = false ∨ c.done % 4 ≠ 0 ∨ s.dies ≤ c.die := by
  simp [commandBad]

theorem subject_zero {s : State} {a : Nat} {l : List Nat} (hs : s.issuer = .event (a :: l)) : subject s 0 = a := by
  simp [subject, subjects, hs, lget]

theorem subject_one {s : State} {a b : Nat} {l : List Nat} (hs : s.issuer = .event (a :: b :: l)) :
    subject s 1 = b := by
  simp [subject, subjects, hs, lget]

section

variable {s : State} {r : Nat} {c : Command}

/-- A command of the shared form is found malformed before its operands are looked at. -/
theorem hostCommand_of_commandBad {code : Nat} {mine : Command → Bool} {bad : State → Command → Bool}
    {run : State → Nat → Command → Option (State × Nat)} (hs : s.issuer = .event [r])
    (hn : nextCommand s r = some c) (hb : commandBad s c = true) (hcode : c.code = code) (hmine : mine c = true) :
    hostCommand code mine bad run s = .next (finishCommand s r c 2) := by
  simp [hostCommand, subject_zero hs, hn, hcode, hmine, hb]

theorem plainCommand_of_commandBad {code : Nat} {bad : State → Command → Bool} {run : State → Command → State × Nat}
    (hs : s.issuer = .event [r]) (hn : nextCommand s r = some c) (hb : commandBad s c = true) (hcode : c.code = code) :
    plainCommand code bad run s = .next (finishCommand s r c 2) := by
  unfold plainCommand
  exact hostCommand_of_commandBad hs hn hb hcode rfl

theorem areaCommand_of_commandBad {mine : Nat → Bool} {bad : Command → Bool} {run : State → Command → State}
    (hs : s.issuer = .event [r]) (hn : nextCommand s r = some c) (hb : commandBad s c = true) (hcode : c.code = 0x0D)
    (hmine : mine (c.op 0) = true) : areaCommand mine bad run s = .next (finishCommand s r c 2) := by
  unfold areaCommand
  exact hostCommand_of_commandBad hs hn hb hcode hmine

theorem errorCommand_of_commandBad {mine bad : Command → Bool} {run : State → Command → HeldError → State}
    (hs : s.issuer = .event [r]) (hn : nextCommand s r = some c) (hb : commandBad s c = true) (hcode : c.code = 0x13)
    (hmine : mine c = true) : errorCommand mine bad run s = .next (finishCommand s r c 2) := by
  unfold errorCommand
  exact hostCommand_of_commandBad hs hn hb hcode hmine

theorem begin'_of_commandBad (hs : s.issuer = .event [r]) (hn : nextCommand s r = some c)
    (hb : commandBad s c = true) : execInvalidateTranslations.begin' s = s := by
  simp [execInvalidateTranslations.begin', subject_zero hs, hn, hb]

theorem execInvalidateTranslations_of_commandBad (hs : s.issuer = .event [r]) (hn : nextCommand s r = some c)
    (hb : commandBad s c = true) (hcode : c.code = 0x05) :
    execInvalidateTranslations s = .next (finishCommand s r c 2) := by
  rw [execInvalidateTranslations, begin'_of_commandBad hs hn hb]
  exact hostCommand_of_commandBad hs hn hb hcode rfl

theorem execBringUpPackage_of_commandBad (hs : s.issuer = .event [r]) (hn : nextCommand s r = some c)
    (hb : commandBad s c = true) (hcode : c.code = 0x15) :
    execBringUpPackage s = .next (finishCommand s r c 2) := by
  simp [execBringUpPackage, subject_zero hs, hn, hcode, hb]

/-- Whatever its code and its form, a malformed command ends with status 2. -/
theorem exec_of_commandBad {i : Instr} (hs : s.issuer = .event [r]) (hn : nextCommand s r = some c)
    (hb : commandBad s c = true) (hi : commandInstr c = some i) : exec i s = .next (finishCommand s r c 2) := by
  unfold commandInstr at hi
  split at hi <;> rename_i hcode <;> cases hi
  case h_5 => exact execInvalidateTranslations_of_commandBad hs hn hb hcode
  case h_21 => exact execBringUpPackage_of_commandBad hs hn hb hcode
  case h_6 | h_14 =>
    split <;> unfold exec <;> refine hostCommand_of_commandBad hs hn hb hcode ?_
    · exact decide_eq_true ‹_›
    · exact decide_eq_true ‹_›
  case h_13 =>
    split <;> unfold exec <;> refine areaCommand_of_commandBad hs hn hb hcode ?_
    · exact decide_eq_true ‹_›
    · exact decide_eq_true ‹_›
    · exact decide_eq_true ‹_›
    · rename_i h0 h1 h2
      have : c.op 0 ≠ 0 ∧ c.op 0 ≠ 1 ∧ c.op 0 ≠ 2 := ⟨h0, h1, h2⟩
      exact decide_eq_true (by omega)
  case h_19 =>
    split <;> unfold exec <;> refine errorCommand_of_commandBad hs hn hb hcode ?_
    · exact decide_eq_true ‹_›
    · exact decide_eq_true ‹_›
  case h_1 =>
    unfold exec
    exact hostCommand_of_commandBad hs hn hb hcode rfl
  all_goals
    unfold exec
    exact plainCommand_of_commandBad hs hn hb hcode

/-- A code without a meaning ends its command with status 2. -/
theorem ringTurn_of_no_instr (hn : nextCommand s r = some c) (hi : commandInstr c = none) :
    ringTurn s r = .next (finishCommand { s with issuer := .event [r] } r c 2) := by
  have hn' : nextCommand { s with issuer := .event [r] } r = some c := hn
  simp [ringTurn, hn', hi]

end

/-! ## Registers of the page (R439) -/

theorem putHalf_low (x v : Nat) :
    putHalf x false v % 2 ^ 32 = v % 2 ^ 32 ∧ putHalf x false v / 2 ^ 32 = x / 2 ^ 32 := by
  simp only [putHalf, Bool.false_eq_true, if_false]
  omega

theorem putHalf_high (x v : Nat) :
    putHalf x true v % 2 ^ 32 = x % 2 ^ 32 ∧ putHalf x true v / 2 ^ 32 = v % 2 ^ 32 := by
  simp only [putHalf, if_true]
  omega

section

variable {s : State} {r v off : Nat}

theorem exec_ringDoorbell (hs : s.issuer = .event [r, v]) (hp : pageOpen s = true) :
    exec .ringDoorbell s = .next (modRing s r fun x => { x with tail := v % 2 ^ 32 }) := by
  simp [exec, execRingDoorbell, subject_zero hs, subject_one hs, hp]

theorem exec_ringEnable_off (hs : s.issuer = .event [r, v]) (hp : pageOpen s = true) (hv : v / 256 % 2 = 0) :
    exec .ringEnable s = .next (modRing s r fun x => { x with enabled := false, log := v % 16, awaits := none }) := by
  simp [exec, execRingEnable, subject_zero hs, subject_one hs, hp, hv]

/-- A second enable, or one with a bad base or size, changes nothing. -/
theorem exec_ringEnable_ignored (hs : s.issuer = .event [r, v]) (hv : v / 256 % 2 = 1)
    (h : (ringOf s r).enabled = true ∨ (ringOf s r).base % 4096 ≠ 0 ∨ v % 16 < 4 ∨ 12 < v % 16) :
    exec .ringEnable s = .next s := by
  simp only [exec, execRingEnable, subject_zero hs, subject_one hs, hv]
  rcases h with h | h
  · simp [h]
  · simp [h]

theorem exec_ringEnable_on (hs : s.issuer = .event [r, v]) (hp : pageOpen s = true) (hv : v / 256 % 2 = 1)
    (he : (ringOf s r).enabled = false) (hb : (ringOf s r).base % 4096 = 0) (hlo : 4 ≤ v % 16) (hhi : v % 16 ≤ 12) :
    exec .ringEnable s = .next (modRing s r fun x =>
      { x with enabled := true, log := v % 16, tail := 0, head := 0, awaits := none }) := by
  simp [exec, execRingEnable, subject_zero hs, subject_one hs, hp, hv, he, hb, Nat.not_lt.2 hlo, Nat.not_lt.2 hhi]

theorem exec_errorLogHead (hs : s.issuer = .event [v]) (hp : pageOpen s = true) :
    exec .errorLogHead s = .next (flushErrors (s.errWaiting.length + 1) { s with errHead := v }) := by
  simp [exec, execErrorLogHead, subject_zero hs, hp]

theorem exec_hostRegisterWrite_ringBase (hs : s.issuer = .event [off, v]) (hp : pageOpen s = true)
    (h : 0x100 ≤ off ∧ off < 0x300 ∧ (off % 32 = 0 ∨ off % 32 = 4)) :
    exec .hostRegisterWrite s = .next (modRing s ((off - 0x100) / 32) fun x =>
      if x.enabled then x else { x with base := putHalf x.base (decide (off % 32 = 4)) v }) := by
  simp only [exec, execHostRegisterWrite, subject_zero hs, subject_one hs, hp, if_pos h]
  rfl

theorem exec_hostRegisterWrite_errBase (hs : s.issuer = .event [off, v]) (hp : pageOpen s = true)
    (h : off = 0x300 ∨ off = 0x304) :
    exec .hostRegisterWrite s = .next { s with errBase := putHalf s.errBase (decide (off = 0x304)) v } := by
  rcases h with rfl | rfl <;> simp [exec, execHostRegisterWrite, subject_zero hs, subject_one hs, hp]

theorem exec_hostRegisterWrite_errLog (hs : s.issuer = .event [0x308, v]) (hp : pageOpen s = true)
    (hlo : 7 ≤ v % 32) (hhi : v % 32 ≤ 20) :
    exec .hostRegisterWrite s = .next (flushErrors (s.errWaiting.length + 1) { s with errLog := v % 32 }) := by
  simp [exec, execHostRegisterWrite, subject_zero hs, subject_one hs, hp, hlo, hhi]

/-- A write of any other word of the page leaves some next state. -/
theorem exec_hostRegisterWrite_next (s : State) : ∃ t, exec .hostRegisterWrite s = .next t := by
  simp only [exec, execHostRegisterWrite]
  repeat' split
  all_goals exact ⟨_, rfl⟩

end

/-- Settles O50: a malformed command only ends, and each register of the page has its equation. -/
theorem refusedCommandsAndRegistersComplete : Obligations.RefusedCommandsAndRegistersComplete := by
  unfold Obligations.RefusedCommandsAndRegistersComplete
  refine ⟨fun s r c i hs hn hr hi hbad => ?_, fun s r c hn hi hr => ?_, fun s r v hs hp hr => ?_,
    fun s r v hs hp hr => ?_, fun s v hs hp => ?_, fun s off v hs hp => ?_⟩
  · exact ⟨_, exec_of_commandBad hs hn ((commandBad_iff s c).2 hbad) hi, finished_finishCommand hr c 2,
      finishCommand_keeps s r c 2⟩
  · obtain ⟨hctx, hgraphs, hdies, -⟩ := finishCommand_keeps { s with issuer := .event [r] } r c 2
    exact ⟨_, ringTurn_of_no_instr hn hi, finished_finishCommand (s := { s with issuer := .event [r] }) hr c 2,
      hctx, hgraphs, hdies⟩
  · exact ⟨_, exec_ringDoorbell hs hp, by rw [ringOf_modRing hr], rfl⟩
  · rcases Nat.mod_two_eq_zero_or_one (v / 256) with hv | hv
    · exact ⟨_, exec_ringEnable_off hs hp hv, rfl, fun _ => by rw [ringOf_modRing hr], by omega, by omega⟩
    · by_cases h : (ringOf s r).enabled = true ∨ (ringOf s r).base % 4096 ≠ 0 ∨ v % 16 < 4 ∨ 12 < v % 16
      · refine ⟨_, exec_ringEnable_ignored hs hv h, rfl, by omega, fun _ _ => rfl, fun _ he hb hlo hhi => ?_⟩
        simp only [he, Bool.false_eq_true, false_or] at h
        omega
      · simp only [not_or, Bool.not_eq_true, not_not, Nat.not_lt] at h
        obtain ⟨he, hb, hlo, hhi⟩ := h
        refine ⟨_, exec_ringEnable_on hs hp hv he hb hlo hhi, rfl, by omega, fun _ h => ?_, fun _ _ _ _ _ => ?_⟩
        · rw [he] at h; cases h
        · rw [ringOf_modRing hr]; exact ⟨rfl, rfl, rfl, rfl⟩
  · obtain ⟨m, hl, iv, ws, ms, ew, et, ev, h, -, -, hmem⟩ :=
      flushErrors_eq (s.errWaiting.length + 1) { s with errHead := v }
    rw [exec_errorLogHead hs hp, h]
    exact ⟨_, rfl, rfl, hmem⟩
  · by_cases hring : 0x100 ≤ off ∧ off < 0x300 ∧ (off % 32 = 0 ∨ off % 32 = 4)
    · refine ⟨_, exec_hostRegisterWrite_ringBase hs hp hring, fun r hr _ he => ⟨fun ho => ?_, fun ho => ?_⟩,
        by omega, by omega, by omega⟩
      · have hlow : (off - 0x100) / 32 = r ∧ ¬ off % 32 = 4 := by omega
        rw [hlow.1, ringOf_modRing hr]
        simpa [he, hlow.2] using putHalf_low (ringOf s r).base v
      · have hhigh : (off - 0x100) / 32 = r ∧ off % 32 = 4 := by omega
        rw [hhigh.1, ringOf_modRing hr]
        simpa [he, hhigh.2] using putHalf_high (ringOf s r).base v
    · have hno : ∀ r, r < 16 → off ≠ 0x100 + 32 * r ∧ off ≠ 0x104 + 32 * r := by omega
      by_cases hbase : off = 0x300 ∨ off = 0x304
      · refine ⟨_, exec_hostRegisterWrite_errBase hs hp hbase,
          fun r _ h16 _ => ⟨(absurd · (hno r h16).1), (absurd · (hno r h16).2)⟩, fun ho => ?_, fun ho => ?_, by omega⟩
        · simpa [ho] using putHalf_low s.errBase v
        · simpa [ho] using putHalf_high s.errBase v
      · by_cases hlog : off = 0x308 ∧ 7 ≤ v % 32 ∧ v % 32 ≤ 20
        · obtain ⟨rfl, hlo, hhi⟩ := hlog
          obtain ⟨m, hl, iv, ws, ms, ew, et, ev, h, -⟩ :=
            flushErrors_eq (s.errWaiting.length + 1) { s with errLog := v % 32 }
          rw [exec_hostRegisterWrite_errLog hs hp hlo hhi, h]
          exact ⟨_, rfl, fun r _ h16 _ => ⟨(absurd · (hno r h16).1), (absurd · (hno r h16).2)⟩,
            by omega, by omega, fun _ _ _ => rfl⟩
        · obtain ⟨t, ht⟩ := exec_hostRegisterWrite_next s
          exact ⟨t, ht, fun r _ h16 _ => ⟨(absurd · (hno r h16).1), (absurd · (hno r h16).2)⟩,
            by omega, by omega, by omega⟩

end Sys2Proof.Machine
end

section
/-!
PROOFS. What a step is on each kind of turn (R30, R31, R162, R338, R339, R438): the instruction, command or event of the
turn, then what every step ends with.
-/

namespace Sys2Proof.Machine

open Sys2Proof.Claims

/-! ## Attempts -/

/-- An attempt that nothing holds up is done. -/
theorem attempt_of_not_heldUp {s t : State} (h : heldUp s t = false) : attempt s t = spend t := by
  simp only [heldUp, Bool.or_eq_false_iff, Bool.not_eq_false'] at h
  simp [attempt, ifRoom, h.1, h.2]

@[simp] theorem spend_held (s : State) : (spend s).held = s.held := by
  unfold spend
  split <;> rfl

/-- The state in which a step begins: nothing of the last one is left. -/
def atRest (s : State) : State :=
  { s with issuer := .none, fetched := none, held := false, stuck := [], used := [] }

theorem step_of_act {s t : State} (h : act (atRest s) = .next t) : step s = .next (endStep t) := by
  unfold atRest at h
  simp only [step, h]

/-! ## Issue ports -/

/-- The state in which a port tries a gang. -/
def gangState (s : State) (k : Nat) (sl : BitVec 8) : State :=
  { s with issuer := .gang k sl, fetched := none, held := false }

theorem runGang_of_decoded {s f : State} {k : Nat} {sl : BitVec 8} {v : Word} {i : Instr}
    (htrap : entersTrap s k sl = false) (hf : exec .instructionFetch s = .next f) (hv : f.fetched = some v)
    (hi : decodeCore v.toNat = .ok i) : runGang s k sl = exec i f := by
  have hf' : execInstructionFetch s = .next f := hf
  simp [runGang, htrap, hf', hv, runWord, hi]

theorem tryGang_of_runGang {s t : State} {k : Nat} {sl : BitVec 8} (h : runGang (gangState s k sl) k sl = .next t)
    (hu : heldUp (gangState s k sl) t = false) : tryGang s k sl = .next (spend t) := by
  unfold gangState at h hu
  simp [tryGang, h, hu, attempt_of_not_heldUp hu]

/-- R31: no gang is tried behind one that issues. -/
theorem tryGangs_cons {s t : State} {c : Candidate} {rest : List Candidate}
    (h : tryGang s c.warp c.slices = .next t) (ht : t.held = false ∨ rest = []) :
    tryGangs (c :: rest) s = .next t := by
  cases rest with
  | nil => exact h
  | cons d r => simp [tryGangs, h, ht.resolve_right (List.cons_ne_nil d r)]

/-- R29, R162: a port's turn tries the candidates of `portState`. -/
theorem portTurn_of_tryGangs {s t : State} {d c p : Nat} {x : Candidate} {rest : List Candidate}
    (hon : islandOn s (islandOf d c) = true) (hc : candidates (portState s d c) d c p = x :: rest)
    (h : tryGangs (x :: rest) (portState s d c) = .next t) :
    portTurn (atRest s) d c p = .next (if t.held then t else unstarve t (coreKey d c)) := by
  have hon' : islandOn (atRest s) (islandOf d c) = true := hon
  unfold portState at hc h
  simp only [portTurn, hon', Bool.not_true, Bool.false_eq_true, if_false]
  unfold atRest
  simp only [hc, h]

/-! ## Access processors -/

/-- The state in which a context executes its word. -/
def ctxState (s : State) (c u x : Nat) : State :=
  { s with issuer := .ap c u x, fetched := some (apFetch s c u x), held := false }

theorem runContext_of_exec {s t : State} {c u x : Nat} {i : Instr} (hpc : (apCtx s c u x).pc.toNat < 0x4000)
    (hi : decodeAp (apFetch s c u x).toNat = .ok i) (ht : exec i (ctxState s c u x) = .next t) :
    runContext (ctxState s c u x) c u x = .next t := by
  have hpc' : ¬ 0x4000 ≤ (apCtx (ctxState s c u x) c u x).pc.toNat := Nat.not_le.2 hpc
  have hi' : decodeAp (apFetch (ctxState s c u x) c u x).toNat = .ok i := hi
  simp only [runContext, if_neg hpc', hi', ht]

theorem tryContext_of_exec {s t : State} {c u x : Nat} {i : Instr} (hpc : (apCtx s c u x).pc.toNat < 0x4000)
    (hi : decodeAp (apFetch s c u x).toNat = .ok i) (ht : exec i (ctxState s c u x) = .next t)
    (hu : heldUp (ctxState s c u x) t = false) : tryContext s c u x = .next (spend t) := by
  have hrun := runContext_of_exec hpc hi ht
  unfold ctxState at hrun hu
  simp [tryContext, hrun, hu, attempt_of_not_heldUp hu]

/-- R339: the first context that issues is the last to have issued. -/
theorem tryContexts_cons {s t : State} {c u x : Nat} {rest : List Nat}
    (h : tryContext (modApCtx s c u x fun y => { y with yielded := false }) c u x = .next t) (ht : t.held = false) :
    tryContexts c u (x :: rest) s = .next (modUnit t c u fun y => { y with last := x }) := by
  simp [tryContexts, h, ht]

theorem apTurn_of_tryContexts {s : State} {d c u : Nat} (hc : (tfind s.cores (coreKey d c)).isSome = true)
    (hon : islandOn s (islandOf d c) = true) :
    apTurn s d c u = tryContexts (coreKey d c) u (apOrder (apUnit s (coreKey d c) u)) s := by
  simp [apTurn, hon, Option.isSome_iff_ne_none.1 hc]

/-! ## Rings and events -/

theorem ringTurn_of_command {s t : State} {r : Nat} {c : Command} {i : Instr}
    (hc : nextCommand { s with issuer := .event [r] } r = some c) (hi : commandInstr c = some i)
    (ht : exec i { s with issuer := .event [r] } = .next t) :
    ringTurn s r = .next (attempt { s with issuer := .event [r] } t) := by
  simp only [ringTurn, hc, hi, ht, attempted]

/-- R162: an event is made in `eventState`, register starvation once the waits that are over are seen to be. -/
theorem eventTurn_of_exec {s t : State} {i : Instr} {l : List Nat} (hi : isEvent i = true)
    (ht : exec i (eventState s i l) = .next t) :
    eventTurn (atRest s) i l = .next (attempt (eventState s i l) t) := by
  simp only [eventTurn, hi, Bool.not_true, Bool.false_eq_true, if_false]
  exact congrArg (attempted (eventState s i l)) ht

/-! ## The turns -/

/-- Settles O57: on each kind of turn the step is the attempt of the word, command or event, then the end of the step. -/
theorem stepRunsTheInstructionOfItsTurn : Obligations.StepRunsTheInstructionOfItsTurn := by
  refine ⟨?port, ?ap, ?ring, ?event⟩
  case port =>
    intro s d c p k sl last slot rest f v i t hturn s0 hc g hon htrap hf hv hi ht hu hheld
    have hrun : runGang (gangState s0 k sl) k sl = .next t := (runGang_of_decoded htrap hf hv hi).trans ht
    have htries : tryGangs (⟨k, sl, last, slot⟩ :: rest) s0 = .next (spend t) :=
      tryGangs_cons (tryGang_of_runGang hrun hu) (by rwa [spend_held])
    have hact : act (atRest s) = portTurn (atRest s) d c p := by simp [act, atRest, hturn]
    rw [step_of_act (hact.trans (portTurn_of_tryGangs hon hc htries)), spend_held]
  case ap =>
    intro s d c u x rest i t hturn k hcore hon horder hpc hi ht hu hheld
    have htry := tryContext_of_exec (s := modApCtx (atRest s) k u x fun y => { y with yielded := false }) hpc hi ht hu
    have horder' : apOrder (apUnit (atRest s) k u) = x :: rest := horder
    have hturn' : apTurn (atRest s) d c u = .next (modUnit (spend t) k u fun y => { y with last := x }) := by
      refine (apTurn_of_tryContexts (s := atRest s) hcore hon).trans ?_
      rw [horder']
      exact tryContexts_cons htry (by rwa [spend_held])
    have hact : act (atRest s) = apTurn (atRest s) d c u := by simp [act, atRest, hturn]
    exact step_of_act (hact.trans hturn')
  case ring =>
    intro s r c i t hturn s0 hc hi ht
    have hact : act (atRest s) = ringTurn (atRest s) r := by simp [act, atRest, hturn]
    exact ⟨step_of_act (hact.trans (ringTurn_of_command hc hi ht)), attempt_of_not_heldUp⟩
  case event =>
    intro s i l t hturn hi ht
    have hact : act (atRest s) = eventTurn (atRest s) i l := by simp [act, atRest, hturn]
    exact ⟨step_of_act (hact.trans (eventTurn_of_exec hi ht)), attempt_of_not_heldUp⟩

end Sys2Proof.Machine
end

section
/-!
PROOFS. What an access to memory by the device's own units leaves alone (R222 to R225, R416): all but memory, its homes,
the requests that it sends and the marks of speculating warps.
-/

namespace Sys2Proof.Machine

/-- What accesses to memory have made of a state: memory and its homes, monitors, requests, translations, what an attempt
notes, and roll-back marks have changed. -/
structure Accessed (s t : State) : Prop where
  rest : t = { s with
    mem := t.mem, homeLines := t.homeLines, invalidations := t.invalidations, warps := t.warps, monitors := t.monitors
    copies := t.copies, reqs := t.reqs, fresh := t.fresh, used := t.used, stuck := t.stuck, tlb := t.tlb, free := t.free }
  warps : SameWarps t.warps s.warps

namespace Accessed

theorem rfl {s : State} : Accessed s s := ⟨Eq.refl _, .rfl⟩

theorem trans {s t u : State} (h : Accessed s t) (g : Accessed t u) : Accessed s u :=
  ⟨g.rest.trans (congrArg (fun t : State => { t with
    mem := u.mem, homeLines := u.homeLines, invalidations := u.invalidations, warps := u.warps, monitors := u.monitors
    copies := u.copies, reqs := u.reqs, fresh := u.fresh, used := u.used, stuck := u.stuck, tlb := u.tlb
    free := u.free }) h.rest), g.warps.trans h.warps⟩

theorem held {s t : State} (h : Accessed s t) : t.held = s.held := by rw [h.rest]
theorem saved {s t : State} (h : Accessed s t) : t.saved = s.saved := by rw [h.rest]
theorem issuer {s t : State} (h : Accessed s t) : t.issuer = s.issuer := by rw [h.rest]

theorem foldl {α : Type} {f : State → α → State} (h : ∀ s a, Accessed s (f s a)) (l : List α) (s : State) :
    Accessed s (l.foldl f s) := by
  induction l generalizing s with
  | nil => exact .rfl
  | cons a l ih => exact (h s a).trans (ih _)

end Accessed

theorem homeWrite_accessed (s : State) (pa : Nat) (b : List Byte) (e by' : Option Nat) :
    Accessed s (homeWrite s pa b e by') := by
  obtain ⟨hl, iv, ws, ms, h, hws⟩ := homeWrite_eq s pa b e by'
  rw [h]
  exact ⟨rfl, hws⟩

theorem dropCopies_accessed (s : State) (die line : Nat) : Accessed s (dropCopies s die line) := ⟨rfl, .rfl⟩
theorem sendUnit_accessed (s : State) (r : Req) : Accessed s (sendUnit s r) := ⟨rfl, .rfl⟩
theorem stick_accessed (s : State) (c die : Nat) (l : List Nat) : Accessed s (stick s c die l) := ⟨rfl, .rfl⟩
theorem draw_accessed (s : State) : Accessed s (draw s).2 := ⟨rfl, .rfl⟩

theorem physWrite_accessed (s : State) (c die pa : Nat) (b : List Byte) : Accessed s (physWrite s c die pa b) := by
  unfold physWrite
  extract_lets ls far
  split
  · exact .foldl (fun s l => (dropCopies_accessed ..).trans (sendUnit_accessed ..)) _ _
  split
  · exact (homeWrite_accessed ..).trans (.foldl (fun s l => dropCopies_accessed ..) _ _)
  split
  · refine .foldl (fun s l => ?_) _ _
    split
    · exact ⟨rfl, .rfl⟩
    · exact (homeWrite_accessed ..).trans (dropCopies_accessed ..)
  · exact stick_accessed ..

theorem physBytes_accessed (s : State) (c die pa n : Nat) : Accessed s (physBytes s c die pa n).1 := by
  unfold physBytes
  split <;> exact ⟨rfl, .rfl⟩

theorem walk_accessed (s : State) (u : Walker) (acc : Access) (va n t : Nat) (w x : Bool) :
    Accessed s (walk s u acc va n t w x).1 := by
  induction n generalizing s t w x with
  | zero => exact .rfl
  | succ n ih =>
    unfold walk
    extract_lets size leaf
    split
    · exact .rfl
    have hb := physBytes_accessed s u.ctx u.die leaf 8
    generalize physBytes s u.ctx u.die leaf 8 = r at hb
    obtain ⟨s1, _ | b⟩ := r
    · exact hb
    · dsimp only
      split
      · exact hb
      split
      · exact hb
      split
      · exact hb
      split
      · exact hb
      · exact hb.trans (ih ..)

theorem touchLeaf_accessed (s : State) (u : Walker) (leaf : Nat) (acc : Access) : Accessed s (touchLeaf s u leaf acc) := by
  unfold touchLeaf
  extract_lets or
  split
  · split
    · exact .rfl
    · exact sendUnit_accessed ..
  · split
    · exact .rfl
    · exact physWrite_accessed ..

theorem found_accessed (s : State) (u : Walker) (va : Nat) (acc : Access) :
    Accessed s (findTrans.found s u va acc).1 := by
  have hwalk (s : State) : Accessed s (findTrans.walked u va acc s).1 := by
    unfold findTrans.walked
    split
    · exact .rfl
    · exact walk_accessed ..
  unfold findTrans.found
  split
  · extract_lets d
    split
    · split <;> exact draw_accessed s
    · exact (draw_accessed s).trans (hwalk _)
  · exact hwalk s

theorem findTrans_accessed (s : State) (u : Walker) (va : Nat) (acc : Access) : Accessed s (findTrans s u va acc).1 := by
  have h := found_accessed s u va acc
  unfold findTrans
  split
  · rename_i s1 t e
    rw [e] at h
    split <;> exact h
  · exact h

theorem useTrans_accessed (s : State) (u : Walker) (acc : Access) (t : Trans) : Accessed s (useTrans s u acc t) := by
  unfold useTrans
  refine .trans ?_ (touchLeaf_accessed ..)
  split <;> exact ⟨rfl, .rfl⟩

theorem translate_accessed (s : State) (u : Walker) (va : Nat) (acc : Access) : Accessed s (translate s u va acc).1 := by
  have h := findTrans_accessed s u va acc
  unfold translate
  split
  · rename_i s1 t e
    rw [e] at h
    exact h.trans (useTrans_accessed ..)
  · exact h

theorem vwrite_accessed (s : State) (c die va : Nat) (b : List Byte) : Accessed s (vwrite s c die va b).1 := by
  induction b generalizing s va with
  | nil => exact .rfl
  | cons b r ih =>
    have h := translate_accessed s (dieWalker c die) va .write
    unfold vwrite
    split
    · rename_i s1 k e
      rwa [e] at h
    · rename_i s1 t e
      rw [e] at h
      split
      · exact h.trans (physWrite_accessed ..)
      · exact (h.trans (physWrite_accessed ..)).trans (ih ..)

theorem vread_accessed (s : State) (c die va n : Nat) : Accessed s (vread s c die va n).1 := by
  induction n generalizing s va with
  | zero => exact .rfl
  | succ n ih =>
    have h := translate_accessed s (dieWalker c die) va .read
    have hb (s : State) (t : Trans) (m : Nat) := physBytes_accessed s c die t.pa m
    unfold vread
    split
    · rename_i s1 k e
      rwa [e] at h
    · rename_i s1 t e
      rw [e] at h
      extract_lets len
      split
      · have hn := h.trans (hb s1 t (n + 1))
        split <;> rename_i e <;> rwa [e] at hn
      · have h1 := h.trans (hb s1 t 1)
        split
        · rename_i e
          rwa [e] at h1
        · rename_i s2 b e
          rw [e] at h1
          have h2 := h1.trans (ih s2 (va + 1))
          split <;> rename_i e <;> rwa [e] at h2


end Sys2Proof.Machine
end

section
/-!
PROOFS. What a workgroup that leaves with its last warp keeps of the table of saved warps, and a warp that loses its
identity so (R169, R387).
-/

namespace Sys2Proof.Machine

open Sys2Proof.Claims

/-! ## The table of saved warps, as a workgroup leaves -/

theorem poolTake_saved {s t : State} {c size align a : Nat} (h : poolTake s c size align = some (a, t)) :
    t.saved = s.saved := by
  unfold poolTake at h
  split at h
  · cases h
  · split at h <;> cases h
    rfl

theorem writeRecord_saved (s : State) (c die : Nat) (b : List Byte) : (writeRecord s c die b).2.saved = s.saved := by
  unfold writeRecord
  split
  · rfl
  · split
    · rfl
    · rename_i a s1 e
      exact (vwrite_accessed ..).saved.trans (poolTake_saved e)

theorem writeGroupRecords_saved (s : State) (g c : Nat) : (writeGroupRecords s g c).saved = s.saved := by
  unfold writeGroupRecords
  split
  · rfl
  · dsimp only
    split <;> simp only [writeRecord_saved]

theorem writeCohortRecord_saved (s : State) (co g : Nat) (id : Ident) :
    (writeCohortRecord s co g id).saved = s.saved := by
  unfold writeCohortRecord
  extract_lets x gs
  split
  · rfl
  · exact writeRecord_saved ..

theorem rewriteGroupRecords_saved (s : State) (g c : Nat) (f : SavedGroup → SavedGroup) :
    (rewriteGroupRecords s g c f).saved = s.saved := by
  unfold rewriteGroupRecords
  split
  · rfl
  · have hfree (s : State) (a : Nat) : (poolFree s c a).saved = s.saved := rfl
    dsimp only
    split <;> simp only [(vwrite_accessed ..).saved, writeRecord_saved, hfree]

theorem carryRegions_saved (s : State) (co cl : Nat) (id : Ident) : (carryRegions s co cl id).saved = s.saved := by
  unfold carryRegions
  extract_lets mine carried s1
  have h1 : s1.saved = s.saved := foldl_keep State.saved _ (fun s p => by
    split
    · rfl
    · exact rewriteGroupRecords_saved ..) _ _
  split <;> exact h1

theorem takeCore_saved (s : State) (c g : Nat) : (takeCore s c g).1.saved = s.saved := by
  unfold takeCore
  extract_lets x s1 ops parked s2
  have h1 : s1.saved = s.saved := by
    refine foldl_keep State.saved _ (fun s i => ?_) (List.range 16) s
    extract_lets y
    split
    · rfl
    · exact (vwrite_accessed ..).saved
  clear_value s1
  have h2 : s2.saved = s1.saved := by
    refine foldl_keep State.saved _ (fun s p => ?_) ops s1
    rfl
  exact h2.trans h1

/-- The hash command at the head of its cluster's queue is all that its workgroup has there. -/
theorem takeCommands_saved {s : State} {c g o : Nat} {h : HashCommand} (hq : (clusterAt s c).hashQueue = [h])
    (hg : h.group = g) (ho : h.op = some o) :
    (takeCommands s c g).1.saved = (abandonOp (forgetBehind s (.hash c)) o).saved := by
  unfold takeCommands
  extract_lets x cmds ops headGone s1 mine m
  have hops : ops = [o] := by simp [ops, cmds, x, hq, hg, ho]
  have hgone : headGone = true := by simp [headGone, x, hq, hg]
  have hm : m.1.saved = s1.saved := foldl_keep (fun m : State × List MxEntry => m.1.saved) _ (fun m e => by
    dsimp only [mxSuspend]
    split <;> rfl) _ _
  have h1 : s1 = abandonOp (forgetBehind s (.hash c)) o := by simp [s1, hops, hgone]
  rw [← h1]
  exact hm

theorem saveGroup_saved (s : State) (w : Warp)
    (h : s.ops.filter (fun p => (p.2.kind == .copy || p.2.kind == .planes) && decide (p.2.group = w.ident.group)) = []) :
    (saveGroup s w).saved = (takeCommands s w.clusterOf w.ident.group).1.saved := by
  unfold saveGroup
  extract_lets g cl copies s1 slots cmds leaves core id sv src s2 co s3
  have h1 : s1 = s := by simp [s1, copies, g, h]
  have hcore : core.1.saved = cmds.1.saved := by
    simp only [core]
    split
    · exact takeCore_saved ..
    · rfl
  have h3 : s3.saved = core.1.saved := by
    simp only [s3]
    split
    · rfl
    · exact carryRegions_saved ..
  rw [writeCohortRecord_saved, writeGroupRecords_saved, h3, hcore]
  simp only [cmds, h1, cl, g]

/-! ## A warp that is saved -/

/-- R169, R387: the last warp of the device takes its workgroup with it. -/
theorem execWarpSave_of_last {s t : State} {k : Nat} {w : Warp} (hk : subject s 0 = k) (hw : tfind s.warps k = some w)
    (hstop : w.stopping = true) (hlatch : holdsLatch w = false) (hspec : w.spec = none) (hquiet : warpQuiet s k = true)
    (hgroup : groupQuiet s k w = true) (hfits : areaFits s w = true)
    (hops : (opsOf s k).filter (fun p => droppedAtSave p.2) = [])
    (ht : (removeWarp s k (mayReturn s w) false).1 = t) (hlast : t.warps = []) :
    exec .warpSave s = .next (saveGroup t w) := by
  have hat : warpAt s k = w := by simp [warpAt, tget, hw]
  show execWarpSave s = _
  simp [execWarpSave, hk, hw, hstop, hlatch, hspec, hquiet, hgroup, hfits, hops, hat, ht, hlast]

theorem updateWarp_saved {s : State} {k : Nat} {f : Warp → Warp} {sv : Saved} (hw : tfind s.warps k = none)
    (hs : tfind s.saved k = some sv) :
    tfind (updateWarp s k f).saved k = some { sv with rest := f (readSave s sv).2 } := by
  simp only [updateWarp, hw, hs, tfind_tput_same]

theorem abandonOp_saved {s : State} {o k : Nat} (h : (tfind s.ops o).bind Op.warp = some k) :
    (abandonOp s o).saved = (updateWarp s k (uncount o)).saved := by
  simp only [abandonOp, h]
  unfold endOp
  split <;> rfl


/-- A read within one page is one translation and one read of physical memory. -/
theorem vread_of_onePage {s : State} {c die va n : Nat} {t : Trans}
    (ht : (translate s (dieWalker c die) va .read).2 = .ok t) (hn : n + 1 ≤ t.attr.size - t.pa % t.attr.size)
    (hl : lostLine (translate s (dieWalker c die) va .read).1 t.pa (n + 1) = false) :
    let s1 := (translate s (dieWalker c die) va .read).1
    vread s c die va (n + 1) = ((physBytes s1 c die t.pa (n + 1)).1,
      .ok ((List.range (n + 1)).map fun i => unitByte s1 (t.pa + i))) := by
  generalize hr : translate s (dieWalker c die) va .read = r at ht hl
  obtain ⟨s1, x⟩ := r
  subst ht
  simp [vread, hr, Nat.min_eq_left hn, physBytes, hl]

/-- Bytes whose first eight are 0 begin with the number 0. -/
theorem mnat_mstore_zero {b : List Byte} (hb : 8 ≤ b.length) (h : ∀ i < 8, lget b i 0 = 0) :
    mnat (mstore [] 0 b) 0 8 = 0 := by
  have hm (i : Nat) (hi : i < 8) : mread (mstore [] 0 b) i = 0 := by
    have := mread_mstore_inside [] 0 i b (hi.trans_le hb)
    rw [Nat.zero_add] at this
    exact this.trans (h i hi)
  simp [mnat, mbytes, leNat, hm]

end Sys2Proof.Machine

namespace Sys2Proof.Machine.SavedOverReadOnlyArea

/-! ## A save area that can be read but not written -/

/-- A table of host memory all of whose levels are itself; its second entry is a read-only page of 1 GiB. -/
def table : Nat := 2 ^ 48 + 2 ^ 40

/-- The warp that is to be saved. -/
def leaving : Warp :=
  { (default : Warp) with ident := { (default : Ident) with ctx := 1, group := 1, wid := 32 }, stopping := true }

/-- A state in which a hash command of the warp is under way as its workgroup leaves; the context's save pool, on the
read-only page, has room for the warp's area. -/
def start : State :=
  { State.reset with
    issuer := .event [1], dieLink := true
    mem := mputNat (mputNat [] table 8 (table + 7)) (table + 8) 8 (2 ^ 48 + 0x91)
    contexts := [(1, { (default : Context) with tbase := table, save := 2 ^ 30, savesz := 3 })]
    warps := [(1, leaving)]
    clusters := [(0, { (default : Cluster) with hashQueue := [{ (default : HashCommand) with group := 1, op := some 9 }] })]
    ops := [(9, { (default : Op) with kind := .image, warp := some 1 })] }

/-- The state once the warp has left its core, and its workgroup's command is about to be taken. -/
def left : State := (removeWarp start 1 (mayReturn start leaving) false).1

/-- The state in which the command's operation is abandoned. -/
def taken : State := forgetBehind left (.hash 0)

/-- What translates the save area. -/
def area : Trans := ⟨2 ^ 48, (0, 0), ⟨0, 0, 0, 0, 0, 2 ^ 30⟩, table + 8, 2 ^ 30, 2 ^ 48, false, false⟩

/-- The state once the save area's address is translated for reading. -/
def walked : State := (translate taken (dieWalker 1 0) (2 ^ 30) .read).1

theorem translate_area : (translate taken (dieWalker 1 0) (2 ^ 30) .read).2 = .ok area := by
  have h : (translate taken (dieWalker 1 0) (2 ^ 30) .read).2.toOption = some area := by decide +kernel
  cases e : (translate taken (dieWalker 1 0) (2 ^ 30) .read).2 with
  | error k =>
    rw [e] at h
    cases h
  | ok t =>
    rw [e] at h
    exact congrArg _ (Option.some.inj h)

theorem area_there : (linesOf area.pa 0x24000).filter (fun l => !lineThere walked 0 l) = [] := by
  have h : ((linesOf area.pa 0x24000).all fun l => lineThere walked 0 l) = true := by decide +kernel
  simpa [List.filter_eq_nil_iff] using h

/-- The bytes of the save area, none of which the warp's departure could write. -/
def areaBytes : List Byte := (List.range 0x24000).map fun i => unitByte walked (area.pa + i)

theorem vread_area : vread taken 1 0 (2 ^ 30) 0x24000 = ((physBytes walked 1 0 area.pa 0x24000).1, .ok areaBytes) :=
  vread_of_onePage translate_area (by decide) (by decide +kernel)

theorem stuck_physBytes_area : (physBytes walked 1 0 area.pa 0x24000).1.stuck = taken.stuck := by
  have hl : lostLine walked area.pa 0x24000 = false := by decide +kernel
  have hs : walked.stuck = taken.stuck := by decide +kernel
  simp [physBytes, hl, stick, area_there, hs]

theorem mnat_areaBytes : mnat (mstore [] 0 areaBytes) 0 8 = 0 := by
  have h : ∀ i < 8, unitByte walked (area.pa + i) = 0 := by decide +kernel
  refine mnat_mstore_zero (by simp [areaBytes]) fun i hi => ?_
  have hi' : i < 0x24000 := by omega
  simpa [areaBytes, lget, hi'] using h i hi

/-- R387: the identity of the warp is what its area holds. -/
theorem wid_readSave {sv : Saved} (ha : sv.addr = 2 ^ 30) (hc : sv.rest.ident.ctx = 1) (hd : sv.rest.die = 0) :
    (readSave taken sv).2.ident.wid = 0 := by
  have himg : saveImage taken 1 0 (2 ^ 30) =
      ((physBytes walked 1 0 area.pa 0x24000).1, some (mstore [] 0 areaBytes)) := by
    simp only [saveImage, vread_area, stuck_physBytes_area, if_true]
  have hr : (readSave taken sv).2 = savedWarp (mstore [] 0 areaBytes) sv.clock sv.rest := by
    rw [readSave, if_neg (by rw [ha]; decide), hc, hd, ha, himg]
  rw [hr]
  exact congrArg (BitVec.ofNat 64) mnat_areaBytes

theorem saved_taken : ∃ sv, tfind taken.saved 1 = some sv ∧ sv.addr = 2 ^ 30 ∧ sv.rest.ident.ctx = 1 ∧ sv.rest.die = 0 := by
  have h : (tfind taken.saved 1).map (fun x => (x.addr, x.rest.ident.ctx, x.rest.die)) = some (2 ^ 30, 1, 0) := by
    decide +kernel
  obtain ⟨sv, hsv, he⟩ := Option.map_eq_some_iff.1 h
  simp only [Prod.mk.injEq] at he
  exact ⟨sv, hsv, he⟩

/-- Taking the workgroup's command reads the warp's area for it, the warp's identity with it. -/
theorem saved_saveGroup : ∃ x, tfind (saveGroup left leaving).saved 1 = some x ∧ x.rest.ident.wid = 0 := by
  have hcopies : left.ops.filter (fun p => (p.2.kind == .copy || p.2.kind == .planes) && decide (p.2.group = 1)) = [] := by
    decide +kernel
  have hqueue : (clusterAt left 0).hashQueue = [{ (default : HashCommand) with group := 1, op := some 9 }] := by
    decide +kernel
  have hop : (tfind taken.ops 9).bind Op.warp = some 1 := by decide +kernel
  have hgone : (tfind taken.warps 1).isNone = true := by decide +kernel
  obtain ⟨sv, hsv, ha, hc, hd⟩ := saved_taken
  have hsaved : (saveGroup left leaving).saved = (updateWarp taken 1 (uncount 9)).saved :=
    calc (saveGroup left leaving).saved
      _ = (takeCommands left 0 1).1.saved := saveGroup_saved left leaving hcopies
      _ = (abandonOp taken 9).saved := takeCommands_saved hqueue rfl rfl
      _ = _ := abandonOp_saved hop
  exact ⟨_, by rw [hsaved]; exact updateWarp_saved (Option.isNone_iff_eq_none.1 hgone) hsv, wid_readSave ha hc hd⟩

theorem exec_start : exec .warpSave start = .next (saveGroup left leaving) := by
  have hlast : left.warps.isEmpty = true := by decide +kernel
  exact execWarpSave_of_last (k := 1) rfl rfl rfl (by decide) rfl (by decide +kernel) (by decide +kernel)
    (by decide +kernel) (by decide +kernel) rfl (List.isEmpty_iff.1 hlast)

end Sys2Proof.Machine.SavedOverReadOnlyArea

namespace Sys2Proof.Machine

open SavedOverReadOnlyArea in
/-- Refutes O47, in its last part: a warp's identity is read back from its save area as its workgroup's hash command is
taken; where the area's page is read-only the departure has written nothing there, and the identity is lost. -/
theorem not_workIsPlacedSavedAndCompleted : ¬ Obligations.WorkIsPlacedSavedAndCompleted := by
  intro h
  obtain ⟨-, -, -, hsave⟩ := h
  obtain ⟨t, ht, -, x, hx, -, hident⟩ := hsave start 1 leaving rfl rfl rfl (by decide) rfl (by decide +kernel)
    (by decide +kernel) (by decide +kernel)
  have hleft : t = saveGroup left leaving := Host.Outcome.next.inj (ht.symm.trans exec_start)
  obtain ⟨y, hy, hwid⟩ := saved_saveGroup
  rw [hleft] at hx
  have hxy : x = y := Option.some.inj (hx.symm.trans hy)
  rw [← hxy, hident] at hwid
  exact absurd hwid (by decide)

end Sys2Proof.Machine
end

section
/-!
PROOFS. What an instruction's effect leaves alone: whether the issuer is held (R30). Only a gang that waits and an access
processor that blocks are held; nothing that an instruction of a gang does besides.
-/

namespace Sys2Proof.Machine

theorem foldl_held {α : Type} {g : State → α → State} (hg : ∀ s a, (g s a).held = s.held) (l : List α) (s : State) :
    (l.foldl g s).held = s.held :=
  foldl_keep State.held g hg l s

/-! ## Machine/Translate.lean -/

@[simp] theorem translate_held (s : State) (u va acc) : (translate s u va acc).1.held = s.held :=
  (translate_accessed ..).held

@[simp] theorem vread_held (s : State) (c die va n) : (vread s c die va n).1.held = s.held := (vread_accessed ..).held

@[simp] theorem vwrite_held (s : State) (c die va b) : (vwrite s c die va b).1.held = s.held := (vwrite_accessed ..).held

@[simp] theorem postFor_held (s : State) (c die b behind o) : (postFor s c die b behind o).held = s.held := by
  obtain ⟨_, _, _, _, _, _, _, _, _, h, -⟩ := postFor_eq s c die b behind o
  rw [h]

@[simp] theorem postRecord_held (s : State) (c die b behind) : (postRecord s c die b behind).held = s.held :=
  postFor_held ..

theorem poolTake_held {s t : State} {c size align a : Nat} (h : poolTake s c size align = some (a, t)) :
    t.held = s.held := by
  grind [poolTake, modCtx_held]

/-! ## Machine/Warps.lean -/

@[simp] theorem modSlice_held (s : State) (k i f) : (modSlice s k i f).held = s.held := rfl

@[simp] theorem modGang_held (s : State) (k sl f) : (modGang s k sl f).held = s.held :=
  foldl_held (fun s _ => by simp) ..

@[simp] theorem dropRequests_held (s : State) (c f) : (dropRequests s c f).held = s.held := by
  unfold dropRequests
  split <;> simp

@[simp] theorem privatise_held (s : State) (k g) : (privatise s k g).held = s.held := by
  simp [privatise]

@[simp] theorem freshenLatch_held (s : State) (k i f) : (freshenLatch s k i f).held = s.held := by
  unfold freshenLatch
  split <;> simp

@[simp] theorem reconverge_held (s : State) (k sl) : (reconverge s k sl).held = s.held := rfl

@[simp] theorem raiseCounter_held (s : State) (k p o) : (raiseCounter s k p o).held = s.held := rfl

@[simp] theorem lowerCounter_held (s : State) (k p o) : (lowerCounter s k p o).held = s.held := rfl

@[simp] theorem markPending_held (s : State) (k sl regs o) : (markPending s k sl regs o).held = s.held := rfl

@[simp] theorem clearMarks_held (s : State) (k o) : (clearMarks s k o).held = s.held := rfl

/-! ## Machine/Save.lean -/

@[simp] theorem writeSave_held (s : State) (w a now) : (writeSave s w a now).held = s.held := by
  grind [writeSave, vwrite_held, foldl_held]

@[simp] theorem saveImage_held (s : State) (c die a) : (saveImage s c die a).1.held = s.held := by
  grind [saveImage, vread_held]

@[simp] theorem readSave_held (s : State) (sv) : (readSave s sv).1.held = s.held := by
  grind [readSave, saveImage_held]

@[simp] theorem poolFree_held (s : State) (c a) : (poolFree s c a).held = s.held := rfl

@[simp] theorem saveChain_held (s : State) (c die n k) : (saveChain s c die n k).held = s.held := by
  induction n generalizing s k with
  | zero => rfl
  | succ n ih => grind [saveChain, poolTake_held, vwrite_held]

/-! ## Machine/Ops.lean -/

@[simp] theorem updateWarp_held (s : State) (k f) : (updateWarp s k f).held = s.held := by
  grind [updateWarp, modWarp_held, readSave_held, writeSave_held]

@[simp] theorem releaseNested_held (s : State) : (releaseNested s).held = s.held := foldl_held (fun s _ => by simp) ..

@[simp] theorem letGo_held (s : State) (k sl o) : (letGo s k sl o).held = s.held := rfl

@[simp] theorem trimImages_held (s : State) (c) : (trimImages s c).held = s.held := by
  unfold trimImages
  dsimp only
  split <;> simp

@[simp] theorem dropGrants_held (s : State) (c k) : (dropGrants s c k).held = s.held := by
  unfold dropGrants
  split <;> simp

@[simp] theorem dropHolding_held (s : State) (c k sl) : (dropHolding s c k sl).held = s.held := by
  unfold dropHolding
  split <;> simp

@[simp] theorem dropWaiting_held (s : State) (c k sl) : (dropWaiting s c k sl).held = s.held := by
  simp [dropWaiting]

@[simp] theorem reap_held (s : State) (k) : (reap s k).held = s.held := by
  grind [reap, dropGrants_held, modGroup_held, trimImages_held]

@[simp] theorem lower_held (s : State) (k p o) : (lower s k p o).held = s.held := by
  simp [lower]

@[simp] theorem endOp_held (s : State) (o) : (endOp s o).held = s.held := by
  unfold endOp
  split <;> simp

@[simp] theorem staleRemote_held (s : State) (die core scope) : (staleRemote s die core scope).held = s.held := rfl

@[simp] theorem acquire_held (s : State) (die core scope) : (acquire s die core scope).held = s.held := by
  grind [acquire, modCore_held, staleRemote_held]

@[simp] theorem acquireWarp_held (s : State) (k scope) : (acquireWarp s k scope).held = s.held := by
  simp [acquireWarp]

@[simp] theorem unsample_held (s : State) (o) : (unsample s o).held = s.held := rfl

@[simp] theorem killPast_held (s : State) (k since) : (killPast s k since).held = s.held :=
  foldl_held (fun s _ => by simp) ..

@[simp] theorem backToFence_held (s : State) (k) : (backToFence s k).held = s.held := by
  unfold backToFence
  split <;> simp

@[simp] theorem removeWarp_held (s : State) (k restorable stopped) :
    (removeWarp s k restorable stopped).1.held = s.held := by
  grind [removeWarp, backToFence_held, dropGrants_held, dropHolding_held, poolTake_held, saveChain_held,
    trimImages_held, writeSave_held]

@[simp] theorem doubleTrap_held (s : State) (k cause pc) : (doubleTrap s k cause pc).held = s.held := by
  unfold doubleTrap
  split <;> simp

@[simp] theorem landFlags_held (s : State) (k o fl) : (landFlags s k o fl).held = s.held := rfl

@[simp] theorem performWrites_held (s : State) (o) : (performWrites s o).held = s.held := by
  grind [performWrites, endOp_held, landFlags_held, modWarp_held, foldl_held]

@[simp] theorem drainGang_held (s : State) (k sl) : (drainGang s k sl).held = s.held :=
  foldl_held (fun s _ => by simp) ..

@[simp] theorem trapSlices_held (s : State) (k sl cause vals past) :
    (trapSlices s k sl cause vals past).held = s.held := by
  grind [trapSlices, doubleTrap_held, drainGang_held, dropWaiting_held, modSlice_held, modWarp_held, foldl_held]

@[simp] theorem trapGang_held (s : State) (k sl cause val past) : (trapGang s k sl cause val past).held = s.held := by
  simp [trapGang]

@[simp] theorem askCore_held (s : State) (die core mine) : (askCore s die core mine).2.held = s.held := by
  unfold askCore
  dsimp only
  split <;> simp

@[simp] theorem askGranules_held (s : State) (k sl kind n) : (askGranules s k sl kind n).2.held = s.held := by
  simp [askGranules]

@[simp] theorem stampIssue_held (s : State) (k sl) : (stampIssue s k sl).held = s.held := by
  simp [stampIssue]

@[simp] theorem finishIssue_held (s : State) (f k sl held) : (finishIssue f s k sl held).held = s.held := by
  simp [finishIssue]

@[simp] theorem grantFor_held (s : State) (f k sl w) : (grantFor f s k sl w).2.held = s.held := by
  unfold grantFor
  dsimp only
  split <;> simp

@[simp] theorem readCycle_held (f) (s s0 : State) (k sl w) : (readCycle f s s0 k sl w).held = s0.held := by
  grind [readCycle, drainGang_held, freshenLatch_held, modGang_held, modWarp_held, privatise_held, foldl_held]

/-! ## Machine/Operands.lean -/

@[simp] theorem queueLanes_held (s : State) (k sl dest lat mask f) :
    (queueLanes s k sl dest lat mask f).held = s.held := rfl

/-! ## Machine/Access.lean -/

@[simp] theorem setPub_held (s : State) (p e) : (setPub s p e).held = s.held := rfl

@[simp] theorem sampleVersion_held (s : State) (die core o rec writer) :
    (sampleVersion s die core o rec writer).1.held = s.held := by
  unfold sampleVersion
  dsimp only
  split <;> simp

@[simp] theorem abandonReqs_held (s : State) (o) : (abandonReqs s o).held = s.held := rfl

@[simp] theorem addOp_held (s : State) (op) : (addOp s op).2.held = s.held := rfl

@[simp] theorem holdFor_held (s : State) (k sl o) : (holdFor s k sl o).held = s.held := by
  simp [holdFor]

@[simp] theorem opRecord_held (s : State) (o op kind entry va resume lanes behind) :
    (opRecord s o op kind entry va resume lanes behind).held = s.held := by
  simp [opRecord]

@[simp] theorem postAddressErrors_held (s : State) (o op kind l) :
    (postAddressErrors s o op kind l).held = s.held := by
  unfold postAddressErrors
  split <;> simp

@[simp] theorem sendReq_held (s : State) (r) : (sendReq s r).held = s.held := rfl

/-! ## Machine/Sequencer.lean -/

@[simp] theorem setBarrier_held (s : State) (w key b) : (setBarrier s w key b).held = s.held := by
  unfold setBarrier
  split <;> simp

@[simp] theorem endPhase_held (s : State) (w key b) : (endPhase s w key b).held = s.held := by
  grind [endPhase, acquireWarp_held, setBarrier_held, updateWarp_held, foldl_held]

@[simp] theorem arriveAt_held (s : State) (k key count) : (arriveAt s k key count).held = s.held := by
  unfold arriveAt
  dsimp only
  split <;> simp

@[simp] theorem tryRend_held (s : State) (g r k sl) : (tryRend s g r k sl).2.held = s.held := by
  grind [tryRend, askCore_held, updateWarp_held, foldl_held]

@[simp] theorem lateArrival_held (s : State) (k key) : (lateArrival s k key).held = s.held := by
  grind [lateArrival, modGang_held, trapGang_held, arriveAt_held]

@[simp] theorem settleEnds_held (s : State) (k) : (settleEnds s k).held = s.held := by
  unfold settleEnds
  dsimp only
  split
  · simp
  · exact (foldl_held (fun s e => by split <;> simp) ..).trans (foldl_held (fun s e => by split <;> simp) ..)

@[simp] theorem writeLanes_held (s : State) (k sl d lat fl v) : (writeLanes s k sl d lat fl v).held = s.held := rfl

@[simp] theorem writeSpecial_held (s : State) (sel f k sl) : (writeSpecial sel f s k sl).held = s.held := by
  unfold writeSpecial
  dsimp only
  split
  · rfl
  all_goals exact foldl_held (fun s _ => by simp) ..

@[simp] theorem finishRoot_held (s : State) (k im u) : (finishRoot s k im u).held = s.held := by
  simp [finishRoot]

/-! ## Machine/Memory.lean -/

@[simp] theorem pushWarpWrite_held (s : State) (k sl what lat) : (pushWarpWrite s k sl what lat).held = s.held := rfl

@[simp] theorem startAccess_held (s : State) (f ix lanes k sl) : (startAccess f ix lanes s k sl).held = s.held := by
  grind [startAccess, markPending_held, modWarp_held, newId_held, raiseCounter_held, sampleVersion_held]

@[simp] theorem boExpect_held (s : State) (c a n) : (boExpect s c a n).held = s.held := rfl

@[simp] theorem boArrived_held (s : State) (c a n) : (boArrived s c a n).held = s.held := rfl

@[simp] theorem startCluster_held (s : State) (kind d addr z data k sl) :
    (startCluster kind d addr z data s k sl).held = s.held := rfl

@[simp] theorem speculate_held (s : State) (k sl scope) : (speculate s k sl scope).held = s.held := rfl

/-! ## Machine/Home.lean -/

@[simp] theorem startHeld_held (s : State) (kind code r z dst lanes idx data k sl) :
    (startHeld kind code r z dst lanes idx data s k sl).held = s.held := by
  simp [startHeld]

@[simp] theorem settleWaitm_held (s : State) (o) : (settleWaitm s o).held = s.held := by
  grind [settleWaitm, acquireWarp_held, endOp_held, landFlags_held, letGo_held, lower_held]

/-! ## Machine/Copies.lean -/

@[simp] theorem startCopy_held (s : State) (planes dir mark br p rec k sl) :
    (startCopy planes dir mark br p rec s k sl).held = s.held := by
  simp [startCopy]

/-! ## Machine/Hash.lean -/

@[simp] theorem acceptLook_held (s : State) (c) : (acceptLook s c).held = s.held := by
  unfold acceptLook
  dsimp only
  split <;> simp

/-! ## Machine/AccessProc.lean -/

@[simp] theorem modApCtx_held (s : State) (c u x f) : (modApCtx s c u x f).held = s.held := rfl

@[simp] theorem modQueue_held (s : State) (c q f) : (modQueue s c q f).held = s.held := rfl

@[simp] theorem dmemPut_held (s : State) (c u a n v) : (dmemPut s c u a n v).held = s.held := rfl

@[simp] theorem apPost_held (s : State) (c u x kind pc word val) :
    (apPost s c u x kind pc word val).held = s.held := by
  simp [apPost]

@[simp] theorem closeGroup_held (s : State) (c q) : (closeGroup s c q).held = s.held := by
  unfold closeGroup
  split <;> simp

@[simp] theorem settleGroups_held (s : State) (c) : (settleGroups s c).held = s.held := by
  grind [settleGroups, closeGroup_held, foldl_held]

@[simp] theorem dropFetch_held (s : State) (c u x) : (dropFetch s c u x).held = s.held := by
  unfold dropFetch
  split <;> simp

@[simp] theorem apIdle_held (s : State) (c u x cause) : (apIdle s c u x cause).held = s.held := by
  simp [apIdle]

@[simp] theorem forgetBehind_held (s : State) (r) : (forgetBehind s r).held = s.held := rfl

@[simp] theorem apStart_held (s : State) (c u x coll word start arg lo hi) :
    (apStart s c u x coll word start arg lo hi).held = s.held := by
  grind [apStart, apPost_held, dmemPut_held, modApCtx_held]

/-! ## Machine/Matrix.lean -/

@[simp] theorem acceptTile_held (s : State) (c n e) : (acceptTile s c n e).held = s.held := by
  grind [acceptTile, modCluster_held, newId_held, sampleVersion_held]

/-! ## Machine/Graphs.lean -/

@[simp] theorem modGraph_held (s : State) (g f) : (modGraph s g f).held = s.held := rfl

@[simp] theorem modNode_held (s : State) (g n f) : (modNode s g n f).held = s.held := rfl

@[simp] theorem formBatch_held (s : State) (g n d) : (formBatch s g n d).held = s.held := by
  unfold formBatch
  dsimp only
  split <;> simp

@[simp] theorem placeEmitted_held (s : State) (g n d v) : (placeEmitted s g n d v).held = s.held := by
  unfold placeEmitted
  dsimp only
  split <;> simp

/-! ## Machine/Permute.lean -/

@[simp] theorem freshenAll_held (s : State) (k f) : (freshenAll s k f).held = s.held :=
  foldl_held (fun s _ => by simp) ..

@[simp] theorem startVwri_held (s : State) (d a k sl) : (startVwri d a s k sl).held = s.held := rfl

end Sys2Proof.Machine
end

section
/-!
PROOFS. Which instructions of a gang leave every warp listed, and which leave the issuer not held: all leave one or the
other, so that a port finds the warps of its next candidates (R30, R31).
-/

namespace Sys2Proof.Machine

/-- Which warps a state lists. -/
def listed (s : State) (k : Nat) : Bool := (tfind s.warps k).isSome

theorem foldl_listed {α : Type} {g : State → α → State} (hg : ∀ s a, listed (g s a) = listed s) (l : List α) (s : State) :
    listed (l.foldl g s) = listed s :=
  foldl_keep listed g hg l s

theorem SameWarps.listed_eq {s t : State} (h : SameWarps t.warps s.warps) : listed t = listed s := by
  funext k
  obtain ⟨hnone, hsome⟩ := h k
  unfold listed
  cases e : tfind s.warps k with
  | none => rw [hnone e]
  | some w =>
    obtain ⟨sp, e'⟩ := hsome w e
    rw [e', Option.isSome_some, Option.isSome_some]

theorem Accessed.listed_eq {s t : State} (h : Accessed s t) : listed t = listed s := h.warps.listed_eq

/-! ## Machine/Warps.lean -/

@[simp] theorem modWarp_listed (s : State) (k f) : listed (modWarp s k f) = listed s := by
  funext j
  simp only [listed, modWarp_warps]
  by_cases h : j = k
  · rw [h, tfind_tmod_same, Option.isSome_map]
  · rw [tfind_tmod_ne _ _ _ _ h]

@[simp] theorem modCore_listed (s : State) (c f) : listed (modCore s c f) = listed s := rfl

@[simp] theorem modGroup_listed (s : State) (c f) : listed (modGroup s c f) = listed s := rfl

@[simp] theorem modCohort_listed (s : State) (c f) : listed (modCohort s c f) = listed s := rfl

@[simp] theorem newId_listed (s : State) : listed (newId s).2 = listed s := rfl

@[simp] theorem modSlice_listed (s : State) (k i f) : listed (modSlice s k i f) = listed s := by
  simp [modSlice]

@[simp] theorem modGang_listed (s : State) (k sl f) : listed (modGang s k sl f) = listed s :=
  foldl_listed (fun s _ => by simp) ..

@[simp] theorem dropRequests_listed (s : State) (c f) : listed (dropRequests s c f) = listed s := by
  unfold dropRequests
  split <;> simp

@[simp] theorem privatise_listed (s : State) (k g) : listed (privatise s k g) = listed s := by
  simp [privatise]

@[simp] theorem drain_listed (s : State) (k sl) : listed (drain s k sl) = listed s := by
  simp [drain]

@[simp] theorem freshenLatch_listed (s : State) (k i f) : listed (freshenLatch s k i f) = listed s := by
  unfold freshenLatch
  split
  · rfl
  · exact modSlice_listed ..

@[simp] theorem clearMarks_listed (s : State) (k o) : listed (clearMarks s k o) = listed s := by
  simp [clearMarks]

/-! ## Machine/Translate.lean -/

@[simp] theorem vread_listed (s : State) (c die va n) : listed (vread s c die va n).1 = listed s :=
  (vread_accessed ..).listed_eq

@[simp] theorem vwrite_listed (s : State) (c die va b) : listed (vwrite s c die va b).1 = listed s :=
  (vwrite_accessed ..).listed_eq

@[simp] theorem postFor_listed (s : State) (c die b behind o) : listed (postFor s c die b behind o) = listed s := by
  obtain ⟨_, _, _, _, _, _, _, _, _, h, hws, -⟩ := postFor_eq s c die b behind o
  exact SameWarps.listed_eq (by rw [h]; exact hws)

@[simp] theorem postRecord_listed (s : State) (c die b behind) : listed (postRecord s c die b behind) = listed s :=
  postFor_listed ..

/-! ## Machine/Save.lean -/

@[simp] theorem writeSave_listed (s : State) (w a now) : listed (writeSave s w a now) = listed s := by
  grind [writeSave, vwrite_listed, foldl_listed]

@[simp] theorem saveImage_listed (s : State) (c die a) : listed (saveImage s c die a).1 = listed s := by
  grind [saveImage, vread_listed]

@[simp] theorem readSave_listed (s : State) (sv) : listed (readSave s sv).1 = listed s := by
  grind [readSave, saveImage_listed]

/-! ## Machine/Ops.lean -/

@[simp] theorem updateWarp_listed (s : State) (k f) : listed (updateWarp s k f) = listed s := by
  unfold updateWarp
  split
  · simp
  · split
    · rfl
    · rename_i sv _
      show listed (if sv.addr = 0 then (readSave s sv).1 else writeSave (readSave s sv).1 _ _ _) = _
      split <;> simp

@[simp] theorem endOp_listed (s : State) (o) : listed (endOp s o) = listed s := by
  unfold endOp
  split
  · exact clearMarks_listed ..
  · rfl

@[simp] theorem acquire_listed (s : State) (die core scope) : listed (acquire s die core scope) = listed s := by
  unfold acquire
  split <;> split <;> split <;> rfl

@[simp] theorem acquireWarp_listed (s : State) (k scope) : listed (acquireWarp s k scope) = listed s := by
  simp [acquireWarp]

@[simp] theorem landFlags_listed (s : State) (k o fl) : listed (landFlags s k o fl) = listed s := by
  simp [landFlags]

@[simp] theorem performWrites_listed (s : State) (o) : listed (performWrites s o) = listed s := by
  grind [performWrites, endOp_listed, landFlags_listed, modWarp_listed, foldl_listed]

@[simp] theorem drainGang_listed (s : State) (k sl) : listed (drainGang s k sl) = listed s := by
  grind [drainGang, drain_listed, performWrites_listed, foldl_listed]

@[simp] theorem askCore_listed (s : State) (die core mine) : listed (askCore s die core mine).2 = listed s := by
  unfold askCore
  dsimp only
  split <;> simp

@[simp] theorem askGranules_listed (s : State) (k sl kind n) : listed (askGranules s k sl kind n).2 = listed s := by
  simp [askGranules]

@[simp] theorem grantFor_listed (s : State) (f k sl w) : listed (grantFor f s k sl w).2 = listed s := by
  unfold grantFor
  dsimp only
  split <;> simp

@[simp] theorem readCycle_listed (f) (s s0 : State) (k sl w) : listed (readCycle f s s0 k sl w) = listed s0 := by
  grind [readCycle, drainGang_listed, freshenLatch_listed, modGang_listed, modWarp_listed, privatise_listed,
    foldl_listed]

/-! ## Machine/Sequencer.lean -/

@[simp] theorem setBarrier_listed (s : State) (w key b) : listed (setBarrier s w key b) = listed s := by
  unfold setBarrier
  split <;> simp

@[simp] theorem endPhase_listed (s : State) (w key b) : listed (endPhase s w key b) = listed s := by
  grind [endPhase, acquireWarp_listed, setBarrier_listed, updateWarp_listed, foldl_listed]

@[simp] theorem arriveAt_listed (s : State) (k key count) : listed (arriveAt s k key count) = listed s := by
  unfold arriveAt
  dsimp only
  split <;> simp

@[simp] theorem tryRend_listed (s : State) (g r k sl) : listed (tryRend s g r k sl).2 = listed s := by
  grind [tryRend, askCore_listed, updateWarp_listed, foldl_listed]

/-! ## Machine/Memory.lean -/

@[simp] theorem boExpect_listed (s : State) (c a n) : listed (boExpect s c a n) = listed s := rfl

/-! ## Machine/AccessProc.lean -/

@[simp] theorem modQueue_listed (s : State) (c q f) : listed (modQueue s c q f) = listed s := rfl

/-! ## Machine/Graphs.lean -/

@[simp] theorem modGraph_listed (s : State) (g f) : listed (modGraph s g f) = listed s := rfl

@[simp] theorem modNode_listed (s : State) (g n f) : listed (modNode s g n f) = listed s := rfl

@[simp] theorem formBatch_listed (s : State) (g n d) : listed (formBatch s g n d) = listed s := by
  unfold formBatch
  dsimp only
  split <;> simp

@[simp] theorem placeEmitted_listed (s : State) (g n d v) : listed (placeEmitted s g n d v) = listed s := by
  unfold placeEmitted
  dsimp only
  split <;> simp

/-! ## Issue -/

/-- Where the issuer is held, the later state lists the warps of the earlier one. -/
def Passes (s t : State) : Prop := t.held = true → listed t = listed s

theorem Passes.of_listed {s t : State} (h : listed t = listed s) : Passes s t := fun _ => h

theorem Passes.of_held {s t : State} (h : t.held = false) : Passes s t := fun h' => by simp [h] at h'

/-- The outcome is a state that passes. -/
def Carries (s : State) (o : Out) : Prop := ∃ t, o = .next t ∧ Passes s t

/-- Of an effect in the read cycle: what is done does not hold the issuer, and what waits or traps besides loses no
warp. -/
def Eff.Carries (s : State) : Eff → Prop
  | .done t => t.held = s.held
  | .wait t _ => listed t = listed s
  | .trap .. | .trapEach .. => True
  | .andTrap t _ _ => t.held = s.held ∧ listed t = listed s

theorem Eff.Carries.of_eq {s t : State} {e : Eff} (h : e.Carries t) (hh : t.held = s.held)
    (hl : listed t = listed s) : e.Carries s := by
  cases e with
  | done u => exact Eq.trans h hh
  | wait u why => exact Eq.trans h hl
  | trap | trapEach => trivial
  | andTrap u c v => exact ⟨h.1.trans hh, h.2.trans hl⟩

/-- A gang of a listed warp issues. -/
structure OnGang (s : State) (k : Nat) (sl : BitVec 8) : Prop where
  issuer : s.issuer = .gang k sl
  warp : listed s k = true
  held : s.held = false

theorem holdGang_listed (s : State) (k sl why) : listed (holdGang s k sl why) = listed s := modGang_listed ..

theorem issueTraps_passes {s t : State} (ht : t.held = false) (hl : listed t = listed s) {k sl cause vals past} :
    Passes s (issueTraps t k sl cause vals past) := by
  unfold issueTraps
  split
  · exact .of_listed ((holdGang_listed ..).trans hl)
  · exact .of_held (by simp [ht])

theorem issueTrap_passes {s t : State} (ht : t.held = false) (hl : listed t = listed s) {k sl cause val past} :
    Passes s (issueTrap t k sl cause val past) :=
  issueTraps_passes ht hl

/-- R30: an instruction that is done leaves the issuer not held; where it waits, its warp and the others are still
there. -/
theorem issueGang_passes {f : Form} {eff : State → Nat → BitVec 8 → Eff} (heff : ∀ s k sl, (eff s k sl).Carries s)
    {s : State} (hs : s.held = false) (k sl w) : Passes s (issueGang f eff s k sl w) := by
  have hask : listed (grantFor f s k sl w).2 = listed s := grantFor_listed ..
  have hread : listed (readCycle f s (grantFor f s k sl w).2 k sl w) = listed s := (readCycle_listed ..).trans hask
  have hheld : (readCycle f s (grantFor f s k sl w).2 k sl w).held = false := by simp [hs]
  have hold : Passes s (holdGang s k sl .other) := .of_listed (holdGang_listed ..)
  unfold issueGang
  dsimp only
  split
  · exact hold
  split
  · exact issueTrap_passes hs rfl
  split
  · exact issueTrap_passes hs rfl
  split
  · exact hold
  split
  · exact .of_listed (holdGang_listed ..)
  split
  · exact .of_listed ((holdGang_listed ..).trans hask)
  have he := heff (readCycle f s (grantFor f s k sl w).2 k sl w) k sl
  split <;> rename_i e <;> rw [e] at he
  · exact .of_held ((finishIssue_held ..).trans (he.trans hheld))
  · exact .of_listed ((holdGang_listed ..).trans ((modWarp_listed ..).trans (he.trans hread)))
  · split
    · exact hold
    · exact issueTrap_passes hheld hread
  · split
    · exact hold
    · exact issueTraps_passes hheld hread
  · exact issueTrap_passes (he.1.trans hheld) (he.2.trans hread)

theorem issue_carries {f : Form} {eff : State → Nat → BitVec 8 → Eff} (heff : ∀ s k sl, (eff s k sl).Carries s)
    {s : State} {k : Nat} {sl : BitVec 8} (hs : OnGang s k sl) : Carries s (issue f eff s) := by
  obtain ⟨w, hw⟩ := Option.isSome_iff_exists.1 hs.warp
  simp only [issue, hs.issuer, hw]
  exact ⟨_, rfl, issueGang_passes heff hs.held k sl w⟩

/-- An instruction that always passes to the next one. -/
theorem passing_carries {eff : State → Nat → BitVec 8 → State} {s t : State} {k sl} (h : (eff t k sl).held = s.held) :
    (passing eff t k sl).Carries s := by
  simpa [passing, Eff.Carries] using h

end Sys2Proof.Machine
end

section
/-!
PROOFS. The instructions of core words carry: one lemma for each shared operation, and one for each instruction that
has an effect of its own (R30, R120).
-/

namespace Sys2Proof.Machine

open Sys2Proof.Claims

variable {s : State} {k : Nat} {sl : BitVec 8}

theorem laneReg_carries (hs : OnGang s k sl) (f d lat val) : Carries s (laneReg f d lat val s) :=
  issue_carries (fun _ _ _ => passing_carries (by simp)) hs

theorem lanePred_carries (hs : OnGang s k sl) (f p lat val) : Carries s (lanePred f p lat val s) :=
  issue_carries (fun _ _ _ => passing_carries (by simp)) hs

theorem fltOp_carries (hs : OnGang s k sl) (h d a b two flags lat f) :
    Carries s (fltOp h d a b two flags lat f s) := by
  unfold fltOp
  exact laneReg_carries hs _ _ _ _

theorem fcmpOp_carries (hs : OnGang s k sl) (h cond p a b) : Carries s (fcmpOp h cond p a b s) := by
  unfold fcmpOp
  exact lanePred_carries hs _ _ _ _

theorem transOp_carries (hs : OnGang s k sl) (op h d a) : Carries s (transOp op h d a s) := by
  unfold transOp
  exact laneReg_carries hs ..

theorem flow_carries (s : State) (k sl f) : (flow s k sl f).Carries s := by
  grind [flow, modSlice_held, foldl_held, Eff.Carries]

theorem execNop_carries (hs : OnGang s k sl) : Carries s (execNop s) := by
  unfold execNop
  refine issue_carries (fun s k sl => ?_) hs
  grind [passing_carries]

theorem execBra_carries (hs : OnGang s k sl) (o) : Carries s (execBra o s) :=
  issue_carries (fun _ _ _ => flow_carries ..) hs

theorem execBrc_carries (hs : OnGang s k sl) (o) : Carries s (execBrc o s) := by
  unfold execBrc
  refine issue_carries (fun s k sl => ?_) hs
  dsimp only
  split
  · trivial
  · exact flow_carries ..

theorem indirect_carries (hs : OnGang s k sl) (call h a) : Carries s (indirect call h a s) := by
  unfold indirect
  refine issue_carries (fun s k sl => ?_) hs
  grind [flow_carries, Eff.Carries]

theorem execCall_carries (hs : OnGang s k sl) (o) : Carries s (execCall o s) := by
  unfold execCall
  refine issue_carries (fun s k sl => ?_) hs
  split
  · trivial
  · exact flow_carries ..

theorem execMark_carries (hs : OnGang s k sl) (o) : Carries s (execMark o s) := by
  unfold execMark
  refine issue_carries (fun s k sl => ?_) hs
  split
  · trivial
  · exact flow_carries ..

theorem barrierEff_carries (s : State) (waits key count k sl) : (barrierEff waits key count s k sl).Carries s := by
  grind [barrierEff, modWarp_held, modGang_held, arriveAt_held, modWarp_listed, modGang_listed, arriveAt_listed,
    Eff.Carries]

theorem execBar_carries (hs : OnGang s k sl) (c n i) : Carries s (execBar c n i s) :=
  issue_carries (fun _ _ _ => barrierEff_carries ..) hs

theorem execBara_carries (hs : OnGang s k sl) (c n i) : Carries s (execBara c n i s) :=
  issue_carries (fun _ _ _ => barrierEff_carries ..) hs

theorem execBarReg_carries (hs : OnGang s k sl) (h a c n) : Carries s (execBarReg h a c n s) :=
  issue_carries (fun _ _ _ => barrierEff_carries ..) hs

theorem execBaraReg_carries (hs : OnGang s k sl) (h a c n) : Carries s (execBaraReg h a c n s) :=
  issue_carries (fun _ _ _ => barrierEff_carries ..) hs

theorem execRend_carries (hs : OnGang s k sl) (n) : Carries s (execRend n s) := by
  unfold execRend
  refine issue_carries (fun s k sl => ?_) hs
  grind [modWarp_held, modGang_held, tryRend_held, modWarp_listed, modGang_listed, tryRend_listed, Eff.Carries]

theorem execDonate_carries (hs : OnGang s k sl) (h a n) : Carries s (execDonate h a n s) := by
  unfold execDonate
  refine issue_carries (fun s k sl => ?_) hs
  grind [modWarp_held, passing_carries, Eff.Carries]

theorem execExit_carries (hs : OnGang s k sl) : Carries s (execExit s) := by
  unfold execExit
  refine issue_carries (fun s k sl => ?_) hs
  grind [modWarp_held, modSlice_held, settleEnds_held, foldl_held, Eff.Carries]

theorem popping_carries (s : State) (joins pop k sl) : (popping joins pop s k sl).Carries s := by
  grind [popping, modSlice_held, reconverge_held, settleEnds_held, foldl_held, Eff.Carries]

theorem execJoin_carries (hs : OnGang s k sl) : Carries s (execJoin s) :=
  issue_carries (fun _ _ _ => popping_carries ..) hs

theorem execRet_carries (hs : OnGang s k sl) : Carries s (execRet s) :=
  issue_carries (fun _ _ _ => popping_carries ..) hs

theorem execRegang_carries (hs : OnGang s k sl) : Carries s (execRegang s) := by
  unfold execRegang
  refine issue_carries (fun s k sl => ?_) hs
  grind [modWarp_held, modGang_held, reconverge_held, Eff.Carries]

theorem execMode_carries (hs : OnGang s k sl) (h a) : Carries s (execMode h a s) :=
  issue_carries (fun _ _ _ => flow_carries ..) hs

theorem execModei_carries (hs : OnGang s k sl) (v f) : Carries s (execModei v f s) :=
  issue_carries (fun _ _ _ => flow_carries ..) hs

theorem setWindow_carries (s : State) (k sl v) : (setWindow s k sl v).Carries s := by
  grind [setWindow, modWarp_held, passing_carries, Eff.Carries]

theorem execWin_carries (hs : OnGang s k sl) (h a) : Carries s (execWin h a s) :=
  issue_carries (fun _ _ _ => setWindow_carries ..) hs

theorem execWini_carries (hs : OnGang s k sl) (i) : Carries s (execWini i s) :=
  issue_carries (fun _ _ _ => setWindow_carries ..) hs

theorem execRds_carries (hs : OnGang s k sl) (d sel) : Carries s (execRds d sel s) := by
  unfold execRds
  refine issue_carries (fun s k sl => ?_) hs
  grind [passing_carries, writeLanes_held]

theorem execRdsClockLo_carries (hs : OnGang s k sl) (d) : Carries s (execRdsClockLo d s) := by
  unfold execRdsClockLo
  refine issue_carries (fun s k sl => ?_) hs
  grind [modGang_held, passing_carries, writeLanes_held]

theorem execWrs_carries (hs : OnGang s k sl) (d sel) : Carries s (execWrs d sel s) := by
  unfold execWrs
  refine issue_carries (fun s k sl => ?_) hs
  grind [passing_carries, writeSpecial_held]

theorem execWrsWin_carries (hs : OnGang s k sl) (d) : Carries s (execWrsWin d s) :=
  issue_carries (fun _ _ _ => setWindow_carries ..) hs

theorem execWrsFlags_carries (hs : OnGang s k sl) (d) : Carries s (execWrsFlags d s) := by
  unfold execWrsFlags
  refine issue_carries (fun s k sl => ?_) hs
  grind [modWarp_held, passing_carries]

theorem execWrsSrseed_carries (hs : OnGang s k sl) (d) : Carries s (execWrsSrseed d s) := by
  unfold execWrsSrseed
  refine issue_carries (fun s k sl => ?_) hs
  grind [modWarp_held, passing_carries]

theorem rootFreeze.write_carries (s : State) (k sl w im u addr from') :
    (rootFreeze.write k sl w im u addr from' s).Carries s := by
  have h := vwrite_accessed s w.ident.ctx w.die (addr + from') ((imageBytes im 0).drop from')
  unfold rootFreeze.write
  split <;> rename_i e <;> rw [e] at h
  · exact (finishRoot_held ..).trans h.held
  · exact (postRecord_listed ..).trans h.listed_eq

theorem rootFreeze_carries (s : State) (k sl) : (rootFreeze s k sl).Carries s := by
  have hwrite (o : Nat) (w im u addr from') : (rootFreeze.write k sl w im u addr from' (endOp s o)).Carries s :=
    (rootFreeze.write_carries ..).of_eq (by simp) (by simp)
  grind [rootFreeze, endOp_held, endOp_listed, rootFreeze.write_carries, Eff.Carries]

theorem nestedFreeze_carries (s : State) (k sl lvl) : (nestedFreeze s k sl lvl).Carries s := by
  grind [nestedFreeze, modWarp_held, modCore_held, modGroup_held, modCohort_held, newId_held, trimImages_held,
    passing_carries, foldl_held, Eff.Carries]

theorem execFreeze_carries (hs : OnGang s k sl) (l) : Carries s (execFreeze l s) := by
  unfold execFreeze
  refine issue_carries (fun s k sl => ?_) hs
  grind [modWarp_held, modWarp_listed, rootFreeze_carries, nestedFreeze_carries, Eff.Carries, Eff.Carries.of_eq]

theorem growEff_carries (s : State) (n k sl) : (growEff n s k sl).Carries s := by
  grind [growEff, modWarp_held, askGranules_held, askGranules_listed, passing_carries, Eff.Carries]

theorem shrinkEff_carries (s : State) (n k sl) : (shrinkEff n s k sl).Carries s := by
  grind [shrinkEff, modWarp_held, passing_carries, Eff.Carries]

theorem execGrow_carries (hs : OnGang s k sl) (i) : Carries s (execGrow i s) :=
  issue_carries (fun _ _ _ => growEff_carries ..) hs

theorem execShrink_carries (hs : OnGang s k sl) (i) : Carries s (execShrink i s) :=
  issue_carries (fun _ _ _ => shrinkEff_carries ..) hs

theorem amountEff_carries {eff : Nat → State → Nat → BitVec 8 → Eff}
    (heff : ∀ n s k sl, (eff n s k sl).Carries s) (s : State) (f k sl) :
    (amountEff f eff s k sl).Carries s := by
  grind [amountEff, Eff.Carries]

theorem execGrowReg_carries (hs : OnGang s k sl) (h a) : Carries s (execGrowReg h a s) := by
  unfold execGrowReg
  refine issue_carries (fun s k sl => ?_) hs
  grind [growEff_carries, amountEff_carries]

theorem execShrinkReg_carries (hs : OnGang s k sl) (h a) : Carries s (execShrinkReg h a s) := by
  unfold execShrinkReg
  refine issue_carries (fun s k sl => ?_) hs
  grind [shrinkEff_carries, amountEff_carries]

theorem execWaitc_carries (hs : OnGang s k sl) (h a p) : Carries s (execWaitc h a p s) := by
  unfold execWaitc
  refine issue_carries (fun s k sl => ?_) hs
  grind [passing_carries, Eff.Carries]

theorem execWaitp_carries (hs : OnGang s k sl) (h a p) : Carries s (execWaitp h a p s) := by
  unfold execWaitp
  refine issue_carries (fun s k sl => ?_) hs
  grind [acquireWarp_held, passing_carries, Eff.Carries]

theorem execYield_carries (hs : OnGang s k sl) : Carries s (execYield s) := by
  unfold execYield
  refine issue_carries (fun s k sl => ?_) hs
  grind [draw_held, modWarp_held, passing_carries]

theorem execSleep_carries (hs : OnGang s k sl) (i) : Carries s (execSleep i s) := by
  unfold execSleep
  refine issue_carries (fun s k sl => ?_) hs
  grind [modWarp_held, modGang_held, passing_carries, Eff.Carries]

theorem execTrap_carries (hs : OnGang s k sl) (i) : Carries s (execTrap i s) := by
  unfold execTrap
  refine issue_carries (fun s k sl => ?_) hs
  trivial

theorem execEret_carries (hs : OnGang s k sl) : Carries s (execEret s) := by
  unfold execEret
  refine issue_carries (fun s k sl => ?_) hs
  dsimp only
  split
  · trivial
  · exact (settleEnds_held ..).trans (by simp)

theorem execBrec_carries (hs : OnGang s k sl) (h r a) : Carries s (execBrec h r a s) := by
  unfold execBrec
  refine issue_carries (fun s k sl => ?_) hs
  grind [passing_carries, pushWarpWrite_held]

theorem throughRecord_carries {go : State → Nat → BitVec 8 → Eff} (hgo : ∀ s k sl, (go s k sl).Carries s)
    (s : State) (r k sl) : (throughRecord r go s k sl).Carries s := by
  grind [throughRecord, Eff.Carries]

theorem globalLoad_carries (hs : OnGang s k sl) (kind n h d r ix) :
    Carries s (globalLoad kind n h d r ix s) := by
  unfold globalLoad
  refine issue_carries (fun s k sl => ?_) hs
  grind [passing_carries, throughRecord_carries, startAccess_held]

theorem globalStore_carries (hs : OnGang s k sl) (kind n h d r ix) :
    Carries s (globalStore kind n h d r ix s) := by
  unfold globalStore
  refine issue_carries (fun s k sl => ?_) hs
  grind [passing_carries, throughRecord_carries, startAccess_held, Eff.Carries]

theorem execCbld_carries (hs : OnGang s k sl) (c r i) : Carries s (execCbld c r i s) := by
  unfold execCbld
  refine issue_carries (fun s k sl => ?_) hs
  grind [modWarp_held, newId_held, raiseCounter_held, passing_carries, sampleVersion_held, throughRecord_carries]

theorem prefetch_carries (hs : OnGang s k sl) (h r ix) : Carries s (prefetch h r ix s) := by
  unfold prefetch
  refine issue_carries (fun s k sl => ?_) hs
  grind [passing_carries, addOp_held, throughRecord_carries]

theorem clusterLoad_carries (hs : OnGang s k sl) (kind h d a i) : Carries s (clusterLoad kind h d a i s) := by
  unfold clusterLoad
  refine issue_carries (fun s k sl => ?_) hs
  grind [markPending_held, passing_carries, startCluster_held]

theorem clusterStore_carries (hs : OnGang s k sl) (kind h d a i) :
    Carries s (clusterStore kind h d a i s) := by
  unfold clusterStore
  refine issue_carries (fun s k sl => ?_) hs
  grind [passing_carries, startCluster_held, Eff.Carries]

theorem execArrive_carries (hs : OnGang s k sl) (h a n) : Carries s (execArrive h a n s) := by
  unfold execArrive
  refine issue_carries (fun s k sl => ?_) hs
  grind [raiseCounter_held, passing_carries, addOp_held, Eff.Carries]

theorem execFence_carries (hs : OnGang s k sl) (m sc) : Carries s (execFence m sc s) := by
  unfold execFence
  refine issue_carries (fun s k sl => ?_) hs
  grind [acquireWarp_held, passing_carries, speculate_held, Eff.Carries]

theorem publishEff_carries (s : State) (r target k sl) : (publishEff r target s k sl).Carries s := by
  grind [publishEff, raiseCounter_held, passing_carries, setPub_held, addOp_held, Eff.Carries]

theorem execPublish_carries (hs : OnGang s k sl) (r) : Carries s (execPublish r s) :=
  issue_carries (fun _ _ _ => publishEff_carries ..) hs

theorem execPublishVf_carries (hs : OnGang s k sl) (h a r) : Carries s (execPublishVf h a r s) :=
  issue_carries (fun _ _ _ => publishEff_carries ..) hs

theorem globalAtomic_carries (hs : OnGang s k sl) (op z n out accepts h d a r) :
    Carries s (globalAtomic op z n out accepts h d a r s) := by
  unfold globalAtomic
  refine issue_carries (fun s k sl => ?_) hs
  grind [throughRecord_carries, startHeld_held, Eff.Carries]

theorem clusterAtomic_carries (hs : OnGang s k sl) (op n out accepts h d a) :
    Carries s (clusterAtomic op n out accepts h d a s) := by
  unfold clusterAtomic
  refine issue_carries (fun s k sl => ?_) hs
  grind [raiseCounter_held, markPending_held, passing_carries, addOp_held]

theorem execAtomp_carries (hs : OnGang s k sl) (d r n) : Carries s (execAtomp d r n s) := by
  unfold execAtomp
  refine issue_carries (fun s k sl => ?_) hs
  grind [throughRecord_carries, startHeld_held, Eff.Carries]

theorem execWaitmGlobal_carries (hs : OnGang s k sl) (h d a c r) :
    Carries s (execWaitmGlobal h d a c r s) := by
  unfold execWaitmGlobal
  refine issue_carries (fun s k sl => ?_) hs
  grind [throughRecord_carries, startHeld_held, Eff.Carries]

theorem execWaitmCluster_carries (hs : OnGang s k sl) (h d a c) : Carries s (execWaitmCluster h d a c s) := by
  unfold execWaitmCluster
  refine issue_carries (fun s k sl => ?_) hs
  grind [raiseCounter_held, addOp_held, holdFor_held, postAddressErrors_held, settleWaitm_held, Eff.Carries]

theorem cacheop_carries (hs : OnGang s k sl) (op d r) : Carries s (cacheop op d r s) := by
  unfold cacheop
  refine issue_carries (fun s k sl => ?_) hs
  grind [throughRecord_carries, startHeld_held, Eff.Carries]

@[simp] theorem rangeReqs_held (s : State) (o op l) : (rangeReqs s o op l).held = s.held := by
  induction l generalizing s op with
  | nil => rfl
  | cons va r ih => grind [rangeReqs, translate_held, sendReq_held]

theorem cacheopRange_carries (hs : OnGang s k sl) (op h a b) : Carries s (cacheopRange op h a b s) := by
  unfold cacheopRange
  refine issue_carries (fun s k sl => ?_) hs
  grind [raiseCounter_held, passing_carries, addOp_held, rangeReqs_held, Eff.Carries]

theorem issueCopy_carries (hs : OnGang s k sl) (planes d r t c) : Carries s (issueCopy planes d r t c s) := by
  unfold issueCopy
  refine issue_carries (fun s k sl => ?_) hs
  grind [passing_carries, throughRecord_carries, startCopy_held, Eff.Carries]

theorem hashCommand_carries (hs : OnGang s k sl) (word d lanes check total rt rg bo) :
    Carries s (hashCommand word d lanes check total rt rg bo s) := by
  unfold hashCommand
  refine issue_carries (fun s k sl => ?_) hs
  grind [passing_carries, modCluster_held, boExpect_held, acceptLook_held, Eff.Carries]

theorem hlook_carries (hs : OnGang s k sl) (word d f c size per) : Carries s (hlook word d f c size per s) :=
  hashCommand_carries hs ..

theorem queuePush_carries (hs : OnGang s k sl) (d q n) : Carries s (queuePush d q n s) := by
  unfold queuePush
  refine issue_carries (fun s k sl => ?_) hs
  grind [raiseCounter_held, passing_carries, addOp_held, modQueue_held, Eff.Carries]

theorem execQpushRt_carries (hs : OnGang s k sl) (d) : Carries s (execQpushRt d s) := by
  unfold execQpushRt
  refine issue_carries (fun s k sl => ?_) hs
  grind [raiseCounter_held, passing_carries, addOp_held]

theorem queuePop_carries (hs : OnGang s k sl) (d q n) : Carries s (queuePop d q n s) := by
  unfold queuePop
  refine issue_carries (fun s k sl => ?_) hs
  grind [raiseCounter_held, markPending_held, passing_carries, addOp_held, modQueue_held, modQueue_listed, Eff.Carries]

theorem execQstat_carries (hs : OnGang s k sl) (d k) : Carries s (execQstat d k s) := by
  unfold execQstat
  refine issue_carries (fun s k sl => ?_) hs
  grind [markPending_held, passing_carries, addOp_held]

theorem execApgo_carries (hs : OnGang s k sl) (d u c) : Carries s (execApgo d u c s) := by
  unfold execApgo
  refine issue_carries (fun s k sl => ?_) hs
  grind [passing_carries, apStart_held, Eff.Carries]

theorem execApstop_carries (hs : OnGang s k sl) (u c) : Carries s (execApstop u c s) := by
  unfold execApstop
  refine issue_carries (fun s k sl => ?_) hs
  grind [passing_carries, apIdle_held, forgetBehind_held]

theorem warpWriter_carries (hs : OnGang s k sl) (d f) : Carries s (warpWriter d f s) := by
  unfold warpWriter
  refine issue_carries (fun s k sl => ?_) hs
  grind [passing_carries, pushWarpWrite_held]

theorem execBstrImm_carries (hs : OnGang s k sl) (i k) : Carries s (execBstrImm i k s) := by
  unfold execBstrImm
  refine issue_carries (fun s k sl => ?_) hs
  grind [passing_carries, pushWarpWrite_held]

theorem enterTile_carries (s : State) (k sl en) : (enterTile s k sl en).Carries s := by
  grind [enterTile, modWarp_held, modWarp_listed, passing_carries, acceptTile_held, Eff.Carries]

theorem tileCommand_carries (hs : OnGang s k sl) (word d e t) : Carries s (tileCommand word d e t s) := by
  unfold tileCommand
  refine issue_carries (fun s k sl => ?_) hs
  grind [passing_carries, boExpect_held, boExpect_listed, boArrived_held, enterTile_carries, Eff.Carries,
    Eff.Carries.of_eq]

theorem postValue_carries (hs : OnGang s k sl) (v f) : Carries s (postValue v f s) :=
  issue_carries (fun _ _ _ => passing_carries (by simp)) hs

theorem systemCall_carries (hs : OnGang s k sl) (n f) : Carries s (systemCall n f s) := by
  unfold systemCall
  refine issue_carries (fun s k sl => ?_) hs
  grind [passing_carries, postRecord_held, Eff.Carries]

@[simp] theorem placeRecords_held (g n d) (s : State) (l) : (placeRecords g n d s l).1.held = s.held := by
  induction l generalizing s with
  | nil => rfl
  | cons v r ih => grind [placeRecords, placeEmitted_held]

@[simp] theorem placeRecords_listed (g n d) (s : State) (l) : listed (placeRecords g n d s l).1 = listed s := by
  induction l generalizing s with
  | nil => rfl
  | cons v r ih => grind [placeRecords, placeEmitted_listed]

theorem pumpEmit_carries (s : State) (e k sl) : (pumpEmit e s k sl).Carries s := by
  grind [pumpEmit, passing_carries, modGraph_held, modGraph_listed, placeRecords_held, placeRecords_listed, Eff.Carries]

theorem emitEff_carries (s : State) (slot d k sl) : (emitEff slot d s k sl).Carries s := by
  grind [emitEff, pumpEmit_carries, passing_carries, modGraph_held, modGraph_listed, Eff.Carries, Eff.Carries.of_eq]

theorem execEmit_carries (hs : OnGang s k sl) (d k) : Carries s (execEmit d k s) :=
  issue_carries (fun _ _ _ => emitEff_carries ..) hs

theorem execEmitReg_carries (hs : OnGang s k sl) (h d a) : Carries s (execEmitReg h d a s) :=
  issue_carries (fun _ _ _ => emitEff_carries ..) hs

theorem intOp_carries (hs : OnGang s k sl) (h d a b acc f) : Carries s (intOp h d a b acc f s) := by
  unfold intOp
  exact laneReg_carries hs ..

theorem compareOp_carries (hs : OnGang s k sl) (h c p a b) : Carries s (compareOp h c p a b s) :=
  lanePred_carries hs ..

theorem execIcmpImm_carries (hs : OnGang s k sl) (h c p a i) : Carries s (execIcmpImm h c p a i s) :=
  compareOp_carries hs ..

theorem execSel_carries (hs : OnGang s k sl) (h d a b) : Carries s (execSel h d a b s) := by
  unfold execSel
  refine issue_carries (fun s k sl => ?_) hs
  grind [passing_carries, queueLanes_held]

theorem permute_carries (hs : OnGang s k sl) (h d a b from') : Carries s (permute h d a b from' s) :=
  issue_carries (fun _ _ _ => passing_carries (by simp)) hs

theorem reduceOp_carries (hs : OnGang s k sl) (h d a op run) : Carries s (reduceOp h d a op run s) := by
  unfold reduceOp
  refine issue_carries (fun s k sl => ?_) hs
  grind [modWarp_held, passing_carries, queueLanes_held]

theorem execVred_carries (hs : OnGang s k sl) (h d a o) : Carries s (execVred h d a o s) := by
  unfold execVred
  exact reduceOp_carries hs ..

theorem execVscan_carries (hs : OnGang s k sl) (h d a e o) : Carries s (execVscan h d a e o s) := by
  unfold execVscan
  exact reduceOp_carries hs ..

theorem execVwri_carries (hs : OnGang s k sl) (h d a) : Carries s (execVwri h d a s) := by
  unfold execVwri
  refine issue_carries (fun s k sl => ?_) hs
  grind [modWarp_held, privatise_held, askGranules_held, askGranules_listed, passing_carries, startVwri_held,
    foldl_held, Eff.Carries]

theorem execVbal_carries (hs : OnGang s k sl) (d p) : Carries s (execVbal d p s) := by
  unfold execVbal
  refine issue_carries (fun s k sl => ?_) hs
  grind [passing_carries, queueLanes_held]

theorem execVvote_carries (hs : OnGang s k sl) (v d p) : Carries s (execVvote v d p s) := by
  unfold execVvote
  refine issue_carries (fun s k sl => ?_) hs
  grind [passing_carries, queueLanes_held]

theorem exec_carries_of_encode (hs : OnGang s k sl) {i : Instr} (hi : encode i ≠ 0)
    (hap : isApWord i = false) : Carries s (exec i s) := by
  cases i
  case bra => exact execBra_carries hs ..
  case brc => exact execBrc_carries hs ..
  case bri | calli => exact indirect_carries hs ..
  case call => exact execCall_carries hs ..
  case mark => exact execMark_carries hs ..
  case mode => exact execMode_carries hs ..
  case modei => exact execModei_carries hs ..
  case win => exact execWin_carries hs ..
  case wini => exact execWini_carries hs ..
  case rds => exact execRds_carries hs ..
  case rdsClockLo => exact execRdsClockLo_carries hs ..
  case wrs => exact execWrs_carries hs ..
  case wrsWin => exact execWrsWin_carries hs ..
  case wrsFlags => exact execWrsFlags_carries hs ..
  case wrsSrseed => exact execWrsSrseed_carries hs ..
  case freeze => exact execFreeze_carries hs ..
  case grow => exact execGrow_carries hs ..
  case shrink => exact execShrink_carries hs ..
  case growReg => exact execGrowReg_carries hs ..
  case shrinkReg => exact execShrinkReg_carries hs ..
  case donate => exact execDonate_carries hs ..
  case rend => exact execRend_carries hs ..
  case bar => exact execBar_carries hs ..
  case bara => exact execBara_carries hs ..
  case barReg => exact execBarReg_carries hs ..
  case baraReg => exact execBaraReg_carries hs ..
  case waitc => exact execWaitc_carries hs ..
  case waitp => exact execWaitp_carries hs ..
  case sleep => exact execSleep_carries hs ..
  case trap => exact execTrap_carries hs ..
  case iadd | iaddi | isub | imul | imulImm | imulh | imad | imin | iminImm | imax | imaxImm | iabs | and | andImm
    | or | orImm | xor | xorImm | andn | not | shl | shlImm | shr | shrImm | sar | sarImm | rot | rotImm | popc
    | clz | brev | bfe | bfi | lea => unfold exec; exact intOp_carries hs ..
  case icmp => exact compareOp_carries hs ..
  case icmpImm => exact execIcmpImm_carries hs ..
  case sel => exact execSel_carries hs ..
  case mov | movi | movh | cvt | cvtFi | cvtIf | cvtIi | cvtb | cvtbD | cvts | cbenc | vrdi =>
    unfold exec; exact laneReg_carries hs ..
  case pand | por | pnot | pmov | pmovReg => unfold exec; exact lanePred_carries hs ..
  case fadd | faddAbs | fsub | fsubAbs | fmul | fmulAbs | ffma | ffmaNp | ffmaNd | ffmaNn | fmin | fminNan | fminAbs
    | fmax | fmaxNan | fmaxAbs | fsqrt | ffloor | ffrac => unfold exec; exact fltOp_carries hs ..
  case fcmp | fcmpZ => exact fcmpOp_carries hs ..
  case frcp | frsq | fexp2 | flog2 | fsin | fsinPi | fcos | fcosPi | ftanh => exact transOp_carries hs ..
  case vperm | vshfl | vbfx | vbcast => exact permute_carries hs ..
  case vred => exact execVred_carries hs ..
  case vscan => exact execVscan_carries hs ..
  case vwri => exact execVwri_carries hs ..
  case vbal => exact execVbal_carries hs ..
  case vvote => exact execVvote_carries hs ..
  case brec => exact execBrec_carries hs ..
  case ld | ldImm | ldx | ldxImm | lda | ldaImm => exact globalLoad_carries hs ..
  case st | stImm | stx | stxImm | stl | stlImm => exact globalStore_carries hs ..
  case ldc | ldaCluster => exact clusterLoad_carries hs ..
  case stc | stlCluster => exact clusterStore_carries hs ..
  case acpy | apln => exact issueCopy_carries hs ..
  case arrive => exact execArrive_carries hs ..
  case fence => exact execFence_carries hs ..
  case publish => exact execPublish_carries hs ..
  case publishVf => exact execPublishVf_carries hs ..
  case pref | prefImm => exact prefetch_carries hs ..
  case cbld => exact execCbld_carries hs ..
  case atomGlobal | redGlobal | atomfGlobal | acasGlobal | atomD | redD | acasD => exact globalAtomic_carries hs ..
  case atomCluster | redCluster | atomfCluster | acasCluster => exact clusterAtomic_carries hs ..
  case atomp => exact execAtomp_carries hs ..
  case waitmGlobal => exact execWaitmGlobal_carries hs ..
  case waitmCluster => exact execWaitmCluster_carries hs ..
  case cacheopArm | cacheopDisarm | cacheopFlush | cacheopEvict | cacheopPackOn | cacheopPackOff =>
    exact cacheop_carries hs ..
  case cacheopRangeFlush | cacheopRangeEvict => exact cacheopRange_carries hs ..
  case hcfg | hgrad => unfold exec; exact hashCommand_carries hs ..
  case hlookRows | hlookPlanes => exact hlook_carries hs ..
  case bstr | btps | btpsOne => unfold exec; exact warpWriter_carries hs ..
  case bstrImm => exact execBstrImm_carries hs ..
  case bstg | bchn | btrn | btrnW | bdns | bdrn => exact tileCommand_carries hs ..
  case qpush | qpushN => exact queuePush_carries hs ..
  case qpushRt => exact execQpushRt_carries hs ..
  case qpop | qpopN => exact queuePop_carries hs ..
  case qstat => exact execQstat_carries hs ..
  case apgo => exact execApgo_carries hs ..
  case apstop => exact execApstop_carries hs ..
  case emit => exact execEmit_carries hs ..
  case emitReg => exact execEmitReg_carries hs ..
  case post | postImm => unfold exec; exact postValue_carries hs ..
  case sysc | syscReg => unfold exec; exact systemCall_carries hs ..
  case exit => exact execExit_carries hs
  case ret => exact execRet_carries hs
  case join => exact execJoin_carries hs
  case regang => exact execRegang_carries hs
  case yield => exact execYield_carries hs
  case eret => exact execEret_carries hs
  case apBaseInstruction | apEnvironmentCall | qPush | qPop | rtSuspend | rtResume | ctxYield | ctxEnd | gWait | gIssue
    | sIssue | bagSum | bagMean | rtBox | rtTri => cases hap
  all_goals exact absurd rfl hi

/-- Each core word's instruction, issued by a gang, carries. -/
theorem exec_carries (hs : OnGang s k sl) {i : Instr} (hi : isCoreWord i = true) :
    Carries s (exec i s) := by
  simp only [isCoreWord, Bool.or_eq_true, decide_eq_true_eq, Bool.and_eq_true, bne_iff_ne, Bool.not_eq_true'] at hi
  obtain rfl | ⟨hi, hap⟩ := hi
  · exact execNop_carries hs
  · exact exec_carries_of_encode hs hi hap

end Sys2Proof.Machine
end

section
/-!
PROOFS. What the two decoders answer with: a core's with the instruction of a core word, an access processor's with that
of a word of its own (R105, R353).
-/

namespace Sys2Proof.Machine

open Sys2Proof.Claims

/-- Whatever instruction a decoder answers with is of a kind. -/
def Decodes (p : Instr → Bool) (e : Except Reject Instr) : Prop := ∀ i, e = .ok i → p i = true

namespace Decodes

variable {p : Instr → Bool}

theorem error (r : Reject) : Decodes p (.error r) := fun _ h => by cases h

theorem ok {i : Instr} (h : p i = true) : Decodes p (.ok i) := fun _ e => by cases e; exact h

theorem rowOr {w : Nat} {f : List (Nat × Nat × Nat)} {i : Instr} {e : Except Reject Instr} (h : p i = true)
    (he : Decodes p e) : Decodes p (rowOr w f i e) := by
  unfold Sys2Proof.rowOr
  split
  · split
    · exact ok h
    · exact error _
  · exact he

theorem row {w : Nat} {f : List (Nat × Nat × Nat)} {i : Instr} (h : p i = true) : Decodes p (row w f i) :=
  rowOr h (error _)

end Decodes

theorem isCoreWord_of_encode {i : Instr} (hi : 0 < encode i) (hap : isApWord i = false) : isCoreWord i = true := by
  simp [isCoreWord, hap, Nat.pos_iff_ne_zero.1 hi]

theorem decodeCore_decodes (w : Nat) : Decodes isCoreWord (decodeCore w) := by
  unfold decodeCore ops0 ops1 ops2 ops3 ops4 ops5 ops7 ops8 ops9 opsA opsB opsC opsD opsE opsF
  split
  all_goals repeat'
    first
      | with_reducible exact .error _
      | with_reducible apply Decodes.rowOr
      | with_reducible apply Decodes.row
      | split
  case h_1 => rfl
  all_goals
    refine isCoreWord_of_encode ?_ rfl
    repeat apply Nat.add_pos_left
    decide

theorem decodeAp_decodes (w : Nat) : Decodes isApWord (decodeAp w) := by
  unfold decodeAp custom1 custom2
  repeat' first | exact .error _ | exact .row rfl | exact .ok rfl | split

end Sys2Proof.Machine
end

section
/-!
PROOFS. Every event and every command of a ring ends in a state (R438, R440).
-/

namespace Sys2Proof.Machine

/-- The outcome is a state: neither a fault nor a refusal. -/
def Goes (o : Out) : Prop := ∃ t, o = .next t

theorem Goes.next (s : State) : Goes (.next s) := ⟨s, rfl⟩

theorem onMessage_goes (kind : Nat) (f : State → Nat → Message → State) (m : Message) (s : State) :
    Goes (onMessage kind f m s) := by
  unfold onMessage
  split <;> exact .next _

/-- R440: a command is refused or ended by its completion word, not by a fault of the device. -/
theorem hostCommand_goes (code : Nat) (mine : Command → Bool) (bad : State → Command → Bool)
    (run : State → Nat → Command → Option (State × Nat)) (s : State) : Goes (hostCommand code mine bad run s) := by
  unfold hostCommand
  extract_lets r
  repeat' first | exact .next _ | split

theorem exec_goes_of_isEvent {i : Instr} (hi : isEvent i = true) (s : State) : Goes (exec i s) := by
  cases i
  case correctedError | resultQueueWrite | latchExpiry | lineWriteBack | homeAtomic | routineRun | monitorCheck
    | contribution | budgetWindowEnd | retryRequest | portDown | dieToDieLinkDown | powerOn =>
    exact .next _
  case dataFlitReceive | readMessage | readResponse | writeMessage | atomicMessage | contributionMessage
    | acknowledgement | resultLine | uncorrectableError | sleepExpiry | registerStarvation | clusterSpaceAccess
    | copyDataLanding | publishPerform | versionFenceArm | lineTranslation | loadReturn | storeAcknowledgement
    | homeLoad | homeStore | copyInvalidation | cachedCopyExpiry | atomicReturn | monitorRetry | updateStepCompletion
    | hcfgPerform | hlookAccept | replicaRefill | hgradScatter | hashCommandCompletion | cellArrayGrant
    | drainPathGrant | matrixCommandCompletion | apOperationCompletion | contextPark | groupCloseTimeout | postArrival
    | escapementPlacement | batchTimeout | preemption | warpSave | nodeCompletion | chunkRequest | chunkHandout
    | heartbeat | dieFailure | headroomReading | portUp | writeContextDescriptor | submitLaunch | submitGraph
    | frameEvent | invalidateTranslations | resumeRecordReplay | resumeRecordAbort | faultQueueHead | writeRoutineSlot
    | writeUpdateDescriptor | writeAccessProcessorImage | writePublishEntry | writeCollectiveDescriptor
    | setRouteTable | setApertureTable | setOverflowArea | setCompressionMetadata | partitionReserve
    | partitionRelease | persistentLaunch | fieldControl | retrainPort | readStatus | scrubReplay | scrubAbort
    | attestationReport | bringUpPackage | ringDoorbell | ringEnable | errorLogHead | hostRegisterWrite
    | hostAttachTrained | firmwareVerify | configurationLoad | dieToDieLinkTrained | tgmStart | fieldPowerUp
    | hbmStackTrained | systemPortTrained | currentThrottle | currentThrottleEnd | thermalThrottle
    | thermalThrottleEnd | thermalTrip | vwriWrite | queueReturn | nodeFetchReturn | mirrorWrite =>
    unfold exec
    simp only [execDataFlitReceive, execReadMessage, execReadResponse, execWriteMessage, execAtomicMessage,
      execContributionMessage, execAcknowledgement, execResultLine, execUncorrectableError, execSleepExpiry,
      execRegisterStarvation, execClusterSpaceAccess, execCopyDataLanding, execPublishPerform, execVersionFenceArm,
      execLineTranslation, execLoadReturn, execStoreAcknowledgement, execHomeLoad, execHomeStore,
      execCopyInvalidation, execCachedCopyExpiry, execAtomicReturn, execMonitorRetry, execUpdateStepCompletion,
      execHcfgPerform, execHlookAccept, execReplicaRefill, execHgradScatter, execHashCommandCompletion,
      execCellArrayGrant, execDrainPathGrant, execMatrixCommandCompletion, execApOperationCompletion,
      execContextPark, execGroupCloseTimeout, execPostArrival, execEscapementPlacement, execBatchTimeout,
      execPreemption, execWarpSave, execNodeCompletion, execChunkRequest, execChunkHandout, execHeartbeat,
      execDieFailure, execHeadroomReading, execPortUp, execWriteContextDescriptor, execSubmitLaunch, execSubmitGraph,
      execFrameEvent, execInvalidateTranslations, execResumeRecordReplay, execResumeRecordAbort, execFaultQueueHead,
      execWriteRoutineSlot, execWriteUpdateDescriptor, execWriteAccessProcessorImage, execWritePublishEntry,
      execWriteCollectiveDescriptor, execSetRouteTable, execSetApertureTable, execSetOverflowArea,
      execSetCompressionMetadata, execPartitionReserve, execPartitionRelease, execPersistentLaunch, execFieldControl,
      execRetrainPort, execReadStatus, execScrubReplay, execScrubAbort, execAttestationReport, execBringUpPackage,
      execRingDoorbell, execRingEnable, execErrorLogHead, execHostRegisterWrite, execHostAttachTrained,
      execFirmwareVerify, execConfigurationLoad, execDieToDieLinkTrained, execTgmStart, execFieldPowerUp,
      execHbmStackTrained, execSystemPortTrained, execCurrentThrottle, execCurrentThrottleEnd, execThermalThrottle,
      execThermalThrottleEnd, execThermalTrip, execVwriWrite, execQueueReturn, execNodeFetchReturn, execMirrorWrite,
      plainCommand, areaCommand, errorCommand]
    repeat' first | exact .next _ | exact onMessage_goes .. | exact hostCommand_goes .. | split
  case nop | apBaseInstruction | apEnvironmentCall | formatTrapEntry | instructionFetch => cases hi
  all_goals
    refine absurd (eq_of_beq (b := 0) hi) (Nat.ne_of_gt ?_)
    repeat apply Nat.add_pos_left
    decide

end Sys2Proof.Machine
end

section
/-!
PROOFS. No turn of the device ends in a fault or a refusal (R30, R31, R120, R345, R440).
-/

namespace Sys2Proof.Machine

open Sys2Proof.Claims

/-! ## Attempts -/

theorem postError_listed (s : State) (b : List Byte) : listed (postError s b) = listed s := by
  obtain ⟨_, _, _, _, _, _, _, _, h, hws, -⟩ := postError_eq s b
  exact SameWarps.listed_eq (by rw [h]; exact hws)

theorem recordPoison_listed (s : State) (home line c p behind o) :
    listed (recordPoison s home line c p behind o) = listed s := by
  unfold recordPoison postErrorFor
  dsimp only
  split
  · exact (postRecord_listed ..).trans (postError_listed ..)
  · exact postError_listed ..

theorem holdUnit_listed (s : State) (c die line : Nat) : listed (holdUnit s c die line) = listed s := by
  unfold holdUnit
  split
  · dsimp only
    split
    · rfl
    · exact recordPoison_listed ..
  · rfl

theorem askLine_listed (c die : Nat) (s : State) (line : Nat) : listed (askLine c die s line) = listed s := by
  unfold askLine
  dsimp only
  split <;> rfl

theorem reach_listed (s : State) (l : List (Nat × Nat × Nat)) : listed (reach s l) = listed s := by
  unfold reach
  refine foldl_listed (fun s x => ?_) _ _
  split
  · exact askLine_listed ..
  · unfold ifRoom
    split
    · rfl
    · exact holdUnit_listed ..

/-- An attempt that is held up has changed no warp. -/
theorem attempt_listed_of_heldUp {s t : State} (h : heldUp s t = true) : listed (attempt s t) = listed s := by
  unfold attempt ifRoom
  split
  · rename_i hstuck
    have hfull : overfull s (spend t) = true := by simpa [heldUp, hstuck] using h
    rw [if_pos hfull]
  · exact reach_listed ..

theorem spend_listed (s : State) : listed (spend s) = listed s := by
  unfold spend
  split <;> rfl

/-! ## Issue ports -/

theorem fetchFault_listed (s : State) (k : Nat) (sl : BitVec 8) (kind : Nat) :
    listed (fetchFault s k sl kind) = listed s := by
  unfold fetchFault
  extract_lets w pc
  split
  · exact holdGang_listed ..
  · exact (postRecord_listed ..).trans (modGang_listed ..)

/-- R31: the fetch of a gang's word leaves the gang to issue it, or faults and leaves no word. -/
theorem execInstructionFetch_next {s : State} {k : Nat} {sl : BitVec 8} (hs : OnGang s k sl) :
    ∃ t, execInstructionFetch s = .next t ∧ listed t = listed s ∧ (t.fetched = none ∨ OnGang t k sl) := by
  have hfault (t : State) (kind : Nat) : (fetchFault t k sl kind).fetched = none := by
    unfold fetchFault
    dsimp only
    split <;> rfl
  have ht := translate_accessed s (warpAt s k).walker (gangPc (warpAt s k) sl).toNat .fetch
  simp only [execInstructionFetch, hs.issuer]
  split <;> rename_i e <;> rw [e] at ht
  · rename_i s1 t
    have hb := ht.trans (physBytes_accessed s1 (warpAt s k).ident.ctx (warpAt s k).die t.pa 4)
    split <;> rename_i e <;> rw [e] at hb
    · exact ⟨_, rfl, hb.listed_eq, .inr ⟨hb.issuer.trans hs.issuer, (congrFun hb.listed_eq k).trans hs.warp,
        hb.held.trans hs.held⟩⟩
    · exact ⟨_, rfl, (fetchFault_listed ..).trans hb.listed_eq, .inl (hfault ..)⟩
  · exact ⟨_, rfl, (fetchFault_listed ..).trans ht.listed_eq, .inl (hfault ..)⟩

theorem refuseWord_carries {s : State} {k : Nat} {sl : BitVec 8} (hs : OnGang s k sl) : Carries s (refuseWord s) := by
  obtain ⟨w, hw⟩ := Option.isSome_iff_exists.1 hs.warp
  simp only [refuseWord, hs.issuer, hw]
  exact ⟨_, rfl, issueTrap_passes hs.held rfl⟩

theorem runWord_carries {s : State} {k : Nat} {sl : BitVec 8} (hs : OnGang s k sl) (w : Word) :
    Carries s (runWord w s) := by
  unfold runWord
  split
  · rename_i i hi
    exact exec_carries hs (decodeCore_decodes _ i hi)
  · exact refuseWord_carries hs

theorem execFormatTrapEntry_carries {s : State} {k : Nat} {sl : BitVec 8} (hs : OnGang s k sl) :
    Carries s (execFormatTrapEntry s) := by
  simp only [execFormatTrapEntry, hs.issuer]
  split
  · exact ⟨_, rfl, .of_held (by simp [hs.held])⟩
  · exact ⟨_, rfl, .of_listed rfl⟩

theorem runGang_carries {s : State} {k : Nat} {sl : BitVec 8} (hs : OnGang s k sl) : Carries s (runGang s k sl) := by
  unfold runGang
  split
  · split
    · exact ⟨_, rfl, .of_listed (holdGang_listed ..)⟩
    · exact execFormatTrapEntry_carries hs
  · obtain ⟨f, hf, hlisted, hgang⟩ := execInstructionFetch_next hs
    simp only [hf]
    split
    · rename_i w hw
      have hgang : OnGang f k sl := hgang.resolve_left (by simp [hw])
      obtain ⟨t, ht, hheld⟩ := runWord_carries hgang w
      exact ⟨t, ht, fun h => (hheld h).trans hlisted⟩
    · exact ⟨f, rfl, .of_listed hlisted⟩

theorem tryGang_carries {s : State} {k : Nat} {sl : BitVec 8} (hk : listed s k = true) : Carries s (tryGang s k sl) := by
  obtain ⟨t, ht, hheld⟩ := runGang_carries (s := gangState s k sl) (k := k) (sl := sl) ⟨rfl, hk, rfl⟩
  unfold gangState at ht hheld
  simp only [tryGang, ht]
  refine ⟨_, rfl, fun h => ?_⟩
  split at h <;> rename_i hu
  · rw [if_pos hu]
    exact (holdGang_listed ..).trans (attempt_listed_of_heldUp hu)
  · rw [if_neg hu, attempt_of_not_heldUp (by simpa using hu)] at *
    rw [spend_listed]
    exact hheld (by simpa using h)

/-- R31: the candidates behind one that is held still find their warps. -/
theorem tryGangs_goes {l : List Candidate} {s : State} (hl : ∀ c ∈ l, listed s c.warp = true) : Goes (tryGangs l s) := by
  induction l generalizing s with
  | nil => exact .next s
  | cons c r ih =>
    obtain ⟨t, ht, hheld⟩ := tryGang_carries (sl := c.slices) (hl c (by simp))
    cases r with
    | nil => exact ⟨t, ht⟩
    | cons d r =>
      simp only [tryGangs, ht]
      split
      · rename_i h
        exact ih fun e he => (congrFun (hheld h) e.warp).trans (hl e (List.mem_cons_of_mem c he))
      · exact .next t

theorem mem_insertBy {α : Type} {before : α → α → Bool} {x y : α} {l : List α} (h : x ∈ insertBy before y l) :
    x = y ∨ x ∈ l := by
  induction l with
  | nil => simpa [insertBy] using h
  | cons z l ih =>
    unfold insertBy at h
    split at h <;> grind

theorem mem_sortBy {α : Type} {before : α → α → Bool} {x : α} {l : List α} (h : x ∈ sortBy before l) : x ∈ l := by
  induction l with
  | nil => exact h
  | cons y l ih =>
    rcases mem_insertBy h with rfl | h
    · exact List.mem_cons_self
    · exact List.mem_cons_of_mem _ (ih h)

theorem tfind_isSome_of_mem {α : Type} {t : Tbl α} {p : Nat × α} (h : p ∈ t) : (tfind t p.1).isSome = true := by
  induction t with
  | nil => cases h
  | cons q t ih =>
    obtain ⟨k, v⟩ := q
    simp only [tfind]
    split
    · rfl
    · rcases List.mem_cons.1 h with rfl | h
      · contradiction
      · exact ih h

theorem listed_of_mem_candidates {s : State} {die core port : Nat} {c : Candidate}
    (h : c ∈ candidates s die core port) : listed s c.warp = true := by
  obtain ⟨p, hp, hc⟩ := List.mem_flatMap.1 (mem_sortBy h)
  obtain ⟨sl, -, rfl⟩ := List.mem_map.1 hc
  exact tfind_isSome_of_mem (List.mem_filter.1 (List.mem_filter.1 hp).1).1

theorem portTurn_goes (s : State) (die core port : Nat) : Goes (portTurn s die core port) := by
  unfold portTurn
  split
  · exact .next s
  · extract_lets s1 c s2
    split
    · exact .next s2
    · obtain ⟨t, ht⟩ := tryGangs_goes fun c (h : c ∈ candidates s2 die core port) => listed_of_mem_candidates h
      simp only [ht]
      exact .next _

/-! ## Access processors -/

/-- R338, R353: the instruction of each word of an access processor, issued by one. -/
theorem exec_goes_of_isApWord {s : State} {c u x : Nat} (hs : s.issuer = .ap c u x) {i : Instr} (hi : isApWord i = true) :
    Goes (exec i s) := by
  have hrun (f : State → Nat → Nat → Nat → State) : Goes (apRun f s) := by
    simp only [apRun, hs]
    exact .next _
  have hgather (scatter : Bool) (b a : BitVec 5) : Goes (issueGather scatter b a s) := hrun _
  have hbag (mean : Bool) (a : BitVec 5) : Goes (issueBag mean a s) := hrun _
  cases i
  case apBaseInstruction | apEnvironmentCall | qPush | qPop | rtSuspend | rtResume | ctxYield | ctxEnd | gWait | rtBox
    | rtTri =>
    unfold exec
    exact hrun _
  case gIssue | sIssue => exact hgather ..
  case bagSum | bagMean => exact hbag ..
  all_goals cases hi

theorem runContext_goes {s : State} {c u x : Nat} (hs : s.issuer = .ap c u x) : Goes (runContext s c u x) := by
  unfold runContext
  extract_lets pc
  split
  · exact .next _
  · split
    · rename_i i hi
      exact exec_goes_of_isApWord hs (decodeAp_decodes _ i hi)
    · exact .next _

theorem tryContext_goes (s : State) (c u x : Nat) : Goes (tryContext s c u x) := by
  obtain ⟨t, ht⟩ := runContext_goes (s := ctxState s c u x) (c := c) (u := u) (x := x) rfl
  unfold ctxState at ht
  simp only [tryContext, ht]
  exact .next _

theorem tryContexts_goes (c u : Nat) (l : List Nat) (s : State) : Goes (tryContexts c u l s) := by
  induction l generalizing s with
  | nil => exact .next s
  | cons x r ih =>
    obtain ⟨t, ht⟩ := tryContext_goes (modApCtx s c u x fun y => { y with yielded := false }) c u x
    simp only [tryContexts, ht]
    split
    · exact ih _
    · exact .next _

theorem apTurn_goes (s : State) (die core unit : Nat) : Goes (apTurn s die core unit) := by
  unfold apTurn
  extract_lets c
  split
  · exact .next s
  · exact tryContexts_goes ..

/-! ## Rings and events -/

theorem attempted_goes (s : State) {o : Out} (h : Goes o) : Goes (attempted s o) := by
  obtain ⟨t, rfl⟩ := h
  exact .next _

theorem isEvent_of_commandInstr {c : Command} {i : Instr} (h : commandInstr c = some i) : isEvent i = true := by
  unfold commandInstr at h
  repeat' split at h
  all_goals cases h
  all_goals rfl

theorem ringTurn_goes (s : State) (r : Nat) : Goes (ringTurn s r) := by
  unfold ringTurn
  extract_lets s
  split
  · exact .next s
  · split
    · rename_i i hi
      exact attempted_goes _ (exec_goes_of_isEvent (isEvent_of_commandInstr hi) s)
    · exact .next _

theorem eventTurn_goes (s : State) (i : Instr) (args : List Nat) : Goes (eventTurn s i args) := by
  unfold eventTurn
  extract_lets s c s1
  split
  · exact .next s
  · rename_i hi
    exact attempted_goes _ (exec_goes_of_isEvent (by simpa using hi) _)

/-! ## The step -/

theorem act_goes (s : State) : Goes (act s) := by
  unfold act
  split
  · exact portTurn_goes ..
  · exact apTurn_goes ..
  · exact ringTurn_goes ..
  · exact eventTurn_goes ..

/-- Settles O58: an instruction faults only where no gang or context of a listed warp or unit issues it, and every turn
gives each instruction its issuer. -/
theorem theDeviceGoesOn : Obligations.TheDeviceGoesOn := by
  intro s
  obtain ⟨t, ht⟩ := act_goes (atRest s)
  exact ⟨_, step_of_act ht⟩

end Sys2Proof.Machine
end

section
/-!
PROOFS. What the issue of a gang's instruction leaves when it takes effect, and when it waits (R30, R120, R133): all but
the warp's slices and queues is as its effect has left it.
-/

namespace Sys2Proof.Machine

open Sys2Proof.Claims

/-! ## The end of an instruction -/

theorem modGang_eq (s : State) (k : Nat) (sl : BitVec 8) (f : Slice → Slice) :
    ∃ ws, modGang s k sl f = { s with warps := ws } := by
  obtain ⟨ws, h, -⟩ := foldSlices_eq s k (bitsOf 8 sl) fun _ => f
  exact ⟨ws, h⟩

theorem finishIssue_eq (f : Form) (s : State) (k : Nat) (sl : BitVec 8) (held : List (Nat × List Word)) :
    ∃ ws, finishIssue f s k sl held = { s with warps := ws } := by
  unfold finishIssue stampIssue
  exact modGang_eq _ k sl _

@[simp] theorem writeResult_counters (w : Warp) (i : Nat) (r : Result) : (writeResult w i r).counters = w.counters := by
  unfold writeResult
  refine foldl_keep Warp.counters _ (fun w j => ?_) _ _
  dsimp only
  split
  · rfl
  · unfold setPred; split <;> rfl
  · rfl

@[simp] theorem writeResult_spec (w : Warp) (i : Nat) (r : Result) : (writeResult w i r).spec = w.spec := by
  unfold writeResult
  refine foldl_keep Warp.spec _ (fun w j => ?_) _ _
  dsimp only
  split
  · rfl
  · unfold setPred; split <;> rfl
  · rfl

@[simp] theorem writeWarpResult_counters (w : Warp) (r : WarpResult) : (writeWarpResult w r).counters = w.counters := by
  unfold writeWarpResult; split <;> rfl

@[simp] theorem writeWarpResult_spec (w : Warp) (r : WarpResult) : (writeWarpResult w r).spec = w.spec := by
  unfold writeWarpResult; split <;> rfl

/-- A part of a warp that slices and results do not reach. -/
structure OffQueues {β : Type} (p : Warp → β) : Prop where
  slice : ∀ w i f, p (modSliceW w i f) = p w
  result : ∀ w i r, p (writeResult w i r) = p w
  warpResult : ∀ w r, p (writeWarpResult w r) = p w

theorem offQueues_counters : OffQueues Warp.counters := ⟨fun _ _ _ => rfl, writeResult_counters, writeWarpResult_counters⟩

theorem offQueues_spec : OffQueues Warp.spec := ⟨fun _ _ _ => rfl, writeResult_spec, writeWarpResult_spec⟩

namespace OffQueues

variable {β : Type} {p : Warp → β}

theorem tickSlice (hp : OffQueues p) (w : Warp) (i : Nat) : p (tickSlice w i) = p w := by
  unfold Machine.tickSlice writeDue
  rw [hp.slice, foldl_keep p _ hp.warpResult, foldl_keep p _ fun w r => hp.result w i r, hp.slice]

theorem tickGang (hp : OffQueues p) (w : Warp) (sl : BitVec 8) (n : Nat) : p (tickGang w sl n) = p w := by
  induction n generalizing w with
  | zero => rfl
  | succ n ih => exact (ih _).trans (foldl_keep p _ hp.tickSlice _ _)

theorem ageLatches (hp : OffQueues p) (w : Warp) (sl : BitVec 8) : p (ageLatches w sl) = p w := by
  rw [ageLatches_eq]
  exact foldl_keep p _ (fun w i => (hp.slice _ _ _).trans (hp.slice _ _ _)) _ _

theorem regroup (hp : OffQueues p) (w : Warp) (sl : BitVec 8) : p (regroup w sl) = p w :=
  foldl_keep p _ (fun w i => hp.slice w i _) _ _

end OffQueues

/-- The end of an instruction keeps the warp's counters, and of an incomplete fence whether it has rolled back. -/
theorem finishIssue_warp {f : Form} {s : State} {k : Nat} {sl : BitVec 8} {w : Warp} {held : List (Nat × List Word)}
    (h : tfind s.warps k = some w) :
    (warpAt (finishIssue f s k sl held) k).counters = w.counters ∧
      ∀ p, w.spec = some p → ∃ q, (warpAt (finishIssue f s k sl held) k).spec = some q ∧ q.rolledBack = p.rolledBack := by
  let w2 := held.foldl (fun w p => modSliceW w p.1 fun x =>
    { x with latches := lmod x.latches (f.hold - 1) fun _ => ⟨p.2, 2⟩ }) (ageLatches w sl)
  let w4 := regroup (tickGang w2 sl 1) (gangMates (tickGang w2 sl 1) sl)
  have hw4 : ∀ {β : Type} {p : Warp → β}, OffQueues p → p w4 = p w := fun {β p} hp =>
    calc p w4 = p (tickGang w2 sl 1) := hp.regroup _ _
      _ = p w2 := hp.tickGang _ _ _
      _ = p (ageLatches w sl) := foldl_keep p _ (fun w (x : Nat × List Word) => hp.slice w x.1 _) _ _
      _ = p w := hp.ageLatches _ _
  let count := fun p : Speculation =>
    if (bitsOf 8 sl).any fun i => p.gang.getLsbD i then { p with issued := p.issued + 1 } else p
  have hend : warpAt (finishIssue f s k sl held) k =
      eachSlice (bitsOf 8 sl) (fun _ x => { x with lastIssue := s.now }) { w4 with spec := w4.spec.map count } :=
    warpAt_of_tfind (tfind_modGang sl _ (tfind_modWarp _ h))
  rw [hend, eachSlice_keep Warp.counters fun _ _ _ => rfl, eachSlice_keep Warp.spec fun _ _ _ => rfl]
  refine ⟨hw4 offQueues_counters, fun p hp => ⟨count p, ?_, ?_⟩⟩
  · simp only [hw4 offQueues_spec, hp, Option.map_some]
  · simp only [count]
    split <;> rfl

end Sys2Proof.Machine

namespace Sys2Proof.Claims

open Sys2Proof.Machine

/-! ## An instruction that passes on -/

/-- State `t` is what an instruction of a gang whose effect is `u` leaves as it passes on: every slice stands at the next
word, seen from `w`, and nothing but the warp's queues and slices has changed since `u`. -/
structure Passed (k : Nat) (sl : BitVec 8) (w : Warp) (u t : State) : Prop where
  rest : t = { u with warps := t.warps }
  steps : stepsOn k sl w t
  counters : (warpAt t k).counters = (warpAt u k).counters
  spec : ∀ p, (warpAt u k).spec = some p → ∃ q, (warpAt t k).spec = some q ∧ q.rolledBack = p.rolledBack

section

variable {f : Form} {s : State} {k : Nat} {sl : BitVec 8} {v : Warp} {eff : State → Nat → BitVec 8 → Eff} {i : Instr}

/-- A form that accepts the gang's mode serves in place of one that differs in what it accepts. -/
theorem Issues.accepting {ok : Word → Bool} (h : Issues f s k sl v) (hok : ok (gangMode v sl) = true) :
    Issues { f with accepts := ok } s k sl v :=
  ⟨h.issuer, h.warp, h.slices, h.fence, hok, h.inRange, h.clear, h.room, h.granted⟩

/-- An instruction that issues at once and passes on. -/
theorem issue_passes {g : State → Nat → BitVec 8 → State} (h : Issues f s k sl v) (hex : exec i s = issue f eff s)
    (he : eff (readAt f s k sl v) k sl = passing g (readAt f s k sl v) k sl)
    (hg : KeepsFlow k (readAt f s k sl v) (g (readAt f s k sl v) k sl)) :
    ∃ t, exec i s = .next t ∧
      Passed k sl (warpAt (readAt f s k sl v) k) (g (readAt f s k sl v) k sl) t := by
  obtain ⟨held, hissue⟩ : ∃ held, issue f eff s =
      .next (finishIssue f (modGang (g (readAt f s k sl v) k sl) k sl Slice.advance) k sl held) :=
    ⟨_, issue_done h.issuer h.warp h.fence h.accepted h.inRange h.clear h.room h.granted he⟩
  obtain ⟨w, hw, hwv⟩ := read_warp h
  generalize readAt f s k sl v = r at *
  obtain ⟨x, hx, hxw⟩ := hg w hw
  have hx8 : x.slices.length = 8 := hxw.length.trans (hwv.length.trans h.slices)
  have hgang : tfind (modGang (g r k sl) k sl Slice.advance).warps k =
      some (eachSlice (bitsOf 8 sl) (fun _ => Slice.advance) x) := tfind_modGang sl _ hx
  obtain ⟨hcounters, hspec⟩ := finishIssue_warp (f := f) (sl := sl) (held := held) hgang
  refine ⟨_, hex.trans hissue, ?_, fun j hj => ?_, ?_, ?_⟩
  · obtain ⟨ws, hm⟩ := modGang_eq (g r k sl) k sl Slice.advance
    obtain ⟨ws', hf⟩ := finishIssue_eq f (modGang (g r k sl) k sl Slice.advance) k sl held
    rw [hf, hm]
  · have hj8 : j < 8 := (mem_bitsOf.1 hj).1
    have hslice := finishIssue_slice (f := f) (sl := sl) (held := held) hgang (by simpa using hx8) j hj
    refine hslice.1.pc.trans ?_
    rw [sliceAt_eachSlice_mem _ _ _ _ hj (nodup_bitsOf 8 sl) (hx8 ▸ hj8), warpAt_of_tfind hw]
    exact congrArg (· + 4) (hxw.pc j)
  · rw [hcounters, eachSlice_keep Warp.counters fun _ _ _ => rfl, warpAt_of_tfind hx]
  · rw [eachSlice_keep Warp.spec fun _ _ _ => rfl] at hspec
    rwa [warpAt_of_tfind hx]

/-- An instruction that waits in its read cycle. -/
theorem issue_wait {s2 : State} {why : Wait} (h : Issues f s k sl v) (he : eff (readAt f s k sl v) k sl = .wait s2 why) :
    issue f eff s = .next (holdGang (modWarp s2 k fun w => flushWarpQueue w sl) k sl why) := by
  have hrange : (f.named.map (v.win + ·)).find? (v.ceil ≤ ·) = none := by
    simp only [List.find?_eq_none, List.mem_map, decide_eq_true_eq, not_le]
    rintro _ ⟨n, hn, rfl⟩
    exact h.inRange n hn
  rw [readAt] at he
  simp [issue, issueGang, h.issuer, h.warp, h.fence, h.accepted, hrange, h.clear, h.room, h.granted, he]

theorem sameFlow_flushWarpQueue (w : Warp) (sl : BitVec 8) : SameFlow (flushWarpQueue w sl) w :=
  sameFlow_foldl _ (fun v i => (sameFlow_modSliceW _ i _ fun x => by simp).trans
    (sameFlow_foldl _ sameFlow_writeWarpResult _ v)) _ _

/-- An instruction that waits keeps its gang at its word, for the reason given. -/
theorem issue_waits {why : Wait} (h : Issues f s k sl v) (hex : exec i s = issue f eff s)
    (he : eff (readAt f s k sl v) k sl = .wait (readAt f s k sl v) why) :
    ∃ t, exec i s = .next t ∧ ∀ j ∈ bitsOf 8 sl, (sliceOf t k j).wait = why ∧
      (sliceOf t k j).pc = (sliceAt (warpAt (readAt f s k sl v) k) j).pc := by
  obtain ⟨w, hw, hwv⟩ := read_warp h
  refine ⟨_, hex.trans (issue_wait h he), fun j hj => ?_⟩
  have hflush := sameFlow_flushWarpQueue w sl
  have h8 : (flushWarpQueue w sl).slices.length = 8 := hflush.length.trans (hwv.length.trans h.slices)
  have hend : sliceOf (holdGang (modWarp (readAt f s k sl v) k fun w => flushWarpQueue w sl) k sl why) k j =
      { sliceAt (flushWarpQueue w sl) j with wait := why } := by
    have hwarp := warpAt_of_tfind (tfind_modGang sl (fun x => { x with wait := why })
      (tfind_modWarp (fun w => flushWarpQueue w sl) hw))
    change sliceAt (warpAt (modGang _ k sl _) k) j = _
    rw [hwarp, sliceAt_eachSlice_mem _ _ _ _ hj (nodup_bitsOf 8 sl) (h8 ▸ (mem_bitsOf.1 hj).1)]
  rw [hend, warpAt_of_tfind hw]
  exact ⟨rfl, hflush.pc j⟩

end

end Sys2Proof.Claims
end

section
/-!
PROOFS. Fences, publishing and the hash engine's queue as a gang's instructions meet them (R55 to R66, R249, R250, R286):
what acquiring, sampling a version and ending an operation change, said once, then each instruction by its cases.
-/

namespace Sys2Proof.Machine

open Sys2Proof.Claims

/-! ## Acquiring and sampling (R46, R55, R63) -/

/-- An acquire drops cached lines and copies, and marks what is on its way from other devices as stale. -/
theorem acquire_eq (s : State) (die core scope : Nat) :
    ∃ rm cs cp, acquire s die core scope = { s with remote := rm, cores := cs, copies := cp } := by
  unfold acquire staleRemote
  dsimp only
  split <;> split <;> split <;> exact ⟨_, _, _, rfl⟩

theorem acquire_cores {s : State} {die core scope : Nat} (h : 2 ≤ scope) :
    (acquire s die core scope).cores =
      if (tfind s.cores (coreKey die core)).isNone = true then s.cores
      else tput s.cores (coreKey die core) { tget s.cores (coreKey die core) default with cache := [] } := by
  have hwide : ¬ scope < 2 := by omega
  unfold acquire
  simp only [hwide, if_false, false_or]
  split <;> split <;> rfl

/-- R55: an acquire from cohort scope on empties its core's first-level cache. -/
theorem cache_acquire {s : State} {die core scope : Nat} (h : 2 ≤ scope) {x : Core}
    (hx : tfind (acquire s die core scope).cores (coreKey die core) = some x) : x.cache = [] := by
  rw [acquire_cores h] at hx
  split at hx
  · rename_i hnone
    rw [hx] at hnone
    cases hnone
  · rw [tfind_tput_same, Option.some.injEq] at hx
    rw [← hx]

/-- R55: an acquire at device scope keeps of its die's copies those of other devices' lines, one at system scope none. -/
theorem mem_copies_acquire {s : State} {die core scope : Nat} (h : 4 ≤ scope) {c : LineCopy}
    (hc : c ∈ (acquire s die core scope).copies) (hdie : c.die = die) : scope ≠ 5 ∧ isRemote c.pa = true := by
  have hwide : ¬ scope < 4 := by omega
  unfold acquire at hc
  simp only [hwide, if_false, List.mem_filter] at hc
  simpa [hdie] using hc.2

/-- A sample is an acquire that notes a reader or a writer at its entry. -/
theorem sampleVersion_eq (s : State) (die core o : Nat) (rec : BitVec 128) (writer : Bool) :
    ∃ rm cs cp pb, (sampleVersion s die core o rec writer).1 =
      { s with remote := rm, cores := cs, copies := cp, publish := pb } := by
  unfold sampleVersion
  dsimp only
  split
  · exact ⟨_, _, _, _, rfl⟩
  · obtain ⟨rm, cs, cp, h⟩ := acquire_eq s die core 5
    rw [h]
    exact ⟨_, _, _, _, rfl⟩

/-! ## FENCE (R55 to R58, R249) -/

theorem keepsFlow_acquireWarp (s : State) (j k scope : Nat) : KeepsFlow j s (acquireWarp s k scope) := by
  obtain ⟨rm, cs, cp, h⟩ := acquire_eq s (warpAt s k).die (warpAt s k).core scope
  exact keepsFlow_of_warps (by rw [acquireWarp, h])

theorem keepsFlow_speculate (s : State) (k : Nat) (sl : BitVec 8) (scope : Nat) :
    KeepsFlow k s (speculate s k sl scope) :=
  keepsFlow_modWarp _ fun w => by constructor <;> intros <;> rfl

theorem spec_speculate {s : State} {k : Nat} {w : Warp} (h : tfind s.warps k = some w) (sl : BitVec 8) (scope : Nat) :
    ∃ p, (warpAt (speculate s k sl scope) k).spec = some p ∧ p.rolledBack = false := by
  rw [speculate, warpAt_of_tfind (tfind_modWarp _ h)]
  exact ⟨_, rfl, rfl⟩

/-- R249: what FENCE does in its read cycle. -/
def fenceEff (m : BitVec 1) (c : BitVec 3) (s : State) (k : Nat) (sl : BitVec 8) : Eff :=
  let w := warpAt s k
  let scope := fenceScope m c (gangMode w sl)
  if released w sl scope then passing (fun s k _ => acquireWarp s k scope) s k sl
  else if (tget s.contexts w.ident.ctx default).fence then passing (fun s k sl => speculate s k sl scope) s k sl
  else .wait s .other

def fenceForm (m : BitVec 1) : Form := { drains := true, accepts := fun md => decide (m = 1) || scopeOk md }

theorem exec_fence (m : BitVec 1) (c : BitVec 3) (s : State) :
    exec (.fence m c) s = issue (fenceForm m) (fenceEff m c) s := rfl

/-- Settles O31: a fence whose waits are over makes its visibility step, and one that waits is kept or gone past. The
statement names the fence's form by a number, of which the instruction keeps the lowest bit. -/
theorem fencesMakeWritesVisible : Obligations.FencesMakeWritesVisible := by
  unfold Obligations.FencesMakeWritesVisible
  intro n c f
  let m : BitVec 1 := n
  have hform : ∀ {s k sl w}, Issues f s k sl w → Issues (fenceForm m) s k sl w := fun {s k sl w} h => by
    refine h.accepting ?_
    have haccept : (decide (n = 1) || scopeOk (gangMode w sl)) = true := h.accepted
    simp only [Bool.or_eq_true, decide_eq_true_eq] at haccept ⊢
    exact haccept.imp_left fun hn => congrArg (Nat.cast (R := BitVec 1)) hn
  refine ⟨fun s k sl v h => ?_, fun s k sl v h => ?_, fun s k sl v h => ?_⟩ <;> intro r hok
  · obtain ⟨t, ht, hpass⟩ := issue_passes (hform h) (exec_fence m c s) (if_pos hok) (keepsFlow_acquireWarp _ _ _ _)
    refine ⟨t, ht, hpass.steps, fun hscope x hx => ?_, fun hscope x hx hdie => ?_, fun hscope x hx hdie => ?_⟩ <;>
      rw [hpass.rest] at hx
    · exact cache_acquire hscope hx
    · exact (mem_copies_acquire hscope.le hx hdie).2
    · exact (mem_copies_acquire (Nat.le_of_succ_le hscope.le) hx hdie).1 hscope.symm
  · obtain ⟨hrel, hctx⟩ := hok
    exact issue_waits (f := fenceForm m) (hform h) (exec_fence m c s)
      ((if_neg (Bool.not_eq_true _ ▸ hrel)).trans (if_neg (Bool.not_eq_true _ ▸ hctx)))
  · obtain ⟨hrel, hctx⟩ := hok
    obtain ⟨w, hw, -⟩ := read_warp h
    obtain ⟨t, ht, hpass⟩ := issue_passes (hform h) (exec_fence m c s)
      ((if_neg (Bool.not_eq_true _ ▸ hrel)).trans (if_pos hctx)) (keepsFlow_speculate _ _ _ _)
    obtain ⟨p, hp, hback⟩ := spec_speculate hw sl (fenceScope m c (gangMode (warpAt r k) sl))
    obtain ⟨q, hq, hqp⟩ := hpass.spec p hp
    exact ⟨t, ht, hpass.steps, q, hq, hqp.trans hback⟩

end Sys2Proof.Machine
end

section
/-!
PROOFS. PUBLISH and the version fence as instructions and at their entry (R62 to R66, R250): what the end of an operation
and the removal of an ended warp change, said once.
-/

namespace Sys2Proof.Machine

open Sys2Proof.Claims

/-! ## The end of an operation and of a warp (R143, R158, R231) -/

theorem releaseNested_eq (s : State) :
    ∃ im gs co cx, releaseNested s = { s with images := im, groups := gs, cohorts := co, contexts := cx } := by
  unfold releaseNested
  dsimp only
  generalize s.images.filter _ = dead
  induction dead generalizing s with
  | nil => exact ⟨_, _, _, _, rfl⟩
  | cons p dead ih =>
    obtain ⟨im, gs, co, cx, h⟩ := ih (poolFree { s with
      images := tdel s.images p.1
      groups := s.groups.map fun g => (g.1, { g.2 with nested := if g.2.nested = some p.1 then none else g.2.nested })
      cohorts := s.cohorts.map fun c =>
        (c.1, { c.2 with nested := if c.2.nested = some p.1 then none else c.2.nested }) } p.2.ctx p.2.addr)
    exact ⟨im, gs, co, cx, h⟩

theorem trimImages_eq (s : State) (c : Nat) :
    ∃ im gs co cx cs, trimImages s c =
      { s with images := im, groups := gs, cohorts := co, contexts := cx, cores := cs } := by
  obtain ⟨im, gs, co, cx, h⟩ := releaseNested_eq s
  unfold trimImages
  rw [h]
  dsimp only
  split <;> exact ⟨_, _, _, _, _, rfl⟩

theorem dropGrants_eq (s : State) (c k : Nat) : ∃ cs, dropGrants s c k = { s with cores := cs } := by
  unfold dropGrants
  split <;> exact ⟨_, rfl⟩

@[simp] theorem trimImages_ops (s : State) (c : Nat) : (trimImages s c).ops = s.ops := by
  obtain ⟨_, _, _, _, _, h⟩ := trimImages_eq s c
  rw [h]

@[simp] theorem trimImages_publish (s : State) (c : Nat) : (trimImages s c).publish = s.publish := by
  obtain ⟨_, _, _, _, _, h⟩ := trimImages_eq s c
  rw [h]

@[simp] theorem dropGrants_ops (s : State) (c k : Nat) : (dropGrants s c k).ops = s.ops := by
  obtain ⟨_, h⟩ := dropGrants_eq s c k
  rw [h]

@[simp] theorem dropGrants_publish (s : State) (c k : Nat) : (dropGrants s c k).publish = s.publish := by
  obtain ⟨_, h⟩ := dropGrants_eq s c k
  rw [h]

@[simp] theorem reap_ops (s : State) (k : Nat) : (reap s k).ops = s.ops := by
  grind [reap, modGroup_ops, trimImages_ops, dropGrants_ops]

@[simp] theorem reap_publish (s : State) (k : Nat) : (reap s k).publish = s.publish := by
  grind [reap, modGroup_publish, trimImages_publish, dropGrants_publish]

@[simp] theorem lower_ops (s : State) (k : Nat) (p : Path) (o : Nat) : (lower s k p o).ops = s.ops := reap_ops ..

@[simp] theorem lower_publish (s : State) (k : Nat) (p : Path) (o : Nat) : (lower s k p o).publish = s.publish :=
  reap_publish ..

/-- Ending an operation takes it off the list, and its marks off its warp. -/
theorem endOp_eq (s : State) (o : Nat) : ∃ ws, endOp s o = { s with warps := ws, ops := tdel s.ops o } := by
  unfold endOp
  dsimp only
  split <;> exact ⟨_, rfl⟩

/-! ## PUBLISH and the version fence at their entry (R64 to R66) -/

theorem endPublish_ops (s : State) (o : Nat) : (endPublish s o).ops = tdel s.ops o := by
  obtain ⟨ws, h⟩ := endOp_eq s o
  unfold endPublish
  split <;> simp [h]

theorem endPublish_publish (s : State) (o : Nat) : (endPublish s o).publish = s.publish := by
  obtain ⟨ws, h⟩ := endOp_eq s o
  unfold endPublish
  split <;> simp [h]

theorem pubAt_setPub (s : State) (p : Nat) (e : PubEntry) : pubAt (setPub s p e) p = e := tget_tput_same ..

theorem pubAt_congr {s t : State} (h : t.publish = s.publish) (p : Nat) : pubAt t p = pubAt s p := by
  rw [pubAt, pubAt, h]

theorem fireFence_of_reached {e : PubEntry} (h : 0 < e.target) (hr : e.target ≤ e.counter) :
    ∃ x ∈ (fireFence e).waiting, x.1 = 0 := by
  unfold fireFence
  split
  · exact ⟨(0, none), by simp, rfl⟩
  · rename_i hfire
    simpa [h, hr] using hfire

theorem fireFence_of_short {e : PubEntry} (h : e.counter < e.target) : fireFence e = e :=
  if_neg fun hfire => Nat.not_le.2 h hfire.2.1

theorem fireFence_keeps (e : PubEntry) : (fireFence e).target = e.target ∧ (fireFence e).version = e.version := by
  unfold fireFence
  split <;> exact ⟨rfl, rfl⟩

section

variable {s : State} {p o : Nat} {rest : List (Nat × Option Nat)}

theorem exec_publishPerform (hs : s.issuer = .event [p]) (hwait : (pubAt s p).waiting = (o, none) :: rest)
    (hw : (pubAt s p).writers = []) (hat : atPublish s p o = true) :
    exec .publishPerform s = .next (endPublish (setPub s p { pubAt s p with
      version := (pubAt s p).version + 1, counter := 0, target := 0, waiting := rest }) o) := by
  simp [exec, execPublishPerform, subject_zero hs, hwait, hw, hat]

theorem exec_versionFenceArm {n : Nat} (hs : s.issuer = .event [p])
    (hwait : (pubAt s p).waiting = (o, some n) :: rest) (hat : atPublish s p o = true) :
    exec .versionFenceArm s =
      .next (endPublish (setPub s p (fireFence { pubAt s p with target := n, waiting := rest })) o) := by
  simp [exec, execVersionFenceArm, subject_zero hs, hwait, hat]

end

/-! ## PUBLISH and the version fence as instructions (R250) -/

/-- R250: what PUBLISH puts at its entry: an operation of the gang, counted, last among those that wait there. -/
def publishStart (r : BitVec 4) (target : Option Nat) (s : State) (k : Nat) (sl : BitVec 8) : State :=
  let br := tget (warpAt s k).recs r.toNat 0
  let kind := if target.isSome then OpKind.versionFence else .publish
  let o := addOp s { gangOp s k sl kind with record := br, placed := true }
  let s1 := raiseCounter o.2 k .st o.1
  let e := pubAt s1 (recEntry br)
  setPub s1 (recEntry br) { e with waiting := e.waiting ++ [(o.1, target)] }

/-- R250: with its checks passed and its release over, PUBLISH goes on. -/
theorem publishEff_eq {r : BitVec 4} {target : Option Nat} {s : State} {k : Nat} {sl : BitVec 8}
    (hpub : recPub (tget (warpAt s k).recs r.toNat 0) = true)
    (hon : (pubAt s (recEntry (tget (warpAt s k).recs r.toNat 0))).enabled = true)
    (htarget : ∀ n, target = some n → n ≤ 65535) (hrel : released (warpAt s k) sl 5 = true) :
    publishEff r target s k sl = passing (publishStart r target) s k sl := by
  have hsmall : (target.any fun n => decide (65535 < n)) = false := by
    cases target with
    | none => rfl
    | some n => simpa using htarget n rfl
  unfold publishEff
  simp only [hpub, hon, hsmall, hrel]
  rfl

section

variable {r : BitVec 4} {target : Option Nat} {s : State} {k : Nat} {sl : BitVec 8}

theorem keepsFlow_publishStart : KeepsFlow k s (publishStart r target s k sl) :=
  keepsFlow_modWarp (s := (addOp s _).2) _ fun w => by constructor <;> intros <;> rfl

theorem pubAt_publishStart : pubAt (publishStart r target s k sl) (recEntry (tget (warpAt s k).recs r.toNat 0)) =
    { pubAt s (recEntry (tget (warpAt s k).recs r.toNat 0)) with
      waiting := (pubAt s (recEntry (tget (warpAt s k).recs r.toNat 0))).waiting ++ [(s.fresh, target)] } :=
  pubAt_setPub ..

theorem counters_publishStart {w : Warp} (h : tfind s.warps k = some w) :
    (warpAt (publishStart r target s k sl) k).counters.st = w.counters.st ++ [⟨s.fresh, false⟩] := by
  have hraise : tfind (publishStart r target s k sl).warps k = some _ := tfind_modWarp (s := (addOp s _).2) _ h
  rw [warpAt_of_tfind hraise]
  rfl

/-- PUBLISH, issued in state `s` and passed on. -/
theorem publishStart_passed {w : Warp} {t : State} (h : tfind s.warps k = some w)
    (hpass : Passed k sl (warpAt s k) (publishStart r target s k sl) t) :
    let p := recEntry (tget (warpAt s k).recs r.toNat 0)
    (pubAt t p).waiting = (pubAt s p).waiting ++ [(s.fresh, target)] ∧ (pubAt t p).version = (pubAt s p).version ∧
      (warpAt t k).counters.st = (warpAt s k).counters.st ++ [⟨s.fresh, false⟩] ∧ t.mem = s.mem ∧
      stepsOn k sl (warpAt s k) t := by
  intro p
  have hentry : pubAt t p = _ := (pubAt_congr (congrArg State.publish hpass.rest) p).trans pubAt_publishStart
  refine ⟨congrArg PubEntry.waiting hentry, (congrArg PubEntry.version hentry).trans rfl, ?_,
    (congrArg State.mem hpass.rest).trans rfl, hpass.steps⟩
  rw [hpass.counters, counters_publishStart h, warpAt_of_tfind h]

end

theorem exec_publish (r : BitVec 4) (s : State) :
    exec (.publish r) s = issue { drains := true, stall := stStall } (publishEff r none) s := rfl

theorem exec_publishVf (h : BitVec 2) (a : BitVec 7) (r : BitVec 4) (s : State) : exec (.publishVf h a r) s =
    issue { reads := [a.toNat], hold := h.toNat, a := a.toNat, drains := true, stall := stStall }
      (fun s k sl => publishEff r (some (warpOperand s (warpAt s k) sl a.toNat).toNat) s k sl) s := rfl

/-- Settles O32: PUBLISH and the version fence join those that wait at their entry, and each is performed there. -/
theorem publishingMovesAnEntryOn : Obligations.PublishingMovesAnEntryOn := by
  unfold Obligations.PublishingMovesAnEntryOn
  refine ⟨fun i s k sl v h => ?_, fun hd a i s k sl v h => ?_, fun s p o rest hs hwait hw hat => ?_,
    fun s p o n rest hs hwait hat => ?_⟩
  · rintro r ⟨hrel, hpub, hon⟩
    obtain ⟨w, hread, -⟩ := read_warp h
    obtain ⟨t, ht, hpass⟩ :=
      issue_passes h (exec_publish i s) (publishEff_eq hpub hon (by simp) hrel) keepsFlow_publishStart
    exact ⟨t, ht, publishStart_passed hread hpass⟩
  · rintro r ⟨hrel, hsmall, hpub, hon⟩
    obtain ⟨w, hread, -⟩ := read_warp h
    obtain ⟨t, ht, hpass⟩ := issue_passes h (exec_publishVf hd a i s)
      (publishEff_eq hpub hon (by simpa using hsmall) hrel) keepsFlow_publishStart
    obtain ⟨hwaiting, hversion, -, hmem, hsteps⟩ := publishStart_passed hread hpass
    exact ⟨t, ht, hwaiting, hversion, hmem, hsteps⟩
  · refine ⟨_, exec_publishPerform hs hwait hw hat, endPublish_mem .., ?_, ?_⟩
    · rw [endPublish_ops, tfind_tdel_same]
    · rw [pubAt_congr (endPublish_publish ..), pubAt_setPub]
  · obtain ⟨htarget, hversion⟩ := fireFence_keeps { pubAt s p with target := n, waiting := rest }
    refine ⟨_, exec_versionFenceArm hs hwait hat, endPublish_mem .., ?_, ?_⟩
    · rw [endPublish_ops, tfind_tdel_same]
    · rw [pubAt_congr (endPublish_publish ..), pubAt_setPub]
      refine ⟨htarget, hversion, fun h0 hreached => fireFence_of_reached h0 hreached, fun hshort => ?_⟩
      rw [fireFence_of_short hshort]

end Sys2Proof.Machine
end

section
/-!
PROOFS. The commands of the hash engine as they join its queue (R286 to R293): the bytes that a barrier object expects, and
what acceptance changes in the queue.
-/

namespace Sys2Proof.Machine

open Sys2Proof.Claims

/-! ## Lists -/

theorem lmod_append_left {α : Type} (l r : List α) {n : Nat} (f : α → α) (h : n < l.length) :
    lmod (l ++ r) n f = lmod l n f ++ r := by
  induction l generalizing n with
  | nil => simp at h
  | cons x l ih =>
    cases n with
    | zero => rfl
    | succ n => exact congrArg (x :: ·) (ih (by simpa using h))

theorem lmod_append_length {α : Type} (l r : List α) (f : α → α) :
    lmod (l ++ r) l.length f = l ++ lmod r 0 f := by
  induction l with
  | nil => rfl
  | cons x l ih => exact congrArg (x :: ·) ih

theorem lmod_of_length_le {α : Type} (l : List α) {n : Nat} (f : α → α) (h : l.length ≤ n) : lmod l n f = l := by
  induction l generalizing n with
  | nil => rfl
  | cons x l ih =>
    cases n with
    | zero => simp at h
    | succ n => exact congrArg (x :: ·) (ih (by simpa using h))

theorem map_lmod {α β : Type} (p : α → β) (l : List α) (n : Nat) (f : α → α) (hf : ∀ x, p (f x) = p x) :
    (lmod l n f).map p = l.map p := by
  induction l generalizing n with
  | nil => rfl
  | cons x l ih => cases n <;> simp [lmod, hf, ih]

/-! ## Acceptance of a HLOOK (R63, R291) -/

/-- A HLOOK that the engine has accepted as operation `o`, with the version that it has sampled. -/
def HashCommand.accept (o : Nat) (v : Option Nat) (y : HashCommand) : HashCommand :=
  { y with accepted := true, op := some o, version := v }

/-- The commands that acceptance passes over: the engine accepts no other kind than HLOOK, and each once. -/
def HashCommand.passedOver (y : HashCommand) : Bool := decide (y.opcode ≠ 0xE9) || y.accepted

/-- The queue after the acceptance of its first command that is not passed over. -/
def acceptFirst (o : Nat) (v : Option Nat) (l : List HashCommand) : List HashCommand :=
  lmod l (l.takeWhile HashCommand.passedOver).length (HashCommand.accept o v)

@[simp] theorem sampleVersion_clusters (s : State) (die core o : Nat) (rec : BitVec 128) (writer : Bool) :
    (sampleVersion s die core o rec writer).1.clusters = s.clusters := by
  obtain ⟨_, _, _, _, h⟩ := sampleVersion_eq s die core o rec writer
  rw [h]

@[simp] theorem sampleVersion_warps (s : State) (die core o : Nat) (rec : BitVec 128) (writer : Bool) :
    (sampleVersion s die core o rec writer).1.warps = s.warps := by
  obtain ⟨_, _, _, _, h⟩ := sampleVersion_eq s die core o rec writer
  rw [h]

theorem clusterAt_modCluster (s : State) (c : Nat) (f : Cluster → Cluster) :
    clusterAt (modCluster s c f) c = f (clusterAt s c) := tget_tput_same ..

/-- Acceptance accepts the first command of the queue that it does not pass over, if there is one; nothing else of the
cluster changes. -/
theorem clusterAt_acceptLook (s : State) (c : Nat) : ∃ v, clusterAt (acceptLook s c) c =
    { clusterAt s c with hashQueue := acceptFirst s.fresh v (clusterAt s c).hashQueue } := by
  have hahead : ((clusterAt s c).hashQueue.takeWhile fun x => decide (x.opcode ≠ 0xE9) || x.accepted) =
    (clusterAt s c).hashQueue.takeWhile HashCommand.passedOver := rfl
  unfold acceptLook
  simp only [hahead]
  split
  · rename_i hdrop
    exact ⟨none, by rw [acceptFirst, lmod_of_length_le _ _ (List.drop_eq_nil_iff.1 hdrop)]⟩
  · rw [clusterAt_modCluster]
    exact ⟨_, by simp only [clusterAt, sampleVersion_clusters]; rfl⟩

theorem acceptLook_warps (s : State) (c : Nat) : (acceptLook s c).warps = s.warps := by
  unfold acceptLook
  dsimp only
  split
  · rfl
  · simp

/-- A command that joins a queue is its last, accepted with it if it is a HLOOK and no other waits to be; the commands
ahead keep their words. -/
theorem acceptFirst_append (l : List HashCommand) (x : HashCommand) (o : Nat) (v : Option Nat) (hx : x.accepted = false) :
    ∃ l' e, acceptFirst o v (l ++ [x]) = l' ++ [e] ∧ l'.map HashCommand.word = l.map HashCommand.word ∧
      (e = x ∨ e = x.accept o v) ∧
      ((∀ y ∈ l, y.opcode = 0xE9 → y.accepted = true) → l' = l ∧ e.accepted = decide (e.opcode = 0xE9)) := by
  unfold acceptFirst
  by_cases hall : ∀ y ∈ l, y.passedOver = true
  · rw [List.takeWhile_append_of_pos hall, List.takeWhile_cons]
    split
    · rename_i hpass
      have hother : x.opcode ≠ 0xE9 := by simpa [HashCommand.passedOver, hx] using hpass
      refine ⟨l, x, lmod_of_length_le _ _ (by simp), rfl, .inl rfl, fun _ => ⟨rfl, ?_⟩⟩
      rw [hx, decide_eq_false hother]
    · rename_i hlook
      have hlook : x.opcode = 0xE9 := by simpa [HashCommand.passedOver, hx] using hlook
      refine ⟨l, x.accept o v, ?_, rfl, .inr rfl, fun _ => ⟨rfl, (decide_eq_true hlook).symm⟩⟩
      rw [List.append_nil, lmod_append_length]
      rfl
  · have hprefix := List.takeWhile_prefix (l := l) HashCommand.passedOver
    have hne : (l.takeWhile HashCommand.passedOver).length ≠ l.length := fun h =>
      hall (List.takeWhile_eq_self_iff.1 (hprefix.eq_of_length h))
    have hshort : ((l ++ [x]).takeWhile HashCommand.passedOver).length < l.length := by
      rw [List.takeWhile_append, if_neg hne]
      exact Nat.lt_of_le_of_ne hprefix.length_le hne
    refine ⟨lmod l _ _, x, lmod_append_left _ _ _ hshort, map_lmod _ _ _ _ fun _ => rfl, .inl rfl, fun hacc => ?_⟩
    refine absurd (fun y hy => ?_) hall
    by_cases hy' : y.opcode = 0xE9
    · simp [HashCommand.passedOver, hacc y hy hy']
    · simp [HashCommand.passedOver, hy']

/-! ## The commands (R286, R289, R290, R293) -/

/-- R286: a command joins the queue of a cluster, its bytes expected, and the engine accepts what it can. -/
def joinQueue (s : State) (c : Nat) (x : HashCommand) : State :=
  acceptLook (modCluster (boExpect s c x.bo x.total) c fun y => { y with hashQueue := y.hashQueue ++ [x] }) c

theorem joinQueue_warps (s : State) (c : Nat) (x : HashCommand) : (joinQueue s c x).warps = s.warps := acceptLook_warps ..

theorem joinQueue_mem (s : State) (c : Nat) (x : HashCommand) : (joinQueue s c x).mem = s.mem := acceptLook_mem ..

theorem clusterAt_joinQueue (s : State) (c : Nat) (x : HashCommand) : ∃ v, clusterAt (joinQueue s c x) c =
    { clusterAt s c with
      store := expects (storeAt s c) x.bo x.total
      hashQueue := acceptFirst s.fresh v ((clusterAt s c).hashQueue ++ [x]) } := by
  have hexpect : clusterAt (boExpect s c x.bo x.total) c =
      { clusterAt s c with store := expects (storeAt s c) x.bo x.total } :=
    clusterAt_modCluster s c fun y => { y with store := expects y.store x.bo x.total }
  obtain ⟨v, h⟩ := clusterAt_acceptLook (modCluster (boExpect s c x.bo x.total) c fun y =>
    { y with hashQueue := y.hashQueue ++ [x] }) c
  rw [clusterAt_modCluster, hexpect] at h
  exact ⟨v, h⟩

section

variable (word : Word) (d : BitVec 7) (lanes : Bool) (total : Warp → BitVec 8 → Nat) (rt rg : Nat) (bo : List Nat → Nat)

/-- R286, R301: a hash command as a gang issues it. -/
def issuedHash (s : State) (k : Nat) (sl : BitVec 8) : HashCommand :=
  let w := warpAt s k
  let quad := quadOf s w sl d
  let pos := fun i => (List.range 32).map fun l => if l ∈ gangLanes w sl then srcReg s w (d.toNat + i) l else 0
  { (default : HashCommand) with
    word := word, mask := toBits 32 (gangLanes w sl), warp := k, group := w.ident.group, ctx := w.ident.ctx, die := w.die
    core := w.core, slices := sl, quad := quad, table := tget w.recs rt 0, grad := tget w.recs rg 0
    px := if lanes then pos 0 else [], py := if lanes then pos 1 else []
    pz := if lanes then pos 2 else [], total := total w sl, bo := bo (quad.map BitVec.toNat) }

/-- R286, R287: what a hash command does in its read cycle. -/
def hashEff (check : State → Warp → BitVec 8 → List Nat → Option (Nat × Nat)) (s : State) (k : Nat) (sl : BitVec 8) : Eff :=
  let w := warpAt s k
  let q := (quadOf s w sl d).map BitVec.toNat
  match check s w sl q with
  | some (cause, v) => .trap cause (BitVec.ofNat 32 v) false
  | none =>
    if !boAddress (bo q) then .trap 9 (BitVec.ofNat 32 (bo q)) false
    else if !released w sl 2 || decide (16 ≤ (clusterAt s w.clusterOf).hashQueue.length) then .wait s .other
    else passing (fun s k sl => joinQueue s (warpAt s k).clusterOf (issuedHash word d lanes total rt rg bo s k sl)) s k sl

theorem hashCommand_eq (check : State → Warp → BitVec 8 → List Nat → Option (Nat × Nat)) (s : State) :
    hashCommand word d lanes check total rt rg bo s =
      issue { reads := groupRegs d 4, drains := true } (hashEff word d lanes total rt rg bo check) s := by
  unfold hashCommand hashEff passing
  rfl

variable {d lanes total rt rg bo}

/-- R286: a hash command that its checks accept, with its release over and room in the queue, joins it. -/
theorem hashCommand_queued {check : State → Warp → BitVec 8 → List Nat → Option (Nat × Nat)} {i : Instr} {s : State}
    {k : Nat} {sl : BitVec 8} {v : Warp} (h : Issues { reads := groupRegs d 4, drains := true } s k sl v)
    (hex : exec i s = hashCommand (wordOf i) d lanes check total rt rg bo s) (g : HashRow)
    (hd : g.d = d) (hbytes : g.bytes = total) (hbo : g.bo = bo) (hcheck : ∀ s w sl q, check s w sl q = g.check q) :
    let r := Claims.readAt { reads := groupRegs d 4, drains := true } s k sl v
    let q := (quadOf r (warpAt r k) sl g.d).map BitVec.toNat
    g.check q = none → boAddress (g.bo q) = true → released (warpAt r k) sl 2 = true →
      (clusterAt r (warpAt r k).clusterOf).hashQueue.length < 16 →
      ∃ t, exec i s = .next t ∧ HashQueued i g r k sl (warpAt r k) t := by
  subst hd hbytes hbo
  intro r q hgood haddr hrel hroom
  have heff : hashEff (wordOf i) g.d lanes g.bytes rt rg g.bo check r k sl = passing (fun s k sl =>
      joinQueue s (warpAt s k).clusterOf (issuedHash (wordOf i) g.d lanes g.bytes rt rg g.bo s k sl)) r k sl := by
    have hcheck' : check r (warpAt r k) sl q = none := (hcheck ..).trans hgood
    simp [hashEff, q, hcheck', haddr, hrel, Nat.not_le.2 hroom]
  obtain ⟨t, ht, hpass⟩ := issue_passes h (hex.trans (hashCommand_eq ..)) heff (keepsFlow_of_warps (joinQueue_warps ..))
  obtain ⟨version, hcluster⟩ := clusterAt_joinQueue r (warpAt r k).clusterOf
    (issuedHash (wordOf i) g.d lanes g.bytes rt rg g.bo r k sl)
  obtain ⟨l', e, hqueue, hwords, he, haccepted⟩ := acceptFirst_append (clusterAt r (warpAt r k).clusterOf).hashQueue
    (issuedHash (wordOf i) g.d lanes g.bytes rt rg g.bo r k sl) r.fresh version rfl
  have hend : clusterAt t (warpAt r k).clusterOf = _ :=
    (congrArg (fun u : State => clusterAt u _) hpass.rest).trans hcluster
  refine ⟨t, ht, ⟨l', e, (congrArg Cluster.hashQueue hend).trans hqueue, hwords, ?_⟩, congrArg Cluster.store hend,
    (congrArg State.mem hpass.rest).trans (joinQueue_mem ..), hpass.steps⟩
  rcases he with rfl | rfl <;> exact ⟨rfl, rfl, rfl, rfl, rfl, rfl, rfl, haccepted⟩

end

/-- Settles O35: HCFG, HLOOK and HGRAD are hash commands of one form, each with its own checks, bytes and barrier object. -/
theorem hashCommandsAreQueued : Obligations.HashCommandsAreQueued := by
  unfold Obligations.HashCommandsAreQueued
  rintro i g hi s k sl v h r ⟨hgood, haddr, hrel, hroom⟩
  cases hi with
  | hcfg | rows | planes | grad =>
    exact hashCommand_queued h rfl _ rfl rfl rfl (fun _ _ _ _ => rfl) hgood haddr hrel hroom

end Sys2Proof.Machine
end

section
/-!
PROOFS. The returns of loads and stores (R231, R233, R235, R242): the register cells that an operation writes, and how an
operation of a warp that goes on ends.
-/

namespace Sys2Proof.Machine

open Sys2Proof.Claims

theorem tget_tmod_of_tfind {α : Type} {t : Tbl α} {k : Nat} {v d : α} (f : α → α) (h : tfind t k = some v) :
    tget (tmod t k f) k d = f v := by
  rw [tget_eq, tfind_tmod_same, h, Option.map_some, Option.getD_some]

/-! ## Register cells (R210) -/

theorem tget_setCell (t : Tbl Word) (n l : Nat) (v : Word) (a : Nat) :
    tget (setCell t n l v) a 0 = if a = 32 * n + l then v else tget t a 0 := by
  unfold setCell
  by_cases ha : a = 32 * n + l
  · subst ha
    split <;> simp_all
  · split <;> simp [ha]

/-- A register of a lane and the value that it takes. -/
structure CellWrite where
  reg : Nat
  lane : Nat
  val : Word

/-- Where a register of a lane stands in a register table. -/
def CellWrite.key (c : CellWrite) : Nat := 32 * c.reg + c.lane

/-- A register table after writes, one after another. -/
def writeCells (t : Tbl Word) (l : List CellWrite) : Tbl Word := l.foldl (fun t c => setCell t c.reg c.lane c.val) t

theorem tget_writeCells_of_not_mem {l : List CellWrite} {a : Nat} (t : Tbl Word) (h : ∀ c ∈ l, a ≠ c.key) :
    tget (writeCells t l) a 0 = tget t a 0 := by
  induction l generalizing t with
  | nil => rfl
  | cons c l ih =>
    refine (ih _ fun d hd => h d (List.mem_cons_of_mem _ hd)).trans ?_
    exact (tget_setCell ..).trans (if_neg (h c List.mem_cons_self))

/-- A register that is written, with one value only, holds it. -/
theorem tget_writeCells_of_mem {l : List CellWrite} {a : Nat} {v : Word} (t : Tbl Word) (hl : ∃ c ∈ l, c.key = a)
    (h : ∀ c ∈ l, c.key = a → c.val = v) : tget (writeCells t l) a 0 = v := by
  induction l generalizing t with
  | nil =>
    obtain ⟨c, hc, -⟩ := hl
    cases hc
  | cons c l ih =>
    by_cases htail : ∃ d ∈ l, d.key = a
    · exact ih _ htail fun d hd => h d (List.mem_cons_of_mem _ hd)
    · have hc : c.key = a := by
        obtain ⟨d, hd, hda⟩ := hl
        rcases List.mem_cons.1 hd with rfl | hd
        · exact hda
        · exact absurd ⟨d, hd, hda⟩ htail
      have hrest : tget (writeCells (setCell t c.reg c.lane c.val) l) a 0 = tget (setCell t c.reg c.lane c.val) a 0 :=
        tget_writeCells_of_not_mem _ fun d hd hda => htail ⟨d, hd, hda.symm⟩
      exact hrest.trans ((tget_setCell ..).trans ((if_pos hc.symm).trans (h c List.mem_cons_self hc)))

/-- An operation's writes of register cells. -/
def landCells (o : Nat) (l : List CellWrite) (w : Warp) : Warp := l.foldl (fun w c => landReg w o c.reg c.lane c.val) w

/-- They change the registers, what monitors see, and what the warp may roll back to. -/
theorem landCells_eq (o : Nat) (l : List CellWrite) (w : Warp) : ∃ wr sp,
    landCells o l w = { w with regs := writeCells w.regs l, wrote := wr, spec := sp } := by
  induction l generalizing w with
  | nil => exact ⟨_, _, rfl⟩
  | cons c l ih =>
    obtain ⟨wr, sp, h⟩ := ih (landReg w o c.reg c.lane c.val)
    exact ⟨wr, sp, h⟩

/-! ## The data of a load (R233) -/

/-- The register cells that a load's return writes. -/
def loadedCells (op : Op) : List CellWrite :=
  op.elems.flatMap fun e => ((List.range op.n).zip (elemValue op e)).map fun q => ⟨op.dst + q.1, e.lane, q.2.1⟩

theorem mem_loadedCells {op : Op} {c : CellWrite} : c ∈ loadedCells op ↔
    ∃ e ∈ op.elems, ∃ j v, j < op.n ∧ (elemValue op e)[j]? = some v ∧ c = ⟨op.dst + j, e.lane, v.1⟩ := by
  simp only [loadedCells, List.mem_flatMap, List.mem_map]
  refine exists_congr fun e => and_congr_right fun _ => ⟨?_, ?_⟩
  · rintro ⟨⟨j, v⟩, hz, rfl⟩
    obtain ⟨i, hi⟩ := List.mem_iff_getElem?.1 hz
    obtain ⟨hj, hv⟩ := List.getElem?_zip_eq_some.1 hi
    obtain ⟨hlt, rfl⟩ := List.getElem?_eq_some_iff.1 hj
    simp only [List.length_range, List.getElem_range] at hlt hv ⊢
    exact ⟨i, v, hlt, hv, rfl⟩
  · rintro ⟨j, v, hj, hv, rfl⟩
    have hrange : (List.range op.n)[j]? = some j := by simp [hj]
    exact ⟨(j, v), List.mem_iff_getElem?.2 ⟨j, List.getElem?_zip_eq_some.2 ⟨hrange, hv⟩⟩, rfl⟩

/-- Cells of lanes that lie apart are told apart by where they stand. -/
theorem loadedCells_val {op : Op} (h : lanesApart op.elems) {c d : CellWrite} (hc : c ∈ loadedCells op)
    (hd : d ∈ loadedCells op) (hkey : d.key = c.key) : d.val = c.val := by
  obtain ⟨hnodup, hlane⟩ := h
  obtain ⟨e, he, i, v, -, hv, rfl⟩ := mem_loadedCells.1 hc
  obtain ⟨e', he', i', v', -, hv', rfl⟩ := mem_loadedCells.1 hd
  have := hlane e he
  have := hlane e' he'
  simp only [CellWrite.key] at hkey
  obtain rfl : i' = i := by omega
  obtain rfl : e' = e := List.inj_on_of_nodup_map hnodup he' he (by omega)
  rw [hv, Option.some.injEq] at hv'
  rw [hv']

theorem landFlags_warp {s : State} {k : Nat} {w : Warp} (hw : tfind s.warps k = some w) (o : Nat) (fl : BitVec 6) :
    ∃ sp, tfind (landFlags s k o fl).warps k = some { w with flags := w.flags ||| fl, spec := sp } :=
  ⟨_, tfind_modWarp _ hw⟩

/-- R233: a load's return writes its cells and raises its flags. -/
theorem writeLoaded_eq (s : State) (o k : Nat) (op : Op) :
    ∃ fl, writeLoaded s o k op = landFlags (modWarp s k (landCells o (loadedCells op))) k o fl := by
  have hcells : (fun w : Warp => (op.elems.map fun e => (e.lane, elemValue op e)).foldl (fun w p =>
      ((List.range op.n).zip p.2).foldl (fun w q => landReg w o (op.dst + q.1) p.1 q.2.1) w) w) =
      landCells o (loadedCells op) := by
    funext w
    rw [landCells, loadedCells, List.foldl_flatMap, List.foldl_map]
    simp only [List.foldl_map]
  exact ⟨_, by rw [← hcells]; rfl⟩

theorem writeLoaded_warp {s : State} {k : Nat} {w : Warp} (hw : tfind s.warps k = some w) (o : Nat) (op : Op) :
    ∃ wr sp fl, tfind (writeLoaded s o k op).warps k =
      some { w with regs := writeCells w.regs (loadedCells op), wrote := wr, spec := sp, flags := w.flags ||| fl } := by
  obtain ⟨fl, h⟩ := writeLoaded_eq s o k op
  obtain ⟨wr, sp, hcells⟩ := landCells_eq o (loadedCells op) w
  obtain ⟨sp', hland⟩ := landFlags_warp (tfind_modWarp (landCells o (loadedCells op)) hw) o fl
  rw [hcells] at hland
  exact ⟨wr, sp', fl, by rw [h]; exact hland⟩

/-- R242: CBLD's return writes the slot of its workgroup's codebooks. -/
theorem writeCodebook_slot {s : State} {k : Nat} {w : Warp} {op : Op} {e : Elem} (hw : tfind s.warps k = some w)
    (hg : (tfind s.groups w.ident.group).isSome = true) (he : op.elems = [e]) (o : Nat) :
    tget (tget (writeCodebook s o k op).groups w.ident.group default).cb op.dst [] =
      (elemValue op e).map fun p => p.1.setWidth 16 := by
  obtain ⟨g, hg⟩ := Option.isSome_iff_exists.1 hg
  have hgroups : (writeCodebook s o k op).groups = tmod s.groups (warpAt s k).ident.group fun g =>
      { g with cb := tput g.cb op.dst ((elemValue op e).map fun p => p.1.setWidth 16) } := by
    simp only [writeCodebook, he, List.head?_cons]
    rfl
  rw [hgroups, warpAt_of_tfind hw, tget_tmod_of_tfind _ hg]
  exact tget_tput_same ..

/-! ## The end of an operation of a warp that goes on (R231) -/

theorem reap_of_alive {s : State} {k : Nat} {w : Warp} (h : tfind s.warps k = some w) (ha : w.ended = false) :
    reap s k = s := by
  simp [reap, h, ha]

/-- The operation goes, with its marks and its sample, and its counter falls. -/
theorem returned_eq {s : State} {o k : Nat} {op : Op} {w : Warp} (p : Path) (hop : tfind s.ops o = some op)
    (hk : op.warp = some k) (hw : tfind s.warps k = some w) (ha : w.ended = false) : ∃ ws pb,
    lower (endOp (unsample s o) o) k p o = { s with warps := ws, publish := pb, ops := tdel s.ops o } ∧
      ∃ c, tfind ws k = some { w with marks := w.marks.filter fun m => m.op ≠ o, counters := c } := by
  have hend : endOp (unsample s o) o = { clearMarks (unsample s o) k o with ops := tdel s.ops o } := by
    have hbind : (tfind (unsample s o).ops o).bind Op.warp = some k := by
      change (tfind s.ops o).bind Op.warp = some k
      rw [hop, Option.bind_some, hk]
    simp only [endOp, hbind]
    rfl
  have hmarks : tfind (clearMarks (unsample s o) k o).warps k =
      some { w with marks := w.marks.filter fun m => m.op ≠ o } :=
    tfind_modWarp (s := unsample s o) _ hw
  have hlower := tfind_modWarp (s := { clearMarks (unsample s o) k o with ops := tdel s.ops o })
    (fun w => { w with counters := w.counters.set p (((w.counters.get p).map fun c =>
      if c.op = o then { c with returned := true } else c).dropWhile (·.returned)) }) hmarks
  refine ⟨_, (unsample s o).publish, ?_, _, hlower⟩
  rw [hend]
  exact reap_of_alive hlower ha

/-! ## Returns (R233, R235, R242) -/

section Returns

variable {s : State} {o k : Nat} {op : Op} {w : Warp}

theorem exec_loadReturn_load (h : CameBack s o k op w) (hk : op.kind = .load) :
    exec .loadReturn s = .next (lower (endOp (unsample (writeLoaded s o k op) o) o) k .ld o) := by
  change execLoadReturn s = _
  simp [execLoadReturn, subject_zero h.issuer, h.inFlight, h.mine, h.warp, h.done, hk]

theorem exec_loadReturn_loadAcquire (h : CameBack s o k op w) (hk : op.kind = .loadAcquire) : exec .loadReturn s =
    .next (lower (endOp (unsample (acquireWarp (writeLoaded s o k op) k (modeScope op.mode)) o) o) k .ld o) := by
  change execLoadReturn s = _
  simp [execLoadReturn, subject_zero h.issuer, h.inFlight, h.mine, h.warp, h.done, hk]

theorem exec_loadReturn_codebook (h : CameBack s o k op w) (hk : op.kind = .codebook) :
    exec .loadReturn s = .next (lower (endOp (unsample (writeCodebook s o k op) o) o) k .ld o) := by
  change execLoadReturn s = _
  simp [execLoadReturn, subject_zero h.issuer, h.inFlight, h.mine, h.warp, h.done, hk]

theorem exec_storeAcknowledgement (h : CameBack s o k op w) (hk : op.kind = .store ∨ op.kind = .storeRelease) :
    exec .storeAcknowledgement s = .next (lower (endOp (unsample (landFlags s k o op.flags) o) o) k .st o) := by
  change execStoreAcknowledgement s = _
  rcases hk with hk | hk <;>
    simp [execStoreAcknowledgement, subject_zero h.issuer, h.inFlight, h.mine, h.warp, h.done, hk]

/-- What an operation's end leaves: it is gone with its marks, and only counters of its warp have changed besides. -/
theorem operation_ends {s1 : State} {w1 : Warp} (h : CameBack s o k op w) (hops : s1.ops = s.ops)
    (hw : tfind s1.warps k = some w1) (ha : w1.ended = false) (p : Path) :
    ∃ t c, lower (endOp (unsample s1 o) o) k p o = t ∧ tfind t.ops o = none ∧
      warpAt t k = { w1 with marks := w1.marks.filter fun m => m.op ≠ o, counters := c } ∧
      t.mem = s1.mem ∧ t.cores = s1.cores ∧ t.groups = s1.groups := by
  obtain ⟨ws, pb, ht, c, hws⟩ := returned_eq p (hops ▸ h.inFlight) h.mine hw ha
  exact ⟨_, c, ht, tfind_tdel_same .., warpAt_of_tfind hws, rfl, rfl, rfl⟩

end Returns

end Sys2Proof.Machine

namespace Sys2Proof.Claims

open Sys2Proof.Machine

theorem or_and_self_left (a b : BitVec 6) : (a ||| b) &&& a = a := by
  ext i
  simp only [BitVec.getElem_and, BitVec.getElem_or]
  cases a[i] <;> simp

/-- R231, R233: what a load's return leaves, whatever it acquires. -/
theorem load_returns {s s1 : State} {o k : Nat} {op : Op} {w : Warp} (h : CameBack s o k op w)
    (hapart : lanesApart op.elems)
    (hs1 : ∃ rm cs cp, s1 = { writeLoaded s o k op with remote := rm, cores := cs, copies := cp }) :
    let t := lower (endOp (unsample s1 o) o) k .ld o
    tfind t.ops o = none ∧ t.mem = s.mem ∧
      (∀ m ∈ (warpAt t k).marks, m.op ≠ o) ∧ ((warpAt t k).flags &&& w.flags) = w.flags ∧
      (∀ e ∈ op.elems, ∀ (j : Nat) (v : Word × BitVec 6), j < op.n → (elemValue op e)[j]? = some v →
        tget (warpAt t k).regs (32 * (op.dst + j) + e.lane) 0 = v.1) ∧
      (∀ a, (∀ e ∈ op.elems, ∀ j, j < op.n → a ≠ 32 * (op.dst + j) + e.lane) →
        tget (warpAt t k).regs a 0 = tget w.regs a 0) ∧ t.cores = s1.cores := by
  intro t
  obtain ⟨rm, cs, cp, rfl⟩ := hs1
  obtain ⟨wr, sp, fl, hw1⟩ := writeLoaded_warp h.warp o op
  obtain ⟨fl', heq⟩ := writeLoaded_eq s o k op
  have hops : (writeLoaded s o k op).ops = s.ops := by rw [heq]; rfl
  have hmem : (writeLoaded s o k op).mem = s.mem := by rw [heq]; rfl
  obtain ⟨t', c, ht, hgone, hwarp, htmem, hcores, -⟩ :=
    operation_ends h (s1 := { writeLoaded s o k op with remote := rm, cores := cs, copies := cp }) hops hw1 h.alive .ld
  obtain rfl : t = t' := ht
  refine ⟨hgone, htmem.trans hmem, ?_, ?_, ?_, ?_, hcores⟩
  · rw [hwarp]
    intro m hm
    simpa using (List.mem_filter.1 hm).2
  · rw [hwarp]
    exact or_and_self_left ..
  · rw [hwarp]
    intro e he j v hj hv
    have hc : (⟨op.dst + j, e.lane, v.1⟩ : CellWrite) ∈ loadedCells op := mem_loadedCells.2 ⟨e, he, j, v, hj, hv, rfl⟩
    exact tget_writeCells_of_mem _ ⟨_, hc, rfl⟩ fun d hd hkey => loadedCells_val hapart hc hd hkey
  · rw [hwarp]
    intro a ha
    refine tget_writeCells_of_not_mem _ fun c hc => ?_
    obtain ⟨e, he, j, v, hj, -, rfl⟩ := mem_loadedCells.1 hc
    exact ha e he j hj

/-- Settles O25: a load's return is its writes, its acquire, and its end; CBLD's and a store's have no register write. -/
theorem loadsReturnToTheirRegisters : Obligations.LoadsReturnToTheirRegisters := by
  refine ⟨fun s o k op w h hkind hapart => ?_, fun s o k op w e h hkind hgroup helems => ?_, fun s o k op w h hkind => ?_⟩
  · rcases hkind with hkind | hkind
    · obtain ⟨hgone, hmem, hmarks, hflags, hin, hout, -⟩ := load_returns h hapart ⟨_, _, _, rfl⟩
      refine ⟨_, exec_loadReturn_load h hkind, hgone, hmem, hmarks, hflags, hin, hout, fun hne => ?_⟩
      rw [hkind] at hne
      cases hne
    · have hexec := exec_loadReturn_loadAcquire h hkind
      obtain ⟨wr, sp, fl, hw1⟩ := writeLoaded_warp h.warp o op
      have hat : acquireWarp (writeLoaded s o k op) k (modeScope op.mode) =
          acquire (writeLoaded s o k op) w.die w.core (modeScope op.mode) := by
        rw [acquireWarp, warpAt_of_tfind hw1]
      rw [hat] at hexec
      obtain ⟨hgone, hmem, hmarks, hflags, hin, hout, hcores⟩ := load_returns h hapart (acquire_eq _ w.die w.core _)
      refine ⟨_, hexec, hgone, hmem, hmarks, hflags, hin, hout, fun _ hscope hcore => ?_⟩
      rw [hcores]
      have hcore1 : (tfind (writeLoaded s o k op).cores (coreKey w.die w.core)).isNone = false := by
        obtain ⟨fl', heq⟩ := writeLoaded_eq s o k op
        rw [heq]
        change (tfind s.cores w.coreOf).isNone = false
        cases hx : tfind s.cores w.coreOf with
        | none => rw [hx] at hcore; cases hcore
        | some x => rfl
      rw [acquire_cores hscope, hcore1, if_neg Bool.false_ne_true]
      exact congrArg Core.cache (tget_tput_same ..)
  · obtain ⟨sp, hw1⟩ := landFlags_warp (s := modGroup s (warpAt s k).ident.group _) h.warp o
      (boundsFlags op.elems ||| op.flags)
    obtain ⟨t, c, ht, hgone, hwarp, hmem, -, hgroups⟩ :=
      operation_ends h (s1 := writeCodebook s o k op) rfl hw1 h.alive .ld
    refine ⟨t, by rw [exec_loadReturn_codebook h hkind, ht], hgone, hmem, by rw [hwarp], ?_⟩
    rw [hgroups]
    exact writeCodebook_slot h.warp hgroup helems o
  · obtain ⟨sp, hw1⟩ := landFlags_warp h.warp o op.flags
    obtain ⟨t, c, ht, hgone, hwarp, hmem, -, -⟩ := operation_ends h (s1 := landFlags s k o op.flags) rfl hw1 h.alive .st
    rw [exec_storeAcknowledgement h hkind, ht]
    exact ⟨t, rfl, hgone, hmem, by rw [hwarp], by rw [hwarp]⟩

end Sys2Proof.Claims
end

section
/-!
PROOFS. The home slices (R41, R53, R227, R254, R256, R278): what caching a line can change, what a load reads at its home,
what a store leaves there, and which copies an invalidation and a lifetime's end drop.
-/

namespace Sys2Proof.Machine

open Sys2Proof.Claims

/-! ## Caches (R227, R254) -/

/-- State `t` differs from `s` at most in what homes, cores and dies hold of lines, and in choices made. -/
def OnlyCaches (s t : State) : Prop :=
  t = { s with homeLines := t.homeLines, cores := t.cores, copies := t.copies, free := t.free }

namespace OnlyCaches

theorem rfl {s : State} : OnlyCaches s s := Eq.refl _

theorem trans {s t u : State} (h : OnlyCaches s t) (g : OnlyCaches t u) : OnlyCaches s u :=
  Eq.trans g (congrArg (fun t : State =>
    { t with homeLines := u.homeLines, cores := u.cores, copies := u.copies, free := u.free }) h)

theorem ops {s t : State} (h : OnlyCaches s t) : t.ops = s.ops := by rw [h]
theorem mem {s t : State} (h : OnlyCaches s t) : t.mem = s.mem := by rw [h]
theorem reqs {s t : State} (h : OnlyCaches s t) : t.reqs = s.reqs := by rw [h]

end OnlyCaches

theorem onlyCaches_modHomeLine (s : State) (pa : Nat) (f : HomeLine → HomeLine) : OnlyCaches s (modHomeLine s pa f) := rfl

theorem onlyCaches_draw (s : State) : OnlyCaches s (draw s).2 := rfl

theorem onlyCaches_writeBack (s : State) (pa : Nat) : OnlyCaches s (writeBack s pa) := by
  unfold writeBack
  split <;> rfl

theorem onlyCaches_replaceLine (s : State) (home : Nat) : OnlyCaches s (replaceLine s home) := by
  unfold replaceLine
  extract_lets lines copies n d
  split
  · rfl
  · split
    · exact (onlyCaches_writeBack d.2 _).trans rfl
    · rfl

theorem onlyCaches_fillCache (s : State) (c ctx pa filled : Nat) (b : List Byte) :
    OnlyCaches s (fillCache s c ctx pa filled b) := by
  unfold fillCache
  extract_lets core rest d kept
  split <;> rfl

theorem onlyCaches_fillLoaded (s : State) (op : Op) (line filled : Nat) (b : List Byte) :
    OnlyCaches s (fillLoaded s op line filled b) := by
  unfold fillLoaded
  extract_lets attr
  split
  · exact onlyCaches_fillCache ..
  · rfl

theorem onlyCaches_addCopy (s : State) (die line filled : Nat) (b : List Byte) :
    OnlyCaches s (addCopy s die line filled b) :=
  OnlyCaches.trans (t := { s with copies := _ }) rfl (onlyCaches_replaceLine ..)

theorem onlyCaches_dropOwn (s : State) (op : Op) (line : Nat) : OnlyCaches s (dropOwn s op line) := by
  unfold dropOwn
  extract_lets c s1
  split <;> rfl

theorem onlyCaches_updateOwnCopy (s : State) (c line : Nat) (parts : List (Nat × List Byte × Nat)) :
    OnlyCaches s (updateOwnCopy s c line parts) := by
  unfold updateOwnCopy
  extract_lets img behind merge new
  split <;> rfl

theorem OnlyCaches.gotLine {s t : State} (h : OnlyCaches s t) (o pa : Nat) (b : List Byte) :
    OnlyCaches (gotLine s o pa b) (gotLine t o pa b) :=
  (congrArg (Machine.gotLine · o pa b) h).trans (Eq.refl _)

/-! ## A load at its home (R254, R256) -/

theorem tget_mstoreRaw_of_lt (m : Memory) {a c : Nat} (b : List Byte) (h : c < a) (d : Byte) :
    tget (gotLine.mstoreRaw m a b) c d = tget m c d := by
  induction b generalizing m a with
  | nil => rfl
  | cons x r ih => exact (ih (tput m a x) (by omega)).trans (tget_tput_ne _ _ _ _ _ (by omega))

/-- What an operation has read of a line stands in its buffer. -/
theorem tget_mstoreRaw (m : Memory) (a : Nat) {b : List Byte} {n : Nat} (h : n < b.length) (d : Byte) :
    tget (gotLine.mstoreRaw m a b) (a + n) d = b[n] := by
  induction b generalizing m a n with
  | nil => cases h
  | cons x r ih =>
    cases n with
    | zero => exact (tget_mstoreRaw_of_lt _ r (Nat.lt_succ_self a) d).trans (tget_tput_same ..)
    | succ n =>
      have hrest := ih (tput m a x) (a + 1) (Nat.lt_of_succ_lt_succ h)
      rw [Nat.add_right_comm] at hrest
      exact hrest

theorem loadedHome_eq (s : State) (r : Req) (op : Op) (b : List Byte) :
    OnlyCaches (gotLine s r.op r.line b) (loadedHome s r op b) := by
  unfold loadedHome
  extract_lets now d s1
  have hs1 : OnlyCaches s s1 := by
    refine (onlyCaches_dropOwn s op r.line).trans ?_
    simp only [s1]
    split
    · exact (onlyCaches_draw _).trans (onlyCaches_addCopy ..)
    · exact onlyCaches_draw _
  exact (hs1.gotLine ..).trans (onlyCaches_fillLoaded ..)

/-- R256: a load that no copy may serve reads the line as memory holds it. -/
theorem performLoad_eq {s : State} {r : Req} (hlocal : r.remote = none) (hcopies : ∀ c ∈ s.copies, c.pa ≠ r.line)
    (id : Nat) : OnlyCaches (gotLine (doneReq s id) r.op r.line (mbytes s.mem r.line 128)) (performLoad s id r) := by
  have hnone : (doneReq s id).copies.find? (fun c =>
      decide (c.die = (tget s.ops r.op default).die ∧ c.pa = r.line)) = none :=
    List.find?_eq_none.2 fun c hc => by simpa using fun _ => hcopies c hc
  unfold performLoad servedCopy
  simp only [hlocal, hnone, Option.getD_none]
  exact ((onlyCaches_modHomeLine (doneReq s id) r.line _).gotLine ..).trans (loadedHome_eq ..)

theorem getElem_mbytes (m : Memory) (a : Nat) {n i : Nat} (h : i < (mbytes m a n).length) :
    (mbytes m a n)[i] = mread m (a + i) := by
  induction n generalizing a i with
  | zero => cases h
  | succ n ih =>
    cases i with
    | zero => rfl
    | succ i =>
      refine (ih (a + 1) (Nat.lt_of_succ_lt_succ h)).trans ?_
      rw [Nat.add_right_comm]
      rfl

/-- An operation that has got a line's bytes finds them in its buffer. -/
theorem gotLine_op {s : State} {o : Nat} {op : Op} (hop : tfind s.ops o = some op) (pa : Nat) (b : List Byte) :
    ∃ op', tfind (gotLine s o pa b).ops o = some op' ∧ ∀ (n : Nat) (h : n < b.length), tget op'.buf (pa + n) 0 = b[n] :=
  ⟨_, (tfind_tmod_same ..).trans (congrArg _ hop), fun _ hn => tget_mstoreRaw _ _ hn 0⟩

/-! ## Requests that their home performs (R256) -/

theorem serveReq_atHome {s : State} {id : Nat} {q : Req} (h : AtItsHome s id q) {kinds : List ReqKind}
    (hk : q.kind ∈ kinds) (f : State → Nat → Req → State) : serveReq kinds f s id = replaceLine (f s id q) q.home := by
  obtain ⟨hcut, hheld⟩ := h.reached
  have hfield : fieldReady s q.home = true := by
    have hready := h.ready
    rw [homeReady, Bool.and_eq_true] at hready
    exact hready.1
  have hslice : (if q.line / 2 ^ 48 = 1 then fieldReady s q.home else homeReady s q.home) = true := by
    split
    · exact hfield
    · exact h.ready
  have hopen : (!(if q.line / 2 ^ 48 = 1 then fieldReady s q.home else homeReady s q.home) || cutOff s q ||
      linkHeld s id q) = false := by
    rw [hslice, hcut, hheld]
    rfl
  unfold serveReq
  simp only [h.req, hk, not_true_eq_false, if_false, h.here, hopen, h.sound, h.next, Bool.false_eq_true, if_true]

theorem exec_homeLoad {s : State} {id : Nat} {q : Req} (h : AtItsHome s id q) (hk : q.kind = .load) :
    exec .homeLoad s = .next (replaceLine (performLoad s id q) q.home) := by
  have hremote : servedRemote s id q = none := by simp [servedRemote, h.here]
  change execHomeLoad s = _
  simp only [execHomeLoad, atHome, subject_zero h.issuer, h.req, hk, if_true, hremote, h.named, if_false,
    serveReq_atHome h (kinds := [.load]) (by simp [hk])]

theorem exec_homeStore {s : State} {id : Nat} {q : Req} (h : AtItsHome s id q) (hk : q.kind = .store) :
    exec .homeStore s = .next (replaceLine (performStore s id q) q.home) := by
  change execHomeStore s = _
  simp only [execHomeStore, atHome, subject_zero h.issuer, h.named, if_false,
    serveReq_atHome h (kinds := [.store]) (by simp [hk])]

/-! ## A store at its home (R41, R256) -/

theorem homeWrite_mem (s : State) (pa : Nat) (b : List Byte) (e by' : Option Nat) :
    (homeWrite s pa b e by').mem = mstore s.mem pa b := by
  obtain ⟨hl, iv, ws, ms, h, -⟩ := homeWrite_eq s pa b e by'
  rw [h]

theorem homeWrite_reqs (s : State) (pa : Nat) (b : List Byte) (e by' : Option Nat) :
    (homeWrite s pa b e by').reqs = s.reqs := by
  obtain ⟨hl, iv, ws, ms, h, -⟩ := homeWrite_eq s pa b e by'
  rw [h]

/-- The bytes outside every part of a store are as before. -/
theorem mread_storedParts_outside (parts : List (Nat × List Byte × Nat)) (m : Memory) {a : Nat}
    (h : ∀ p ∈ parts, a < p.1 ∨ p.1 + p.2.1.length ≤ a) : mread (storedParts m parts) a = mread m a := by
  induction parts generalizing m with
  | nil => rfl
  | cons p r ih =>
    exact (ih _ fun q hq => h q (List.mem_cons_of_mem _ hq)).trans
      (mread_mstore_outside _ _ _ _ (h p List.mem_cons_self))

/-- R256: a store writes its parts, one after another, and is done. -/
theorem performStore_eq {s : State} {r : Req} (hlocal : r.remote = none) (id : Nat) :
    (performStore s id r).mem = storedParts s.mem r.parts ∧ (performStore s id r).reqs = tdel s.reqs id := by
  unfold performStore
  extract_lets op core s0 s1
  have hmem : s0.mem = storedParts s.mem r.parts := by
    refine (List.foldl_hom State.mem (fun t p => ?_)).symm
    exact (homeWrite_mem ..).symm
  have hreqs : s0.reqs = tdel s.reqs id := foldl_keep State.reqs _ (fun t p => homeWrite_reqs ..) _ _
  have hs1 : OnlyCaches s0 s1 := by
    simp only [s1]
    split <;> rfl
  have hout : ∀ c : Option Nat, OnlyCaches s0 (match c with
      | some c => updateOwnCopy s1 c r.line r.parts
      | none => s1)
    | none => hs1
    | some c => hs1.trans (onlyCaches_updateOwnCopy s1 c r.line r.parts)
  simp only [hlocal]
  exact ⟨(hout core).mem.trans hmem, (hout core).reqs.trans hreqs⟩

end Sys2Proof.Machine

namespace Sys2Proof.Claims

open Sys2Proof.Machine

/-- R256: a load at its home. -/
theorem homeLoad_reads {s : State} {id : Nat} {q : Req} {op : Op} (h : AtItsHome s id q) (hk : q.kind = .load)
    (hlocal : q.remote = none) (hop : tfind s.ops q.op = some op) (hcopies : ∀ c ∈ s.copies, c.pa ≠ q.line) :
    ∃ t, exec .homeLoad s = .next t ∧ tfind t.reqs id = none ∧ t.mem = s.mem ∧
      ∃ op', tfind t.ops q.op = some op' ∧ ∀ n, n < 128 → tget op'.buf (q.line + n) 0 = mread s.mem (q.line + n) := by
  have hcaches := (performLoad_eq hlocal hcopies id).trans (onlyCaches_replaceLine _ q.home)
  obtain ⟨op', hop', hbuf⟩ := gotLine_op (s := doneReq s id) hop q.line (mbytes s.mem q.line 128)
  refine ⟨_, exec_homeLoad h hk, ?_, hcaches.mem, op', hcaches.ops ▸ hop', fun n hn => ?_⟩
  · rw [hcaches.reqs]
    exact tfind_tdel_same ..
  · have hlen : n < (mbytes s.mem q.line 128).length := by rwa [length_mbytes]
    exact (hbuf n hlen).trans (getElem_mbytes _ _ hlen)

/-- R41, R256: a store at its home. -/
theorem homeStore_writes {s : State} {id : Nat} {q : Req} (h : AtItsHome s id q) (hk : q.kind = .store)
    (hlocal : q.remote = none) : ∃ t, exec .homeStore s = .next t ∧ tfind t.reqs id = none ∧
      t.mem = storedParts s.mem q.parts ∧
      ∀ a, (∀ p ∈ q.parts, a < p.1 ∨ p.1 + p.2.1.length ≤ a) → mread t.mem a = mread s.mem a := by
  obtain ⟨hmem, hreqs⟩ := performStore_eq hlocal id (s := s)
  have hcaches := onlyCaches_replaceLine (performStore s id q) q.home
  have htmem := hcaches.mem.trans hmem
  refine ⟨_, exec_homeStore h hk, ?_, htmem, fun a ha => ?_⟩
  · rw [hcaches.reqs, hreqs]
    exact tfind_tdel_same ..
  · rw [htmem]
    exact mread_storedParts_outside _ _ ha

/-- R436: a host processor's store of a line of this device. -/
theorem hostStore_writes {s : State} {pa : Nat} {b : List Byte} (hs : s.issuer = .event (0 :: pa :: b.map BitVec.toNat))
    (hreach : hostReaches s pa b.length = true) : ∃ t, exec .homeStore s = .next t ∧ t.mem = mstore s.mem pa b := by
  have hbytes : ((subjects s).drop 2).map (BitVec.ofNat 8) = b := by
    simp [subjects, hs, Function.comp_def]
  refine ⟨homeWrite s pa b none, ?_, homeWrite_mem ..⟩
  change execHomeStore s = _
  rw [execHomeStore, if_pos (subject_zero hs), subject_one hs, hbytes, hostStore, if_pos hreach]

/-- R53, R405, R406: an invalidation that crosses reaches its holder, a core or a die. -/
theorem copyInvalidation_drops {s : State} {n : Nat} {v : Invalidation} (hs : s.issuer = .event [n])
    (hv : s.invalidations[n]? = some v) (hdown : acrossDown s v.die v.pa = false) (hbehind : behindOnLink s n v = false) :
    ∃ t, exec .copyInvalidation s = .next t ∧ v ∉ t.invalidations ∧ t.mem = s.mem ∧
      (v.holder < 100000 → ∀ x ∈ (tget t.cores v.holder default).cache, x.pa ≠ v.pa) ∧
      (100000 ≤ v.holder → ∀ c ∈ t.copies, ¬ (c.die = v.holder - 100000 ∧ c.pa = v.pa)) := by
  have hgone : v ∉ s.invalidations.filter (· ≠ v) := by simp
  change ∃ t, execCopyInvalidation s = .next t ∧ _
  unfold execCopyInvalidation
  simp only [subject_zero hs, hv, hdown, hbehind, Bool.or_self, Bool.false_eq_true, if_false]
  by_cases hcore : v.holder < 100000
  · rw [if_pos hcore]
    refine ⟨_, rfl, hgone, rfl, fun _ x hx => ?_, fun h => absurd hcore (by omega)⟩
    simp only [modCore, tget_tput_same, List.mem_filter] at hx
    simpa using hx.2
  · rw [if_neg hcore]
    refine ⟨_, rfl, ?_, ?_, fun h => absurd h hcore, fun _ c hc => ?_⟩
    · rw [foldl_keep State.invalidations _ fun t c => by split <;> rfl]
      exact hgone
    · exact foldl_mem (fun t c => by split <;> rfl) ..
    · rw [foldl_keep State.copies _ fun t c => by split <;> rfl] at hc
      have hkept := (List.mem_filter.1 hc).2
      intro hheld
      simp [hheld] at hkept

/-- R227, R416: what a core or a die holds of another device's line goes when its lifetime is over. -/
theorem cachedCopyExpiry_drops {s : State} {h pa : Nat} (hs : s.issuer = .event [h, pa]) (hpa : isRemote pa = true) :
    ∃ t, exec .cachedCopyExpiry s = .next t ∧ t.mem = s.mem ∧
      (h < 100000 → (tfind s.cores h).isSome = true → ∀ x ∈ (tget t.cores h default).cache,
        x.pa = pa → copyClock s (h / 288) pa < x.filled + 65536) ∧
      (100000 ≤ h → ∀ c ∈ t.copies, c.die = h - 100000 → c.pa = pa → copyClock s c.die pa < c.filled + 65536) := by
  change ∃ t, execCachedCopyExpiry s = .next t ∧ _
  unfold execCachedCopyExpiry
  simp only [subject_zero hs, subject_one hs, hpa, Bool.true_and]
  by_cases hcore : h < 100000
  · rw [if_pos hcore]
    split
    · rename_i hnone
      exact ⟨s, rfl, rfl, fun _ hsome => by simp_all, fun hle => absurd hcore (by omega)⟩
    · refine ⟨_, rfl, rfl, fun _ _ x hx hxpa => ?_, fun hle => absurd hcore (by omega)⟩
      simp only [modCore, tget_tput_same, List.mem_filter] at hx
      simpa [hxpa] using hx.2
  · rw [if_neg hcore]
    refine ⟨_, rfl, rfl, fun hlt => absurd hlt hcore, fun _ c hc hdie hcpa => ?_⟩
    simpa [hdie, hcpa] using (List.mem_filter.1 hc).2

/-- R254, R278: after a write-back a line has no unwritten data. -/
theorem unwritten_writeBack (s : State) (pa : Nat) : (homeLine (writeBack s pa) pa).unwritten = false := by
  unfold writeBack
  split
  · exact congrArg HomeLine.unwritten (tget_tput_same ..)
  · rename_i h
    exact Bool.not_eq_true _ ▸ h

/-- Settles O26: each access is what its request's performance leaves, and each loss of a copy a filter. -/
theorem homesServeLinesAndDropCopies : Obligations.HomesServeLinesAndDropCopies := by
  refine ⟨⟨fun s id q op h hk hlocal hop hcopies => homeLoad_reads h hk hlocal hop hcopies,
      fun s id q h hk hlocal => homeStore_writes h hk hlocal, fun s pa hs => ?_, fun s pa b hs hreach =>
        hostStore_writes hs hreach⟩,
    fun s n v hs hv hdown hbehind => copyInvalidation_drops hs hv hdown hbehind,
    fun s h pa hs hpa => cachedCopyExpiry_drops hs hpa, fun s pa hs => ?_⟩
  · refine ⟨hostLoad s pa, ?_, hostLoad_mem ..⟩
    change execHomeLoad s = _
    simp only [execHomeLoad, subject_zero hs, subject_one hs, if_true]
  · refine ⟨writeBack s pa, ?_, writeBack_mem .., unwritten_writeBack ..⟩
    change execLineWriteBack s = _
    rw [execLineWriteBack, subject_zero hs]

end Sys2Proof.Claims
end

section
/-!
PROOFS. The commands of the host's rings that write tables, areas and status (R438 to R440): a command that is neither
malformed nor refused is run and ended, and its ending leaves the effect as it is.
-/

namespace Sys2Proof.Machine

open Sys2Proof.Claims

/-! ## What homes keep of a line through writes (R449) -/

theorem poison_modHomeLine (s : State) (l a : Nat) {f : HomeLine → HomeLine} (hf : ∀ h, (f h).poison = h.poison) :
    (homeLine (modHomeLine s l f) a).poison = (homeLine s a).poison := by
  by_cases ha : lineOf a = lineOf l
  · have hline : homeLine (modHomeLine s l f) a = f (homeLine s l) := by
      rw [homeLine, ha]
      exact tget_tput_same ..
    rw [hline, hf, homeLine, homeLine, ha]
  · exact congrArg HomeLine.poison (tget_tput_ne _ _ _ _ _ ha)

/-- R449: a write at its home takes no poison off a line. -/
theorem poison_homeWrite (s : State) (pa : Nat) (b : List Byte) (e by' : Option Nat) (a : Nat) :
    (homeLine (homeWrite s pa b e by') a).poison = (homeLine s a).poison := by
  change (homeLine (homeWrite.written s pa b e) a).poison = _
  unfold homeWrite.written
  refine foldl_keep (fun t : State => (homeLine t a).poison) _ (fun t l => ?_) _ _
  exact poison_modHomeLine _ l a fun _ => rfl

/-! ## The end of a command (R438, R440) -/

/-- State `t` is what the end of command `c` leaves of `s`: its completion word is written, its ring goes on, an event is
sent; homes, invalidations, speculating warps and monitors change with the word's write. -/
structure Ends (s t : State) (c : Command) : Prop where
  rest : t = { s with
    mem := t.mem, homeLines := t.homeLines, invalidations := t.invalidations, warps := t.warps, monitors := t.monitors
    rings := t.rings, events := t.events }
  mem : ∃ status, t.mem = mstore s.mem (hostPa c.done) (leBytes 4 status)
  poison : ∀ a, (homeLine t a).poison = (homeLine s a).poison

theorem ends_finishCommand (s : State) (r : Nat) {c : Command} (status : Nat) (h : c.done % 4 = 0) :
    Ends s (finishCommand s r c status) c := by
  have hdone : c.done / 4 * 4 = c.done := by omega
  obtain ⟨hl, iv, ws, ms, heq, -⟩ := finishCommand_eq s r c status
  refine ⟨by rw [heq], ⟨status, ?_⟩, fun a => poison_homeWrite s _ _ none none a⟩
  rw [heq, hdone]

namespace Ends

variable {s t : State} {c : Command}

theorem contexts (h : Ends s t c) : t.contexts = s.contexts := by rw [h.rest]

/-- The command's context, where it is what has been changed. -/
theorem context {u : State} {k : Nat} {f : Context → Context} {x : Context} (h : Ends s t c)
    (hs : s.contexts = tmod u.contexts k f) (hx : tfind u.contexts k = some x) : tget t.contexts k default = f x := by
  rw [h.contexts, hs]
  exact tget_tmod_of_tfind f hx

theorem perDie (h : Ends s t c) : t.perDie = s.perDie := by rw [h.rest]

/-- Memory apart from the completion word is as before. -/
theorem mbytes_apart (h : Ends s t c) {a n : Nat} (hapart : hostPa c.done + 4 ≤ a ∨ a + n ≤ hostPa c.done) :
    mbytes t.mem a n = mbytes s.mem a n := by
  obtain ⟨status, hmem⟩ := h.mem
  rw [hmem]
  exact mbytes_mstore_outside _ _ _ _ _ (by rw [length_leBytes]; exact hapart.symm)

theorem mread_apart (h : Ends s t c) {a : Nat} (hapart : a < hostPa c.done ∨ hostPa c.done + 4 ≤ a) :
    mread t.mem a = mread s.mem a := by
  obtain ⟨status, hmem⟩ := h.mem
  rw [hmem]
  exact mread_mstore_outside _ _ _ _ (by rwa [length_leBytes])

end Ends

/-! ## Commands that are run (R440) -/

section Running

variable {s s1 : State} {r : Nat} {c : Command} {status : Nat}

theorem commandBad_of_commanded (h : Commanded s r c) : commandBad s c = false := by
  have hmalformed : ¬ (c.clean = false ∨ c.done % 4 ≠ 0 ∨ s.dies ≤ c.die) := by
    have := h.aligned
    have := h.die.1
    simp [h.clean]
    omega
  exact Bool.eq_false_iff.2 fun hbad => hmalformed ((commandBad_iff s c).1 hbad)

theorem commandRefused_of_commanded (h : Commanded s r c) : commandRefused s c = false := by
  have hlink : (decide (c.die = 1) && !s.dieLink) = false := by
    by_cases hdie : c.die = 1
    · simp [h.linked hdie]
    · simp [hdie]
  have hctx : (contextCommand c.code && (tfind s.contexts c.ctx).isNone) = false := by
    cases hc : contextCommand c.code with
    | false => rfl
    | true => simp [Option.isNone_eq_false_iff.2 (h.context hc)]
  rw [commandRefused, hlink, hctx, h.ready]
  rfl

/-- A command that the model runs ends with the status that running it gives, in the state that it makes. -/
theorem command_ends {i : Instr} {code : Nat} {mine : Command → Bool} {bad : State → Command → Bool}
    {run : State → Nat → Command → Option (State × Nat)} (f : State → Out) (h : Commanded s r c)
    (hexec : exec i s = f s) (hf : f s = hostCommand code mine bad run s) (hcode : c.code = code) (hmine : mine c = true)
    (hbad : bad s c = false) (hrun : run s r c = some (s1, status)) (hrings : s1.rings = s.rings) {post : State → Prop}
    (hpost : ∀ t, Ends s1 t c → post t) : ∃ t, exec i s = .next t ∧ Finished s t r c status ∧ post t := by
  have hfinished : Finished s (finishCommand s1 r c status) r c status := by
    have hring : ringOf s1 r = ringOf s r := congrArg (lget · r default) hrings
    have hend := finished_finishCommand (s := s1) (by rw [hrings]; exact h.ring) c status
    rw [Finished, hring] at hend
    exact hend
  refine ⟨_, ?_, hfinished, hpost _ (ends_finishCommand s1 r status h.aligned)⟩
  rw [hexec, hf]
  simp [hostCommand, subject_zero h.issuer, h.next, hcode, hmine, hbad, commandBad_of_commanded h,
    commandRefused_of_commanded h, hrun]

theorem plainCommand_ends {i : Instr} {code : Nat} {bad : State → Command → Bool} {run : State → Command → State × Nat}
    (f : State → Out) (h : Commanded s r c) (hexec : exec i s = f s) (hf : f s = plainCommand code bad run s)
    (hcode : c.code = code) (hbad : bad s c = false) (hrun : run s c = (s1, status)) (hrings : s1.rings = s.rings)
    {post : State → Prop} (hpost : ∀ t, Ends s1 t c → post t) :
    ∃ t, exec i s = .next t ∧ Finished s t r c status ∧ post t :=
  command_ends f h hexec hf hcode rfl hbad (congrArg some hrun) hrings hpost

theorem areaCommand_ends {i : Instr} {mine : Nat → Bool} {bad : Command → Bool} {run : State → Command → State}
    (f : State → Out) (h : Commanded s r c) (hexec : exec i s = f s) (hf : f s = areaCommand mine bad run s)
    (hcode : c.code = 0x0D) (hmine : mine (c.op 0) = true) (hbad : bad c = false) (hrings : (run s c).rings = s.rings)
    {post : State → Prop} (hpost : ∀ t, Ends (run s c) t c → post t) : Performs i s r c post :=
  command_ends f h hexec hf hcode hmine hbad rfl hrings hpost

theorem errorCommand_ends {i : Instr} {mine bad : Command → Bool} {run : State → Command → HeldError → State}
    {e : HeldError} (f : State → Out) (h : Commanded s r c) (hexec : exec i s = f s)
    (hf : f s = errorCommand mine bad run s) (hcode : c.code = 0x13) (hmine : mine c = true) (hbad : bad c = false)
    (he : (s.errors.find? fun e => e.pos = c.op 0) = some e) (hrings : (run s c e).rings = s.rings)
    {post : State → Prop} (hpost : ∀ t, Ends (run s c e) t c → post t) : Performs i s r c post :=
  command_ends f h hexec hf hcode hmine hbad (by simp only [he]) hrings hpost

theorem context_of_commanded (h : Commanded s r c) (hcode : contextCommand c.code = true) :
    ∃ x, tfind s.contexts c.ctx = some x :=
  Option.isSome_iff_exists.1 (h.context hcode)

end Running

/-! ## What the commands do (R418, R438, R450) -/

theorem hostWrite_rings (s : State) (a : Nat) (b : List Byte) : (hostWrite s a b).rings = s.rings := by
  obtain ⟨hl, iv, ws, ms, h, -⟩ := homeWrite_eq s (hostPa a) b none none
  rw [hostWrite, h]

/-- What a command writes in host memory, apart from its completion word, stands there when it has ended. -/
theorem Ends.hostWritten {s t : State} {c : Command} {a : Nat} {b : List Byte} (ht : Ends (hostWrite s a b) t c)
    (hapart : apartFromDone c a b.length) : mbytes t.mem (hostPa a) b.length = b := by
  rw [ht.mbytes_apart hapart, hostWrite, homeWrite_mem]
  exact mbytes_mstore_same ..

/-- R423: giving up overflow entries rewrites the lists in memory. -/
theorem dropOverflow_accessed (s : State) (out : Overflow → Bool) : Accessed { s with
    overflow := s.overflow.filter (fun e => !out e), overflowFull := s.overflowFull && !s.overflow.any out }
    (dropOverflow s out) :=
  Accessed.foldl (fun t _ => Accessed.foldl (fun _ _ => physWrite_accessed ..) _ t) ..

theorem dropOverflow_rings (s : State) (out : Overflow → Bool) : (dropOverflow s out).rings = s.rings := by
  rw [(dropOverflow_accessed s out).rest]

theorem dropOverflow_contexts (s : State) (out : Overflow → Bool) : (dropOverflow s out).contexts = s.contexts := by
  rw [(dropOverflow_accessed s out).rest]

theorem dropOverflow_overflow (s : State) (out : Overflow → Bool) :
    (dropOverflow s out).overflow = s.overflow.filter fun e => !out e := by
  rw [(dropOverflow_accessed s out).rest]

/-- R450: a resident warp's store that is aborted is dropped; the warp's flags tell of it. -/
theorem abortReq_store {s : State} {id : Nat} {q : Req} (hlocal : q.remote = none) (hstore : q.kind = .store)
    (hwarp : ∀ k, opIssuer s q.op (tget s.ops q.op default) = some k → (tfind s.warps k).isSome = true) :
    ∃ ws, abortReq s id q = { s with warps := ws, reqs := tdel s.reqs id } := by
  unfold abortReq
  simp only [hlocal, hstore]
  cases hissuer : opIssuer s q.op (tget s.ops q.op default) with
  | none => exact ⟨_, rfl⟩
  | some k =>
    obtain ⟨w, hw⟩ := Option.isSome_iff_exists.1 (hwarp k hissuer)
    have hflag : flagOOB ≠ 0 := by decide
    simp only [lateFlags, hflag, if_false, updateWarp, hw]
    exact ⟨_, rfl⟩

/-- R450: a scrub of a line writes its bytes, takes its poison away, and frees what was held at it. -/
theorem scrub_line {s : State} {e : HeldError} (h : e.struct = 4 ∨ e.struct = 5) (b : List Byte) :
    (scrub s e b).mem = mstore s.mem e.line b ∧ (scrub s e b).rings = s.rings ∧
      (homeLine (scrub s e b) e.line).poison = none ∧ e ∉ (scrub s e b).errors := by
  obtain ⟨hl, iv, ws, ms, hwrite, -⟩ := homeWrite_eq s e.line b none none
  rw [scrub, if_pos h, hwrite]
  refine ⟨rfl, rfl, congrArg HomeLine.poison (tget_tput_same ..), fun hmem => ?_⟩
  simpa [h] using (List.mem_filter.1 hmem).2

end Sys2Proof.Machine

namespace Sys2Proof.Claims

open Sys2Proof.Machine

section Tables

variable {s : State} {r : Nat} {c : Command}

/-- R265: a routine of n words. -/
theorem writeRoutineSlot_performs (h : Commanded s r c) (hcode : c.code = 0x08) (hslot : c.op 0 < 64)
    (hmin : 1 ≤ c.op 1) (hmax : c.op 1 ≤ 16) :
    let l := (List.range (c.op 1)).map fun i => BitVec.ofNat 32 (wordAt (hostBytes s (c.op 2) (4 * c.op 1)) i)
    (routineOk l = true → Performs .writeRoutineSlot s r c fun t =>
      tfind (tget t.contexts c.ctx default).routines (c.op 0) = some l) ∧
    (routineOk l = false → ∃ t, exec .writeRoutineSlot s = .next t ∧ Finished s t r c 3 ∧
      tfind (tget t.contexts c.ctx default).routines (c.op 0) = none) := by
  intro l
  obtain ⟨x, hx⟩ := context_of_commanded h (by rw [hcode]; rfl)
  have hbad : decide (64 ≤ c.op 0 ∨ c.op 1 = 0 ∨ 16 < c.op 1) = false := decide_eq_false (by omega)
  constructor
  · intro hok
    refine plainCommand_ends execWriteRoutineSlot h rfl rfl hcode hbad (if_pos hok) rfl fun t ht => ?_
    rw [ht.context rfl hx]
    exact tfind_tput_same ..
  · intro hno
    refine plainCommand_ends execWriteRoutineSlot h rfl rfl hcode hbad (if_neg (Bool.eq_false_iff.1 hno)) rfl
      fun t ht => ?_
    rw [ht.context rfl hx]
    exact tfind_tdel_same ..

/-- R341: an instruction-store image. -/
theorem writeAccessProcessorImage_performs (h : Commanded s r c) (hcode : c.code = 0x0A) (hlen : c.op 1 ≤ 16384) :
    Performs .writeAccessProcessorImage s r c fun t =>
      ∀ i, i < c.op 1 → mread (tget t.contexts c.ctx default).image i = mread s.mem (hostPa (c.op 0) + i) := by
  obtain ⟨x, hx⟩ := context_of_commanded h (by rw [hcode]; rfl)
  refine plainCommand_ends execWriteAccessProcessorImage h rfl rfl hcode (decide_eq_false (by omega)) rfl rfl
    fun t ht i hi => ?_
  rw [ht.context rfl hx]
  have hi' : i < (hostBytes s (c.op 0) (c.op 1)).length := (length_mbytes ..).symm ▸ hi
  have himage := mread_mstore_inside [] 0 i (hostBytes s (c.op 0) (c.op 1)) hi'
  rw [Nat.zero_add, lget, List.getElem?_eq_getElem hi', Option.getD_some] at himage
  exact himage.trans (getElem_mbytes _ _ hi')

/-- R418: a collective descriptor that no launch carries, its epochs over. -/
theorem writeCollectiveDescriptor_performs (h : Commanded s r c) (hcode : c.code = 0x0C) (hdesc : c.op 0 < 1024)
    (hcarried : carried s c.ctx (c.op 0) = false) (hdone : collDone s c.ctx (c.op 0) = true) :
    Performs .writeCollectiveDescriptor s r c fun t =>
      collective t c.ctx (c.op 0) = hostBytes s (c.op 1) 64 ∧ collEpoch t c.ctx (c.op 0) = 0 ∧
        ∀ e ∈ t.overflow, ¬(e.ctx = c.ctx ∧ e.desc = c.op 0) := by
  obtain ⟨x, hx⟩ := context_of_commanded h (by rw [hcode]; rfl)
  have hfree : (carried s c.ctx (c.op 0) || !collDone s c.ctx (c.op 0)) = false := by rw [hcarried, hdone]; rfl
  refine plainCommand_ends execWriteCollectiveDescriptor h rfl rfl hcode (decide_eq_false (by omega))
    (if_neg (Bool.eq_false_iff.1 hfree)) (dropOverflow_rings ..) fun t ht => ?_
  have hctx := ht.context (dropOverflow_contexts ..) hx
  refine ⟨?_, ?_, fun e he => ?_⟩
  · rw [collective, hctx]
    exact tget_tput_same ..
  · rw [collEpoch, hctx]
    exact tget_tdel_same ..
  · have hover : t.overflow = s.overflow.filter fun e => !decide (e.ctx = c.ctx ∧ e.desc = c.op 0) :=
      (congrArg State.overflow ht.rest).trans (dropOverflow_overflow ..)
    rw [hover] at he
    intro hown
    simpa [hown] using (List.mem_filter.1 he).2

/-- R425: reserving a partition that is free, and one that is reserved already. -/
theorem partitionReserve_performs (h : Commanded s r c) (hcode : c.code = 0x0E) (hform : c.op 0 = 0)
    (hdie : c.op 1 < s.dies) (hlisted : c.op 1 < s.perDie.length) (hmin : 1 ≤ c.op 2) (hmax : c.op 2 ≤ 16) :
    ((dieAt s (c.op 1)).partition = none → Performs .partitionReserve s r c fun t =>
      (dieAt t (c.op 1)).partition = some (c.op 2, c.ctx)) ∧
    ((dieAt s (c.op 1)).partition ≠ none → ∃ t, exec .partitionReserve s = .next t ∧ Finished s t r c 3 ∧
      t.perDie = s.perDie) := by
  have hmine : decide (c.op 0 ≠ 1) = true := decide_eq_true (by omega)
  have hbad : decide (1 < c.op 0 ∨ s.dies ≤ c.op 1 ∨ c.op 2 = 0 ∨ 16 < c.op 2) = false := decide_eq_false (by omega)
  constructor
  · intro hfree
    refine command_ends execPartitionReserve h rfl rfl hcode hmine hbad
      (congrArg some (if_neg (by rw [hfree]; exact Bool.false_ne_true))) rfl fun t ht => ?_
    rw [dieAt, ht.perDie]
    exact congrArg Die.partition (lget_lmod_same _ _ _ _ hlisted)
  · intro hheld
    refine command_ends execPartitionReserve h rfl rfl hcode hmine hbad
      (congrArg some (if_pos (Option.isSome_iff_ne_none.2 hheld))) rfl fun t ht => ht.perDie

/-- R427: releasing a context's partition, and refusing to while its warps are resident. -/
theorem partitionRelease_performs {n : Nat} (h : Commanded s r c) (hcode : c.code = 0x0E) (hform : c.op 0 = 1)
    (hdie : c.op 1 < s.dies) (hlisted : c.op 1 < s.perDie.length)
    (hheld : (dieAt s (c.op 1)).partition = some (n, c.ctx)) :
    ((∀ p ∈ s.warps, p.2.die = c.op 1 → ofPartition s p.2 = false) →
      Performs .partitionRelease s r c fun t => (dieAt t (c.op 1)).partition = none) ∧
    ∀ p ∈ s.warps, p.2.die = c.op 1 → ofPartition s p.2 = true →
      ∃ t, exec .partitionRelease s = .next t ∧ Finished s t r c 3 ∧ t.perDie = s.perDie := by
  have hmine : decide (c.op 0 = 1) = true := decide_eq_true hform
  have hbad : decide (s.dies ≤ c.op 1) = false := decide_eq_false (by omega)
  constructor
  · intro hnone
    have hused : (s.warps.any fun p => decide (p.2.die = c.op 1) && ofPartition s p.2) = false := by
      simpa using hnone
    refine command_ends (s1 := modDie s (c.op 1) fun y => { y with partition := none }) (status := 1)
      execPartitionRelease h rfl rfl hcode hmine hbad (by simp [hheld, hused]) rfl fun t ht => ?_
    rw [dieAt, ht.perDie]
    exact congrArg Die.partition (lget_lmod_same _ _ _ _ hlisted)
  · intro p hp hpdie hpart
    have hused : (s.warps.any fun p => decide (p.2.die = c.op 1) && ofPartition s p.2) = true :=
      List.any_eq_true.2 ⟨p, hp, by simp [hpdie, hpart]⟩
    exact command_ends (s1 := s) (status := 3) execPartitionRelease h rfl rfl hcode hmine hbad
      (by simp only [hheld, hused, or_true, if_true]) rfl fun t ht => ht.perDie

/-- R450: a scrub's line. -/
theorem scrubReplay_performs {e : HeldError} (h : Commanded s r c) (hcode : c.code = 0x13) (hform : c.op 1 = 0)
    (he : (s.errors.find? fun e => e.pos = c.op 0) = some e) (hstruct : e.struct = 4 ∨ e.struct = 5)
    (hapart : hostPa c.done + 4 ≤ e.line ∨ e.line + 128 ≤ hostPa c.done) :
    Performs .scrubReplay s r c fun t => mbytes t.mem e.line 128 = hostBytes s (c.op 2) 128 ∧
      (homeLine t e.line).poison = none ∧ e ∉ t.errors := by
  obtain ⟨hmem, hrings, hpoison, herrors⟩ := scrub_line (s := s) hstruct (hostBytes s (c.op 2) 128)
  have hlen : (hostBytes s (c.op 2) 128).length = 128 := length_mbytes ..
  refine errorCommand_ends execScrubReplay h rfl rfl hcode (decide_eq_true (by omega)) (decide_eq_false (by omega)) he
    hrings fun t ht => ⟨?_, (ht.poison _).trans hpoison, ?_⟩
  · have hbytes := mbytes_mstore_same s.mem e.line (hostBytes s (c.op 2) 128)
    rw [hlen] at hbytes
    rw [ht.mbytes_apart hapart, hmem, hbytes]
  · rwa [show t.errors = _ from congrArg State.errors ht.rest]

/-- R450: a held store that is aborted. -/
theorem scrubAbort_performs {e : HeldError} {id : Nat} {q : Req} (h : Commanded s r c) (hcode : c.code = 0x13)
    (hform : c.op 1 = 1) (he : (s.errors.find? fun e => e.pos = c.op 0) = some e) (hreq : e.req = some id)
    (hq : tfind s.reqs id = some q) (hlocal : q.remote = none) (hstore : q.kind = .store)
    (hwarp : ∀ k, opIssuer s q.op (tget s.ops q.op default) = some k → (tfind s.warps k).isSome = true) :
    Performs .scrubAbort s r c fun t => tfind t.reqs id = none ∧ e ∉ t.errors ∧
      ∀ a, (a < hostPa c.done ∨ hostPa c.done + 4 ≤ a) → mread t.mem a = mread s.mem a := by
  obtain ⟨ws, hws⟩ := abortReq_store (s := { s with errors := s.errors.filter (· ≠ e) }) (id := id) hlocal hstore hwarp
  have habort : abortError s e = { s with
      errors := s.errors.filter (· ≠ e), warps := ws, reqs := tdel s.reqs id } := by
    rw [abortError, hreq]
    simp only [hq, hws]
  refine errorCommand_ends execScrubAbort h rfl rfl hcode (decide_eq_true hform) rfl he (by rw [habort])
    fun t ht => ?_
  rw [habort] at ht
  refine ⟨?_, fun hmem => ?_, fun a ha => ht.mread_apart ha⟩
  · rw [show t.reqs = tdel s.reqs id from congrArg State.reqs ht.rest]
    exact tfind_tdel_same ..
  · rw [show t.errors = s.errors.filter (· ≠ e) from congrArg State.errors ht.rest] at hmem
    simpa using (List.mem_filter.1 hmem).2

end Tables

/-- Settles O49: each command is run and ended, and its effect read off the state that running it makes. -/
theorem tableAndStatusCommandsComplete : Obligations.TableAndStatusCommandsComplete := by
  refine ⟨fun s r c h hcode hslot hmin hmax => writeRoutineSlot_performs h hcode hslot hmin hmax,
    fun s r c h hcode hslot hgood => ?_, fun s r c h hcode hlen => writeAccessProcessorImage_performs h hcode hlen,
    fun s r c h hcode hentry hversion hon => ?_,
    fun s r c h hcode hdesc hcarried hdone => writeCollectiveDescriptor_performs h hcode hdesc hcarried hdone,
    fun s r c h hcode hform hbase => ?_, fun s r c h hcode hform hbase => ?_,
    fun s r c h hcode hform hbase hmin hmax => ?_, fun s r c h hcode hform hbase => ?_,
    fun s r c h hcode hform hdie hlisted hmin hmax =>
      partitionReserve_performs h hcode hform hdie hlisted hmin hmax,
    fun s r c n h hcode hform hdie hlisted hheld => partitionRelease_performs h hcode hform hdie hlisted hheld,
    fun s r c h hcode hfield hpoint hlisted => ?_, fun s r c h hcode hport hdown => ?_,
    fun s r c h hcode hapart => ?_,
    fun s r c e h hcode hform he hstruct hapart => scrubReplay_performs h hcode hform he hstruct hapart,
    fun s r c e id q h hcode hform he hreq hq hlocal hstore hwarp =>
      scrubAbort_performs h hcode hform he hreq hq hlocal hstore hwarp,
    fun s r c h hcode hform hapart => ?_⟩
  · refine plainCommand_ends execWriteUpdateDescriptor h rfl rfl hcode ?_ rfl rfl fun t ht => ?_
    · rw [Bool.or_eq_false_iff]
      exact ⟨decide_eq_false (by omega), hgood⟩
    · exact (congrArg (tfind ·.updates (c.op 0)) ht.rest).trans (tfind_tput_same ..)
  · refine plainCommand_ends execWritePublishEntry h rfl rfl hcode (decide_eq_false (by omega)) rfl rfl fun t ht => ?_
    exact (congrArg (tget ·.publish (c.op 0) default) ht.rest).trans (tget_tput_same ..)
  · exact areaCommand_ends execSetRouteTable h rfl rfl hcode (decide_eq_true hform) (decide_eq_false (by omega)) rfl
      fun t ht => congrArg State.routeTable ht.rest
  · exact areaCommand_ends execSetApertureTable h rfl rfl hcode (decide_eq_true hform) (decide_eq_false (by omega)) rfl
      fun t ht => congrArg State.apertureTable ht.rest
  · exact areaCommand_ends execSetOverflowArea h rfl rfl hcode (decide_eq_true hform) (decide_eq_false (by omega)) rfl
      fun t ht => congrArg State.overflowArea ht.rest
  · exact areaCommand_ends execSetCompressionMetadata h rfl rfl hcode (decide_eq_true (by omega))
      (decide_eq_false (by omega)) rfl fun t ht => congrArg State.metadata ht.rest
  · refine plainCommand_ends execFieldControl h rfl rfl hcode (decide_eq_false (by omega)) rfl rfl fun t ht => ?_
    exact (congrArg (lget ·.islands (3 * c.die + c.op 0) default) ht.rest).trans (lget_lmod_same _ _ _ _ hlisted)
  · refine plainCommand_ends execRetrainPort h rfl rfl hcode (decide_eq_false (by omega))
      (congrArg (·, 1) (if_neg (Bool.eq_false_iff.1 hdown))) rfl fun t ht => ?_
    exact (congrArg (tfind ·.ports (c.op 0)) ht.rest).trans (tfind_tput_same ..)
  · exact plainCommand_ends execReadStatus h rfl rfl hcode rfl rfl (hostWrite_rings ..) fun t ht => ht.hostWritten hapart
  · exact plainCommand_ends (s1 := hostWrite { s with free := s.free + 1 } (c.op 1)
        (attestation s c.die (hostBytes s (c.op 0) 32))) (status := 1) execAttestationReport h rfl rfl hcode
      (decide_eq_false (by omega)) (by simp only [hform, if_true]) (hostWrite_rings ..) fun t ht => ht.hostWritten hapart

end Sys2Proof.Claims
end

section
/-!
PROOFS. The frame of the lane instructions (R101, R115, R131, R173): each step of an issue from the read cycle to the end
of the instruction moves the slices of its gang, the generators of its active lanes, latch entries and gang numbers, and of
the rest of the device only requests for register space and the count of free values.
-/

namespace Sys2Proof.Machine

open Sys2Proof.Claims

/-! ## Changes of one slice -/

theorem sliceAt_modSliceW_or (w : Warp) (i j : Nat) (f : Slice → Slice) :
    sliceAt (modSliceW w i f) j = sliceAt w j ∨ j = i ∧ sliceAt (modSliceW w i f) j = f (sliceAt w j) := by
  by_cases hj : j = i
  · subst hj
    by_cases hl : j < w.slices.length
    · exact .inr ⟨rfl, sliceAt_modSliceW_same _ _ _ hl⟩
    · exact .inl (congrArg (lget · j default) (lmod_of_length_le _ _ (by omega)))
  · exact .inl (sliceAt_modSliceW_ne _ _ _ _ hj)

theorem lmod_of_fixed {α : Type} (l : List α) (i : Nat) (f : α → α) (d : α) (h : f (lget l i d) = lget l i d) :
    lmod l i f = l := by
  induction l generalizing i with
  | nil => rfl
  | cons x l ih =>
    cases i with
    | zero => exact congrArg (· :: l) h
    | succ i => exact congrArg (x :: ·) (ih i h)

theorem modSliceW_of_fixed {w : Warp} {i : Nat} {f : Slice → Slice} (h : f (sliceAt w i) = sliceAt w i) :
    modSliceW w i f = w :=
  congrArg (fun l => { w with slices := l }) (lmod_of_fixed _ _ _ _ h)

/-! ## Issue cycles in which no result is due (R132, R133) -/

/-- A result of BREC, BSTR or BTPS with one issue cycle less to go. -/
def WarpResult.tick (r : WarpResult) : WarpResult := { r with left := r.left - 1 }

/-- A slice of whose results none is written in the next issue cycle. -/
structure NoneDue (x : Slice) : Prop where
  queue : ∀ r ∈ x.queue, 1 < r.left
  warpQueue : ∀ r ∈ x.warpQueue, 1 < r.left

theorem noneDue_of_empty {x : Slice} (hq : x.queue = []) (hq' : x.warpQueue = []) : NoneDue x :=
  ⟨by simp [hq], by simp [hq']⟩

theorem filter_left {α : Type} (left : α → Nat) {l : List α} (h : ∀ r ∈ l, left r ≠ 0) :
    l.filter (fun r => decide (left r = 0)) = [] ∧ l.filter (fun r => decide (left r ≠ 0)) = l :=
  ⟨List.filter_eq_nil_iff.2 fun r hr => by simpa using h r hr, List.filter_eq_self.2 fun r hr => by simpa using h r hr⟩

/-- An issue cycle in which no result of the slice is due only counts. -/
theorem tickSlice_of_noneDue {w : Warp} {i : Nat} (hi : i < w.slices.length) (h : NoneDue (sliceAt w i)) :
    tickSlice w i = modSliceW w i fun x =>
      { x with queue := (sliceAt w i).queue.map Result.tick, warpQueue := (sliceAt w i).warpQueue.map WarpResult.tick } := by
  obtain ⟨hdue, hkept⟩ := filter_left Result.left (l := (sliceAt w i).queue.map Result.tick)
    (List.forall_mem_map.2 fun r hr => Nat.sub_ne_zero_of_lt (h.queue r hr))
  obtain ⟨hdue', hkept'⟩ := filter_left WarpResult.left (l := (sliceAt w i).warpQueue.map WarpResult.tick)
    (List.forall_mem_map.2 fun r hr => Nat.sub_ne_zero_of_lt (h.warpQueue r hr))
  change writeDue (modSliceW w i fun x =>
    { x with queue := x.queue.map Result.tick, warpQueue := x.warpQueue.map WarpResult.tick }) i = _
  unfold writeDue
  rw [sliceAt_modSliceW_same _ _ _ hi]
  dsimp only
  rw [hdue, hdue', hkept, hkept']
  exact modSliceW_twice _ _ _ _

theorem tickSlice_of_empty {w : Warp} {i : Nat} (hi : i < w.slices.length) (hq : (sliceAt w i).queue = [])
    (hq' : (sliceAt w i).warpQueue = []) : tickSlice w i = w := by
  rw [tickSlice_of_noneDue hi (noneDue_of_empty hq hq')]
  refine modSliceW_of_fixed ?_
  rw [hq, hq']
  exact congrArg₂ (fun q q' => { sliceAt w i with queue := q, warpQueue := q' }) hq.symm hq'.symm

/-- Issue cycles of a gang in whose queues nothing waits change nothing. -/
theorem tickGang_of_quiet {w : Warp} {sl : BitVec 8} (hlen : w.slices.length = 8) (h : quiet w sl) (n : Nat) :
    tickGang w sl n = w := by
  have hfix : ∀ l : List Nat, (∀ i ∈ l, i ∈ bitsOf 8 sl) → l.foldl tickSlice w = w := fun l => by
    induction l with
    | nil => exact fun _ => rfl
    | cons i l ih =>
      intro hl
      have hi : i ∈ bitsOf 8 sl := hl i List.mem_cons_self
      rw [List.foldl_cons, tickSlice_of_empty (hlen ▸ (mem_bitsOf.1 hi).1) (h i hi).1 (h i hi).2]
      exact ih fun j hj => hl j (List.mem_cons_of_mem _ hj)
  induction n with
  | zero => rfl
  | succ n ih => rw [tickGang, hfix _ fun _ hi => hi, ih]

/-! ## What a lane instruction may change of its warp -/

/-- Warp `v` is `w` but for its slices, its generators in `lanes` and its incomplete fence; of slices outside the gang
only latch entries, gang numbers and the like have moved. -/
structure LaneFrame (lanes : List Nat) (sl : BitVec 8) (v w : Warp) : Prop where
  rest : { v with slices := w.slices, gen := w.gen, spec := w.spec } = w
  gen : ∀ l, l ∉ lanes → tget v.gen l 0 = tget w.gen l 0
  outside : ∀ j, j ∉ bitsOf 8 sl → SameSlice (sliceAt v j) (sliceAt w j) ∧ (sliceAt v j).queue = (sliceAt w j).queue

/-- Such a change that keeps modes and masks, and makes no result due: of any part of an issue but its read cycle's end. -/
structure LaneStep (lanes : List Nat) (sl : BitVec 8) (v w : Warp) : Prop extends LaneFrame lanes sl v w where
  length : v.slices.length = w.slices.length
  mode : ∀ j, (sliceAt v j).mode = (sliceAt w j).mode
  active : ∀ j, (sliceAt v j).active = (sliceAt w j).active
  due : ∀ j, NoneDue (sliceAt w j) → NoneDue (sliceAt v j)

section

variable {lanes : List Nat} {sl : BitVec 8} {u v w : Warp}

theorem LaneFrame.rfl : LaneFrame lanes sl w w := ⟨Eq.refl _, fun _ _ => Eq.refl _, fun _ _ => ⟨.rfl, Eq.refl _⟩⟩

theorem LaneFrame.trans (h : LaneFrame lanes sl u v) (g : LaneFrame lanes sl v w) : LaneFrame lanes sl u w where
  rest := (congrArg (fun x : Warp => { x with slices := w.slices, gen := w.gen, spec := w.spec }) h.rest).trans g.rest
  gen l hl := (h.gen l hl).trans (g.gen l hl)
  outside j hj := ⟨(h.outside j hj).1.trans (g.outside j hj).1, (h.outside j hj).2.trans (g.outside j hj).2⟩

theorem LaneStep.rfl : LaneStep lanes sl w w :=
  ⟨.rfl, Eq.refl _, fun _ => Eq.refl _, fun _ => Eq.refl _, fun _ h => h⟩

theorem LaneStep.trans (h : LaneStep lanes sl u v) (g : LaneStep lanes sl v w) : LaneStep lanes sl u w where
  toLaneFrame := h.toLaneFrame.trans g.toLaneFrame
  length := h.length.trans g.length
  mode j := (h.mode j).trans (g.mode j)
  active j := (h.active j).trans (g.active j)
  due j hj := h.due j (g.due j hj)

theorem laneStep_foldl {α : Type} (g : Warp → α → Warp) (l : List α) (h : ∀ a ∈ l, ∀ v, LaneStep lanes sl (g v a) v)
    (w : Warp) : LaneStep lanes sl (l.foldl g w) w := by
  induction l generalizing w with
  | nil => exact .rfl
  | cons a l ih => exact (ih (fun b hb => h b (List.mem_cons_of_mem _ hb)) _).trans (h a List.mem_cons_self w)

theorem laneFrame_modSliceW (w : Warp) (i : Nat) (f : Slice → Slice)
    (hf : i ∉ bitsOf 8 sl → ∀ x, SameSlice (f x) x ∧ (f x).queue = x.queue) : LaneFrame lanes sl (modSliceW w i f) w where
  rest := rfl
  gen _ _ := rfl
  outside j hj := by
    rcases sliceAt_modSliceW_or w i j f with h | ⟨rfl, h⟩
    · rw [h]
      exact ⟨.rfl, rfl⟩
    · rw [h]
      exact hf hj _

/-- A change of one slice; outside the gang it must leave all but latch entries and the like. -/
theorem laneStep_modSliceW (w : Warp) (i : Nat) (f : Slice → Slice)
    (hf : ∀ x, (f x).mode = x.mode ∧ (f x).active = x.active ∧ (NoneDue x → NoneDue (f x)))
    (hout : i ∉ bitsOf 8 sl → ∀ x, SameSlice (f x) x ∧ (f x).queue = x.queue) : LaneStep lanes sl (modSliceW w i f) w := by
  have hslice : ∀ j, (sliceAt (modSliceW w i f) j).mode = (sliceAt w j).mode ∧
      (sliceAt (modSliceW w i f) j).active = (sliceAt w j).active ∧
      (NoneDue (sliceAt w j) → NoneDue (sliceAt (modSliceW w i f) j)) := fun j => by
    rcases sliceAt_modSliceW_or w i j f with h | ⟨-, h⟩
    · rw [h]
      exact ⟨rfl, rfl, id⟩
    · rw [h]
      exact hf _
  exact ⟨laneFrame_modSliceW w i f hout, length_lmod _ _ _, fun j => (hslice j).1, fun j => (hslice j).2.1,
    fun j => (hslice j).2.2⟩

/-- A change of a slice that moves nothing but latch entries, gang number and time of issue. -/
theorem laneStep_latches (w : Warp) (i : Nat) (f : Slice → Slice)
    (hf : ∀ x, SameSlice (f x) x ∧ (f x).queue = x.queue ∧ (f x).warpQueue = x.warpQueue) :
    LaneStep lanes sl (modSliceW w i f) w := by
  refine laneStep_modSliceW w i f (fun x => ?_) fun _ x => ⟨(hf x).1, (hf x).2.1⟩
  obtain ⟨hsame, hq, hq'⟩ := hf x
  exact ⟨hsame.mode, hsame.active, fun h => ⟨hq ▸ h.queue, hq' ▸ h.warpQueue⟩⟩

theorem laneStep_gen (w : Warp) {l : Nat} (g : Word) (h : l ∈ lanes) :
    LaneStep lanes sl { w with gen := tput w.gen l g } w where
  rest := rfl
  gen _ hj := tget_tput_ne _ _ _ _ _ fun e => hj (e ▸ h)
  outside _ _ := ⟨.rfl, rfl⟩
  length := rfl
  mode _ := rfl
  active _ := rfl
  due _ := id

theorem laneStep_spec (w : Warp) (p : Option Speculation) : LaneStep lanes sl { w with spec := p } w :=
  ⟨⟨rfl, fun _ _ => rfl, fun _ _ => ⟨.rfl, rfl⟩⟩, rfl, fun _ => rfl, fun _ => rfl, fun _ => id⟩

theorem LaneStep.preds (h : LaneStep lanes sl v w) : v.preds = w.preds := by
  have hpreds := congrArg Warp.preds h.rest
  exact hpreds

/-- The lanes that take part are the same all through an issue (R115). -/
theorem LaneStep.guarded (h : LaneStep lanes sl v w) (i : Nat) : guarded v i = guarded w i := by
  unfold Machine.guarded guardTrue predOf predByte
  simp only [h.mode, h.active, h.preds]

theorem LaneStep.gangLanes (h : LaneStep lanes sl v w) (m : BitVec 8) : gangLanes v m = gangLanes w m := by
  unfold Machine.gangLanes
  simp only [h.guarded]

theorem mem_gangLanes {i j : Nat} (hi : i ∈ bitsOf 8 sl) (hj : (guarded w i).getLsbD j = true) :
    4 * i + j ∈ gangLanes w sl :=
  List.mem_flatMap.2 ⟨i, hi, List.mem_map.2 ⟨j, mem_bitsOf.2 ⟨BitVec.lt_of_getLsbD hj, hj⟩, rfl⟩⟩

/-! ## The parts of an issue -/

theorem laneStep_ageLatches (w : Warp) : LaneStep lanes sl (ageLatches w sl) w := by
  rw [ageLatches_eq]
  refine laneStep_foldl _ _ (fun i _ v => ?_) w
  rw [modSliceW_twice]
  refine laneStep_latches v i _ fun x => ?_
  exact ⟨by constructor <;> rfl, rfl, rfl⟩

theorem laneStep_regroup (w : Warp) (m : BitVec 8) : LaneStep lanes sl (regroup w m) w := by
  refine laneStep_foldl _ _ (fun i _ v => ?_) w
  refine laneStep_latches v i _ fun x => ?_
  exact ⟨by constructor <;> rfl, rfl, rfl⟩

theorem laneStep_hold (n : Nat) (held : List (Nat × List Word)) (w : Warp) :
    LaneStep lanes sl (held.foldl (fun w p => modSliceW w p.1 fun x =>
      { x with latches := lmod x.latches n fun _ => ⟨p.2, 2⟩ }) w) w := by
  refine laneStep_foldl _ _ (fun p _ v => ?_) w
  refine laneStep_latches v p.1 _ fun x => ?_
  exact ⟨by constructor <;> rfl, rfl, rfl⟩

theorem laneStep_pushResult (w : Warp) {i lat : Nat} (hi : i ∈ bitsOf 8 sl) (hlat : 1 < lat) (d : Dest) (mask : BitVec 4)
    (vals : List Word) (fl : BitVec 6) : LaneStep lanes sl (pushResult w i d mask vals fl lat) w := by
  refine laneStep_modSliceW w i _ (fun x => ⟨rfl, rfl, fun h => ⟨fun r hr => ?_, h.warpQueue⟩⟩) fun hi' => absurd hi hi'
  rcases List.mem_append.1 hr with hr | hr
  · exact h.queue r hr
  · rw [List.mem_singleton.1 hr]
    exact hlat

/-- An issue cycle at the end of an instruction, in which no result is due, moves the gang's queues alone. -/
theorem laneFrame_tickOnce (hlen : w.slices.length = 8) (h : ∀ j ∈ bitsOf 8 sl, NoneDue (sliceAt w j)) :
    LaneFrame lanes sl (tickGang w sl 1) w := by
  have hfold : ∀ (l : List Nat) (v : Warp), v.slices.length = 8 → l.Nodup →
      (∀ i ∈ l, i ∈ bitsOf 8 sl ∧ NoneDue (sliceAt v i)) → LaneFrame lanes sl (l.foldl tickSlice v) v := fun l => by
    induction l with
    | nil => exact fun _ _ _ _ => .rfl
    | cons i l ih =>
      intro v hv hnodup hl
      obtain ⟨hi, hdue⟩ := hl i List.mem_cons_self
      obtain ⟨hnot, hnodup⟩ := List.nodup_cons.1 hnodup
      have hfirst : LaneFrame lanes sl (tickSlice v i) v := by
        rw [tickSlice_of_noneDue (hv ▸ (mem_bitsOf.1 hi).1) hdue]
        exact laneFrame_modSliceW v i _ fun hi' => absurd hi hi'
      refine (ih (tickSlice v i) ((length_tickSlice v i).trans hv) hnodup fun j hj => ?_).trans hfirst
      obtain ⟨hj8, hjdue⟩ := hl j (List.mem_cons_of_mem _ hj)
      rw [sliceAt_tickSlice_ne v i j fun e => hnot (e ▸ hj)]
      exact ⟨hj8, hjdue⟩
  exact hfold _ w hlen (nodup_bitsOf 8 sl) fun i hi => ⟨hi, h i hi⟩

end

/-! ## What a lane instruction may change of the device -/

/-- State `t` is `s` but for warp `k`, which has changed as `R` says, the count of free values and requests for register
space. -/
structure Framed (k : Nat) (R : Warp → Warp → Prop) (t s : State) : Prop where
  rest : { t with warps := s.warps, cores := s.cores, free := s.free } = s
  cores : ∀ c, { coreAt t c with grants := (coreAt s c).grants } = coreAt s c
  others : ∀ j, j ≠ k → tfind t.warps j = tfind s.warps j
  warp : ∀ w, tfind s.warps k = some w → ∃ v, tfind t.warps k = some v ∧ R v w

section

variable {k : Nat} {lanes : List Nat} {sl : BitVec 8} {s t u : State}

theorem Framed.comp {P Q R : Warp → Warp → Prop} (h : Framed k P u t) (g : Framed k Q t s)
    (hR : ∀ x y z, P x y → Q y z → R x z) : Framed k R u s where
  rest := (congrArg (fun x : State => { x with warps := s.warps, cores := s.cores, free := s.free }) h.rest).trans g.rest
  cores c := (congrArg (fun x : Core => { x with grants := (coreAt s c).grants }) (h.cores c)).trans (g.cores c)
  others j hj := (h.others j hj).trans (g.others j hj)
  warp w hw := by
    obtain ⟨v, hv, hvw⟩ := g.warp w hw
    obtain ⟨x, hx, hxv⟩ := h.warp v hv
    exact ⟨x, hx, hR x v w hxv hvw⟩

theorem Framed.rfl : Framed k (LaneStep lanes sl) s s :=
  ⟨Eq.refl _, fun _ => Eq.refl _, fun _ _ => Eq.refl _, fun w hw => ⟨w, hw, .rfl⟩⟩

theorem Framed.trans (h : Framed k (LaneStep lanes sl) u t) (g : Framed k (LaneStep lanes sl) t s) :
    Framed k (LaneStep lanes sl) u s := h.comp g fun _ _ _ => LaneStep.trans

theorem framed_modWarp {R : Warp → Warp → Prop} {f : Warp → Warp} (h : ∀ w, tfind s.warps k = some w → R (f w) w) :
    Framed k R (modWarp s k f) s where
  rest := rfl
  cores _ := rfl
  others _ hj := tfind_tmod_ne _ _ _ _ hj
  warp w hw := ⟨f w, tfind_modWarp f hw, h w hw⟩

theorem framed_free (n : Nat) : Framed k (LaneStep lanes sl) { s with free := n } s :=
  ⟨rfl, fun _ => rfl, fun _ _ => rfl, fun w hw => ⟨w, hw, .rfl⟩⟩

theorem framed_foldl {α : Type} (g : State → α → State) (l : List α)
    (h : ∀ a ∈ l, ∀ s, Framed k (LaneStep lanes sl) (g s a) s) (s : State) :
    Framed k (LaneStep lanes sl) (l.foldl g s) s := by
  induction l generalizing s with
  | nil => exact .rfl
  | cons a l ih => exact (ih (fun b hb => h b (List.mem_cons_of_mem _ hb)) _).trans (h a List.mem_cons_self s)

/-- A change of the gang's own slices that keeps modes, masks and queues. -/
theorem framed_modGang (f : Slice → Slice) (hf : ∀ x, (f x).mode = x.mode ∧ (f x).active = x.active ∧
    (f x).queue = x.queue ∧ (f x).warpQueue = x.warpQueue) : Framed k (LaneStep lanes sl) (modGang s k sl f) s := by
  refine framed_foldl _ _ (fun i hi s => framed_modWarp fun w _ => ?_) s
  refine laneStep_modSliceW w i f (fun x => ?_) fun hi' => absurd hi hi'
  obtain ⟨hmode, hactive, hq, hq'⟩ := hf x
  exact ⟨hmode, hactive, fun h => ⟨hq ▸ h.queue, hq' ▸ h.warpQueue⟩⟩

/-- R112: the free values of a latch entry without one. -/
theorem framed_freshenLatch (i f : Nat) : Framed k (LaneStep lanes sl) (freshenLatch s k i f) s := by
  unfold freshenLatch
  split
  · exact .rfl
  · exact (framed_free _).trans (framed_modWarp fun w _ =>
      laneStep_latches w i _ fun x => ⟨by constructor <;> rfl, rfl, rfl⟩)

theorem framed_freshenAll (f : Nat) : Framed k (LaneStep lanes sl) (freshenAll s k f) s :=
  framed_foldl _ _ (fun i _ _ => framed_freshenLatch i f) s

/-- R157: requests for register space that are no longer waited for. -/
theorem framed_dropRequests (c : Nat) (f : GrantRequest → Bool) :
    Framed k (LaneStep lanes sl) (dropRequests s c f) s := by
  unfold dropRequests
  split
  · exact .rfl
  · refine ⟨rfl, fun c' => ?_, fun _ _ => rfl, fun w hw => ⟨w, hw, .rfl⟩⟩
    unfold coreAt
    by_cases hc : c' = c
    · subst hc
      simp only [modCore_cores, tget_tput_same]
    · simp only [modCore_cores, tget_tput_ne _ _ _ _ _ hc]

/-! ## The read cycle of a warp without a template -/

theorem copiedGranules_of_no_image {w : Warp} (h : w.image = none) (s : State) (regs : List Nat) :
    copiedGranules s w regs = [] := by
  have hbacked : ∀ n, backed s w n = false := fun n => by simp only [backed, imageOf, h, Option.bind_none]
  simp [copiedGranules, hbacked]

theorem framed_tickGang_of_quiet {w : Warp} (h : tfind s.warps k = some w) (hlen : w.slices.length = 8)
    (hquiet : quiet w sl) (n : Nat) : Framed k (LaneStep lanes sl) (modWarp s k fun x => tickGang x sl n) s := by
  refine framed_modWarp fun x hx => ?_
  obtain rfl : w = x := Option.some.inj (h.symm.trans hx)
  rw [tickGang_of_quiet hlen hquiet]
  exact .rfl

/-- A gang in whose queues nothing waits, of a warp without a template: its read cycle fills latch entries and makes its
slices ready. -/
theorem framed_readAt {f : Form} {w : Warp} (h : Issues f s k sl w) (hdrains : f.drains = false) (himage : w.image = none)
    (hquiet : quiet w sl) : Framed k (LaneStep lanes sl) (Claims.readAt f s k sl w) s := by
  have hgrant : Framed k (LaneStep lanes sl) (grantFor f s k sl w).2 s ∧
      tfind (grantFor f s k sl w).2.warps k = some w := by
    unfold grantFor
    rw [copiedGranules_of_no_image himage]
    exact ⟨framed_dropRequests _ _, (congrArg (tfind · k) (warps_dropRequests _ _ _)).trans h.warp⟩
  obtain ⟨hgrant, hwarp⟩ := hgrant
  unfold Claims.readAt
  generalize (grantFor f s k sl w).2 = s0 at hgrant hwarp
  refine Framed.trans ?_ hgrant
  unfold readCycle
  rw [copiedGranules_of_no_image himage, hdrains]
  simp only [List.foldl_nil, List.length_nil, Nat.mul_zero, Nat.add_zero, Bool.false_eq_true, if_false]
  refine Framed.trans ?_ (framed_tickGang_of_quiet hwarp h.slices hquiet (extraCycles f w sl))
  generalize modWarp s0 k _ = s3
  have hfresh : Framed k (LaneStep lanes sl)
      ((bitsOf 8 sl).foldl (fun s i => f.reads.foldl (fun s r => freshenLatch s k i r) s) s3) s3 :=
    framed_foldl _ _ (fun i _ s => framed_foldl _ _ (fun r _ _ => framed_freshenLatch i r) s) s3
  refine Framed.trans (framed_modGang _ fun x => ⟨rfl, rfl, rfl, rfl⟩) ?_
  split
  · exact hfresh
  · exact (framed_modWarp fun x _ => laneStep_spec x _).trans hfresh

/-! ## The results of lanes, and the end of an instruction -/

/-- R133, R173: queueing results of latency 2 or more moves the generators of lanes that have drawn. -/
theorem framed_queueLanes {w : Warp} {dest : Dest} {lat : Nat} {mask : Warp → Nat → BitVec 4} {f : Nat → LaneResult}
    (h : tfind s.warps k = some w) (hlat : 1 < lat)
    (hgen : ∀ i ∈ bitsOf 8 sl, ∀ j, (mask w i).getLsbD j = true → 4 * i + j ∈ lanes ∨ (f (4 * i + j)).gen = none) :
    Framed k (LaneStep lanes sl) (queueLanes s k sl dest lat mask f) s := by
  refine framed_modWarp fun v _ => ?_
  rw [warpAt_of_tfind h]
  refine laneStep_foldl _ _ (fun i hi v => ?_) v
  refine LaneStep.trans (laneStep_foldl _ _ (fun p hp v => ?_) _) (laneStep_pushResult v hi hlat _ _ _ _)
  rw [← List.map_prod_left_eq_zip] at hp
  obtain ⟨j, -, rfl⟩ := List.mem_map.1 hp
  split
  · rename_i g hdrawn
    by_cases hm : (mask w i).getLsbD j = true
    · simp only [hm, if_true] at hdrawn
      exact laneStep_gen v g ((hgen i hi j hm).resolve_right fun hnone => by simp [hnone] at hdrawn)
    · simp [hm] at hdrawn
  · exact .rfl

/-- R107, R132: an instruction ends without writing a result where none of its gang's results is due. -/
theorem framed_finishIssue {f : Form} {w : Warp} (held : List (Nat × List Word)) (h : tfind s.warps k = some w)
    (hlen : w.slices.length = 8) (hdue : ∀ j ∈ bitsOf 8 sl, NoneDue (sliceAt w j)) :
    Framed k (LaneFrame lanes sl) (finishIssue f s k sl held) s := by
  unfold finishIssue stampIssue
  refine Framed.comp (framed_modGang (lanes := lanes) _ fun x => ⟨rfl, rfl, rfl, rfl⟩)
    (framed_modWarp (R := LaneFrame lanes sl) fun x hx => ?_) fun _ _ _ h g => h.toLaneFrame.trans g
  obtain rfl : w = x := Option.some.inj (h.symm.trans hx)
  have hhold : LaneStep lanes sl (held.foldl (fun w p => modSliceW w p.1 fun x =>
      { x with latches := lmod x.latches (f.hold - 1) fun _ => ⟨p.2, 2⟩ }) (ageLatches w sl)) w :=
    (laneStep_hold _ _ _).trans (laneStep_ageLatches w)
  exact (laneStep_spec _ _).toLaneFrame.trans ((laneStep_regroup _ _).toLaneFrame.trans
    ((laneFrame_tickOnce (hhold.length.trans hlen) fun j hj => hhold.due j (hdue j hj)).trans hhold.toLaneFrame))

end

end Sys2Proof.Machine

namespace Sys2Proof.Claims

open Sys2Proof.Machine

/-! ## Lane instructions -/

/-- An effect that moves only the gang's queues, generators of its active lanes and latch entries. -/
def LaneEffect (eff : State → Nat → BitVec 8 → State) : Prop :=
  ∀ s k sl w, tfind s.warps k = some w → Framed k (LaneStep (gangLanes w sl) sl) (eff s k sl) s

/-- A meaning that issues an instruction of form `f` with such an effect, which then passes on (R173). -/
structure LaneOp (m : State → Out) (f : Form) : Prop where
  drains : f.drains = false
  issues : ∃ eff, LaneEffect eff ∧ ∀ s, m s = issue f (passing eff) s

/-- An instruction that queues results in the active lanes of its gang. -/
theorem laneOp_of_queueLanes {m : State → Out} {f : Form} {dest : State → Nat → BitVec 8 → Dest} {lat : Nat}
    {res : State → Nat → BitVec 8 → Nat → LaneResult} (hdrains : f.drains = false) (hlat : 1 < lat)
    (hm : ∀ s, m s = issue f (passing fun s k sl => queueLanes s k sl (dest s k sl) lat guarded (res s k sl)) s) :
    LaneOp m f :=
  ⟨hdrains, _, fun _ _ _ _ hw => framed_queueLanes hw hlat fun _ hi _ hj => .inl (mem_gangLanes hi hj), hm⟩

/-- R203: latch entries of every slice are filled before lanes of other slices are read. -/
theorem permute_laneOp {h : BitVec 2} {d a : BitVec 7} {b : Src} {lane : State → Warp → BitVec 8 → Nat → Nat} :
    LaneOp (permute h d a b lane) { formAB h a b with writes := [d.toNat], past := true, far := namedLanes a lane } := by
  refine ⟨rfl, _, fun s k sl w hw => ?_, fun _ => rfl⟩
  have hfresh : Framed k (LaneStep (gangLanes w sl) sl) (freshenAll s k a.toNat) s := framed_freshenAll _
  obtain ⟨v, hv, hvw⟩ := hfresh.warp w hw
  refine (framed_queueLanes hv (by decide) fun i hi j hj => .inl ?_).trans hfresh
  rw [← hvw.gangLanes]
  exact mem_gangLanes hi hj

/-- R99, R208: a reduction draws from the generator of its lowest active lane. -/
theorem reduceOp_laneOp {h : BitVec 2} {d a : BitVec 7} {o : Nat}
    {run : Nat → Word → List Word → Word → List Word × BitVec 6 × Word} :
    LaneOp (reduceOp h d a o run)
      { formAB h a (.imm 0) with writes := [d.toNat], past := true, accepts := acceptsReduce o } := by
  refine ⟨rfl, _, fun s k sl w hw => ?_, fun _ => rfl⟩
  dsimp only
  rw [warpAt_of_tfind hw]
  split
  · exact framed_queueLanes hw (by decide) fun _ _ _ _ => .inr rfl
  · rename_i hpart
    obtain ⟨l, rest, hl⟩ := List.exists_cons_of_ne_nil (mt List.isEmpty_iff.2 hpart)
    refine (framed_modWarp fun x _ => laneStep_gen x _ ?_).trans
      (framed_queueLanes hw (by decide) fun _ _ _ _ => .inr rfl)
    rw [hl]
    exact List.mem_cons_self

/-- R184: SEL draws from no generator, in whatever lane of the active mask. -/
theorem execSel_laneOp {h : BitVec 2} {d a b : BitVec 7} :
    LaneOp (execSel h d a b) { formAB h a (.reg b.toNat) with writes := [d.toNat], past := true } :=
  ⟨rfl, _, fun _ _ _ _ hw => framed_queueLanes hw (by decide) fun _ _ _ _ => .inr rfl, fun _ => rfl⟩

theorem execVvote_laneOp {v : BitVec 4} {d p : BitVec 3} : LaneOp (execVvote v d p) { past := true } := by
  unfold execVvote
  exact laneOp_of_queueLanes rfl (by decide) fun _ => rfl

theorem execVred_laneOp {h : BitVec 2} {d a : BitVec 7} {o : BitVec 3} : LaneOp (execVred h d a o)
    { formAB h a (.imm 0) with writes := [d.toNat], past := true, accepts := acceptsReduce o.toNat } := by
  unfold execVred
  exact reduceOp_laneOp

theorem execVscan_laneOp {h : BitVec 2} {d a : BitVec 7} {e : BitVec 1} {o : BitVec 3} : LaneOp (execVscan h d a e o)
    { formAB h a (.imm 0) with writes := [d.toNat], past := true, accepts := acceptsReduce o.toNat } := by
  unfold execVscan
  exact reduceOp_laneOp

theorem IntegerRow.laneOp {i : Instr} {row : LaneRow} (h : IntegerRow i row) : LaneOp (exec i) row.form := by
  cases h <;> exact laneOp_of_queueLanes rfl (by decide) fun _ => rfl

theorem LogicRow.laneOp {i : Instr} {row : LaneRow} (h : LogicRow i row) : LaneOp (exec i) row.form := by
  cases h <;> exact laneOp_of_queueLanes rfl (by decide) fun _ => rfl

theorem PredicateRow.laneOp {i : Instr} {row : LaneRow} (h : PredicateRow i row) : LaneOp (exec i) row.form := by
  cases h <;> exact laneOp_of_queueLanes rfl (by decide) fun _ => rfl

theorem MovementRow.laneOp {i : Instr} {row : LaneRow} (h : MovementRow i row) : LaneOp (exec i) row.form := by
  cases h with
  | sel => exact execSel_laneOp
  | mov | movi | movh => exact laneOp_of_queueLanes rfl (by decide) fun _ => rfl

theorem FloatRow.laneOp {i : Instr} {row : LaneRow} (h : FloatRow i row) : LaneOp (exec i) row.form := by
  cases h <;> exact laneOp_of_queueLanes rfl (by decide) fun _ => rfl

theorem FloatCompareRow.laneOp {i : Instr} {row : LaneRow} (h : FloatCompareRow i row) : LaneOp (exec i) row.form := by
  cases h <;> exact laneOp_of_queueLanes rfl (by decide) fun _ => rfl

theorem TranscendentalRow.laneOp {i : Instr} {row : LaneRow} (h : TranscendentalRow i row) :
    LaneOp (exec i) row.form := by
  cases h <;> exact laneOp_of_queueLanes rfl (by decide) fun _ => rfl

theorem ConversionRow.laneOp {i : Instr} {row : LaneRow} (h : ConversionRow i row) : LaneOp (exec i) row.form := by
  cases h <;> exact laneOp_of_queueLanes rfl (by decide) fun _ => rfl

theorem PermuteRow.laneOp {i : Instr} {row : LaneRow} (h : PermuteRow i row) : LaneOp (exec i) row.form := by
  cases h with
  | vperm | vshfl | vbfx | vbcast => exact permute_laneOp
  | vbal => exact laneOp_of_queueLanes rfl (by decide) fun _ => rfl
  | vvote => exact execVvote_laneOp
  | vred => exact execVred_laneOp
  | vscan => exact execVscan_laneOp

theorem AnyLaneRow.laneOp {i : Instr} {row : LaneRow} (h : AnyLaneRow i row) : LaneOp (exec i) row.form := by
  rcases h with h | h | h | h | h | h | h | h | h <;> exact h.laneOp

/-- A lane instruction that issues at once in a gang with empty result queues, of a warp with no template. -/
theorem LaneOp.framed {i : Instr} {f : Form} {s : State} {k : Nat} {sl : BitVec 8} {w : Warp} (hop : LaneOp (exec i) f)
    (h : Issues f s k sl w) (himage : w.image = none) (hquiet : quiet w sl) :
    ∃ t, exec i s = .next t ∧ Framed k (LaneFrame (gangLanes w sl) sl) t s := by
  obtain ⟨eff, heff, hex⟩ := hop.issues
  have hread : Framed k (LaneStep (gangLanes w sl) sl) (readAt f s k sl w) s :=
    framed_readAt h hop.drains himage hquiet
  obtain ⟨v, hv, hvw⟩ := hread.warp w h.warp
  have heffect := heff (readAt f s k sl w) k sl v hv
  rw [hvw.gangLanes] at heffect
  have hpassed : Framed k (LaneStep (gangLanes w sl) sl)
      (modGang (eff (readAt f s k sl w) k sl) k sl Slice.advance) s :=
    (framed_modGang Slice.advance fun _ => ⟨rfl, rfl, rfl, rfl⟩).trans (heffect.trans hread)
  obtain ⟨x, hx, hxw⟩ := hpassed.warp w h.warp
  have hnone : ∀ j ∈ bitsOf 8 sl, NoneDue (sliceAt w j) := fun j hj => noneDue_of_empty (hquiet j hj).1 (hquiet j hj).2
  refine ⟨_, (hex s).trans (issue_done h.issuer h.warp h.fence h.accepted h.inRange h.clear h.room h.granted rfl), ?_⟩
  exact (framed_finishIssue _ hx (hxw.length.trans h.slices) fun j hj => hxw.due j (hnone j hj)).comp hpassed
    fun _ _ _ hend hstep => hend.trans hstep.toLaneFrame

/-- Settles O8: every part of the issue of a lane instruction keeps the frame. -/
theorem laneInstructionsChangeNothingElse : Obligations.LaneInstructionsChangeNothingElse := by
  intro i row hrow s k sl w h himage hquiet
  obtain ⟨t, ht, hframe⟩ := hrow.laneOp.framed h himage hquiet
  obtain ⟨v, hv, hvw⟩ := hframe.warp w h.warp
  exact ⟨t, v, ht, hframe.rest, hframe.cores, hframe.others, hv, hvw.rest, hvw.gen, fun j _ hj => hvw.outside j hj⟩

end Sys2Proof.Claims
end

section
/-!
PROOFS. A word that a decoder accepts is the word of the instruction it reads (R105, R118, R120, R338, R353).
-/

namespace Sys2Proof.Machine

open Sys2Proof.Claims

theorem toNat_fld (n w lo : Nat) : (fld n w lo).toNat = w / 2 ^ lo % 2 ^ n := BitVec.toNat_ofNat ..

/-! ## A word as the sum of its fields -/

/-- `x` is word `w` without its bits from `L` to `K`, both powers of two. -/
def Covers (L K w x : Nat) : Prop := w / K * K + w % L = x

namespace Covers

variable {L K N n lo w x : Nat}

theorem eq (h : Covers K K w x) : x = w := by rw [← h, Nat.div_add_mod']

/-- The bits that a field of `w` adds. -/
theorem field (h : Covers L (K * 2 ^ n) w x) (hK : K = 2 ^ lo) : Covers L K w (x + (fld n w lo).toNat * K) := by
  unfold Covers at h ⊢
  rw [← h, toNat_fld, ← hK, ← Nat.div_div_eq_div_mul, Nat.add_right_comm, Nat.mul_comm K, ← Nat.mul_assoc,
    ← Nat.add_mul, Nat.div_add_mod']

theorem field_zero (h : Covers L (2 ^ n) w x) : Covers L 1 w (x + (fld n w 0).toNat) := by
  have h := field (K := 1) (n := n) (lo := 0) (by rwa [Nat.one_mul]) rfl
  rwa [Nat.mul_one] at h

/-- Reserved bits, which are zero, add nothing. -/
theorem reserved (h : Covers L N w x) (hN : N / K * K = N) (hz : w / K % (N / K) = 0) : Covers L K w x := by
  unfold Covers at h ⊢
  rw [← h, ← Nat.div_add_mod' (w / K) (N / K), hz, Nat.add_zero, Nat.div_div_eq_div_mul, Nat.mul_comm K, hN,
    Nat.mul_assoc, hN]

end Covers

/-- The word of a row without fields. -/
theorem eq_of_opcode {w o x : Nat} (hx : o * 16777216 = x) (ho : w / 16777216 = o) (hf : w / 2 ^ 0 % 2 ^ 24 = 0) :
    x = w := by
  omega

theorem opcode_eq {w n m : Nat} (hn : w / 268435456 = n) (hm : w / 16777216 % 16 = m) : w / 16777216 = n * 16 + m := by
  omega

/-- Whatever instruction a decoder answers with for word `w` is well-formed and has that word. -/
def Reads (w : Nat) (e : Except Reject Instr) : Prop := ∀ i, e = .ok i → i.wellFormed = true ∧ encode i = w

namespace Reads

variable {w o : Nat} {f : List (Nat × Nat × Nat)} {i : Instr} {e : Except Reject Instr}

theorem error (r : Reject) : Reads w (.error r) := fun _ h => by cases h

theorem rowOr_of (h : fixed w f = true → encode i = w) (he : Reads w e) : Reads w (rowOr w f i e) := by
  unfold Sys2Proof.rowOr
  split
  · rename_i hf
    split
    · rename_i hwf
      rintro _ ⟨⟩
      exact ⟨hwf, h hf⟩
    · exact error _
  · exact he

/-- A row of opcode `o`: its fields, taken from the lowest on, and its reserved bits make up the word. -/
theorem rowOr (he : Reads w e) (ho : w / 16777216 = o)
    (h : w / 16777216 = o → fixed w f = true → encode i = w := by
      intro ho hf
      clear * - ho hf
      simp only [fixed, Bool.and_true, Bool.and_eq_true, decide_eq_true_eq] at hf
      first
        | refine Covers.eq (.field_zero ?_)
        | refine Covers.eq (.field ?_ rfl)
        | exact eq_of_opcode rfl ho hf
      all_goals
        repeat
          first
            | with_reducible refine .field ?_ rfl
            | with_reducible refine .reserved (.field ?_ rfl) rfl (by omega)
        unfold Covers
        omega) : Reads w (rowOr w f i e) :=
  rowOr_of (h ho) he

end Reads

theorem row_eq (w : Nat) (f : List (Nat × Nat × Nat)) (i : Instr) :
    row w f i = rowOr w f i (.error .reservedField) := rfl

/-! ## The rows of each opcode page (R118) -/

/-- What the decoder of page `n`, the upper digit of the opcode, answers with. -/
def PageReads (n : Nat) (ops : Nat → Except Reject Instr) : Prop := ∀ w, w / 268435456 = n → Reads w (ops w)

/-- A page's decoder chooses a row by the opcode's lower digit, and further rows of that opcode by reserved bits. -/
theorem PageReads.of_rows {n : Nat} {ops : Nat → Except Reject Instr} (h : PageReads n ops := by
    intro w hop
    simp only [ops0, ops1, ops2, ops3, ops4, ops5, ops7, ops8, ops9, opsA, opsB, opsC, opsD, opsE, opsF, row_eq]
    split
    all_goals repeat' first
      | exact Reads.error _
      | refine Reads.rowOr ?_ (opcode_eq hop ‹_›)) : PageReads n ops := h

theorem ops0_reads : PageReads 0 ops0 := .of_rows

theorem ops1_reads : PageReads 1 ops1 := .of_rows

theorem ops2_reads : PageReads 2 ops2 := .of_rows

theorem ops3_reads : PageReads 3 ops3 := .of_rows

theorem ops4_reads : PageReads 4 ops4 := .of_rows

theorem ops5_reads : PageReads 5 ops5 := .of_rows

theorem ops7_reads : PageReads 7 ops7 := .of_rows

theorem ops8_reads : PageReads 8 ops8 := .of_rows

theorem ops9_reads : PageReads 9 ops9 := .of_rows

theorem opsA_reads : PageReads 10 opsA := .of_rows

theorem opsB_reads : PageReads 11 opsB := .of_rows

theorem opsC_reads : PageReads 12 opsC := .of_rows

theorem opsD_reads : PageReads 13 opsD := .of_rows

theorem opsE_reads : PageReads 14 opsE := .of_rows

theorem opsF_reads : PageReads 15 opsF := .of_rows

section

variable {w : Nat}

theorem decodeCore_reads (hw : w < 2 ^ 32) : Reads w (decodeCore w) := by
  have hlt : w / 268435456 < 16 := by omega
  unfold decodeCore
  rw [Nat.mod_eq_of_lt hlt]
  split
  · exact ops0_reads w ‹_›
  · exact ops1_reads w ‹_›
  · exact ops2_reads w ‹_›
  · exact ops3_reads w ‹_›
  · exact ops4_reads w ‹_›
  · exact ops5_reads w ‹_›
  · exact ops7_reads w ‹_›
  · exact ops8_reads w ‹_›
  · exact ops9_reads w ‹_›
  · exact opsA_reads w ‹_›
  · exact opsB_reads w ‹_›
  · exact opsC_reads w ‹_›
  · exact opsD_reads w ‹_›
  · exact opsE_reads w ‹_›
  · exact opsF_reads w ‹_›
  · exact .error _

/-! ## Access processors -/

theorem custom1_reads (hw : w < 2 ^ 32) (hop : w % 128 = 0x2B) : Reads w (custom1 w) := by
  simp only [custom1, row_eq]
  split
  case h_8 => exact .error _
  all_goals
    refine .rowOr_of (fun hf => ?_) (.error _)
    simp only [fixed, Bool.and_true, Bool.and_eq_true, decide_eq_true_eq] at hf
  case h_5 => exact (by omega : 0x0000402B = w)
  case h_6 => exact (by omega : 0x0000502B = w)
  all_goals
    refine Eq.trans (b := _ + _) rfl ?_
    simp only [toNat_fld]
    omega

theorem custom2_reads (hw : w < 2 ^ 32) (hop : w % 128 = 0x5B) : Reads w (custom2 w) := by
  simp only [custom2, row_eq]
  split
  case h_7 => exact .error _
  all_goals
    refine .rowOr_of (fun hf => ?_) (.error _)
    simp only [fixed, Bool.and_true, Bool.and_eq_true, decide_eq_true_eq] at hf
    refine Eq.trans (b := _ + _) rfl ?_
    simp only [toNat_fld]
    omega

theorem decodeAp_reads (hw : w < 2 ^ 32) : Reads w (decodeAp w) := by
  have hself : (BitVec.ofNat 32 w).toNat = w := Nat.mod_eq_of_lt hw
  simp only [decodeAp, row_eq]
  split
  · exact custom1_reads hw ‹_›
  · exact custom2_reads hw ‹_›
  · split
    · rename_i hcall
      rintro _ ⟨⟩
      refine ⟨decide_eq_true ?_, hself⟩
      rcases hcall with rfl | rfl
      · exact .inl rfl
      · exact .inr rfl
    · exact .error _
  · exact .rowOr_of (fun _ => hself) (.error _)

end

/-- Settles O55: a row's fields and reserved bits make up the whole word. -/
theorem decodedInstructionsHaveTheirWord : Obligations.DecodedInstructionsHaveTheirWord := by
  refine ⟨fun w i hw hi => ?_, fun w i hw hi => ?_⟩
  · exact ⟨decodeCore_decodes w i hi, decodeCore_reads hw i hi⟩
  · exact ⟨decodeAp_decodes w i hi, decodeAp_reads hw i hi⟩

end Sys2Proof.Machine
end

section
/-!
PROOFS. The word of a well-formed instruction decodes to it (R105, R110, R118, R120, R338, R353).
-/

namespace Sys2Proof.Machine

open Sys2Proof.Claims Sys2Proof.WellFormed

/-! ## Reading the bits of a sum of fields -/

section

variable {m K L N x : Nat} (v : BitVec m)

/-- Bits below a field. -/
theorem read_below (hK : L * N ∣ K) : (x + v.toNat * K) / L % N = x / L % N := by
  obtain ⟨q, rfl⟩ := hK
  rcases Nat.eq_zero_or_pos L with rfl | hL
  · rw [Nat.div_zero, Nat.div_zero]
  · rw [Nat.mul_assoc, Nat.mul_left_comm, Nat.add_mul_div_left _ _ hL, Nat.mul_left_comm, Nat.add_mul_mod_self_left]

theorem read_lowest (hK : N ∣ K) : (x + v.toNat * K) % N = x % N := by
  obtain ⟨q, rfl⟩ := hK
  rw [Nat.mul_left_comm, Nat.add_mul_mod_self_left]

/-- A field, where no other has a bit. -/
theorem read_same (hK : 0 < K) (hN : N = 2 ^ m) (hx : x / K % N = 0) : (x + v.toNat * K) / K % N = v.toNat := by
  rw [Nat.add_mul_div_right _ _ hK, Nat.add_mod, hx, Nat.zero_add, Nat.mod_mod, hN, Nat.mod_eq_of_lt v.isLt]

/-- Bits above a field. -/
theorem read_above (hK : 0 < K) (hL : K * 2 ^ m ∣ L) (hx : x / K % 2 ^ m = 0) : (x + v.toNat * K) / L = x / L := by
  obtain ⟨q, rfl⟩ := hL
  obtain ⟨y, hy⟩ := Nat.dvd_of_mod_eq_zero hx
  have hpos : 0 < 2 ^ m := Nat.two_pow_pos m
  rw [← Nat.div_div_eq_div_mul, ← Nat.div_div_eq_div_mul, ← Nat.div_div_eq_div_mul, ← Nat.div_div_eq_div_mul,
    Nat.add_mul_div_right _ _ hK, hy, Nat.mul_add_div hpos, Nat.div_eq_of_lt v.isLt, Nat.add_zero,
    Nat.mul_div_cancel_left _ hpos]

theorem read_same_zero (hN : N = 2 ^ m) (hx : x / 1 % N = 0) : (x + v.toNat) / 1 % N = v.toNat := by
  have h := read_same v Nat.one_pos hN hx
  rwa [Nat.mul_one] at h

theorem read_above_zero (hL : 2 ^ m ∣ L) (hx : x / 1 % 2 ^ m = 0) : (x + v.toNat) / L = x / L := by
  have h := read_above (L := L) v Nat.one_pos (by rwa [Nat.one_mul]) hx
  rwa [Nat.mul_one] at h

end

theorem fld_eq (n w lo : Nat) : fld n w lo = BitVec.ofNat n (w / 2 ^ lo % 2 ^ n) :=
  BitVec.eq_of_toNat_eq (by rw [toNat_fld, BitVec.toNat_ofNat, Nat.mod_mod])

/-- The word of `i` fits 32 bits, and `decoder` reads `i` from it. -/
def Word32 (decoder : Nat → Except Reject Instr) (i : Instr) : Prop := encode i < 2 ^ 32 ∧ decoder (encode i) = .ok i

/-! ## Cores -/

section

variable {i : Instr} {x : Nat}

/-- A core's decoder finds the row of a sum of fields by its opcode and reserved bits, and reads each field back. -/
theorem coreWord_of_sum (hx : encode i = x) (hwf : i.wellFormed = true)
    (hfit : x / 4294967296 = 0 := by
      simp only [read_above, read_above_zero, read_below, Nat.reducePow, Nat.reduceMul, Nat.reduceDiv, Nat.reduceMod,
        Nat.reduceDvd, Nat.reduceLT])
    (hdec : i.wellFormed = true → ∀ y, y = x → decodeCore y = .ok i := by
      intro hwf y hy
      have hpage := congrArg (· / 268435456 % 16) hy
      have hop := congrArg (· / 16777216 % 16) hy
      simp only [read_above, read_above_zero, read_below, Nat.reducePow, Nat.reduceMul, Nat.reduceDiv, Nat.reduceMod,
        Nat.reduceDvd, Nat.reduceLT] at hpage hop
      simp only [decodeCore, hpage]
      simp only [ops0, ops1, ops2, ops3, ops4, ops5, ops7, ops8, ops9, opsA, opsB, opsC, opsD, opsE, opsF, hop]
      subst hy
      simp only [row, rowOr, fixed, fld_eq, read_below, read_same, read_above, read_same_zero, read_above_zero,
        BitVec.ofNat_toNat, BitVec.setWidth_eq, Nat.reducePow, Nat.reduceMul, Nat.reduceDiv, Nat.reduceMod,
        Nat.reduceDvd, Nat.reduceLT, Nat.reduceEqDiff, Nat.dvd_refl, decide_true, decide_false, decide_eq_true_eq,
        Bool.and_true, Bool.false_and, Bool.false_eq_true, if_true, if_false, *]) : Word32 decodeCore i := by
  subst hx
  exact ⟨by omega, hdec hwf _ rfl⟩

/-- R118: the parts of the opcode table, by the upper digit of the opcode; 5 for an instruction that is no core word. -/
def tablePart : Instr → Nat
  | .nop .. | .exit .. | .bra .. | .brc .. | .bri .. | .call .. | .calli .. | .ret .. | .mark .. | .join ..
  | .regang .. | .mode .. | .modei .. | .win .. | .wini .. | .rdsClockLo .. | .rds .. | .wrsWin .. | .wrsFlags ..
  | .wrsSrseed .. | .wrs .. | .freeze .. | .grow .. | .shrink .. | .donate .. | .rend .. | .bar .. | .bara ..
  | .waitc .. | .waitp .. | .yield .. | .sleep .. | .trap .. | .eret .. | .growReg .. | .shrinkReg .. | .barReg ..
  | .baraReg .. => 0
  | .iadd .. | .iaddi .. | .isub .. | .imul .. | .imulImm .. | .imulh .. | .imad .. | .imin .. | .iminImm ..
  | .imax .. | .imaxImm .. | .iabs .. | .and .. | .andImm .. | .or .. | .orImm .. | .xor .. | .xorImm .. | .andn ..
  | .not .. | .shl .. | .shlImm .. | .shr .. | .shrImm .. | .sar .. | .sarImm .. | .rot .. | .rotImm .. | .popc ..
  | .clz .. | .brev .. | .bfe .. | .bfi .. | .icmp .. | .icmpImm .. | .sel .. | .mov .. | .movi .. | .movh ..
  | .lea .. | .pand .. | .por .. | .pnot .. | .pmov .. | .pmovReg .. => 1
  | .fadd .. | .faddAbs .. | .fsub .. | .fsubAbs .. | .fmul .. | .fmulAbs .. | .ffma .. | .ffmaNp .. | .ffmaNd ..
  | .ffmaNn .. | .fmin .. | .fminNan .. | .fminAbs .. | .fmax .. | .fmaxNan .. | .fmaxAbs .. | .fcmp .. | .fcmpZ ..
  | .frcp .. | .frsq .. | .fsqrt .. | .fexp2 .. | .flog2 .. | .fsin .. | .fsinPi .. | .fcos .. | .fcosPi ..
  | .ftanh .. | .ffloor .. | .ffrac .. | .cvt .. | .cvtFi .. | .cvtIf .. | .cvtIi .. | .cvtb .. | .cvtbD ..
  | .cvts .. | .cbenc .. => 2
  | .vperm .. | .vshfl .. | .vbfx .. | .vbcast .. | .vred .. | .vscan .. | .vrdi .. | .vwri .. | .vbal ..
  | .vvote .. | .brec .. | .ld .. | .ldImm .. | .ldx .. | .ldxImm .. | .st .. | .stImm .. | .stx .. | .stxImm ..
  | .lda .. | .ldaImm .. | .stl .. | .stlImm .. | .ldc .. | .stc .. | .ldaCluster .. | .stlCluster .. | .acpy ..
  | .apln .. | .arrive .. | .fence .. | .publish .. | .publishVf .. | .pref .. | .prefImm .. | .cbld .. => 3
  | .atomGlobal .. | .atomCluster .. | .redGlobal .. | .redCluster .. | .atomfGlobal .. | .atomfCluster ..
  | .acasGlobal .. | .acasCluster .. | .atomp .. | .waitmGlobal .. | .waitmCluster .. | .atomD .. | .redD ..
  | .acasD .. | .bstr .. | .bstrImm .. | .bstg .. | .bchn .. | .btrn .. | .btrnW .. | .bdns .. | .bdrn .. | .btps ..
  | .btpsOne .. | .hcfg .. | .hlookRows .. | .hlookPlanes .. | .hgrad .. | .qpush .. | .qpushRt .. | .qpushN ..
  | .qpop .. | .qpopN .. | .qstat .. | .apgo .. | .apstop .. | .emit .. | .emitReg .. | .post .. | .postImm ..
  | .cacheopArm .. | .cacheopDisarm .. | .cacheopFlush .. | .cacheopEvict .. | .cacheopPackOn ..
  | .cacheopPackOff .. | .cacheopRangeFlush .. | .cacheopRangeEvict .. | .sysc .. | .syscReg .. => 4
  | _ => 5

theorem coreWord_of_sequencer (h : tablePart i = 0) (hwf : i.wellFormed = true) : Word32 decodeCore i := by
  cases i <;> cases h
  case rds.refl d s =>
    have hs : s.toNat ≠ 0x030 := ((decide_eq_true_iff).1 ((Bool.and_eq_true _ _).mp hwf).2).2
    have hrow : (0x0F000000 + d.toNat * 32768 + s.toNat * 8) / 1 % 32768 ≠ 384 := by omega
    exact coreWord_of_sum (x := _ + _) rfl hwf
  case wrs.refl d s =>
    have hs : s.toNat ∈ writable := decide_eq_true_iff.1 hwf
    simp only [writable, List.mem_cons, List.not_mem_nil, or_false] at hs
    have hwin : (0x10000000 + d.toNat * 32768 + s.toNat * 8) / 1 % 32768 ≠ 128 := by omega
    have hflags : (0x10000000 + d.toNat * 32768 + s.toNat * 8) / 1 % 32768 ≠ 256 := by omega
    have hseed : (0x10000000 + d.toNat * 32768 + s.toNat * 8) / 1 % 32768 ≠ 264 := by omega
    exact coreWord_of_sum (x := _ + _) rfl hwf
  case nop.refl | exit.refl | ret.refl | regang.refl | join.refl | yield.refl | eret.refl => exact ⟨by decide, rfl⟩
  all_goals exact coreWord_of_sum (x := _ + _) rfl hwf

theorem coreWord_of_integer (h : tablePart i = 1) (hwf : i.wellFormed = true) : Word32 decodeCore i := by
  cases i <;> cases h
  all_goals exact coreWord_of_sum (x := _ + _) rfl hwf

theorem coreWord_of_float (h : tablePart i = 2) (hwf : i.wellFormed = true) : Word32 decodeCore i := by
  cases i <;> cases h
  all_goals exact coreWord_of_sum (x := _ + _) rfl hwf

theorem coreWord_of_permute_memory (h : tablePart i = 3) (hwf : i.wellFormed = true) : Word32 decodeCore i := by
  cases i <;> cases h
  all_goals exact coreWord_of_sum (x := _ + _) rfl hwf

theorem coreWord_of_units (h : tablePart i = 4) (hwf : i.wellFormed = true) : Word32 decodeCore i := by
  cases i <;> cases h
  case bstrImm.refl k i =>
    have hrow : (0xE0004000 + k.toNat * 8) / 8 % 4096 ≠ 0 := by omega
    exact coreWord_of_sum (x := _ + _) rfl hwf
  case btpsOne.refl d k =>
    have hrow : (0xE7000001 + d.toNat * 32768 + k.toNat * 8) / 1 % 32768 ≠ 0 := by omega
    exact coreWord_of_sum (x := _ + _) rfl hwf
  case qpushN.refl d z q =>
    have hrow : (0xEC000000 + d.toNat * 32768 + z.toNat * 32 + q.toNat * 8) / 1 % 32768 ≠ 160 := by omega
    exact coreWord_of_sum (x := _ + _) rfl hwf
  all_goals exact coreWord_of_sum (x := _ + _) rfl hwf

/-! ## Access processors -/

theorem apWord_of_sum (hx : encode i = x) (hwf : i.wellFormed = true)
    (h : i.wellFormed = true → x / 4294967296 = 0 ∧ decodeAp x = .ok i := by
      intro hwf
      simp only [decodeAp, custom1, custom2, row, fixed, fld_eq, read_lowest, read_below, read_same, read_above,
        BitVec.ofNat_toNat, BitVec.setWidth_eq, Nat.reducePow, Nat.reduceMul, Nat.reduceDiv, Nat.reduceMod,
        Nat.reduceDvd, Nat.reduceLT, decide_true, Bool.and_true, true_and, if_true, *]) :
    Word32 decodeAp i := by
  subst hx
  obtain ⟨hfit, hdec⟩ := h hwf
  exact ⟨by omega, hdec⟩

/-- R338: no word of the base set has a custom major opcode or that of the environment calls. -/
theorem major_of_rvBase {w : BitVec 32} (h : rvBase w = true) :
    w.toNat % 128 ≠ 0x2B ∧ w.toNat % 128 ≠ 0x5B ∧ w.toNat % 128 ≠ 0x73 := by
  have h := of_decide_eq_true h
  omega

theorem apWord_apBaseInstruction {w : BitVec 32} (hwf : rvBase w = true) :
    Word32 decodeAp (.apBaseInstruction w) := by
  obtain ⟨h1, h2, h3⟩ := major_of_rvBase hwf
  refine ⟨w.isLt, ?_⟩
  change decodeAp w.toNat = _
  unfold decodeAp
  split
  · contradiction
  · contradiction
  · contradiction
  · rw [BitVec.ofNat_toNat, BitVec.setWidth_eq]
    exact if_pos hwf

theorem apWord_apEnvironmentCall {w : BitVec 32} (hwf : w = 0x00000073 ∨ w = 0x00100073) :
    Word32 decodeAp (.apEnvironmentCall w) := by
  rcases hwf with rfl | rfl <;> exact ⟨by decide, rfl⟩

theorem apWord_of_isApWord (hap : isApWord i = true) (hwf : i.wellFormed = true) : Word32 decodeAp i := by
  cases i <;> cases hap
  case apBaseInstruction.refl w => exact apWord_apBaseInstruction hwf
  case apEnvironmentCall.refl w => exact apWord_apEnvironmentCall (of_decide_eq_true hwf)
  case ctxYield.refl | ctxEnd.refl => exact ⟨by decide, rfl⟩
  all_goals exact apWord_of_sum (x := _ + _) rfl hwf

/-! ## Every row of each decoder -/

/-- An instruction outside the core's table is an access processor's, or has no word. -/
theorem tablePart_cases (i : Instr) :
    (decide (tablePart i < 5) || (isApWord i || decide (encode i = 0))) = true := by
  cases i <;> rfl

theorem tablePart_lt_of_isCoreWord (hcore : isCoreWord i = true) : tablePart i < 5 := by
  simp only [isCoreWord, Bool.or_eq_true, decide_eq_true_eq, Bool.and_eq_true, bne_iff_ne, Bool.not_eq_true'] at hcore
  obtain rfl | ⟨henc, hap⟩ := hcore
  · exact Nat.zero_lt_succ 4
  · simpa [henc, hap] using tablePart_cases i

theorem coreWord_of_isCoreWord (hcore : isCoreWord i = true) (hwf : i.wellFormed = true) :
    Word32 decodeCore i := by
  have hpart := tablePart_lt_of_isCoreWord hcore
  generalize h : tablePart i = n at hpart
  interval_cases n
  · exact coreWord_of_sequencer h hwf
  · exact coreWord_of_integer h hwf
  · exact coreWord_of_float h hwf
  · exact coreWord_of_permute_memory h hwf
  · exact coreWord_of_units h hwf

end

/-- Settles O54: each decoder finds an instruction's row by its opcode, and reads its fields back. -/
theorem wordsDecodeToWhatTheyEncode : Obligations.WordsDecodeToWhatTheyEncode :=
  ⟨fun _ hcore hwf => coreWord_of_isCoreWord hcore hwf, fun _ hap hwf => apWord_of_isApWord hap hwf⟩

/-- Settles O56: each decoder evaluates to the row of the word's opcode. -/
theorem writtenOutWordsDecode : Obligations.WrittenOutWordsDecode :=
  ⟨rfl, rfl, rfl, rfl, rfl, rfl⟩

end Sys2Proof.Machine
end

section
/-!
PROOFS. Predicate p0 (R113).
-/

namespace Sys2Proof.Machine

open Sys2Proof.Claims

theorem predOf_zero (w : Warp) (l : Nat) : predOf w l 0 = true := by
  simp [predOf, predByte]

theorem setPred_zero (w : Warp) (l : Nat) (b : Bool) : setPred w l 0 b = w := if_pos rfl

/-- Settles O7: a lane's predicate byte is read with bit 0 set, and a write to p0 is discarded. -/
theorem predicateZeroReadsTrueAndDiscardsWrites : Obligations.PredicateZeroReadsTrueAndDiscardsWrites :=
  ⟨predOf_zero, setPred_zero⟩

end Sys2Proof.Machine
end

section
/-!
PROOFS. A gang's synchronous trap, slice by slice (R133, R136, R166): what its drain leaves of each slice, and which
slices enter the handler; and the checks of an issue (R109, R116, R120).
-/

namespace Sys2Proof.Machine

open Sys2Proof.Claims

/-! ## What results and drains do not reach -/

/-- A slice without its queues, its place in a gang and the time of its last issue. -/
def Slice.bare (x : Slice) : Slice := { x with queue := [], warpQueue := [], gang := 0, lastIssue := 0 }

/-- A warp's slices without their queues and gangs, and where the warp stands. -/
def Warp.bare (w : Warp) : Warp :=
  { (default : Warp) with slices := w.slices.map Slice.bare, ident := w.ident, die := w.die, core := w.core }

section

variable {v w : Warp}

theorem length_of_bare (h : v.bare = w.bare) : v.slices.length = w.slices.length := by
  simpa [Warp.bare] using congrArg (·.slices.length) h

theorem bare_sliceAt (w : Warp) (j : Nat) : (sliceAt w j).bare = sliceAt w.bare j := by
  simp only [sliceAt, lget, Warp.bare, List.getElem?_map]
  cases w.slices[j]? <;> rfl

theorem sliceAt_of_bare (h : v.bare = w.bare) (j : Nat) : (sliceAt v j).bare = (sliceAt w j).bare := by
  rw [bare_sliceAt, bare_sliceAt, h]

/-- What reads none of these parts of a slice. -/
theorem slice_of_bare {x y : Slice} {β : Type} (q : Slice → β) (h : x.bare = y.bare)
    (hq : ∀ x, q x.bare = q x := by exact fun _ => rfl) : q x = q y := by
  rw [← hq x, h, hq y]

theorem map_bare_lmod {f : Slice → Slice} (hf : ∀ x, (f x).bare = x.bare) (l : List Slice) (i : Nat) :
    (lmod l i f).map Slice.bare = l.map Slice.bare := by
  induction l generalizing i with
  | nil => rfl
  | cons x l ih => cases i <;> simp [lmod, hf, ih]

theorem bare_modSliceW (w : Warp) (i : Nat) (f : Slice → Slice)
    (hf : ∀ x, (f x).bare = x.bare := by exact fun _ => rfl) : (modSliceW w i f).bare = w.bare := by
  simp [Warp.bare, map_bare_lmod hf]

@[simp] theorem bare_setPred (w : Warp) (l p : Nat) (b : Bool) : (setPred w l p b).bare = w.bare := by
  unfold setPred
  split <;> rfl

@[simp] theorem bare_writeResult (w : Warp) (i : Nat) (r : Result) : (writeResult w i r).bare = w.bare := by
  refine foldl_keep Warp.bare _ (fun w j => ?_) (bitsOf 4 r.mask) w
  cases r.dest with
  | reg n => rfl
  | pred p => exact bare_setPred ..
  | none => rfl

@[simp] theorem bare_writeWarpResult (w : Warp) (r : WarpResult) : (writeWarpResult w r).bare = w.bare := by
  unfold writeWarpResult
  split <;> rfl

@[simp] theorem bare_writeDue (w : Warp) (i : Nat) : (writeDue w i).bare = w.bare :=
  calc (writeDue w i).bare = _ := bare_modSliceW _ i _
    _ = _ := foldl_keep Warp.bare _ bare_writeWarpResult _ _
    _ = w.bare := foldl_keep Warp.bare _ (fun w r => bare_writeResult w i r) _ w

@[simp] theorem bare_tickGang (w : Warp) (sl : BitVec 8) (n : Nat) : (tickGang w sl n).bare = w.bare := by
  induction n generalizing w with
  | zero => rfl
  | succ n ih =>
    refine (ih _).trans (foldl_keep Warp.bare _ (fun w i => ?_) _ _)
    exact (bare_writeDue ..).trans (bare_modSliceW w i _)

@[simp] theorem bare_flushWarpQueue (w : Warp) (sl : BitVec 8) : (flushWarpQueue w sl).bare = w.bare :=
  foldl_keep Warp.bare _ (fun w i => (bare_modSliceW _ i _).trans
    (foldl_keep Warp.bare _ bare_writeWarpResult (sliceAt w i).warpQueue w)) _ _

@[simp] theorem bare_regroup (w : Warp) (sl : BitVec 8) : (regroup w sl).bare = w.bare :=
  foldl_keep Warp.bare _ (fun w i => bare_modSliceW w i _) _ _

end

/-! ## The drain of a gang (R136) -/

/-- What drains do not reach of warp `k`. -/
def bareAt (k : Nat) (s : State) : Option Warp := (tfind s.warps k).map Warp.bare

theorem bareAt_modWarp (s : State) (k j : Nat) {f : Warp → Warp} (hf : ∀ w, (f w).bare = w.bare) :
    bareAt j (modWarp s k f) = bareAt j s := by
  unfold bareAt
  by_cases h : j = k
  · subst h
    rw [modWarp_warps, tfind_tmod_same, Option.map_map]
    exact congrArg (Option.map · _) (funext hf)
  · rw [modWarp_warps, tfind_tmod_ne _ _ _ _ h]

theorem bareAt_endOp (s : State) (o j : Nat) : bareAt j (endOp s o) = bareAt j s := by
  unfold endOp
  split
  · exact bareAt_modWarp s _ j fun _ => rfl
  · rfl

theorem bareAt_landFlags (s : State) (k o : Nat) (fl : BitVec 6) (j : Nat) :
    bareAt j (landFlags s k o fl) = bareAt j s := bareAt_modWarp s k j (by exact fun _ => rfl)

theorem bareAt_performWrites (s : State) (o j : Nat) : bareAt j (performWrites s o) = bareAt j s := by
  unfold performWrites
  split
  · rfl
  · split
    · rfl
    · rw [bareAt_endOp, bareAt_landFlags]
      refine bareAt_modWarp _ _ _ fun w => ?_
      exact foldl_keep Warp.bare _ (by exact fun _ _ => rfl) _ w

@[simp] theorem bareAt_drainGang (s : State) (k : Nat) (sl : BitVec 8) (j : Nat) :
    bareAt j (drainGang s k sl) = bareAt j s := by
  unfold drainGang
  rw [drain, bareAt_modWarp _ _ _ fun w => bare_tickGang w sl _]
  exact foldl_keep (bareAt j) _ (fun s (p : Nat × Op) => bareAt_performWrites s p.1 j) _ s

theorem performWrites_contexts (s : State) (o : Nat) : (performWrites s o).contexts = s.contexts := by
  unfold performWrites
  split
  · rfl
  · split
    · rfl
    · obtain ⟨ws, h⟩ := endOp_eq (landFlags (modWarp s _ _) _ o _) o
      rw [h]
      rfl

@[simp] theorem drainGang_contexts (s : State) (k : Nat) (sl : BitVec 8) :
    (drainGang s k sl).contexts = s.contexts :=
  foldl_keep State.contexts _ (fun s (p : Nat × Op) => performWrites_contexts s p.1) _ s

theorem tfind_drainGang {s : State} {k : Nat} {w : Warp} (h : tfind s.warps k = some w) (sl : BitVec 8) :
    ∃ v, tfind (drainGang s k sl).warps k = some v ∧ v.bare = w.bare := by
  have hbare := bareAt_drainGang s k sl k
  simpa [bareAt, h] using hbare

/-! ## The trap (R166) -/

/-- R166: the slice in its handler, with no latch valid. -/
def trapped (x : Slice) (cause : Nat) (val : Word) (past : Bool) (vec : VAddr) : Slice :=
  enterHandler { x with latches := x.latches.map fun _ => ⟨[], 0⟩ } cause val (if past then x.pc + 4 else x.pc) vec

/-- What a trap leaves of the warp of a gang in no handler: its slices are in theirs, and others are as they were. -/
structure Trapped (v w : Warp) (sl : BitVec 8) (cause : Nat) (vals : List Word) (past : Bool) (vec : VAddr) : Prop where
  length : v.slices.length = 8
  die : v.die = w.die
  core : v.core = w.core
  inside : ∀ j ∈ bitsOf 8 sl, (sliceAt v j).bare = (trapped (sliceAt w j) cause (lget vals j 0) past vec).bare
  outside : ∀ j ∉ bitsOf 8 sl, (sliceAt v j).bare = (sliceAt w j).bare

section

variable {s : State} {k : Nat} {sl : BitVec 8} {w : Warp} {cause : Nat} {vals : List Word} {past : Bool}

theorem bare_trapped {x y : Slice} (h : x.bare = y.bare) (val : Word) (vec : VAddr) :
    (trapped x cause val past vec).bare = (trapped y cause val past vec).bare :=
  slice_of_bare (fun x => (trapped x cause val past vec).bare) h

@[simp] theorem warps_dropWaiting (s : State) (c k : Nat) (sl : BitVec 8) : (dropWaiting s c k sl).warps = s.warps := by
  unfold dropWaiting dropHolding
  split
  · exact warps_dropRequests ..
  · exact warps_dropRequests ..

/-- R166: the warp of a trap once its gang has drained: no latch of the gang stays valid, and its slices enter their
handlers. -/
def trapWarp (u : Warp) (sl : BitVec 8) (cause : Nat) (vals : List Word) (past : Bool) (vec : VAddr) : Warp :=
  let enter := fun i (x : Slice) =>
    if x.handler then x else enterHandler x cause (lget vals i 0) (if past then x.pc + 4 else x.pc) vec
  regroup (eachSlice (bitsOf 8 sl) enter (killLatches (flushWarpQueue u sl) sl)) sl

theorem sliceAt_killLatches {u : Warp} (hlen : u.slices.length = 8) {j : Nat} (hj : j ∈ bitsOf 8 sl) :
    sliceAt (killLatches u sl) j = { sliceAt u j with latches := (sliceAt u j).latches.map fun _ => ⟨[], 0⟩ } :=
  sliceAt_eachSlice_mem (bitsOf 8 sl) (fun _ x => { x with latches := x.latches.map fun _ => (⟨[], 0⟩ : Latch) }) u j hj
    (nodup_bitsOf 8 sl) (hlen ▸ (mem_bitsOf.1 hj).1)

theorem sliceAt_killLatches_outside (u : Warp) {j : Nat} (hj : j ∉ bitsOf 8 sl) :
    sliceAt (killLatches u sl) j = sliceAt u j :=
  sliceAt_eachSlice_not_mem (bitsOf 8 sl) (fun _ x => { x with latches := x.latches.map fun _ => ⟨[], 0⟩ }) u j hj

/-- What neither slices nor results reach. -/
theorem rest_killLatches_flush {β : Type} (p : Warp → β) (hp : ∀ w i f, p (modSliceW w i f) = p w)
    (hb : ∀ w, p (Warp.bare w) = p w) (u : Warp) : p (killLatches (flushWarpQueue u sl) sl) = p u :=
  (foldl_keep p _ (fun w i => hp w i _) _ _).trans (by rw [← hb, bare_flushWarpQueue, hb])

theorem rest_trapWarp {β : Type} (p : Warp → β) (hp : ∀ w i f, p (modSliceW w i f) = p w)
    (hb : ∀ w, p (Warp.bare w) = p w) (u : Warp) (vec : VAddr) : p (trapWarp u sl cause vals past vec) = p u := by
  refine (foldl_keep p _ (fun w i => hp w i _) _ _).trans ((eachSlice_keep p hp _ _ _).trans ?_)
  exact rest_killLatches_flush p hp hb u

theorem trapped_trapWarp {u : Warp} (hbare : u.bare = w.bare) (hlen : w.slices.length = 8)
    (hin : ∀ j ∈ bitsOf 8 sl, (sliceAt w j).handler = false) (vec : VAddr) :
    Trapped (trapWarp u sl cause vals past vec) w sl cause vals past vec := by
  have hflush : (flushWarpQueue u sl).bare = w.bare := (bare_flushWarpQueue u sl).trans hbare
  have hflen : (flushWarpQueue u sl).slices.length = 8 := (length_of_bare hflush).trans hlen
  have hklen : (killLatches (flushWarpQueue u sl) sl).slices.length = 8 := (length_eachSlice ..).trans hflen
  refine ⟨?_, ?_, ?_, fun j hj => ?_, fun j hj => ?_⟩
  · exact (length_of_bare (bare_regroup ..)).trans ((length_eachSlice ..).trans hklen)
  · exact (rest_trapWarp Warp.die (fun _ _ _ => rfl) (fun _ => rfl) u vec).trans (congrArg Warp.die hbare :)
  · exact (rest_trapWarp Warp.core (fun _ _ _ => rfl) (fun _ => rfl) u vec).trans (congrArg Warp.core hbare :)
  · have hhandler : (sliceAt (flushWarpQueue u sl) j).handler = false :=
      (slice_of_bare Slice.handler (sliceAt_of_bare hflush j)).trans (hin j hj)
    refine (sliceAt_of_bare (bare_regroup ..) j).trans ?_
    rw [sliceAt_eachSlice_mem _ _ _ _ hj (nodup_bitsOf 8 sl) (hklen ▸ (mem_bitsOf.1 hj).1),
      sliceAt_killLatches hflen hj, if_neg (by simp [hhandler])]
    exact bare_trapped (sliceAt_of_bare hflush j) _ _
  · refine (sliceAt_of_bare (bare_regroup ..) j).trans ?_
    rw [sliceAt_eachSlice_not_mem _ _ _ _ hj, sliceAt_killLatches_outside _ hj, sliceAt_of_bare hflush j]

theorem trapSlices_warp (h : tfind s.warps k = some w) (hlen : w.slices.length = 8)
    (hin : ∀ j ∈ bitsOf 8 sl, (sliceAt w j).handler = false) :
    ∃ v, tfind (trapSlices s k sl cause vals past).warps k = some v ∧
      Trapped v w sl cause vals past (tget s.contexts w.ident.ctx default).tvec := by
  obtain ⟨u, hu, hbare⟩ := tfind_drainGang h sl
  have hflush : (flushWarpQueue u sl).bare = w.bare := (bare_flushWarpQueue u sl).trans hbare
  have hflen : (flushWarpQueue u sl).slices.length = 8 := (length_of_bare hflush).trans hlen
  have hdead : tfind (modWarp (drainGang s k sl) k fun w => killLatches (flushWarpQueue w sl) sl).warps k =
      some (killLatches (flushWarpQueue u sl) sl) := tfind_modWarp _ hu
  have hany : ((bitsOf 8 sl).any fun i => (sliceAt (killLatches (flushWarpQueue u sl) sl) i).handler) = false := by
    rw [List.any_eq_false]
    intro j hj
    rw [sliceAt_killLatches hflen hj, Bool.not_eq_true]
    exact (slice_of_bare Slice.handler (sliceAt_of_bare hflush j)).trans (hin j hj)
  have hident : (killLatches (flushWarpQueue u sl) sl).ident = w.ident :=
    (rest_killLatches_flush Warp.ident (fun _ _ _ => rfl) (fun _ => rfl) u).trans (congrArg Warp.ident hbare :)
  refine ⟨_, ?_, trapped_trapWarp hbare hlen hin _⟩
  simp only [trapSlices, warpAt_of_tfind hdead, hany, handlerOf, hident, modWarp_contexts, drainGang_contexts,
    warps_dropWaiting, Bool.false_eq_true, if_false]
  exact tfind_modWarp _ (tfind_foldSlices _ _ hdead)

theorem inHandler_of_bare {x x' y : Slice} {val : Word} {ret vec : VAddr} (h : x.bare = x'.bare)
    (hx : InHandler x' y cause val ret vec) : InHandler x y cause val ret vec :=
  (slice_of_bare (fun x => InHandler x y cause val ret vec) h).mpr hx

/-- The time of a gang's issue alone. -/
theorem bare_sliceOf_stampIssue {v : Warp} (h : tfind s.warps k = some v) (sl : BitVec 8) (j : Nat) :
    (sliceOf (stampIssue s k sl) k j).bare = (sliceAt v j).bare := by
  rw [sliceOf, stampIssue, warpAt_of_tfind (tfind_modGang sl _ h)]
  exact sliceAt_of_bare (foldl_keep Warp.bare _ (fun w i => bare_modSliceW w i _) _ v) j

/-- A slice that has entered its handler. -/
theorem inHandler_of_trapped {x y : Slice} {val : Word} {vec : VAddr}
    (h : x.bare = (trapped y cause val past vec).bare) :
    InHandler x y cause val (if past then y.pc + 4 else y.pc) vec :=
  inHandler_of_bare h ⟨rfl, rfl, rfl, rfl, rfl, rfl, rfl, rfl, rfl, rfl⟩

end

/-! ## The checks of an issue (R120) -/

section

variable {i : Instr} {s : State} {k : Nat} {sl : BitVec 8} {w : Warp} {cause : Nat} {val : Word} {past : Bool}

/-- R58, R166: a gang in no handler, of a warp with no incomplete fence, enters its handler. -/
theorem issueTrap_enters (h : tfind s.warps k = some w) (hlen : w.slices.length = 8) (henters : trapsEnter w sl) :
    ∀ j ∈ bitsOf 8 sl, InHandler (sliceOf (issueTrap s k sl cause val past) k j) (sliceAt w j) cause val
      (if past then (sliceAt w j).pc + 4 else (sliceAt w j).pc) (tget s.contexts w.ident.ctx default).tvec := by
  intro j hj
  obtain ⟨hspec, hhandler⟩ := henters
  have hj8 : j < 8 := (mem_bitsOf.1 hj).1
  obtain ⟨v, hv, htrapped⟩ :=
    trapSlices_warp (cause := cause) (vals := List.replicate 8 val) (past := past) h hlen hhandler
  have hval : lget (List.replicate 8 val) j 0 = val := by
    rw [lget, List.getElem?_replicate, if_pos hj8, Option.getD_some]
  have hissue : issueTrap s k sl cause val past =
      stampIssue (trapSlices s k sl cause (List.replicate 8 val) past) k sl := by
    rw [issueTrap, issueTraps, warpAt_of_tfind h, hspec]
    rfl
  rw [hissue]
  exact inHandler_of_trapped ((bare_sliceOf_stampIssue hv sl j).trans (hval ▸ htrapped.inside j hj))

/-- R120, check 3: a mode that an instruction does not accept. -/
theorem issue_refuses_mode {f : Form} {eff : State → Nat → BitVec 8 → Eff} (hs : s.issuer = .gang k sl)
    (hw : tfind s.warps k = some w) (hfence : fenceHolds f w = false) (hmode : f.accepts (gangMode w sl) = false) :
    issue f eff s = .next (issueTrap s k sl 0 (fetchedWord s) false) := by
  simp [issue, issueGang, hs, hw, hfence, hmode]

/-- R109, R116: a register at or above the ceiling. -/
theorem issue_refuses_register {f : Form} {eff : State → Nat → BitVec 8 → Eff} (hs : s.issuer = .gang k sl)
    (hw : tfind s.warps k = some w) (hfence : fenceHolds f w = false) (hmode : f.accepts (gangMode w sl) = true)
    (hreg : ∃ n ∈ f.named, w.ceil ≤ w.win + n) : ∃ m ∈ f.named, w.ceil ≤ w.win + m ∧
      issue f eff s = .next (issueTrap s k sl 1 (BitVec.ofNat 32 (w.win + m)) false) := by
  obtain ⟨x, hx⟩ : ∃ x, (f.named.map (w.win + ·)).find? (w.ceil ≤ ·) = some x := by
    simpa [← Option.isSome_iff_exists] using hreg
  obtain ⟨m, hm, rfl⟩ := List.mem_map.1 (List.mem_of_find?_eq_some hx)
  refine ⟨m, hm, by simpa using List.find?_some hx, ?_⟩
  simp [issue, issueGang, hs, hw, hfence, hmode, hx]

theorem runWord_refused {w : Word} {e : Reject} {v : Warp} (hs : s.issuer = .gang k sl) (hv : tfind s.warps k = some v)
    (hw : decodeCore w.toNat = .error e) : runWord w s = .next (issueTrap s k sl 0 (fetchedWord s) false) := by
  simp [runWord, hw, refuseWord, hs, hv]

end

/-- Settles O14: the checks of R120 come before the instruction's effect, and their trap enters the handler at once. -/
theorem checksOfAnIssueTrap : Obligations.ChecksOfAnIssueTrap := by
  refine ⟨fun i row hrow s k sl w hs hw hlen hfence henters => ?_, fun w e s k sl v hs hv hlen henters hf hdec => ?_⟩
  · obtain ⟨eff, -, hexec⟩ := hrow.laneOp.issues
    refine ⟨fun hmode => ?_, fun hmode n hn hceil => ?_⟩
    · exact ⟨_, (hexec s).trans (issue_refuses_mode hs hw hfence hmode), issueTrap_enters hw hlen henters⟩
    · obtain ⟨m, hm, hmceil, hissue⟩ := issue_refuses_register hs hw hfence hmode ⟨n, hn, hceil⟩
      exact ⟨m, hm, hmceil, _, (hexec s).trans hissue, issueTrap_enters hw hlen henters⟩
  · have hval : fetchedWord s = w := congrArg (·.getD 0) hf
    refine ⟨_, runWord_refused hs hv hdec, ?_⟩
    rw [hval]
    exact issueTrap_enters hv hlen henters

end Sys2Proof.Machine
end

section
/-!
PROOFS. The sequencer's events: due results, expired latches, asynchronous traps, fetches and register starvation
(R112, R133, R162, R240, R241).
-/

namespace Sys2Proof.Machine

open Sys2Proof.Claims

/-! ## Due results (R133) -/

section

variable {s : State} {k j : Nat} {w : Warp} {e : Result}

@[simp] theorem regs_setPred (w : Warp) (l p : Nat) (b : Bool) : (setPred w l p b).regs = w.regs := by
  unfold setPred
  split <;> rfl

@[simp] theorem flags_setPred (w : Warp) (l p : Nat) (b : Bool) : (setPred w l p b).flags = w.flags := by
  unfold setPred
  split <;> rfl

theorem predOf_congr {v w : Warp} (h : v.preds = w.preds) (l p : Nat) : predOf v l p = predOf w l p := by
  unfold predOf predByte
  rw [h]

theorem predOf_setPred {p : Nat} (hp : 0 < p) (hp8 : p < 8) (w : Warp) (l : Nat) (b : Bool) (m : Nat) :
    predOf (setPred w l p b) m p = if m = l then b else predOf w m p := by
  unfold predOf predByte setPred
  rw [if_neg hp.ne']
  by_cases h : m = l
  · subst h
    cases b <;> simp [hp8, hp.ne']
  · simp [h]

/-- The predicate writes of lanes that differ. -/
theorem predOf_foldl_setPred {p : Nat} (hp : 0 < p) (hp8 : p < 8) (lane : Nat → Nat) (b : Nat → Bool) {l : List Nat}
    (hnodup : (l.map lane).Nodup) (w : Warp) {c : Nat} (hc : c ∈ l) :
    predOf (l.foldl (fun w c => setPred w (lane c) p (b c)) w) (lane c) p = b c := by
  induction l using List.reverseRecOn with
  | nil => cases hc
  | append_singleton l d ih =>
    rw [List.foldl_append, List.foldl_cons, List.foldl_nil, predOf_setPred hp hp8]
    rw [List.map_append, List.nodup_append] at hnodup
    rcases List.mem_append.1 hc with hc | hc
    · rw [if_neg (hnodup.2.2 _ (List.mem_map_of_mem hc) _ (List.mem_singleton_self _))]
      exact ih hnodup.1 hc
    · rw [List.mem_singleton.1 hc, if_pos rfl]

/-- The cells of a result that goes to register `n` of slice `i`. -/
def resultCells (e : Result) (i n : Nat) : List CellWrite :=
  (bitsOf 4 e.mask).map fun c => ⟨n, 4 * i + c, lget e.vals c 0⟩

theorem tget_resultCells_of_mem {i n c : Nat} (t : Tbl Word) (hc : c ∈ bitsOf 4 e.mask) :
    tget (writeCells t (resultCells e i n)) (32 * n + (4 * i + c)) 0 = lget e.vals c 0 := by
  refine tget_writeCells_of_mem t ⟨_, List.mem_map_of_mem hc, rfl⟩ fun x hx hkey => ?_
  obtain ⟨d, -, rfl⟩ := List.mem_map.1 hx
  obtain rfl : d = c := by
    simp only [CellWrite.key] at hkey
    omega
  rfl

theorem tget_resultCells_of_not_mem {i n a : Nat} (t : Tbl Word)
    (ha : ∀ c ∈ bitsOf 4 e.mask, a ≠ 32 * n + (4 * i + c)) :
    tget (writeCells t (resultCells e i n)) a 0 = tget t a 0 := by
  refine tget_writeCells_of_not_mem t fun x hx => ?_
  obtain ⟨c, hc, rfl⟩ := List.mem_map.1 hx
  exact ha c hc

theorem regs_writeResult_reg {n : Nat} (he : e.dest = .reg n) (w : Warp) (i : Nat) :
    (writeResult w i e).regs = writeCells w.regs (resultCells e i n) := by
  unfold writeResult resultCells writeCells
  rw [he, List.foldl_map]
  exact (List.foldl_hom (g₁ := fun w c => writePhys w n (4 * i + c) (lget e.vals c 0)) Warp.regs fun _ _ => rfl).symm

theorem regs_writeResult_of_ne (he : ∀ n, e.dest ≠ .reg n) (w : Warp) (i : Nat) :
    (writeResult w i e).regs = w.regs := by
  refine foldl_keep Warp.regs _ (fun w c => ?_) (bitsOf 4 e.mask) w
  cases hd : e.dest with
  | reg n => exact absurd hd (he n)
  | pred p => exact regs_setPred ..
  | none => rfl

theorem flags_writeResult (w : Warp) (i : Nat) (e : Result) : (writeResult w i e).flags = w.flags ||| e.flags := by
  refine congrArg (· ||| e.flags) (foldl_keep Warp.flags _ (fun w c => ?_) (bitsOf 4 e.mask) w)
  cases e.dest with
  | reg n => rfl
  | pred p => exact flags_setPred ..
  | none => rfl

theorem predOf_writeResult {p c : Nat} (he : e.dest = .pred p) (hp : 0 < p) (hp8 : p < 8) (w : Warp) (i : Nat)
    (hc : c ∈ bitsOf 4 e.mask) : predOf (writeResult w i e) (4 * i + c) p = decide (lget e.vals c 0 ≠ 0) := by
  have hnodup : ((bitsOf 4 e.mask).map (4 * i + ·)).Nodup :=
    (nodup_bitsOf 4 e.mask).map fun _ _ h => Nat.add_left_cancel h
  unfold writeResult
  rw [he]
  exact predOf_foldl_setPred hp hp8 (4 * i + ·) (fun c => decide (lget e.vals c 0 ≠ 0)) hnodup w hc

theorem writeWarpResult_lanes (w : Warp) (r : WarpResult) : (writeWarpResult w r).flags = w.flags ∧
    (writeWarpResult w r).regs = w.regs ∧ (writeWarpResult w r).preds = w.preds := by
  unfold writeWarpResult
  split <;> exact ⟨rfl, rfl, rfl⟩

/-- A slice whose only result is due writes it. -/
theorem writeDue_of_single (hq : (sliceAt w j).queue = [e]) (hleft : e.left = 0) {β : Type} (p : Warp → β)
    (hslice : ∀ w i f, p (modSliceW w i f) = p w) (hresult : ∀ w r, p (writeWarpResult w r) = p w) :
    p (writeDue w j) = p (writeResult w j e) := by
  unfold writeDue
  rw [hq]
  refine (hslice _ _ _).trans ((foldl_keep p _ hresult _ _).trans ?_)
  simp [hleft]

theorem queue_writeDue (hlen : w.slices.length = 8) (hj : j < 8) (hq : (sliceAt w j).queue = [e]) (hleft : e.left = 0) :
    (sliceAt (writeDue w j) j).queue = [] := by
  unfold writeDue
  rw [hq, sliceAt_modSliceW_same]
  · simp [hleft]
  · have h := (length_of_bare (bare_writeDue w j)).trans hlen
    simp only [writeDue, hq, modSliceW_slices, length_lmod] at h
    omega

/-- A due result is written where it names, raises its flags and leaves the queue. -/
theorem resultQueueWrite_writes (hs : s.issuer = .event [k, j]) (hw : tfind s.warps k = some w)
    (hlen : w.slices.length = 8) (hj : j < 8) (hq : (sliceAt w j).queue = [e]) (hleft : e.left = 0) :
    ∃ t, exec .resultQueueWrite s = .next t ∧ (sliceOf t k j).queue = [] ∧ (warpAt t k).flags = w.flags ||| e.flags ∧
      (∀ n, e.dest = .reg n → (∀ c, c < 4 → e.mask.getLsbD c = true →
          tget (warpAt t k).regs (32 * n + (4 * j + c)) 0 = lget e.vals c 0) ∧
        ∀ a, (∀ c, c < 4 → e.mask.getLsbD c = true → a ≠ 32 * n + (4 * j + c)) →
          tget (warpAt t k).regs a 0 = tget w.regs a 0) ∧
      (∀ p, e.dest = .pred p → 0 < p → p < 8 → ∀ c, c < 4 → e.mask.getLsbD c = true →
        predOf (warpAt t k) (4 * j + c) p = decide (lget e.vals c 0 ≠ 0)) ∧
      ((∀ n, e.dest ≠ .reg n) → (warpAt t k).regs = w.regs) := by
  have hkeep := fun {β : Type} (p : Warp → β) => writeDue_of_single hq hleft p
  have hflags : (writeDue w j).flags = (writeResult w j e).flags :=
    hkeep Warp.flags (fun _ _ _ => rfl) fun w r => (writeWarpResult_lanes w r).1
  have hregs : (writeDue w j).regs = (writeResult w j e).regs :=
    hkeep Warp.regs (fun _ _ _ => rfl) fun w r => (writeWarpResult_lanes w r).2.1
  have hpreds : (writeDue w j).preds = (writeResult w j e).preds :=
    hkeep Warp.preds (fun _ _ _ => rfl) fun w r => (writeWarpResult_lanes w r).2.2
  refine ⟨modWarp s k fun w => writeDue w j, ?_, ?_⟩
  · change execResultQueueWrite s = _
    simp only [execResultQueueWrite, subject, subjects, hs]
    rfl
  · rw [sliceOf, warpAt_of_tfind (tfind_modWarp _ hw), hflags, hregs]
    refine ⟨queue_writeDue hlen hj hq hleft, flags_writeResult .., fun n hn => ⟨fun c hc hmask => ?_, fun a ha => ?_⟩,
      fun p hp hpos hp8 c hc hmask => ?_, fun hne => regs_writeResult_of_ne hne ..⟩
    · rw [regs_writeResult_reg hn]
      exact tget_resultCells_of_mem w.regs (mem_bitsOf.2 ⟨hc, hmask⟩)
    · rw [regs_writeResult_reg hn]
      exact tget_resultCells_of_not_mem w.regs fun c hc => ha c (mem_bitsOf.1 hc).1 (mem_bitsOf.1 hc).2
    · rw [predOf_congr hpreds]
      exact predOf_writeResult hp hpos hp8 w j (mem_bitsOf.2 ⟨hc, hmask⟩)

end

/-! ## Expired latches (R112) -/

/-- R112: an entry whose lifetime has run out loses its value, and others keep theirs. -/
theorem latchExpiry_expires {s : State} {k j : Nat} {w : Warp} (hs : s.issuer = .event [k, j])
    (hw : tfind s.warps k = some w) (hlen : w.slices.length = 8) (hj : j < 8) :
    ∃ t, exec .latchExpiry s = .next t ∧ ∀ (n : Nat) (v : Latch), (sliceAt w j).latches[n]? = some v →
      (sliceOf t k j).latches[n]? = some (if v.life = 0 then ⟨[], 0⟩ else v) := by
  refine ⟨modWarp s k fun w => expireLatches w j, ?_, fun n v hv => ?_⟩
  · change execLatchExpiry s = _
    simp only [execLatchExpiry, subject, subjects, hs]
    rfl
  · rw [sliceOf, warpAt_of_tfind (tfind_modWarp _ hw), expireLatches, sliceAt_modSliceW_same _ _ _ (hlen ▸ hj)]
    simp [hv]

/-! ## Fetches (R105, R240) -/

/-- R105: a fetch in reach gives the word at the translated address. -/
theorem instructionFetch_reads {s m m' : State} {k : Nat} {sl : BitVec 8} {w : Warp} {p : Trans} {b : List Byte}
    (hs : s.issuer = .gang k sl) (hw : tfind s.warps k = some w)
    (htranslate : translate s w.walker (gangPc w sl).toNat .fetch = (m, .ok p))
    (hread : physBytes m w.ident.ctx w.die p.pa 4 = (m', some b)) :
    exec .instructionFetch s = .next { m' with fetched := some (BitVec.ofNat 32 (leNat b)) } := by
  change execInstructionFetch s = _
  simp only [execInstructionFetch, hs, warpAt_of_tfind hw, htranslate, hread]

/-! ## Asynchronous traps (R241) -/

section

variable {s : State} {k : Nat} {sl : BitVec 8} {w : Warp} {a : AsyncTrap}

theorem exists_mem_bitsOf {n : Nat} {b : BitVec n} (h : b ≠ 0) : ∃ j, j ∈ bitsOf n b := by
  by_contra hnone
  simp only [mem_bitsOf, not_exists, not_and, Bool.not_eq_true] at hnone
  exact h (BitVec.eq_of_getLsbD_eq fun i hi => by simpa using hnone i hi)

theorem asyncDue_iff {x : Slice} : asyncDue x = true ↔
    x.asyncTrap.isSome = true ∧ x.handler = false ∧ x.ended = false ∧ latched x = false := by
  simp [asyncDue, and_assoc]

/-- R241: what a slice whose asynchronous trap may be due does. -/
def enterAsync (vec : VAddr) (x : Slice) : Slice :=
  match asyncDue x, x.asyncTrap with
  | true, some t => { enterHandler x t.cause t.value x.pc vec with asyncTrap := none }
  | _, _ => x

theorem enterAsync_of_due {x : Slice} (vec : VAddr) (hdue : asyncDue x = true) (ha : x.asyncTrap = some a) :
    enterAsync vec x = { enterHandler x a.cause a.value x.pc vec with asyncTrap := none } := by
  unfold enterAsync
  rw [hdue, ha]

/-- R241: the state after the entry, its drain first. -/
def asyncEntered (s : State) (k : Nat) (sl : BitVec 8) : State :=
  let s1 := modWarp (drainGang s k sl) k fun w => flushWarpQueue w sl
  let s2 := modGang s1 k sl (enterAsync (handlerOf s1 (warpAt s k).ident.ctx))
  stampIssue (modWarp s2 k fun w => regroup w sl) k sl

theorem execFormatTrapEntry_of_due (hs : s.issuer = .gang k sl) (hw : tfind s.warps k = some w)
    (hany : ((bitsOf 8 sl).any fun i => asyncDue (sliceAt w i)) = true) :
    exec .formatTrapEntry s = .next (asyncEntered s k sl) := by
  change execFormatTrapEntry s = _
  simp only [execFormatTrapEntry, asyncEntered, hs, warpAt_of_tfind hw, hany, if_true]
  rfl

theorem slice_asyncEntered (hw : tfind s.warps k = some w) (hlen : w.slices.length = 8) {j : Nat} (hj : j ∈ bitsOf 8 sl)
    (hdue : asyncDue (sliceAt w j) = true) (ha : (sliceAt w j).asyncTrap = some a) :
    (sliceOf (asyncEntered s k sl) k j).bare = { (enterHandler (sliceAt w j) a.cause a.value (sliceAt w j).pc
      (tget s.contexts w.ident.ctx default).tvec).bare with asyncTrap := none } := by
  obtain ⟨u, hu, hbare⟩ := tfind_drainGang hw sl
  have hflush : (flushWarpQueue u sl).bare = w.bare := (bare_flushWarpQueue u sl).trans hbare
  have hslice : (sliceAt (flushWarpQueue u sl) j).bare = (sliceAt w j).bare := sliceAt_of_bare hflush j
  have hjlen : j < (flushWarpQueue u sl).slices.length := by
    rw [length_of_bare hflush, hlen]
    exact (mem_bitsOf.1 hj).1
  have hs1 : tfind (modWarp (drainGang s k sl) k fun w => flushWarpQueue w sl).warps k = some (flushWarpQueue u sl) :=
    tfind_modWarp _ hu
  have hvec : handlerOf (modWarp (drainGang s k sl) k fun w => flushWarpQueue w sl) w.ident.ctx =
      (tget s.contexts w.ident.ctx default).tvec := by
    rw [handlerOf, modWarp_contexts, drainGang_contexts]
  unfold asyncEntered
  dsimp only
  rw [bare_sliceOf_stampIssue (tfind_modWarp _ (tfind_modGang sl _ hs1)), sliceAt_of_bare (bare_regroup ..),
    sliceAt_eachSlice_mem _ _ _ _ hj (nodup_bitsOf 8 sl) hjlen, warpAt_of_tfind hw, hvec,
    enterAsync_of_due _ ((slice_of_bare asyncDue hslice).trans hdue) ((slice_of_bare Slice.asyncTrap hslice).trans ha)]
  generalize (tget s.contexts w.ident.ctx default).tvec = vec
  exact slice_of_bare (fun x => { (enterHandler x a.cause a.value x.pc vec).bare with asyncTrap := none }) hslice

/-- R241: every slice of a gang enters its asynchronous trap. -/
theorem formatTrapEntry_enters (hs : s.issuer = .gang k sl) (hw : tfind s.warps k = some w) (hlen : w.slices.length = 8)
    (hsl : sl ≠ 0) (hdue : ∀ j ∈ bitsOf 8 sl, (sliceAt w j).asyncTrap = some a ∧ (sliceAt w j).handler = false ∧
      (sliceAt w j).ended = false ∧ latched (sliceAt w j) = false) :
    ∃ t, exec .formatTrapEntry s = .next t ∧ ∀ j ∈ bitsOf 8 sl,
      InHandler (sliceOf t k j) (sliceAt w j) a.cause a.value (sliceAt w j).pc
        (tget s.contexts w.ident.ctx default).tvec ∧ (sliceOf t k j).asyncTrap = none := by
  have hasync : ∀ j ∈ bitsOf 8 sl, asyncDue (sliceAt w j) = true := fun j hj => by
    obtain ⟨htrap, hrest⟩ := hdue j hj
    exact asyncDue_iff.2 ⟨by rw [htrap, Option.isSome_some], hrest⟩
  obtain ⟨i, hi⟩ := exists_mem_bitsOf hsl
  refine ⟨_, execFormatTrapEntry_of_due hs hw (List.any_eq_true.2 ⟨i, hi, hasync i hi⟩), fun j hj => ?_⟩
  have hslice := slice_asyncEntered hw hlen hj (hasync j hj) (hdue j hj).1
  refine ⟨?_, ?_⟩
  · refine inHandler_of_bare hslice
      (x' := { enterHandler _ a.cause a.value (sliceAt w j).pc _ with asyncTrap := none }) ?_
    exact ⟨rfl, rfl, rfl, rfl, rfl, rfl, rfl, rfl, rfl, rfl⟩
  · exact (congrArg Slice.asyncTrap hslice :)

end

/-! ## Register starvation (R162) -/

theorem mem_of_tfind {α : Type} {t : Tbl α} {k : Nat} {v : α} (h : tfind t k = some v) : (k, v) ∈ t := by
  induction t with
  | nil => cases h
  | cons p t ih =>
    rw [tfind] at h
    split at h
    · rename_i hk
      cases h
      exact hk ▸ List.mem_cons_self
    · exact List.mem_cons_of_mem _ (ih h)

theorem toBits_append (n : Nat) (l : List Nat) (i : Nat) :
    toBits n (l ++ [i]) = toBits n l ||| (1 : BitVec n) <<< i := by
  rw [toBits, List.foldl_append]
  rfl

theorem mem_bitsOf_toBits {n i : Nat} {l : List Nat} : i ∈ bitsOf n (toBits n l) ↔ i < n ∧ i ∈ l := by
  rw [mem_bitsOf]
  refine and_congr_right fun hi => ?_
  induction l using List.reverseRecOn with
  | nil => simp [toBits]
  | append_singleton l a ih =>
    rw [toBits_append, BitVec.getLsbD_or, Bool.or_eq_true, ih, List.mem_append, List.mem_singleton]
    have hshift : a ≤ i ∧ i - a = 0 ↔ i = a := by omega
    exact or_congr_right (by simpa [hi] using hshift)

theorem exists_sliceAt_of_mem {w : Warp} (hlen : w.slices.length = 8) {x : Slice} (hx : x ∈ w.slices) :
    ∃ j, j < 8 ∧ sliceAt w j = x := by
  obtain ⟨j, hj, rfl⟩ := List.mem_iff_getElem.1 hx
  exact ⟨j, hlen ▸ hj, by simp [sliceAt, lget, hj]⟩

theorem sliceAt_mem {w : Warp} {j : Nat} (hj : j < w.slices.length) : sliceAt w j ∈ w.slices := by
  simp [sliceAt, lget, hj]

/-- A slice that has taken the trap of register starvation, blocked in GROW. -/
structure Starved (x : Slice) : Prop where
  handler : x.handler = true
  tcause : x.tcause = 6
  tval : x.tval = 1
  ended : x.ended = false
  wait : x.wait = .ready

theorem starved_of_bare {x y : Slice} (h : x.bare = y.bare) (hy : Starved y) : Starved x :=
  ⟨slice_of_bare (y := y) Slice.handler h ▸ hy.handler, slice_of_bare (y := y) Slice.tcause h ▸ hy.tcause,
    slice_of_bare (y := y) Slice.tval h ▸ hy.tval, slice_of_bare (y := y) Slice.ended h ▸ hy.ended,
    slice_of_bare (y := y) Slice.wait h ▸ hy.wait⟩

/-- The trap of each gang of a list in turn, as slices are numbered by `gang`. -/
def trapGangs (k : Nat) (gang : Nat → Nat) (waits : List Nat) (vals : List Word) (s : State) (l : List Nat) : State :=
  l.foldl (fun s g => if (tfind s.warps k).isNone then s
    else trapSlices s k (toBits 8 (waits.filter fun i => gang i = g)) 6 vals false) s

section

variable {k : Nat} {gang : Nat → Nat} {vals : List Word} {v : Warp}

/-- What the gangs of a list that have yet to trap are, and those that have. -/
structure Starving (gang : Nat → Nat) (l : List Nat) (v : Warp) : Prop where
  length : v.slices.length = 8
  toGo : ∀ j, j < 8 → gang j ∈ l → (sliceAt v j).handler = false ∧ (sliceAt v j).ended = false
  gone : ∀ j, j < 8 → gang j ∉ l → Starved (sliceAt v j)

theorem trapGangs_starves (hvals : ∀ j, j < 8 → lget vals j 0 = 1) {l : List Nat} (hnodup : l.Nodup) {s : State}
    (hv : tfind s.warps k = some v) (h : Starving gang l v) :
    ∃ u, tfind (trapGangs k gang (List.range 8) vals s l).warps k = some u ∧ u.die = v.die ∧ u.core = v.core ∧
      Starving gang [] u := by
  induction l generalizing s v with
  | nil => exact ⟨v, hv, rfl, rfl, h⟩
  | cons g l ih =>
    have hmem : ∀ j, j ∈ bitsOf 8 (toBits 8 ((List.range 8).filter fun i => gang i = g)) ↔ j < 8 ∧ gang j = g := by
      simp [mem_bitsOf_toBits]
    obtain ⟨hg, hnodup⟩ := List.nodup_cons.1 hnodup
    obtain ⟨u, hu, htrapped⟩ := trapSlices_warp (cause := 6) (vals := vals) (past := false)
      (sl := toBits 8 ((List.range 8).filter fun i => gang i = g)) hv h.length fun j hj => by
        obtain ⟨hj8, hjg⟩ := (hmem j).1 hj
        exact (h.toGo j hj8 (hjg ▸ List.mem_cons_self)).1
    have hnext : Starving gang l u := by
      refine ⟨htrapped.length, fun j hj hjl => ?_, fun j hj hjl => ?_⟩
      · have hout : (sliceAt u j).bare = (sliceAt v j).bare :=
          htrapped.outside j fun hjm => hg (((hmem j).1 hjm).2 ▸ hjl)
        obtain ⟨hhandler, hended⟩ := h.toGo j hj (List.mem_cons_of_mem _ hjl)
        exact ⟨(slice_of_bare Slice.handler hout).trans hhandler, (slice_of_bare Slice.ended hout).trans hended⟩
      · by_cases hjg : gang j = g
        · have hended := (h.toGo j hj (hjg ▸ List.mem_cons_self)).2
          refine starved_of_bare (htrapped.inside j ((hmem j).2 ⟨hj, hjg⟩)) ⟨rfl, rfl, hvals j hj, hended, rfl⟩
        · refine starved_of_bare (htrapped.outside j fun hjm => hjg ((hmem j).1 hjm).2) (h.gone j hj ?_)
          simp [hjg, hjl]
    obtain ⟨x, hx, hdie, hcore, hall⟩ := ih hnodup hu hnext
    refine ⟨x, ?_, hdie.trans htrapped.die, hcore.trans htrapped.core, hall⟩
    rw [trapGangs, List.foldl_cons, hv]
    exact hx

end

section

variable {s : State} {c k : Nat} {w : Warp}

theorem starved_modCore {v : Warp} {f : Core → Core} {j : Nat} (hv : tfind s.warps k = some v)
    (h : Starved (sliceAt v j)) : Starved (sliceOf (modCore s c f) k j) := by
  rw [sliceOf, warpAt_of_tfind (s := modCore s c f) hv]
  exact h

theorem bare_withdraw (w : Warp) (l : List Nat) : (withdraw w l).bare = w.bare := by
  refine foldl_keep Warp.bare _ (fun w i => ?_) l w
  split <;> rfl

theorem warps_dropGrants (s : State) (c k : Nat) : (dropGrants s c k).warps = s.warps := by
  obtain ⟨cs, h⟩ := dropGrants_eq s c k
  rw [h]

/-- A posted record and requests and arrivals taken back leave the warp's slices, and where it stands. -/
theorem tfind_withdrawn (hw : tfind s.warps k = some w) (x die : Nat) (b : List Byte) (c g : Nat) (l : List Nat) :
    ∃ v, tfind (modWarp (dropGrants (dropGrants (postRecord s x die b .none) c k) c g) k
      fun w => withdraw w l).warps k = some v ∧ v.bare = w.bare := by
  obtain ⟨_, _, _, _, _, _, _, _, _, hpost, hwarps, -⟩ := postFor_eq s x die b .none none
  obtain ⟨sp, hsp⟩ := (hwarps k).2 w hw
  refine ⟨withdraw { w with spec := sp } l, tfind_modWarp _ ?_, bare_withdraw ..⟩
  rw [warps_dropGrants, warps_dropGrants]
  change tfind (postFor s x die b .none none).warps k = _
  rw [hpost]
  exact hsp

/-- Every slice of the warp is blocked in GROW. -/
def Growing (w : Warp) : Prop :=
  ∀ j, j < 8 → (sliceAt w j).wait = .grow ∧ (sliceAt w j).ended = false ∧ (sliceAt w j).handler = false

theorem spaceWait_of_growing (h : Growing w) {j : Nat} (hj : j < 8) : spaceWait (sliceAt w j) = 1 := by
  obtain ⟨hwait, hended, -⟩ := h j hj
  simp [spaceWait, hwait, hended]

theorem spaceBlocked_of_growing (hlen : w.slices.length = 8) (h : Growing w) : spaceBlocked w = true := by
  have hready : hasReady w = false := by
    rw [hasReady, List.any_eq_false]
    intro x hx
    obtain ⟨j, hj, rfl⟩ := exists_sliceAt_of_mem hlen hx
    simp [(h j hj).1]
  have hblocked : (w.slices.any fun x => spaceWait x != 0) = true :=
    List.any_eq_true.2 ⟨sliceAt w 0, sliceAt_mem (by omega), by simp [spaceWait_of_growing h]⟩
  rw [spaceBlocked, hblocked, hready]
  rfl

theorem waits_of_growing (h : Growing w) :
    ((List.range 8).filter fun i => spaceWait (sliceAt w i) ≠ 0) = List.range 8 := by
  rw [List.filter_eq_self]
  intro j hj
  simp [spaceWait_of_growing h (List.mem_range.1 hj)]

theorem vals_of_growing (h : Growing w) (j : Nat) (hj : j < 8) :
    lget ((List.range 8).map fun i => BitVec.ofNat 32 (spaceWait (sliceAt w i))) j 0 = 1 := by
  rw [lget, List.getElem?_map, List.getElem?_range hj, Option.map_some, Option.getD_some, spaceWait_of_growing h hj]
  rfl

theorem starving_of_growing {v : Warp} (hlen : w.slices.length = 8) (h : Growing w) (hbare : v.bare = w.bare) :
    Starving (fun i => (sliceAt w i).gang) ((List.range 8).map fun i => (sliceAt w i).gang).dedup v := by
  refine ⟨(length_of_bare hbare).trans hlen, fun j hj _ => ?_, fun j hj hgang => absurd ?_ hgang⟩
  · obtain ⟨-, hended, hhandler⟩ := h j hj
    have hslice := sliceAt_of_bare hbare j
    exact ⟨(slice_of_bare Slice.handler hslice).trans hhandler, (slice_of_bare Slice.ended hslice).trans hended⟩
  · exact List.mem_dedup.2 (List.mem_map_of_mem (List.mem_range.2 hj))

/-- R162: the only warp of a core, blocked in GROW in every slice, takes the trap. -/
theorem registerStarvation_traps (hs : s.issuer = .event [c]) (hon : warpsOn s (c / 288) (c % 288) = [(k, w)])
    (hw : tfind s.warps k = some w) (hlen : w.slices.length = 8) (hcore : (tget s.cores c default).starved = false)
    (hdie : w.die = c / 288) (hwcore : w.core = c % 288) (h : Growing w) :
    ∃ t, exec .registerStarvation s = .next t ∧ (tget t.cores c default).starved = false ∧
      ∀ j, j < 8 → (sliceOf t k j).handler = true ∧ (sliceOf t k j).tcause = 6 ∧ (sliceOf t k j).tval = 1 := by
  have hsubject : subject s 0 = c := by
    simp only [subject, subjects, hs]
    rfl
  change ∃ t, execRegisterStarvation s = _ ∧ _
  unfold execRegisterStarvation
  simp only [hsubject, hon, oldestOf, List.foldl_cons, List.foldl_nil, hcore, List.all_cons, List.all_nil,
    spaceBlocked_of_growing hlen h, waits_of_growing h, Bool.and_true, Bool.not_true, Bool.or_false, Bool.false_eq_true,
    if_false]
  obtain ⟨v, hv, hbare⟩ := tfind_withdrawn hw w.ident.ctx w.die (graphRecord 0x61 0 w.core w.die w.slot (launchAddr s w)
    (((List.range 8).map fun i => spaceWait (sliceAt w i)).headD 1) (sliceAt w ((List.range 8).headD 0)).pc.toNat)
    c w.ident.group (List.range 8)
  obtain ⟨u, hu, hudie, hucore, hall⟩ :=
    trapGangs_starves (vals_of_growing h) (List.nodup_dedup _) hv (starving_of_growing hlen h hbare)
  refine ⟨_, rfl, ?_, fun j hj => ?_⟩
  · have hready : hasReady u = true := by
      have hslice := hall.gone 0 (by decide) List.not_mem_nil
      have hmem : sliceAt u 0 ∈ u.slices := sliceAt_mem (by rw [hall.length]; decide)
      exact List.any_eq_true.2 ⟨_, hmem, by simp [hslice.ended, hslice.wait]⟩
    rw [modCore_cores, tget_tput_same, Bool.not_eq_false', List.any_eq_true]
    refine ⟨(k, u), List.mem_filter.2 ⟨mem_of_tfind hu, decide_eq_true ⟨?_, ?_⟩⟩, hready⟩
    · exact hudie.trans ((congrArg Warp.die hbare :).trans hdie)
    · exact hucore.trans ((congrArg Warp.core hbare :).trans hwcore)
  · obtain ⟨hhandler, htcause, htval, -, -⟩ := starved_modCore hu (hall.gone j hj List.not_mem_nil)
    exact ⟨hhandler, htcause, htval⟩

end

/-- Settles O21: a due result, an expired latch, a due asynchronous trap, a fetch in reach and a starved core. -/
theorem sequencerEventsComplete : Obligations.SequencerEventsComplete := by
  refine ⟨fun s k j w e hs hw hlen hj hq hleft => ?_, fun s k j w hs hw hlen hj => ?_,
    fun s k sl w a hs hw hlen hsl hdue => ?_, fun s k sl w p m m' b hs hw htranslate hread _ => ?_,
    fun s c k w hs hon hw hlen hcore hdie hwcore h => ?_⟩
  · exact resultQueueWrite_writes hs hw hlen hj hq hleft
  · exact latchExpiry_expires hs hw hlen hj
  · exact formatTrapEntry_enters hs hw hlen hsl hdue
  · exact ⟨_, instructionFetch_reads hs hw htranslate hread, rfl, rfl, rfl⟩
  · exact registerStarvation_traps hs hon hw hlen hcore hdie hwcore h

end Sys2Proof.Machine
end

section
/-!
PROOFS. The integer and logic rows (R176 to R182, R185): each is an instance of one lane operation, whose result per lane
is the row's.
-/

namespace Sys2Proof.Claims

open Sys2Proof.Machine

/-- R133, R173: an instruction whose meaning queues the results of an integer row, with latency 2. -/
theorem intRow_completes {i : Instr} {f : Form} {d a : BitVec 7} {b : Src} {g : Nat → Bool → Word → Word → Word → Word}
    (hex : ∀ s, exec i s = issue (intRow f d a b g).form (passing fun s k sl =>
      queueLanes s k sl (toReg d (warpAt s k)) 2 guarded ((intRow f d a b g).res s (warpAt s k) sl)) s) :
    LaneCompletes i (intRow f d a b g) :=
  lane_done _ _ (Nat.le_refl 2) (fun _ _ => .rfl) hex

/-- R178: an integer row completes: exact arithmetic, and the three that form their result otherwise. -/
theorem integerRow_completes {i : Instr} {row : LaneRow} (h : IntegerRow i row) : LaneCompletes i row := by
  cases h <;> exact intRow_completes fun _ => rfl

/-- R180: the bits that a shift moves out of the type's width are dropped before or after it is taken at that width. -/
theorem onBits_shiftLeft : onBits shiftLeft = bitwise shlBits := by
  funext ty _ a b d
  have h (w x n : Nat) : shiftLeft w x n 0 % 2 ^ w = shlBits w x n 0 % 2 ^ w := by
    unfold shiftLeft shlBits
    by_cases hn : n < w
    · rw [if_pos hn, if_neg (by omega), Nat.mod_mod]
    · rw [if_neg hn, if_pos (by omega)]
  exact congrArg (fun x : Nat => extend ty x) (h ..)

theorem onBits_shiftRight : onBits shiftRight = bitwise shrBits := by
  funext ty _ a b d
  have h (w x n : Nat) : shiftRight w x n 0 = shrBits w x n 0 := by
    unfold shiftRight shrBits
    by_cases hn : n < w
    · rw [if_pos hn, if_neg (by omega)]
    · rw [if_neg hn, if_pos (by omega)]
  exact congrArg (fun x : Nat => extend ty (x % 2 ^ intWidth ty : Nat)) (h ..)

/-- R179 to R182: a logic row completes. -/
theorem logicRow_completes {i : Instr} {row : LaneRow} (h : LogicRow i row) : LaneCompletes i row := by
  cases h
  case shl | shlImm =>
    rw [onBits_shiftLeft]
    exact intRow_completes fun _ => rfl
  case shr | shrImm =>
    rw [onBits_shiftRight]
    exact intRow_completes fun _ => rfl
  all_goals exact intRow_completes fun _ => rfl

/-- Settles O1: by the rows of each table, which one lemma on lane operations covers. -/
theorem integerAndLogicInstructionsComplete : Obligations.IntegerAndLogicInstructionsComplete :=
  ⟨fun _ _ => integerRow_completes, fun _ _ => logicRow_completes⟩

end Sys2Proof.Claims
end

section
/-!
PROOFS. The end of an instruction in full (R107, R112, R129, R132, R133): each slice, and the parts of the warp that
results reach only where some are due. Then what follows for the instructions of which the statements say what they do
wherever they issue at once.
-/

namespace Sys2Proof.Machine

open Sys2Proof.Claims

theorem bitsOf_eq_nil {n : Nat} {b : BitVec n} : bitsOf n b = [] ↔ b = 0 := by
  refine ⟨fun h => by_contra fun hb => ?_, fun h => ?_⟩
  · obtain ⟨j, hj⟩ := exists_mem_bitsOf hb
    rw [h] at hj
    cases hj
  · subst h
    simp [bitsOf]

/-! ## One issue cycle, slice by slice (R132, R133) -/

/-- The writes of a warp queue after one issue cycle: what is due is gone. -/
def afterWarpTick (q : List WarpResult) : List WarpResult := (q.map WarpResult.tick).filter fun r => r.left ≠ 0

/-- A slice after one issue cycle. -/
def Slice.tick (x : Slice) : Slice := { x with queue := afterTick x.queue, warpQueue := afterWarpTick x.warpQueue }

section

variable {w x : Warp} {sl : BitVec 8} {j : Nat}

theorem sliceAt_tickSlice {i : Nat} (hi : i < w.slices.length) : sliceAt (tickSlice w i) i = (sliceAt w i).tick := by
  have hresults (v : Warp) (l : List Result) (l' : List WarpResult) :
      (l'.foldl writeWarpResult (l.foldl (fun w r => writeResult w i r) v)).slices = v.slices :=
    (foldl_keep Warp.slices _ slices_writeWarpResult _ _).trans (foldl_keep Warp.slices _ (fun w r => slices_writeResult w i r) _ _)
  unfold tickSlice writeDue
  rw [sliceAt_modSliceW_same _ _ _ (by rw [hresults]; simpa using hi), sliceAt_modSliceW_same _ _ _ hi, sliceAt, hresults]
  rw [← sliceAt, sliceAt_modSliceW_same _ _ _ hi]
  rfl

/-- The issue cycle of a gang reaches the queues of its slices alone. -/
theorem sliceAt_tickGang_once (hlen : w.slices.length = 8) (j : Nat) :
    sliceAt (tickGang w sl 1) j = if j ∈ bitsOf 8 sl then (sliceAt w j).tick else sliceAt w j := by
  have hfold (l : List Nat) : ∀ w : Warp, w.slices.length = 8 → l.Nodup → (∀ i ∈ l, i < 8) →
      sliceAt (l.foldl tickSlice w) j = if j ∈ l then (sliceAt w j).tick else sliceAt w j := by
    induction l with
    | nil => intros; simp
    | cons i l ih =>
      intro w hw hnodup hl
      obtain ⟨hi, hnodup⟩ := List.nodup_cons.1 hnodup
      rw [List.foldl_cons, ih _ ((length_tickSlice w i).trans hw) hnodup fun m hm => hl m (List.mem_cons_of_mem _ hm)]
      by_cases hji : j = i
      · subst hji
        rw [if_neg hi, if_pos List.mem_cons_self, sliceAt_tickSlice (hw ▸ hl j List.mem_cons_self)]
      · rw [sliceAt_tickSlice_ne w i j hji]
        simp [hji]
  exact hfold _ w hlen (nodup_bitsOf 8 sl) fun i hi => (mem_bitsOf.1 hi).1

/-! ## The end of an instruction -/

/-- R107: what an instruction's hold makes of its gang's latches. -/
def holdLatches (n : Nat) (held : List (Nat × List Word)) (w : Warp) : Warp :=
  held.foldl (fun w p => modSliceW w p.1 fun x => { x with latches := lmod x.latches n fun _ => ⟨p.2, 2⟩ }) w

/-- The warp as an instruction's last issue cycle ends. -/
def ticked (n : Nat) (held : List (Nat × List Word)) (sl : BitVec 8) (w : Warp) : Warp :=
  tickGang (holdLatches n held (ageLatches w sl)) sl 1

/-- R58: an incomplete fence counts an instruction of its gang. -/
def Speculation.count (sl : BitVec 8) (p : Speculation) : Speculation :=
  if (bitsOf 8 sl).any fun i => p.gang.getLsbD i then { p with issued := p.issued + 1 } else p

/-- The warp that an instruction leaves which took effect as `w`. -/
def issued (n : Nat) (held : List (Nat × List Word)) (sl : BitVec 8) (now : Nat) (w : Warp) : Warp :=
  let v := regroup (ticked n held sl w) (gangMates (ticked n held sl w) sl)
  eachSlice (bitsOf 8 sl) (fun _ x => { x with lastIssue := now }) { v with spec := v.spec.map (·.count sl) }

theorem tfind_finishIssue {f : Form} {s : State} {k : Nat} {held : List (Nat × List Word)} (h : tfind s.warps k = some w) :
    tfind (finishIssue f s k sl held).warps k = some (issued (f.hold - 1) held sl s.now w) :=
  tfind_modGang sl _ (tfind_modWarp _ h)

/-- A slice without its latches, its place in a gang and the time of its last issue. -/
def Slice.unlatched (x : Slice) : Slice := { x with latches := [], gang := 0, lastIssue := 0 }

theorem unlatched_modSliceW (w : Warp) (i : Nat) (f : Slice → Slice)
    (hf : ∀ x, (f x).unlatched = x.unlatched := by exact fun _ => rfl) (j : Nat) :
    (sliceAt (modSliceW w i f) j).unlatched = (sliceAt w j).unlatched := by
  rcases sliceAt_modSliceW_or w i j f with h | ⟨-, h⟩
  · rw [h]
  · rw [h, hf]

theorem unlatched_foldl {α : Type} {g : Warp → α → Warp} {j : Nat}
    (hg : ∀ w a, (sliceAt (g w a) j).unlatched = (sliceAt w j).unlatched) (l : List α) (w : Warp) :
    (sliceAt (l.foldl g w) j).unlatched = (sliceAt w j).unlatched :=
  foldl_keep (fun w => (sliceAt w j).unlatched) g hg l w

theorem unlatched_holdLatches (n : Nat) (held : List (Nat × List Word)) (w : Warp) (j : Nat) :
    (sliceAt (holdLatches n held (ageLatches w sl)) j).unlatched = (sliceAt w j).unlatched := by
  refine (unlatched_foldl (fun w (p : Nat × List Word) => unlatched_modSliceW w p.1 _ (by exact fun _ => rfl) j) _ _).trans ?_
  rw [ageLatches_eq]
  exact unlatched_foldl (fun w i => (unlatched_modSliceW _ i _ (by exact fun _ => rfl) j).trans
    (unlatched_modSliceW w i _ (by exact fun _ => rfl) j)) _ _

@[simp] theorem length_holdLatches (n : Nat) (held : List (Nat × List Word)) (w : Warp) :
    (holdLatches n held (ageLatches w sl)).slices.length = w.slices.length :=
  (foldl_keep (fun w : Warp => w.slices.length) _ (fun w i => by simp) _ _).trans (length_ageLatches w sl)

theorem unlatched_ticked (n : Nat) (held : List (Nat × List Word)) (hlen : w.slices.length = 8) (j : Nat) :
    (sliceAt (ticked n held sl w) j).unlatched =
      if j ∈ bitsOf 8 sl then (sliceAt w j).tick.unlatched else (sliceAt w j).unlatched := by
  have hold : (sliceAt (holdLatches n held (ageLatches w sl)) j).unlatched = (sliceAt w j).unlatched :=
    unlatched_holdLatches n held w j
  rw [ticked, sliceAt_tickGang_once ((length_holdLatches n held w).trans hlen)]
  split
  · exact congrArg Slice.tick hold
  · exact hold

theorem unlatched_regroup (w : Warp) (m : BitVec 8) (j : Nat) :
    (sliceAt (regroup w m) j).unlatched = (sliceAt w j).unlatched :=
  unlatched_foldl (fun w i => unlatched_modSliceW w i _ (by exact fun _ => rfl) j) _ _

/-- The end of an instruction leaves each slice as it was, but for its latches and gang, and one cycle later in the
gang's queues. -/
theorem unlatched_issued (n : Nat) (held : List (Nat × List Word)) (now : Nat) (hlen : w.slices.length = 8) (j : Nat) :
    (sliceAt (issued n held sl now w) j).unlatched =
      if j ∈ bitsOf 8 sl then (sliceAt w j).tick.unlatched else (sliceAt w j).unlatched := by
  rw [← unlatched_ticked n held hlen, ← unlatched_regroup (ticked n held sl w) (gangMates (ticked n held sl w) sl)]
  exact unlatched_foldl (fun w i => unlatched_modSliceW w i _ (by exact fun _ => rfl) j) _ _

end

/-! ## Parts of a warp that the end of an instruction does not reach -/

/-- A warp without its slices, its incomplete fence and what results are written to. -/
def Warp.offQueues (w : Warp) : Warp :=
  { w with slices := [], spec := none, regs := [], preds := [], flags := 0, wrote := [], recs := [], strides := [], tiles := 0 }

/-- A warp without its slices and its incomplete fence. -/
def Warp.offSlices (w : Warp) : Warp := { w with slices := [], spec := none }

@[simp] theorem offQueues_writeResult (w : Warp) (i : Nat) (r : Result) : (writeResult w i r).offQueues = w.offQueues := by
  refine foldl_keep Warp.offQueues _ (fun w j => ?_) (bitsOf 4 r.mask) w
  cases r.dest with
  | reg n => rfl
  | pred p =>
    dsimp only
    unfold setPred
    split <;> rfl
  | none => rfl

theorem offQueues_writeWarpResult (w : Warp) (r : WarpResult) : (writeWarpResult w r).offQueues = w.offQueues := by
  unfold writeWarpResult
  split <;> rfl

theorem offQueues_offQueues : OffQueues Warp.offQueues :=
  ⟨fun _ _ _ => rfl, offQueues_writeResult, offQueues_writeWarpResult⟩

section

variable {w : Warp} {sl : BitVec 8}

/-- What no change of slices, and of an incomplete fence, reaches. -/
theorem issued_keeps {β : Type} (p : Warp → β) (hp : ∀ w i f, p (modSliceW w i f) = p w)
    (hspec : ∀ w sp, p { w with spec := sp } = p w) (n : Nat) (held : List (Nat × List Word)) (now : Nat) :
    p (issued n held sl now w) = p (ticked n held sl w) :=
  (eachSlice_keep p hp _ _ _).trans ((hspec _ _).trans (foldl_keep p _ (fun w i => hp w i _) _ _))

theorem offSlices_holdLatches (n : Nat) (held : List (Nat × List Word)) (w : Warp) :
    (holdLatches n held (ageLatches w sl)).offSlices = w.offSlices := by
  refine (foldl_keep Warp.offSlices _ (by exact fun _ _ => rfl) held _).trans ?_
  rw [ageLatches_eq]
  exact foldl_keep Warp.offSlices _ (by exact fun _ _ => rfl) _ w

theorem offQueues_issued (n : Nat) (held : List (Nat × List Word)) (now : Nat) :
    (issued n held sl now w).offQueues = w.offQueues :=
  calc (issued n held sl now w).offQueues
    _ = (ticked n held sl w).offQueues := issued_keeps _ (fun _ _ _ => rfl) (fun _ _ => rfl) ..
    _ = (holdLatches n held (ageLatches w sl)).offQueues := offQueues_offQueues.tickGang ..
    _ = w.offQueues := (congrArg Warp.offQueues (offSlices_holdLatches n held w) :)

theorem quiet_of_unlatched {v : Warp} (h : ∀ j, (sliceAt v j).unlatched = (sliceAt w j).unlatched) (hq : quiet w sl) :
    quiet v sl := fun j hj => by
  obtain ⟨hqueue, hwarpQueue⟩ := hq j hj
  have hslice := h j
  have hq' : (sliceAt v j).queue = (sliceAt w j).queue := (congrArg Slice.queue hslice :)
  have hwq' : (sliceAt v j).warpQueue = (sliceAt w j).warpQueue := (congrArg Slice.warpQueue hslice :)
  exact ⟨hq'.trans hqueue, hwq'.trans hwarpQueue⟩

/-- Where no result waits in the gang's queues, the end of an instruction reaches slices alone. -/
theorem offSlices_issued_of_quiet (n : Nat) (held : List (Nat × List Word)) (now : Nat) (hlen : w.slices.length = 8)
    (hq : quiet w sl) : (issued n held sl now w).offSlices = w.offSlices := by
  have htick : ticked n held sl w = holdLatches n held (ageLatches w sl) :=
    tickGang_of_quiet ((length_holdLatches n held w).trans hlen)
      (quiet_of_unlatched (fun j => unlatched_holdLatches n held w j) hq) 1
  calc (issued n held sl now w).offSlices
    _ = (ticked n held sl w).offSlices := issued_keeps _ (fun _ _ _ => rfl) (fun _ _ => rfl) ..
    _ = w.offSlices := by rw [htick, offSlices_holdLatches]

end

end Sys2Proof.Machine

namespace Sys2Proof.Claims

open Sys2Proof.Machine

/-! ## The read cycle -/


/-- What the read cycle of a gang's instruction finds: the warp, with every slice of the gang ready, as the table of warps
takes it again. -/
structure InRead (r : State) (k : Nat) (sl : BitVec 8) (w : Warp) : Prop where
  warp : tfind r.warps k = some w
  slices : w.slices.length = 8
  ready : ∀ j ∈ bitsOf 8 sl, (sliceAt w j).wait = .ready
  settled : sl ≠ 0 → ∀ g, g w = w → modWarp r k g = r

section

variable {f : Form} {s : State} {k : Nat} {sl : BitVec 8} {v w x : Warp} {eff : State → Nat → BitVec 8 → Eff} {i : Instr}

theorem tput_tput {α : Type} (t : Tbl α) (k : Nat) (u v : α) : tput (tput t k u) k v = tput t k v := by
  induction t with
  | nil => simp [tput]
  | cons e t ih =>
    obtain ⟨a, x⟩ := e
    unfold tput
    by_cases hlt : k < a
    · simp [hlt, tput]
    · by_cases heq : a = k
      · simp [heq, tput]
      · simp [hlt, heq, tput, ih]

/-- A warp that a change of its gang has just written into the table is written there again without effect. -/
theorem modWarp_modGang_of_fixed {s : State} {f : Slice → Slice} {g : Warp → Warp} (hsl : sl ≠ 0)
    (hw : tfind (modGang s k sl f).warps k = some w) (hg : g w = w) : modWarp (modGang s k sl f) k g = modGang s k sl f := by
  have hmod (s : State) (h : Warp → Warp) (hw : tfind (modWarp s k h).warps k = some w) :
      modWarp (modWarp s k h) k g = modWarp s k h := by
    cases hu : tfind s.warps k with
    | none =>
      rw [modWarp, tfind_tmod_same, hu] at hw
      cases hw
    | some u =>
      have hwu : h u = w := Option.some.inj ((tfind_modWarp h hu).symm.trans hw)
      have hwarps : (modWarp s k h).warps = tput s.warps k w := by
        show tmod s.warps k h = _
        rw [tmod, hu, ← hwu]
      have hagain : tmod (modWarp s k h).warps k g = (modWarp s k h).warps := by
        rw [hwarps, tmod, tfind_tput_same]
        dsimp only
        rw [hg, tput_tput]
      show { modWarp s k h with warps := tmod (modWarp s k h).warps k g } = _
      rw [hagain]
  rcases List.eq_nil_or_concat (bitsOf 8 sl) with hnil | ⟨l, i, hl⟩
  · exact absurd (bitsOf_eq_nil.1 hnil) hsl
  · rw [modGang, hl, List.concat_eq_append, List.foldl_append, List.foldl_cons, List.foldl_nil] at hw ⊢
    exact hmod _ _ hw

theorem inRead_readAt (h : Issues f s k sl v) : ∃ w, InRead (readAt f s k sl v) k sl w ∧ SameFlow w v := by
  obtain ⟨w, hw, hflow⟩ := read_warp h
  refine ⟨w, ⟨hw, hflow.length.trans h.slices, fun j hj => ?_, fun hsl g hg => ?_⟩, hflow⟩
  rotate_left
  · exact modWarp_modGang_of_fixed hsl hw hg
  have hready (s4 : State) (hs4 : tfind (modGang s4 k sl fun x => { x with wait := .ready }).warps k = some w) :
      (sliceAt w j).wait = .ready := by
    cases h4 : tfind s4.warps k with
    | none =>
      have hlisted := congrFun (modGang_listed s4 k sl fun x => { x with wait := .ready }) k
      rw [listed, listed, hs4, h4] at hlisted
      cases hlisted
    | some u =>
      have hu := (tfind_modGang sl (fun x => { x with wait := .ready }) h4).symm.trans hs4
      have hlen : w.slices.length = u.slices.length := by rw [← Option.some.inj hu, length_eachSlice]
      rw [← Option.some.inj hu, sliceAt_eachSlice_mem _ _ _ _ hj (nodup_bitsOf 8 sl)]
      rw [← hlen, hflow.length, h.slices]
      exact (mem_bitsOf.1 hj).1
  exact hready _ hw

/-- An instruction that issues at once and takes effect. -/
theorem issue_effect {u : State} (h : Issues f s k sl v) (hex : exec i s = issue f eff s)
    (he : eff (readAt f s k sl v) k sl = .done u) : ∃ held, exec i s = .next (finishIssue f u k sl held) :=
  ⟨_, hex.trans (issue_done h.issuer h.warp h.fence h.accepted h.inRange h.clear h.room h.granted he)⟩

/-- What an instruction does wherever it issues at once follows from its effect in the read cycle. -/
theorem does_of_effect {ok : State → Nat → BitVec 8 → Warp → Prop} {post : State → Nat → BitVec 8 → Warp → State → Prop}
    (hex : ∀ s, exec i s = issue f eff s)
    (heff : ∀ r k sl w, InRead r k sl w → ok r k sl w →
      ∃ u, eff r k sl = .done u ∧ ∀ held, post r k sl w (finishIssue f u k sl held)) : Does i f ok post := by
  intro s k sl v h r hok
  obtain ⟨w, hw, -⟩ := inRead_readAt h
  rw [warpAt_of_tfind hw.warp] at hok ⊢
  obtain ⟨u, hu, hpost⟩ := heff _ k sl w hw hok
  obtain ⟨held, hnext⟩ := issue_effect h (hex s) hu
  exact ⟨_, hnext, hpost held⟩

/-! ## The end of an instruction, and of one that passes on -/

/-- State `t` is what an instruction leaves whose effect made the warp `x` in state `u`. -/
structure TookEffect (k : Nat) (sl : BitVec 8) (x : Warp) (u t : State) : Prop where
  rest : t = { u with warps := t.warps }
  slice : ∀ j ∈ bitsOf 8 sl, (sliceOf t k j).unlatched = (sliceAt x j).tick.unlatched
  outside : ∀ j ∉ bitsOf 8 sl, (sliceOf t k j).unlatched = (sliceAt x j).unlatched
  warp : (warpAt t k).offQueues = x.offQueues
  quiet : quiet x sl → (warpAt t k).offSlices = x.offSlices

theorem tookEffect_finishIssue {u : State} (hx : tfind u.warps k = some x) (hlen : x.slices.length = 8)
    (held : List (Nat × List Word)) : TookEffect k sl x u (finishIssue f u k sl held) := by
  have hwarp := warpAt_of_tfind (tfind_finishIssue (f := f) (sl := sl) (held := held) hx)
  refine ⟨?_, fun j hj => ?_, fun j hj => ?_, ?_, fun hq => ?_⟩
  · obtain ⟨ws, h⟩ := finishIssue_eq f u k sl held
    rw [h]
  · rw [sliceOf, hwarp, unlatched_issued _ _ _ hlen, if_pos hj]
  · rw [sliceOf, hwarp, unlatched_issued _ _ _ hlen, if_neg hj]
  · rw [hwarp, offQueues_issued]
  · rw [hwarp, offSlices_issued_of_quiet _ _ _ hlen hq]

theorem sameSlice_of_unlatched {y z : Slice} (h : y.unlatched = z.tick.unlatched) : SameSlice y z := by
  constructor
  · exact (congrArg Slice.pc h :)
  · exact (congrArg Slice.mode h :)
  · exact (congrArg Slice.active h :)
  · exact (congrArg Slice.stack h :)
  · exact (congrArg Slice.ended h :)
  · exact (congrArg Slice.handler h :)
  · exact (congrArg Slice.wait h :)
  · exact (congrArg Slice.tpc h :)
  · exact (congrArg Slice.tmode h :)
  · exact (congrArg Slice.tmask h :)
  · exact (congrArg Slice.tcause h :)
  · exact (congrArg Slice.tval h :)
  · exact (congrArg Slice.clockHi h :)
  · exact (congrArg Slice.asyncTrap h :)

namespace TookEffect

variable {u t : State} {j : Nat}

theorem same (h : TookEffect k sl x u t) (hj : j ∈ bitsOf 8 sl) : SameSlice (sliceOf t k j) (sliceAt x j) :=
  sameSlice_of_unlatched (h.slice j hj)

theorem queue (h : TookEffect k sl x u t) (hj : j ∈ bitsOf 8 sl) : (sliceOf t k j).queue = afterTick (sliceAt x j).queue :=
  (congrArg Slice.queue (h.slice j hj) :)

theorem warpQueue (h : TookEffect k sl x u t) (hj : j ∈ bitsOf 8 sl) :
    (sliceOf t k j).warpQueue = afterWarpTick (sliceAt x j).warpQueue :=
  (congrArg Slice.warpQueue (h.slice j hj) :)

/-- A part of the warp that results do not reach. -/
theorem part {β : Type} (h : TookEffect k sl x u t) (p : Warp → β)
    (hp : ∀ w, p w.offQueues = p w := by exact fun _ => rfl) : p (warpAt t k) = p x := by
  rw [← hp, h.warp, hp]

/-- A part of a warp in whose gang no result waits. -/
theorem partOfQuiet {β : Type} (h : TookEffect k sl x u t) (hq : Claims.quiet x sl) (p : Warp → β)
    (hp : ∀ w, p w.offSlices = p w := by exact fun _ => rfl) : p (warpAt t k) = p x := by
  rw [← hp, h.quiet hq, hp]

end TookEffect

theorem advanced (hlen : x.slices.length = 8) {j : Nat} (hj : j ∈ bitsOf 8 sl) :
    sliceAt (eachSlice (bitsOf 8 sl) (fun _ => Slice.advance) x) j = (sliceAt x j).advance :=
  sliceAt_eachSlice_mem _ _ _ _ hj (nodup_bitsOf 8 sl) (hlen ▸ (mem_bitsOf.1 hj).1)

/-- State `t` is what an instruction leaves that made the warp `x` in state `u` and passed on. -/
structure WentOn (k : Nat) (sl : BitVec 8) (x : Warp) (u t : State) : Prop where
  rest : t = { u with warps := t.warps }
  slice : ∀ j ∈ bitsOf 8 sl, (sliceOf t k j).unlatched = (sliceAt x j).advance.tick.unlatched
  warp : (warpAt t k).offQueues = x.offQueues
  quiet : Claims.quiet x sl → (warpAt t k).offSlices = x.offSlices

theorem wentOn_finishIssue {u : State} (hx : tfind u.warps k = some x) (hlen : x.slices.length = 8)
    (held : List (Nat × List Word)) :
    WentOn k sl x u (finishIssue f (modGang u k sl Slice.advance) k sl held) := by
  have h : TookEffect k sl _ _ (finishIssue f (modGang u k sl Slice.advance) k sl held) :=
    tookEffect_finishIssue (tfind_modGang sl Slice.advance hx) ((length_eachSlice ..).trans hlen) held
  obtain ⟨ws, hgang⟩ := modGang_eq u k sl Slice.advance
  refine ⟨?_, fun j hj => ?_, ?_, fun hq => ?_⟩
  · rw [hgang] at h ⊢
    exact h.rest
  · rw [h.slice j hj, advanced hlen hj]
  · exact h.warp.trans (eachSlice_keep Warp.offQueues (fun _ _ _ => rfl) _ _ _)
  · refine (h.quiet fun j hj => ?_).trans (eachSlice_keep Warp.offSlices (fun _ _ _ => rfl) _ _ _)
    rw [advanced hlen hj]
    exact hq j hj

namespace WentOn

variable {u t : State}

theorem same (h : WentOn k sl x u t) {j : Nat} (hj : j ∈ bitsOf 8 sl) : SameSlice (sliceOf t k j) (sliceAt x j).advance :=
  sameSlice_of_unlatched (h.slice j hj)

/-- Every slice of the gang stands at the next word, seen from a warp with the same program counters. -/
theorem steps (h : WentOn k sl x u t) (hpc : ∀ j, (sliceAt x j).pc = (sliceAt w j).pc := by exact fun _ => rfl) :
    stepsOn k sl w t :=
  fun j hj => (h.same hj).pc.trans (congrArg (· + 4) (hpc j))

theorem part {β : Type} (h : WentOn k sl x u t) (p : Warp → β)
    (hp : ∀ w, p w.offQueues = p w := by exact fun _ => rfl) : p (warpAt t k) = p x := by
  rw [← hp, h.warp, hp]

theorem partOfQuiet {β : Type} (h : WentOn k sl x u t) (hq : Claims.quiet x sl) (p : Warp → β)
    (hp : ∀ w, p w.offSlices = p w := by exact fun _ => rfl) : p (warpAt t k) = p x := by
  rw [← hp, h.quiet hq, hp]

end WentOn

/-- What an instruction does that passes on wherever it issues at once. -/
theorem does_of_passing {ok : State → Nat → BitVec 8 → Warp → Prop} {post : State → Nat → BitVec 8 → Warp → State → Prop}
    (hex : ∀ s, exec i s = issue f eff s)
    (heff : ∀ r k sl w, InRead r k sl w → ok r k sl w →
      ∃ g : State → Nat → BitVec 8 → State, eff r k sl = passing g r k sl ∧ ∃ x, tfind (g r k sl).warps k = some x ∧
        x.slices.length = 8 ∧ ∀ t, WentOn k sl x (g r k sl) t → post r k sl w t) : Does i f ok post :=
  does_of_effect hex fun r k sl w hw hok => by
    obtain ⟨g, he, x, hx, hlen, hpost⟩ := heff r k sl w hw hok
    exact ⟨_, he, fun held => hpost _ (wentOn_finishIssue hx hlen held)⟩

end

end Sys2Proof.Claims
end

section
/-!
PROOFS. A queued result lands as its last issue cycle ends (R104, R132, R133), seen at a NOP, whose read cycle changes
nothing of the warp's registers.
-/

namespace Sys2Proof.Machine

open Sys2Proof.Claims

/-! ## The read cycle of an instruction that names no register and makes no drain -/

theorem extraCycles_of_plain {f : Form} (hreads : f.reads = []) (hwaits : f.waits = []) (hdrains : f.drains = false)
    (w : Warp) (sl : BitVec 8) : extraCycles f w sl = 0 := by
  unfold extraCycles
  simp only [hreads, hwaits, hdrains, List.map_nil, Bool.false_eq_true, if_false]
  have hnone : ∀ l : List Nat, l = [] → l.foldl max 0 = 0 := fun l hl => by rw [hl]; rfl
  rw [hnone]
  · simp [bankConflict]
  · rw [List.flatMap_eq_nil_iff]
    intro i _
    rw [List.filterMap_eq_nil_iff]
    intro r _
    split
    · exact if_neg List.not_mem_nil
    · rfl

/-- Such an instruction reads the warp as it is, its gang ready. -/
theorem readAt_of_plain {f : Form} {s : State} {k : Nat} {sl : BitVec 8} {w : Warp} (h : Issues f s k sl w)
    (hreads : f.reads = []) (hwrites : f.writes = []) (hwaits : f.waits = []) (hdrains : f.drains = false) :
    ∃ sp, (w.spec = none → sp = none) ∧ tfind (Claims.readAt f s k sl w).warps k =
      some (eachSlice (bitsOf 8 sl) (fun _ x => { x with wait := .ready }) { w with spec := sp }) ∧
      (Claims.readAt f s k sl w).contexts = s.contexts := by
  have hcopied : copiedGranules s w ((f.writes ++ f.waits).map (w.win + ·)) = [] := by
    rw [hwrites, hwaits]
    rfl
  have hgrant : tfind (grantFor f s k sl w).2.warps k = some w ∧ (grantFor f s k sl w).2.contexts = s.contexts := by
    unfold grantFor
    rw [hcopied]
    refine ⟨(congrArg (tfind · k) (warps_dropRequests _ _ _)).trans h.warp, ?_⟩
    unfold dropRequests
    simp only [List.isEmpty_nil, if_true]
    split <;> rfl
  obtain ⟨hwarp, hcontexts⟩ := hgrant
  unfold Claims.readAt
  generalize (grantFor f s k sl w).2 = s0 at hwarp hcontexts
  have hgang (u : State) (x : Warp) (hu : tfind u.warps k = some x) (hc : u.contexts = s.contexts) :
      tfind (modGang u k sl fun x => { x with wait := .ready }).warps k =
        some (eachSlice (bitsOf 8 sl) (fun _ x => { x with wait := .ready }) x) ∧
      (modGang u k sl fun x => { x with wait := .ready }).contexts = s.contexts := by
    obtain ⟨ws, hm⟩ := modGang_eq u k sl fun x => { x with wait := .ready }
    exact ⟨tfind_modGang sl _ hu, by rw [hm]; exact hc⟩
  have hfold (l : List Nat) (u : State) :
      l.foldl (fun s i => f.reads.foldl (fun s r => freshenLatch s k i r) s) u = u :=
    foldl_keep id _ (fun u i => by rw [hreads]; rfl) l u
  unfold readCycle
  rw [hcopied, extraCycles_of_plain hreads hwaits hdrains, hdrains]
  simp only [List.foldl_nil, List.length_nil, Nat.mul_zero, Nat.add_zero, Bool.false_eq_true, if_false, hfold]
  have htick : tfind (modWarp s0 k fun w' => tickGang w' sl 0).warps k = some w := tfind_modWarp _ hwarp
  split
  · exact ⟨w.spec, id, hgang _ w htick hcontexts⟩
  · exact ⟨_, fun hnone => by rw [hnone]; rfl, hgang _ _ (tfind_modWarp _ htick) hcontexts⟩

/-! ## The write of a result that is alone in its gang's queues -/

section

variable {β : Type} {p : Warp → β} {q : β → β} {e : Result} {j : Nat}

theorem tickSlice_of_no_result (hslice : ∀ w i f, p (modSliceW w i f) = p w) (hwarp : ∀ w r, p (writeWarpResult w r) = p w)
    {w : Warp} {i : Nat} (hi : i < w.slices.length) (hqueue : (sliceAt w i).queue = []) : p (tickSlice w i) = p w := by
  unfold tickSlice writeDue
  rw [sliceAt_modSliceW_same _ _ _ hi, hqueue]
  exact (hslice _ _ _).trans ((foldl_keep p _ hwarp _ _).trans (hslice _ _ _))

/-- An issue cycle of a gang in whose queues only slice `j` has a result, which is due then. -/
theorem tickGang_of_single (hslice : ∀ w i f, p (modSliceW w i f) = p w)
    (hwarp : ∀ w r, p (writeWarpResult w r) = p w) (hresult : ∀ w, p (writeResult w j e.tick) = q (p w))
    (hleft : e.left = 1) {w : Warp} {sl : BitVec 8} (hlen : w.slices.length = 8) (hj : j ∈ bitsOf 8 sl)
    (hqueue : ∀ i ∈ bitsOf 8 sl, (sliceAt w i).queue = if i = j then [e] else []) : p (tickGang w sl 1) = q (p w) := by
  have hfold (l : List Nat) : ∀ w : Warp, w.slices.length = 8 → l.Nodup →
      (∀ i ∈ l, i < 8 ∧ (sliceAt w i).queue = if i = j then [e] else []) →
      p (l.foldl tickSlice w) = if j ∈ l then q (p w) else p w := by
    induction l with
    | nil => intros; simp
    | cons i l ih =>
      intro w hlen hnodup hl
      obtain ⟨hi, hnodup⟩ := List.nodup_cons.1 hnodup
      obtain ⟨hi8, hq⟩ := hl i List.mem_cons_self
      have hnext := ih (tickSlice w i) ((length_tickSlice w i).trans hlen) hnodup fun m hm => by
        rw [sliceAt_tickSlice_ne w i m fun hmi => hi (hmi ▸ hm)]
        exact hl m (List.mem_cons_of_mem _ hm)
      rw [List.foldl_cons, hnext]
      by_cases hij : i = j
      · subst hij
        rw [if_pos rfl] at hq
        have hdue : (sliceAt (modSliceW w i fun x => { x with
            queue := x.queue.map fun r => { r with left := r.left - 1 }
            warpQueue := x.warpQueue.map fun r => { r with left := r.left - 1 } }) i).queue = [e.tick] := by
          rw [sliceAt_modSliceW_same _ _ _ (hlen ▸ hi8), hq]
          rfl
        rw [if_neg hi, if_pos List.mem_cons_self, tickSlice,
          writeDue_of_single hdue (by simp [Result.tick, hleft]) p hslice hwarp, hresult, hslice]
      · rw [if_neg hij] at hq
        rw [tickSlice_of_no_result hslice hwarp (hlen ▸ hi8) hq]
        simp [Ne.symm hij]
  rw [show tickGang w sl 1 = (bitsOf 8 sl).foldl tickSlice w from rfl,
    hfold _ w hlen (nodup_bitsOf 8 sl) fun i hi => ⟨(mem_bitsOf.1 hi).1, hqueue i hi⟩, if_pos hj]

/-- So it is at the end of an instruction, of parts of the warp other than its slices. -/
theorem issued_of_single (hoff : ∀ w : Warp, p w.offSlices = p w) (hwarp : ∀ w r, p (writeWarpResult w r) = p w)
    (hresult : ∀ w, p (writeResult w j e.tick) = q (p w)) (hleft : e.left = 1) {w : Warp} {sl : BitVec 8}
    (hlen : w.slices.length = 8) (hj : j ∈ bitsOf 8 sl)
    (hqueue : ∀ i ∈ bitsOf 8 sl, (sliceAt w i).queue = if i = j then [e] else []) (n : Nat)
    (held : List (Nat × List Word)) (now : Nat) : p (issued n held sl now w) = q (p w) := by
  have hslice (w i f) : p (modSliceW w i f) = p w := by rw [← hoff, ← hoff w]; rfl
  have hspec (w : Warp) (sp) : p { w with spec := sp } = p w := by rw [← hoff, ← hoff w]; rfl
  rw [issued_keeps p hslice hspec, ticked, tickGang_of_single hslice hwarp hresult hleft
    ((length_holdLatches n held w).trans hlen) hj, ← hoff, offSlices_holdLatches, hoff]
  intro i hi
  have hheld := unlatched_holdLatches (sl := sl) n held w i
  exact (congrArg Slice.queue hheld :).trans (hqueue i hi)

end

end Sys2Proof.Machine

namespace Sys2Proof.Claims

open Sys2Proof.Machine

/-- Settles O9: the NOP's own issue cycle is the last that the result needs. -/
theorem queuedResultsLandOnTime : Obligations.QueuedResultsLandOnTime := by
  intro s k sl w h j hj n m vals fl _ hqueue
  obtain ⟨sp, -, hread, -⟩ := readAt_of_plain h rfl rfl rfl rfl
  obtain ⟨held, hnext⟩ := issue_effect (i := .nop) h rfl (he := rfl)
  set v : Warp := eachSlice (bitsOf 8 sl) (fun _ x => { x with wait := .ready }) { w with spec := sp } with hv
  set x : Warp := eachSlice (bitsOf 8 sl) (fun _ => Slice.advance) v with hx
  have hlen : v.slices.length = 8 := (length_eachSlice ..).trans h.slices
  have hxlen : x.slices.length = 8 := (length_eachSlice ..).trans hlen
  have hxqueue : ∀ i ∈ bitsOf 8 sl, (sliceAt x i).queue = if i = j then [⟨.reg n, m, vals, fl, 1⟩] else [] := fun i hi => by
    rw [hx, advanced hlen hi, hv, sliceAt_eachSlice_mem _ _ _ _ hi (nodup_bitsOf 8 sl) (h.slices ▸ (mem_bitsOf.1 hi).1)]
    exact hqueue i hi
  have hkept {β : Type} (p : Warp → β) (hslice : ∀ w i f, p (modSliceW w i f) = p w)
      (hspec : ∀ w sp, p { w with spec := sp } = p w) : p x = p w :=
    (eachSlice_keep p hslice _ _ _).trans ((eachSlice_keep p hslice _ _ _).trans (hspec w sp))
  have hgang : tfind (modGang (readAt { past := true } s k sl w) k sl Slice.advance).warps k = some x :=
    tfind_modGang sl _ hread
  refine ⟨_, hnext, ?_, ?_, ?_⟩
  · refine ((tookEffect_finishIssue hgang hxlen held).queue hj).trans ?_
    rw [hxqueue j hj]
    simp [afterTick, Result.tick]
  all_goals rw [warpAt_of_tfind (tfind_finishIssue hgang)]
  · rw [issued_of_single (p := Warp.flags) (q := (· ||| fl)) (fun _ => rfl) (fun w r => (writeWarpResult_lanes w r).1)
      (fun w => flags_writeResult w j _) rfl hxlen hj hxqueue, hkept Warp.flags (fun _ _ _ => rfl) fun _ _ => rfl]
  · rw [issued_of_single (p := Warp.regs) (q := (writeCells · (resultCells ⟨.reg n, m, vals, fl, 0⟩ j n))) (fun _ => rfl)
      (fun w r => (writeWarpResult_lanes w r).2.1) (fun w => regs_writeResult_reg rfl w j) rfl hxlen hj hxqueue,
      hkept Warp.regs (fun _ _ _ => rfl) fun _ _ => rfl]
    exact ⟨fun c hc hm => tget_resultCells_of_mem w.regs (mem_bitsOf.2 ⟨hc, hm⟩), fun a ha =>
      tget_resultCells_of_not_mem w.regs fun c hc => ha c (mem_bitsOf.1 hc).1 (mem_bitsOf.1 hc).2⟩

end Sys2Proof.Claims
end

section
/-!
PROOFS. Control flow and writes of a slice's mode and trap registers (R114, R130, R138 to R142, R146, R148, R149): each
changes the slices of its gang one by one, as its row says.
-/

namespace Sys2Proof.Machine

open Sys2Proof.Claims

/-! ## Entries that hold no lane that has not ended (R131, R143) -/

theorem popActive_eq (l : List StackEntry) (x : Slice) : popActive l x = popsOn x l := by
  induction l with
  | nil => rfl
  | cons e r ih =>
    unfold popActive popsOn
    by_cases he : e.mask = 0
    · rw [if_pos he, ih, List.dropWhile_cons_of_pos (by simp [he])]
      rfl
    · rw [if_neg he, List.dropWhile_cons_of_neg (by simpa using he)]

theorem ended_popsOn {x : Slice} {l : List StackEntry} (h : ∃ e ∈ l, e.mask ≠ 0) : (popsOn x l).ended = x.ended := by
  unfold popsOn
  split
  · rename_i hnil
    obtain ⟨e, he, hmask⟩ := h
    exact absurd (List.dropWhile_eq_nil_iff.1 hnil e he) (by simpa using hmask)
  · rfl

theorem resume_eq (x : Slice) (r : List StackEntry) (m : BitVec 4) (pc : VAddr) :
    resume x r m pc = if m = 0 then popsOn x r else { x with stack := r, active := m, pc := pc } := by
  unfold resume
  by_cases hm : m = 0
  · rw [if_pos hm, if_pos hm, popActive_eq]
    unfold popsOn
    split <;> rfl
  · rw [if_neg hm, if_neg hm]

theorem ended_resume {x : Slice} {e : StackEntry} {r : List StackEntry} (h : ∃ a ∈ e :: r, a.mask ≠ 0) (pc : VAddr) :
    (resume x r e.mask pc).ended = x.ended := by
  rw [resume_eq]
  split
  · rename_i he
    obtain ⟨a, ha, hmask⟩ := h
    refine ended_popsOn ⟨a, (List.mem_cons.1 ha).resolve_left fun hae => hmask (hae ▸ he), hmask⟩
  · rfl

/-! ## Targets of BRI and CALLI (R142) -/

theorem firstTarget_eq (s : State) (w : Warp) (i f : Nat) : firstTarget s w i f =
    if guarded w i = 0 then none
    else some (laneTarget s w f i ((bitsOf 4 (guarded w i)).headD 0), agreeing s w f i) := by
  unfold firstTarget agreeing
  dsimp only
  split
  · rename_i hnil
    rw [if_pos (bitsOf_eq_nil.1 hnil)]
  · rename_i j l hcons
    rw [if_neg fun h0 => by simp [bitsOf_eq_nil.2 h0] at hcons, hcons]
    rfl

/-! ## Mode fields (R114) -/

theorem ofNat_mul_two_pow (a k : Nat) : BitVec.ofNat 32 (a * 2 ^ k) = BitVec.ofNat 32 a <<< k := by
  apply BitVec.eq_of_toNat_eq
  simp [BitVec.toNat_shiftLeft, Nat.shiftLeft_eq]

theorem putField_eq (m : Word) (lo n v : Nat) : putField m lo n v =
    (m &&& ~~~(BitVec.ofNat 32 ((2 ^ n - 1) * 2 ^ lo))) ||| BitVec.ofNat 32 (v % 2 ^ n * 2 ^ lo) := by
  rw [ofNat_mul_two_pow, ofNat_mul_two_pow]
  rfl

/-! ## Operands (R110, R130, R155): they are read from the warp and its template -/

section

variable {s t : State}

theorem chainReg_congr (h : t.images = s.images) (d : Nat) (k : Option Nat) (n l : Nat) :
    chainReg t d k n l = chainReg s d k n l := by
  induction d generalizing k with
  | zero => rfl
  | succ d ih => simp only [chainReg, h, ih]

theorem imageOf_congr (h : t.images = s.images) (w : Warp) : imageOf t w = imageOf s w := by
  unfold imageOf
  rw [h]

theorem physReg_congr (h : t.images = s.images) (w : Warp) (n l : Nat) : physReg t w n l = physReg s w n l := by
  unfold physReg backed
  rw [imageOf_congr h, chainReg_congr h]

theorem srcReg_congr (h : t.images = s.images) (w : Warp) (f l : Nat) : srcReg t w f l = srcReg s w f l := by
  unfold srcReg
  rw [physReg_congr h]

theorem sliceOperand_congr (h : t.images = s.images) (w : Warp) (f i : Nat) : sliceOperand t w f i = sliceOperand s w f i :=
  srcReg_congr h ..

/-- R149: what WRS writes to a register of each slice of a gang is the slice's operand. -/
theorem foldl_sliceOperand (g : Slice → Sys2Proof.Word → Slice) (k f : Nat) (w : Warp) (l : List Nat) (h : t.images = s.images) :
    l.foldl (fun u i => modSlice u k i fun x => g x (sliceOperand u w f i)) t =
      l.foldl (fun u i => modSlice u k i fun x => g x (sliceOperand s w f i)) t := by
  induction l generalizing t with
  | nil => rfl
  | cons i l ih =>
    simp only [List.foldl_cons, sliceOperand_congr h]
    exact ih h

end

end Sys2Proof.Machine

namespace Sys2Proof.Claims

open Sys2Proof.Machine

/-! ## Instructions that change the slices of their gang -/

section

variable {i : Instr} {row : FlowRow} {eff : State → Nat → BitVec 8 → Eff}

/-- An instruction whose effect leaves the slices of its gang as its row says completes. -/
theorem flowCompletes_of_effect (hex : ∀ s, exec i s = issue row.form eff s)
    (heff : ∀ r k sl w, InRead r k sl w → row.ok r w sl → ∃ u x, eff r k sl = .done u ∧ tfind u.warps k = some x ∧
      x.slices.length = 8 ∧ ∀ j ∈ bitsOf 8 sl, SameSlice (sliceAt x j) (row.move r w j (sliceAt w j))) :
    FlowCompletes i row := by
  intro s k sl v h r hok
  obtain ⟨w, hw, -⟩ := inRead_readAt h
  have hslice (j : Nat) : sliceOf (readAt row.form s k sl v) k j = sliceAt w j := by rw [sliceOf, warpAt_of_tfind hw.warp]
  simp only [r, hslice, warpAt_of_tfind hw.warp] at hok ⊢
  obtain ⟨u, x, hu, hx, hlen, hmove⟩ := heff _ k sl w hw hok
  obtain ⟨held, hnext⟩ := issue_effect h (hex s) hu
  exact ⟨_, hnext, fun j hj => ((tookEffect_finishIssue hx hlen held).same hj).trans (hmove j hj)⟩

theorem sliceAt_eachSlice_of_inRead {r : State} {k : Nat} {sl : BitVec 8} {w : Warp} (h : InRead r k sl w)
    (g : Nat → Slice → Slice) {j : Nat} (hj : j ∈ bitsOf 8 sl) :
    sliceAt (eachSlice (bitsOf 8 sl) g w) j = g j (sliceAt w j) :=
  sliceAt_eachSlice_mem _ _ _ _ hj (nodup_bitsOf 8 sl) (h.slices ▸ (mem_bitsOf.1 hj).1)

/-- An instruction of which `g` says what it makes of each slice. -/
theorem flowCompletes_of_flow (g : State → Warp → Nat → Slice → Slice) (hex : ∀ s, exec i s = issue row.form eff s)
    (heff : ∀ r k sl w, tfind r.warps k = some w → row.ok r w sl → eff r k sl = flow r k sl (g r w) ∧
      ∀ j ∈ bitsOf 8 sl, SameSlice (g r w j (sliceAt w j)) (row.move r w j (sliceAt w j))) : FlowCompletes i row :=
  flowCompletes_of_effect hex fun r k sl w hw hok => by
    obtain ⟨he, hmove⟩ := heff r k sl w hw.warp hok
    refine ⟨_, _, he, tfind_foldSlices _ _ hw.warp, (length_eachSlice ..).trans hw.slices, fun j hj => ?_⟩
    rw [sliceAt_eachSlice_of_inRead hw _ hj]
    exact hmove j hj

end

/-! ## Branches and calls (R140 to R142) -/

theorem stackFull_of_room {r : State} {w : Warp} {sl : BitVec 8} (h : roomOnStack r w sl) : stackFull w sl 1 = false := by
  rw [stackFull, List.any_eq_false]
  intro i hi
  have := h i hi
  simp only [decide_eq_true_eq]
  omega

theorem flowCompletes_brc {o : BitVec 24} {row : FlowRow} (h : ControlRow (.brc o) row) : FlowCompletes (.brc o) row := by
  cases h
  refine flowCompletes_of_flow (fun _ w i x =>
    let t := guarded w i
    if t = x.active then { x with pc := jumpTarget x.pc o }
    else if t = 0 then x.advance
    else { x.push .pending (jumpTarget x.pc o) t with active := x.active &&& ~~~t, pc := x.pc + 4 })
    (fun _ => rfl) fun r k sl w hw hroom => ⟨?_, fun j _ => .rfl⟩
  have hfits : ((bitsOf 8 sl).any fun i => decide (guarded w i ≠ 0 ∧ guarded w i ≠ (sliceAt w i).active) &&
      decide (16 ≤ (sliceAt w i).stack.length)) = false := by
    rw [List.any_eq_false]
    intro i hi
    have := hroom i hi
    simp only [Bool.and_eq_true, decide_eq_true_eq, not_and]
    exact fun hd => by have := this hd; omega
  simp only [warpAt_of_tfind hw, hfits, Bool.false_eq_true, if_false]

/-- R142: what BRI, or CALLI, makes of a slice. -/
def goTo (call : Bool) (f : Nat) (r : State) (w : Warp) (i : Nat) (x : Slice) : Slice :=
  match firstTarget r w i f with
  | none => x.advance
  | some (t, g) =>
    let rest := x.active &&& ~~~g
    let x1 := if rest = 0 then x else x.push .pending x.pc rest
    let x2 := if call then x1.push .call (x.pc + 4) g else x1
    { x2 with active := g, pc := t }

theorem goTo_eq (h : BitVec 2) (a : BitVec 7) (call : Bool) (r : State) (w : Warp) (i : Nat) (x : Slice) :
    goTo call a.toNat r w i x = (indirectRow (if call then 1 else 0) h a).move r w i x := by
  unfold goTo indirectRow
  rw [firstTarget_eq]
  by_cases h0 : guarded w i = 0
  · simp only [h0, if_true]
    rfl
  · simp only [h0, if_false]
    by_cases hrest : x.active &&& ~~~(agreeing r w a.toNat i) = 0
    · simp only [hrest, if_true]
      cases call <;> rfl
    · simp only [hrest, if_false]
      cases call <;> rfl

/-- R142: BRI and CALLI. -/
theorem flowCompletes_indirect {i : Instr} {call : Bool} {h : BitVec 2} {a : BitVec 7}
    (hex : ∀ s, exec i s = indirect call h a s) : FlowCompletes i (indirectRow (if call then 1 else 0) h a) := by
  refine flowCompletes_of_flow (goTo call a.toNat) hex fun r k sl w hw hok => ⟨?_, fun j _ => ?_⟩
  · obtain ⟨haligned, hroom⟩ := hok
    simp only [warpAt_of_tfind hw]
    split
    · rename_i v hbad
      obtain ⟨i, hi, hbad⟩ := List.exists_of_findSome?_eq_some hbad
      obtain ⟨j, hj, hbad⟩ := List.exists_of_findSome?_eq_some hbad
      rw [if_neg (not_not.2 (haligned i hi j hj))] at hbad
      cases hbad
    · refine (if_neg ?_).trans rfl
      rw [Bool.not_eq_true, List.any_eq_false]
      intro i hi
      have hfits := hroom i hi
      rw [firstTarget_eq]
      by_cases h0 : guarded w i = 0
      · simp only [pushes, h0, if_true] at hfits ⊢
        simpa using hfits
      · simp only [pushes, h0, if_false] at hfits ⊢
        simpa using hfits
  · rw [goTo_eq h]
    exact .rfl

/-! ## JOIN and RET (R140) -/

/-- R140: pops that all succeed, in slices of which none ends. -/
theorem popping_effect {joins : Bool} {pop : Slice → Except Nat Slice} {r : State} {k : Nat} {sl : BitVec 8} {w : Warp}
    (h : InRead r k sl w) (g : Slice → Slice) (hpop : ∀ j ∈ bitsOf 8 sl, pop (sliceAt w j) = .ok (g (sliceAt w j)))
    (hended : ∀ j ∈ bitsOf 8 sl, (g (sliceAt w j)).ended = false) :
    ∃ u x, popping joins pop r k sl = .done u ∧ tfind u.warps k = some x ∧ x.slices.length = 8 ∧
      ∀ j ∈ bitsOf 8 sl, sliceAt x j = g (sliceAt w j) := by
  unfold popping
  simp only [warpAt_of_tfind h.warp]
  split
  · rename_i v hbad
    obtain ⟨j, hj, hbad⟩ := List.exists_of_findSome?_eq_some hbad
    rw [hpop j hj] at hbad
    cases hbad
  · have hx : tfind ((bitsOf 8 sl).foldl (fun s i => modSlice s k i fun x => (pop x).toOption.getD x) r).warps k =
        some (eachSlice (bitsOf 8 sl) (fun _ x => (pop x).toOption.getD x) w) := tfind_foldSlices _ _ h.warp
    have hslice : ∀ j ∈ bitsOf 8 sl,
        sliceAt (eachSlice (bitsOf 8 sl) (fun _ x => (pop x).toOption.getD x) w) j = g (sliceAt w j) := fun j hj => by
      rw [sliceAt_eachSlice_of_inRead h _ hj, hpop j hj]
      rfl
    have hend (u : State) (hu : tfind u.warps k = some (eachSlice (bitsOf 8 sl) (fun _ x => (pop x).toOption.getD x) w)) :
        ((bitsOf 8 sl).any fun i => (sliceAt (warpAt u k) i).ended) = false := by
      rw [List.any_eq_false, warpAt_of_tfind hu]
      intro j hj
      rw [hslice j hj, hended j hj]
      exact Bool.false_ne_true
    have hjoined (m : BitVec 8) : tfind (if joins && m != 0 then reconverge _ k m else _).warps k = _ :=
      (congrArg (tfind · k) (by split <;> rfl)).trans hx
    rw [hend _ (hjoined _)]
    exact ⟨_, _, rfl, hjoined _, (length_eachSlice ..).trans h.slices, hslice⟩

/-- What JOIN and RET make of a slice with entries `e :: r`. -/
def popped (x : Slice) (e : StackEntry) (r : List StackEntry) (pc : VAddr) : Slice :=
  if e.mask = 0 then popsOn x r else { x with stack := r, active := e.mask, pc := pc }

/-- JOIN and RET, of slices whose top entry is of a kind that they pop. -/
theorem flowCompletes_popping {i : Instr} {joins : Bool} {pop : Slice → Except Nat Slice} {kinds : EntryKind → Bool}
    {row : FlowRow} (g : Slice → Slice) (pc : Slice → StackEntry → VAddr)
    (hex : ∀ s, exec i s = issue row.form (popping joins pop) s)
    (hok : ∀ r w sl, row.ok r w sl → topIs kinds r w sl ∧ someLaneLeft w sl)
    (hpop : ∀ x e r, x.stack = e :: r → kinds e.kind = true → pop x = .ok (g x) ∧ g x = popped x e r (pc x e))
    (hmove : ∀ r w j x, row.move r w j x = g x) : FlowCompletes i row := by
  refine flowCompletes_of_effect hex fun r k sl w hw hrow => ?_
  obtain ⟨htop, hleft⟩ := hok r w sl hrow
  obtain ⟨u, x, hu, hx, hlen, hslice⟩ := popping_effect (joins := joins) (pop := pop) hw g (fun j hj => by
    obtain ⟨e, r, hstack, hkind⟩ := htop j hj
    exact (hpop _ e r hstack hkind).1) fun j hj => by
    obtain ⟨e, r, hstack, hkind⟩ := htop j hj
    obtain ⟨hended, hlane⟩ := hleft j hj
    rw [(hpop _ e r hstack hkind).2, popped, ← resume_eq, ended_resume (hstack ▸ hlane), hended]
  refine ⟨u, x, hu, hx, hlen, fun j hj => ?_⟩
  rw [hslice j hj, hmove]
  exact .rfl

theorem flowCompletes_join {row : FlowRow} (h : ControlRow .join row) : FlowCompletes .join row := by
  cases h
  refine flowCompletes_popping (kinds := fun e => e != .call) _ (fun x e => if e.kind = .pending then e.pc else x.pc + 4)
    (fun _ => rfl) (fun _ _ _ h => h) (fun x e r hstack hkind => ?_) fun _ _ _ _ => rfl
  obtain ⟨kind, pc, m⟩ := e
  simp only [popJoin, hstack, resume_eq]
  cases kind with
  | call => cases hkind
  | pending => exact ⟨rfl, rfl⟩
  | mark => exact ⟨rfl, rfl⟩

theorem flowCompletes_ret {row : FlowRow} (h : ControlRow .ret row) : FlowCompletes .ret row := by
  cases h
  refine flowCompletes_popping (kinds := fun e => e == .call) _ (fun _ e => e.pc)
    (fun _ => rfl) (fun _ _ _ h => h) (fun x e r hstack hkind => ?_) fun _ _ _ _ => rfl
  obtain ⟨kind, pc, m⟩ := e
  obtain rfl : kind = .call := by simpa using hkind
  refine ⟨?_, ?_⟩
  · simp only [popRet, hstack, resume_eq]
  · simp only [hstack, popped]

theorem controlRow_completes {i : Instr} {row : FlowRow} (h : ControlRow i row) : FlowCompletes i row := by
  cases h with
  | nop => exact flowCompletes_of_flow (fun _ _ _ => Slice.advance) (fun _ => rfl) fun _ _ _ _ _ _ => ⟨rfl, fun _ _ => .rfl⟩
  | bra => exact flowCompletes_of_flow _ (fun _ => rfl) fun _ _ _ _ _ _ => ⟨rfl, fun _ _ => .rfl⟩
  | brc => exact flowCompletes_brc .brc
  | bri => exact flowCompletes_indirect (call := false) fun _ => rfl
  | calli => exact flowCompletes_indirect (call := true) fun _ => rfl
  | call =>
    refine flowCompletes_of_flow _ (fun _ => rfl) fun r k sl w hw hroom => ⟨?_, fun _ _ => .rfl⟩
    have hfull : stackFull w sl 1 = false := stackFull_of_room (r := r) hroom
    simp only [warpAt_of_tfind hw, hfull, Bool.false_eq_true, if_false]
    rfl
  | mark =>
    refine flowCompletes_of_flow _ (fun _ => rfl) fun r k sl w hw hroom => ⟨?_, fun _ _ => .rfl⟩
    have hfull : stackFull w sl 1 = false := stackFull_of_room (r := r) hroom
    simp only [warpAt_of_tfind hw, hfull, Bool.false_eq_true, if_false]
    rfl
  | join => exact flowCompletes_join .join
  | ret => exact flowCompletes_ret .ret

/-! ## Modes and trap registers (R146, R148, R149) -/

/-- R149: WRS to a register of each slice. -/
theorem flowCompletes_wrs {d : BitVec 7} {sel : BitVec 12} {n : Nat} (hsel : sel.toNat = n) (g : Slice → Word → Slice)
    (hspecial : ∀ r k sl, writeSpecial n d.toNat r k sl =
      (bitsOf 8 sl).foldl (fun s i => modSlice s k i fun x => g x (sliceOperand s (warpAt r k) d.toNat i)) r)
    (hpc : ∀ x v, (g x v).pc = x.pc) : FlowCompletes (.wrs d sel) (wrsRow d g) := by
  refine flowCompletes_of_effect (fun _ => rfl) fun r k sl w hw _ => ?_
  have hwrite := tfind_foldSlices (bitsOf 8 sl) (fun i x => g x (sliceOperand r w d.toNat i)) hw.warp
  rw [← foldl_sliceOperand g k d.toNat w _ rfl, ← warpAt_of_tfind hw.warp, ← hspecial, ← hsel,
    warpAt_of_tfind hw.warp] at hwrite
  refine ⟨_, _, rfl, tfind_modGang sl Slice.advance hwrite,
    (length_eachSlice ..).trans ((length_eachSlice ..).trans hw.slices), fun j hj => ?_⟩
  · rw [advanced ((length_eachSlice ..).trans hw.slices) hj, sliceAt_eachSlice_of_inRead hw _ hj]
    simp only [wrsRow, Slice.advance, hpc]
    exact .rfl

theorem sliceRegRow_completes {i : Instr} {row : FlowRow} (h : SliceRegRow i row) : FlowCompletes i row := by
  cases h with
  | mode =>
    refine flowCompletes_of_flow _ (fun _ => rfl) fun r k sl w hw _ => ⟨?_, fun _ _ => .rfl⟩
    simp only [warpAt_of_tfind hw]
    rfl
  | modei =>
    refine flowCompletes_of_flow _ (fun _ => rfl) fun r k sl w hw _ => ⟨rfl, fun j _ => ?_⟩
    simp only [putField_eq]
    exact .rfl
  | wrsTpcLo => exact flowCompletes_wrs (n := 0x052) rfl _ (fun _ _ _ => rfl) fun _ _ => rfl
  | wrsTpcHi => exact flowCompletes_wrs (n := 0x053) rfl _ (fun _ _ _ => rfl) fun _ _ => rfl
  | wrsTmode => exact flowCompletes_wrs (n := 0x054) rfl _ (fun _ _ _ => rfl) fun _ _ => rfl
  | wrsTmask => exact flowCompletes_wrs (n := 0x055) rfl _ (fun _ _ _ => rfl) fun _ _ => rfl

/-- Settles O10: row by row, by what each instruction makes of a slice of its gang. -/
theorem controlFlowAndModeWritesComplete : Obligations.ControlFlowAndModeWritesComplete :=
  ⟨fun _ _ => controlRow_completes, fun _ _ => sliceRegRow_completes⟩

end Sys2Proof.Claims
end

section
/-!
PROOFS. The stack traps (R138, R140, R166): an instruction that would overflow or mispop some slice's stack takes its trap
before any effect.
-/

namespace Sys2Proof.Claims

open Sys2Proof.Machine

section

variable {f : Form} {i : Instr} {eff : State → Nat → BitVec 8 → Eff} {s : State} {k : Nat} {sl : BitVec 8} {w : Warp}
  {cause : Nat} {val : Sys2Proof.Word} {vals : List Sys2Proof.Word} {past : Bool}

/-- R58, R166: a gang in no handler enters it with its slices' values. -/
theorem issueTraps_enters (h : tfind s.warps k = some w) (hlen : w.slices.length = 8) (henters : trapsEnter w sl) :
    ∀ j ∈ bitsOf 8 sl, InHandler (sliceOf (issueTraps s k sl cause vals past) k j) (sliceAt w j) cause (lget vals j 0)
      (if past then (sliceAt w j).pc + 4 else (sliceAt w j).pc) (tget s.contexts w.ident.ctx default).tvec := by
  intro j hj
  obtain ⟨hspec, hhandler⟩ := henters
  obtain ⟨v, hv, htrapped⟩ := trapSlices_warp (cause := cause) (vals := vals) (past := past) h hlen hhandler
  have hissue : issueTraps s k sl cause vals past = stampIssue (trapSlices s k sl cause vals past) k sl := by
    rw [issueTraps, warpAt_of_tfind h, hspec]
    rfl
  rw [hissue]
  exact inHandler_of_trapped ((bare_sliceOf_stampIssue hv sl j).trans (htrapped.inside j hj))

/-- An instruction that traps in its read cycle, past no incomplete fence. -/
theorem issue_trap (h : Issues f s k sl w) (hspec : w.spec = none)
    (he : eff (readAt f s k sl w) k sl = .trap cause val past) :
    issue f eff s = .next (issueTrap (readAt f s k sl w) k sl cause val past) := by
  have hrange : (f.named.map (w.win + ·)).find? (w.ceil ≤ ·) = none := by
    simp only [List.find?_eq_none, List.mem_map, decide_eq_true_eq, not_le]
    rintro _ ⟨n, hn, rfl⟩
    exact h.inRange n hn
  rw [readAt] at he ⊢
  simp [issue, issueGang, h.issuer, h.warp, h.fence, h.accepted, hrange, h.clear, h.room, h.granted, he, hspec]

theorem issue_trapEach (h : Issues f s k sl w) (hspec : w.spec = none)
    (he : eff (readAt f s k sl w) k sl = .trapEach cause vals) :
    issue f eff s = .next (issueTraps (readAt f s k sl w) k sl cause vals false) := by
  have hrange : (f.named.map (w.win + ·)).find? (w.ceil ≤ ·) = none := by
    simp only [List.find?_eq_none, List.mem_map, decide_eq_true_eq, not_le]
    rintro _ ⟨n, hn, rfl⟩
    exact h.inRange n hn
  rw [readAt] at he ⊢
  simp [issue, issueGang, h.issuer, h.warp, h.fence, h.accepted, hrange, h.clear, h.room, h.granted, he, hspec]

/-! ## Traps of instructions that name no register -/

/-- A warp whose gang is ready, as the read cycle of such an instruction finds it. -/
def readied (sl : BitVec 8) (w : Warp) : Warp := eachSlice (bitsOf 8 sl) (fun _ x => { x with wait := .ready }) w

theorem sliceAt_readied (hlen : w.slices.length = 8) {j : Nat} (hj : j ∈ bitsOf 8 sl) :
    sliceAt (readied sl w) j = { sliceAt w j with wait := .ready } :=
  sliceAt_eachSlice_mem _ _ _ _ hj (nodup_bitsOf 8 sl) (hlen ▸ (mem_bitsOf.1 hj).1)

theorem readAt_readied (h : Issues f s k sl w) (hspec : w.spec = none) (hreads : f.reads = []) (hwrites : f.writes = [])
    (hwaits : f.waits = []) (hdrains : f.drains = false) :
    tfind (readAt f s k sl w).warps k = some (readied sl w) ∧ (readAt f s k sl w).contexts = s.contexts := by
  obtain ⟨sp, hsp, hread, hcontexts⟩ := readAt_of_plain h hreads hwrites hwaits hdrains
  have hsame : { w with spec := sp } = w := by
    rw [hsp hspec, ← hspec]
  rw [hsame] at hread
  exact ⟨hread, hcontexts⟩

theorem trapsEnter_readied (hlen : w.slices.length = 8) (henters : trapsEnter w sl) : trapsEnter (readied sl w) sl := by
  refine ⟨(eachSlice_keep Warp.spec (fun _ _ _ => rfl) _ _ _).trans henters.1, fun j hj => ?_⟩
  rw [sliceAt_readied hlen hj]
  exact henters.2 j hj

/-- Each slice enters its handler from the read cycle's warp as it would from the warp at its issue. -/
theorem issueTraps_enters_readied {r : State} (hread : tfind r.warps k = some (readied sl w))
    (hcontexts : r.contexts = s.contexts) (hlen : w.slices.length = 8) (henters : trapsEnter w sl) :
    ∀ j ∈ bitsOf 8 sl, InHandler (sliceOf (issueTraps r k sl cause vals past) k j) (sliceAt w j) cause (lget vals j 0)
      (if past then (sliceAt w j).pc + 4 else (sliceAt w j).pc) (tget s.contexts w.ident.ctx default).tvec := by
  intro j hj
  have hin := issueTraps_enters (cause := cause) (vals := vals) (past := past) hread
    ((length_eachSlice ..).trans hlen) (trapsEnter_readied hlen henters) j hj
  have hident : (readied sl w).ident = w.ident := eachSlice_keep Warp.ident (fun _ _ _ => rfl) _ _ _
  rw [sliceAt_readied hlen hj, hident, hcontexts] at hin
  exact hin

theorem lget_replicate_eight {j : Nat} (hj : j ∈ bitsOf 8 sl) : lget (List.replicate 8 val) j 0 = val := by
  rw [lget, List.getElem?_replicate, if_pos (mem_bitsOf.1 hj).1, Option.getD_some]

/-- R120, R166: an instruction that names no register and traps in its read cycle. -/
theorem traps_of_plain (h : Issues f s k sl w) (henters : trapsEnter w sl) (hreads : f.reads = [])
    (hwrites : f.writes = []) (hwaits : f.waits = []) (hdrains : f.drains = false) (hex : exec i s = issue f eff s)
    (he : ∀ r, tfind r.warps k = some (readied sl w) → eff r k sl = .trap cause val past) :
    Traps i s k sl w cause val past := by
  obtain ⟨hread, hcontexts⟩ := readAt_readied h henters.1 hreads hwrites hwaits hdrains
  refine ⟨_, hex.trans (issue_trap h henters.1 (he _ hread)), fun j hj => ?_⟩
  have hin := issueTraps_enters_readied (cause := cause) (vals := List.replicate 8 val) (past := past) hread hcontexts
    h.slices henters j hj
  rwa [lget_replicate_eight hj] at hin

/-! ## Full stacks, and pops that offend -/

theorem stackFull_readied (hlen : w.slices.length = 8) (hfull : ∃ j ∈ bitsOf 8 sl, (sliceAt w j).stack.length = 16) :
    stackFull (readied sl w) sl 1 = true := by
  obtain ⟨j, hj, hstack⟩ := hfull
  refine List.any_eq_true.2 ⟨j, hj, ?_⟩
  rw [sliceAt_readied hlen hj, decide_eq_true_eq]
  exact hstack ▸ Nat.lt_succ_self 16

/-- R138: CALL and MARK on a full stack. -/
theorem traps_of_full {o : BitVec 24} (h : Issues { past := true } s k sl w) (henters : trapsEnter w sl)
    (hfull : ∃ j ∈ bitsOf 8 sl, (sliceAt w j).stack.length = 16) :
    Traps (.call o) s k sl w 2 1 false ∧ Traps (.mark o) s k sl w 2 1 false := by
  constructor
  all_goals
    refine traps_of_plain h henters rfl rfl rfl rfl rfl fun r hr => ?_
    simp only [warpAt_of_tfind hr, stackFull_readied h.slices hfull, if_true]

/-- R140: pops that offend in every slice of a gang, each with its own value. -/
theorem popping_trapEach {joins : Bool} {pop : Slice → Except Nat Slice} {r : State} {v : Warp} {c : Nat → Nat}
    (hv : tfind r.warps k = some v) (hsl : sl ≠ 0) (hpop : ∀ j ∈ bitsOf 8 sl, pop (sliceAt v j) = .error (c j)) :
    ∃ vals, popping joins pop r k sl = .trapEach 2 vals ∧ ∀ j ∈ bitsOf 8 sl, lget vals j 0 = BitVec.ofNat 32 (c j) := by
  unfold popping
  simp only [warpAt_of_tfind hv]
  split
  · refine ⟨_, rfl, fun j hj => ?_⟩
    rw [lget, List.getElem?_map, List.getElem?_range (mem_bitsOf.1 hj).1, Option.map_some, Option.getD_some]
    simp only [hpop j hj, Option.getD_some]
  · rename_i hnone
    obtain ⟨j, hj⟩ := exists_mem_bitsOf hsl
    have hj' := List.findSome?_eq_none_iff.1 hnone j hj
    rw [hpop j hj] at hj'
    cases hj'

theorem popping_enters {joins : Bool} {pop : Slice → Except Nat Slice} (c : Nat → Nat) (h : Issues { past := true } s k sl w)
    (henters : trapsEnter w sl) (hsl : sl ≠ 0) (hex : exec i s = issue { past := true } (popping joins pop) s)
    (hpop : ∀ j ∈ bitsOf 8 sl, ∀ x : Slice, x.stack = (sliceAt w j).stack → pop x = .error (c j)) :
    ∃ t, exec i s = .next t ∧ ∀ j ∈ bitsOf 8 sl, InHandler (sliceOf t k j) (sliceAt w j) 2 (BitVec.ofNat 32 (c j))
      (sliceAt w j).pc (tget s.contexts w.ident.ctx default).tvec := by
  obtain ⟨hread, hcontexts⟩ := readAt_readied h henters.1 rfl rfl rfl rfl
  obtain ⟨vals, he, hvals⟩ := popping_trapEach (joins := joins) (pop := pop) hread hsl fun j hj =>
    hpop j hj _ (by rw [sliceAt_readied h.slices hj])
  refine ⟨_, hex.trans (issue_trapEach h henters.1 he), fun j hj => ?_⟩
  have hin := issueTraps_enters_readied (cause := 2) (vals := vals) (past := false) hread hcontexts h.slices henters j hj
  rwa [hvals j hj] at hin

theorem popJoin_nil {x : Slice} (h : x.stack = []) : popJoin x = .error 2 := by
  rw [popJoin, h]

theorem popRet_nil {x : Slice} (h : x.stack = []) : popRet x = .error 2 := by
  rw [popRet, h]

theorem popJoin_call {x : Slice} {e : StackEntry} {r : List StackEntry} (h : x.stack = e :: r) (he : e.kind = .call) :
    popJoin x = .error 4 := by
  simp only [popJoin, h, he]

theorem popRet_not_call {x : Slice} {e : StackEntry} {r : List StackEntry} (h : x.stack = e :: r) (he : e.kind ≠ .call) :
    popRet x = .error 3 := by
  unfold popRet
  rw [h]
  dsimp only
  split
  · rename_i hcall
    exact absurd hcall he
  · rfl

/-- Settles O11: the traps of full stacks, and of pops by what each slice's stack holds. -/
theorem stackTrapsBeforeAnyEffect : Obligations.StackTrapsBeforeAnyEffect := by
  refine ⟨fun o s k sl w h henters hfull => traps_of_full h henters hfull, fun s k sl w h henters hsl => ?_⟩
  have hjoin (c : Nat → Nat) := popping_enters (i := .join) (joins := true) (pop := popJoin) c h henters hsl rfl
  have hret (c : Nat → Nat) := popping_enters (i := .ret) (joins := false) (pop := popRet) c h henters hsl rfl
  refine ⟨fun hempty => ⟨?_, ?_⟩, fun htop => ?_, fun htop => ?_, fun hmixed => ?_, fun hmixed => ?_⟩
  · exact hjoin (fun _ => 2) fun j hj x hx => popJoin_nil (hx.trans (hempty j hj))
  · exact hret (fun _ => 2) fun j hj x hx => popRet_nil (hx.trans (hempty j hj))
  · refine hjoin (fun _ => 4) fun j hj x hx => ?_
    obtain ⟨e, r, hstack, hkind⟩ := htop j hj
    exact popJoin_call (hx.trans hstack) (by simpa using hkind)
  · refine hret (fun _ => 3) fun j hj x hx => ?_
    obtain ⟨e, r, hstack, hkind⟩ := htop j hj
    exact popRet_not_call (hx.trans hstack) (by simpa using hkind)
  · obtain ⟨t, ht, hin⟩ := hjoin (fun j => if (sliceAt w j).stack = [] then 2 else 4) fun j hj x hx => by
      rcases hmixed j hj with hempty | ⟨e, r, hstack, hkind⟩
      · rw [popJoin_nil (hx.trans hempty), if_pos hempty]
      · rw [popJoin_call (hx.trans hstack) hkind, if_neg (by rw [hstack]; exact List.cons_ne_nil _ _)]
    refine ⟨t, ht, fun j hj => ?_⟩
    have hj' := hin j hj
    rwa [apply_ite (BitVec.ofNat 32)] at hj'
  · obtain ⟨t, ht, hin⟩ := hret (fun j => if (sliceAt w j).stack = [] then 2 else 3) fun j hj x hx => by
      rcases hmixed j hj with hempty | ⟨e, r, hstack, hkind⟩
      · rw [popRet_nil (hx.trans hempty), if_pos hempty]
      · rw [popRet_not_call (hx.trans hstack) hkind, if_neg (by rw [hstack]; exact List.cons_ne_nil _ _)]
    refine ⟨t, ht, fun j hj => ?_⟩
    have hj' := hin j hj
    rwa [apply_ite (BitVec.ofNat 32)] at hj'

end

end Sys2Proof.Claims
end

section
/-!
PROOFS. Writes of state held per warp (R133, R214, R215, R308, R309): each goes to the end of the warp queue of its gang's
lowest slice.
-/

namespace Sys2Proof.Claims

open Sys2Proof.Machine

theorem lowSlice_mem {sl : BitVec 8} (hsl : sl ≠ 0) : lowSlice sl ∈ bitsOf 8 sl := by
  unfold lowSlice
  cases hl : bitsOf 8 sl with
  | nil => exact absurd (bitsOf_eq_nil.1 hl) hsl
  | cons j l => exact List.mem_cons_self

theorem getLast?_afterWarpTick (q : List WarpResult) (what : WarpWrite) :
    (afterWarpTick (q ++ [⟨what, 2⟩])).getLast? = some ⟨what, 1⟩ := by
  simp [afterWarpTick, WarpResult.tick]

theorem tfind_pushWarpWrite {r : State} {k : Nat} {w : Warp} (h : tfind r.warps k = some w) (sl : BitVec 8)
    (what : WarpWrite) (lat : Nat) : tfind (pushWarpWrite r k sl what lat).warps k =
      some (modSliceW w (lowSlice sl) fun x => { x with warpQueue := x.warpQueue ++ [⟨what, lat⟩] }) :=
  tfind_modWarp _ h

/-- An instruction that queues the write `what`, with a latency of 2, and passes on. -/
theorem writeQueued {i : Instr} {f : Form} {what : State → Nat → BitVec 8 → Warp → WarpWrite}
    {good : State → Nat → BitVec 8 → Warp → WarpResult → Prop}
    (hex : ∀ s, exec i s = issue f (passing fun s k sl => pushWarpWrite s k sl (what s k sl (warpAt s k)) 2) s)
    (hgood : ∀ s k sl w, good s k sl w ⟨what s k sl w, 1⟩) :
    Does i f (fun _ _ sl _ => sl ≠ 0) fun s k sl w t => stepsOn k sl w t ∧
      ∃ e, (sliceOf t k (lowSlice sl)).warpQueue.getLast? = some e ∧ e.left = 1 ∧ good s k sl w e := by
  refine does_of_passing hex fun r k sl w hw hsl => ⟨_, rfl, _, tfind_pushWarpWrite hw.warp sl _ 2, ?_, fun t ht => ?_⟩
  · simp [hw.slices]
  have hlow := lowSlice_mem hsl
  have hlen : lowSlice sl < w.slices.length := hw.slices ▸ (mem_bitsOf.1 hlow).1
  refine ⟨ht.steps fun j => ?_, _, ?_, rfl, hgood r k sl w⟩
  · rcases sliceAt_modSliceW_or w (lowSlice sl) j fun x => { x with warpQueue := x.warpQueue ++ [⟨what r k sl (warpAt r k), 2⟩] }
      with h | ⟨-, h⟩ <;> rw [h]
  · have hqueue := (congrArg Slice.warpQueue (ht.slice _ hlow) :)
    rw [sliceAt_modSliceW_same _ _ _ hlen, warpAt_of_tfind hw.warp] at hqueue
    exact (congrArg List.getLast? hqueue).trans (getLast?_afterWarpTick ..)

/-- R215: bits 63 and 62 of a record are zero, and bits 56 to 8 of a published one. -/
theorem getLsbD_cleanRecord (v : BitVec 128) {a : Nat} (ha : a < 128) : (cleanRecord v).getLsbD a =
    (v.getLsbD a && decide (a ≠ 62 ∧ a ≠ 63 ∧ (v.getLsbD 61 = true → a < 8 ∨ 57 ≤ a))) := by
  have hones (n m : Nat) (hn : n < 128) : (BitVec.ofNat 128 (2 ^ n - 1) <<< m).getLsbD a = (decide (m ≤ a) && decide (a - m < n)) := by
    rw [BitVec.getLsbD_shiftLeft, BitVec.getLsbD_ofNat, Nat.testBit_two_pow_sub_one]
    by_cases hma : m ≤ a
    · simp [ha, hma, Nat.lt_of_le_of_lt (Nat.sub_le a m) ha]
    · simp [hma, Nat.lt_of_not_le hma]
  have htop : ((3 : BitVec 128) <<< 62).getLsbD a = _ := hones 2 62 (by decide)
  have hbody : ((0x1FFFFFFFFFFFF : BitVec 128) <<< 8).getLsbD a = _ := hones 49 8 (by decide)
  have hpublished : (v &&& ~~~((3 : BitVec 128) <<< 62)).getLsbD 61 = v.getLsbD 61 := by
    rw [BitVec.getLsbD_and]
    exact Bool.and_true _
  unfold cleanRecord
  dsimp only
  by_cases hpub : v.getLsbD 61
  · rw [hpublished, if_pos hpub, BitVec.getLsbD_and, BitVec.getLsbD_and, BitVec.getLsbD_not, BitVec.getLsbD_not, htop, hbody,
      Bool.and_assoc]
    congr 1
    simp only [ha, decide_true, Bool.true_and, hpub, true_implies]
    rw [Bool.eq_iff_iff]
    simp
    omega
  · rw [hpublished, if_neg hpub, BitVec.getLsbD_and, BitVec.getLsbD_not, htop]
    congr 1
    simp only [ha, decide_true, Bool.true_and, hpub]
    rw [Bool.eq_iff_iff]
    simp
    omega

/-- R309: one tile predicate changes, the others stay. -/
theorem getLsbD_tile (b v : BitVec 16) {k n : Nat} (hn : n < 16) :
    (b &&& ~~~((1 : BitVec 16) <<< k) ||| (v &&& (1 : BitVec 16) <<< k)).getLsbD n =
      if n = k then v.getLsbD n else b.getLsbD n := by
  have hone : ((1 : BitVec 16) <<< k).getLsbD n = decide (n = k) := by
    rw [BitVec.getLsbD_shiftLeft, show (1 : BitVec 16) = 1#16 from rfl, BitVec.getLsbD_one, Bool.eq_iff_iff]
    simp
    omega
  rw [BitVec.getLsbD_or, BitVec.getLsbD_and, BitVec.getLsbD_and, BitVec.getLsbD_not, hone]
  by_cases hnk : n = k <;> simp [hn, hnk]

/-- Settles O24: each write is at the end of the warp queue of the gang's lowest slice. -/
theorem warpStateWritesAreQueued : Obligations.WarpStateWritesAreQueued := by
  refine ⟨⟨fun h r a => ?_, fun a v => ?_⟩, fun d k => ?_, fun v k => ?_, fun d => ?_, fun d k => ?_⟩
  · exact writeQueued (what := fun s k sl _ => .record r.toNat (cleanRecord (quadOperand s k sl a)))
      (good := fun s k sl _ e => e.what = .record r.toNat (cleanRecord (quadOperand s k sl a))) (fun _ => rfl)
      fun _ _ _ _ => rfl
  · exact fun ha => getLsbD_cleanRecord v ha
  · exact writeQueued (what := fun s _ sl w => .stride k.toNat (warpOperand s w sl d.toNat))
      (good := fun s _ sl w e => e.what = .stride k.toNat (warpOperand s w sl d.toNat)) (fun _ => rfl) fun _ _ _ _ => rfl
  · exact writeQueued (what := fun _ _ _ _ => .stride k.toNat (v.setWidth 32))
      (good := fun _ _ _ _ e => e.what = .stride k.toNat (v.setWidth 32)) (fun _ => rfl) fun _ _ _ _ => rfl
  · refine writeQueued (what := fun s _ sl w => .tiles (BitVec.allOnes 16) ((warpOperand s w sl d.toNat).setWidth 16))
      (good := fun s _ sl w e => ∀ b : BitVec 16, (writeWarpResult { w with tiles := b } e).tiles =
        (warpOperand s w sl d.toNat).setWidth 16) (fun _ => rfl) fun s k sl w b => ?_
    have hall : ~~~BitVec.allOnes 16 = 0#16 := by decide
    simp only [writeWarpResult, hall, BitVec.and_zero, BitVec.zero_or, BitVec.and_allOnes]
  · refine writeQueued (what := fun s _ sl w => .tiles ((1 : BitVec 16) <<< k.toNat)
        (if warpOperand s w sl d.toNat = 0 then 0 else BitVec.allOnes 16))
      (good := fun s _ sl w e => ∀ (b : BitVec 16) n, n < 16 → (writeWarpResult { w with tiles := b } e).tiles.getLsbD n =
        if n = k.toNat then decide (warpOperand s w sl d.toNat ≠ 0) else b.getLsbD n) (fun _ => rfl) fun s j sl w b n hn => ?_
    refine (getLsbD_tile b _ hn).trans ?_
    by_cases hz : warpOperand s w sl d.toNat = 0
    · simp [hz]
    · rw [if_neg hz, BitVec.getLsbD_allOnes, decide_eq_true hn, decide_eq_true hz]

end Sys2Proof.Claims
end

section
/-!
PROOFS. Waits whose condition holds (R165, R243): the gang goes on, and a sleeping slice goes on when its time has come.
-/

namespace Sys2Proof.Claims

open Sys2Proof.Machine

/-! ## Waits that end at once -/

section

variable {i : Instr} {f : Form} {eff : State → Nat → BitVec 8 → Eff} {ok : State → Nat → BitVec 8 → Warp → Prop}

/-- An instruction that passes on and leaves the slices as they were steps on. -/
theorem steps_of_passing {g : State → Nat → BitVec 8 → State} (hex : ∀ s, exec i s = issue f eff s)
    (heff : ∀ r k sl w, InRead r k sl w → ok r k sl w →
      eff r k sl = passing g r k sl ∧ ∃ x, tfind (g r k sl).warps k = some x ∧ x.slices = w.slices) :
    Does i f ok fun _ k sl w t => stepsOn k sl w t :=
  does_of_passing hex fun r k sl w hw hok => by
    obtain ⟨he, x, hx, hslices⟩ := heff r k sl w hw hok
    refine ⟨g, he, x, hx, hslices ▸ hw.slices, fun t ht => ht.steps fun j => ?_⟩
    rw [sliceAt, hslices, sliceAt]

end

theorem waitc_steps (h : BitVec 2) (a : BitVec 7) (p : BitVec 3) : Does (.waitc h a p) { draining h a with past := true }
    (fun r _ sl w => countOf w (Path.ofCode p.toNat) ≤ (warpOperand r w sl a.toNat).toNat)
    fun _ k sl w t => stepsOn k sl w t := by
  refine steps_of_passing (fun _ => rfl) fun r k sl w hw hok => ⟨?_, w, hw.warp, rfl⟩
  rw [← warpAt_of_tfind hw.warp] at hok
  exact if_pos hok

theorem waitp_steps (h : BitVec 2) (a : BitVec 7) (p : BitVec 1) : Does (.waitp h a p) (draining h a) (fun r _ sl w =>
      let bo := (warpOperand r w sl a.toNat).toNat
      bo % 16 = 0 ∧ bo < 0x800000 ∧ mnat (tget r.clusters w.clusterOf default).store (bo + 8) 4 % 2 = p.toNat)
    fun _ k sl w t => stepsOn k sl w t := by
  refine steps_of_passing (g := fun s k _ => acquireWarp s k 2) (fun _ => rfl) fun r k sl w hw hok => ⟨?_, w, ?_, rfl⟩
  · rw [← warpAt_of_tfind hw.warp] at hok
    obtain ⟨haligned, hinside, hphase⟩ := hok
    have haddress : boAddress (warpOperand r (warpAt r k) sl a.toNat).toNat = true := decide_eq_true ⟨haligned, hinside⟩
    dsimp only
    rw [haddress, if_neg (by decide), if_pos hphase]
  · obtain ⟨rm, cs, cp, h⟩ := acquire_eq r (warpAt r k).die (warpAt r k).core 2
    rw [acquireWarp, h]
    exact hw.warp

theorem yield_steps : Does .yield { drains := true } (fun _ _ _ _ => True) fun _ k sl w t => stepsOn k sl w t := by
  refine steps_of_passing (fun _ => rfl) fun r k sl w hw _ => ⟨rfl, ?_⟩
  dsimp only
  split
  · exact ⟨_, tfind_modWarp _ hw.warp, rfl⟩
  · exact ⟨w, hw.warp, rfl⟩

/-! ## Sleep -/

theorem sleep_zero_steps : Does (.sleep 0) { drains := true } (fun _ _ _ _ => True) fun _ k sl w t => stepsOn k sl w t :=
  steps_of_passing (fun _ => rfl) fun _ _ _ w hw _ => ⟨rfl, w, hw.warp, rfl⟩

theorem sleep_waits (n : BitVec 15) (hn : n ≠ 0) : Does (.sleep n) { drains := true } (fun _ _ _ _ => True)
    fun r k sl w t => ∀ j ∈ bitsOf 8 sl, (sliceOf t k j).wait = .sleep (clockOf r w.die w.core + 16 * n.toNat) ∧
      (sliceOf t k j).pc = (sliceAt w j).pc := by
  refine does_of_effect (fun _ => rfl) fun r k sl w hw _ => ⟨_, if_neg hn, fun held j hj => ?_⟩
  have hflow := sameFlow_flushWarpQueue w sl
  have hlen := hflow.length.trans hw.slices
  have hx := tfind_modGang sl (fun x => { x with wait := .sleep (clockOf r (warpAt r k).die (warpAt r k).core + 16 * n.toNat) })
    (tfind_modWarp (fun w => flushWarpQueue w sl) hw.warp)
  have hslice := (tookEffect_finishIssue (f := { drains := true }) (sl := sl) hx ((length_eachSlice ..).trans hlen) held).same hj
  rw [sliceAt_eachSlice_mem _ _ _ _ hj (nodup_bitsOf 8 sl) (hlen ▸ (mem_bitsOf.1 hj).1)] at hslice
  rw [hslice.wait, hslice.pc, warpAt_of_tfind hw.warp]
  exact ⟨rfl, hflow.pc j⟩

theorem sliceAt_foldl_of_notMem {g : Warp → Nat → Warp} {i : Nat} (hg : ∀ w j, j ≠ i → sliceAt (g w j) i = sliceAt w i)
    (l : List Nat) (w : Warp) (hi : i ∉ l) : sliceAt (l.foldl g w) i = sliceAt w i := by
  induction l generalizing w with
  | nil => rfl
  | cons j l ih =>
    obtain ⟨hij, hi⟩ := not_or.1 (List.mem_cons.not.1 hi)
    rw [List.foldl_cons, ih _ hi, hg _ _ (Ne.symm hij)]

/-- A fold that reaches slice `i` once, and leaves the part `p` of the warp, makes of the slice what its step there
makes. -/
theorem sliceAt_foldl_once {β : Type} {g : Warp → Nat → Warp} {i : Nat} {l : List Nat} {w : Warp} {y : Slice} (p : Warp → β)
    (hg : ∀ w j, j ≠ i → sliceAt (g w j) i = sliceAt w i) (hp : ∀ w j, p (g w j) = p w)
    (hself : ∀ v, p v = p w → sliceAt v i = sliceAt w i → sliceAt (g v i) i = y)
    (hi : i ∈ l) (hnodup : l.Nodup) : sliceAt (l.foldl g w) i = y := by
  obtain ⟨before, after, rfl⟩ := List.append_of_mem hi
  obtain ⟨-, hafter, hbefore⟩ := List.nodup_append.1 hnodup
  rw [List.foldl_append, List.foldl_cons, sliceAt_foldl_of_notMem hg _ _ (List.nodup_cons.1 hafter).1]
  exact hself _ (foldl_keep p g hp _ _) (sliceAt_foldl_of_notMem hg _ _ fun hm => hbefore i hm i List.mem_cons_self rfl)

/-- A sleeping slice among those that wake together. -/
theorem sliceAt_wakeSleepers {w : Warp} {i due : Nat} (hi : i < w.slices.length) (hi8 : i < 8)
    (hwait : (sliceAt w i).wait = .sleep due) :
    sliceAt (wakeSleepers w i due) i = { (sliceAt w i).advance with wait := .ready } := by
  refine sliceAt_foldl_once (fun w => w.slices.length) (fun w j hj => ?_) (fun w j => ?_) (fun v hv hsame => ?_)
    (List.mem_range.2 hi8) List.nodup_range
  · split
    · exact sliceAt_modSliceW_ne _ _ _ _ (Ne.symm hj)
    · rfl
  · split
    · simp
    · rfl
  · have hiv : i < v.slices.length := Nat.lt_of_lt_of_eq hi hv.symm
    rw [if_pos ⟨rfl, by rw [hsame, hwait]⟩, sliceAt_modSliceW_same _ _ _ hiv, hsame]

/-- Settles O20: each wait by its condition. -/
theorem waitsEndWhenTheirConditionHolds : Obligations.WaitsEndWhenTheirConditionHolds := by
  refine ⟨waitc_steps, waitp_steps, sleep_zero_steps, sleep_waits, fun s k i w due hs hw hlen hi hwait hdue => ?_, yield_steps⟩
  have hk : subject s 0 = k := by rw [subject, subjects, hs]; rfl
  have hi' : subject s 1 = i := by rw [subject, subjects, hs]; rfl
  refine ⟨modWarp s k (alsoAtFence fun w => wakeSleepers w i due), ?_, ?_⟩
  · show execSleepExpiry s = _
    simp only [execSleepExpiry, hk, hi', hw, hwait, hdue, if_true]
  · have hslice : sliceOf (modWarp s k (alsoAtFence fun w => wakeSleepers w i due)) k i = sliceAt (wakeSleepers w i due) i := by
      rw [sliceOf, warpAt_of_tfind (tfind_modWarp _ hw)]
      simp only [sliceAt, alsoAtFence]
    rw [hslice, sliceAt_wakeSleepers (hlen ▸ hi) hi hwait]
    exact ⟨Eq.refl _, Eq.refl _⟩

end Sys2Proof.Claims
end

section
/-!
PROOFS. GROW and SHRINK (R157, R159, R160): the registers that a change of the ceiling reaches, and those it leaves.
-/

namespace Sys2Proof.Machine

/-- What a table holds of which only some keys are kept. -/
theorem tfind_filter_keys {α : Type} (t : Tbl α) (p : Nat → Prop) [DecidablePred p] (k : Nat) :
    tfind (t.filter fun e => decide (p e.1)) k = if p k then tfind t k else none := by
  induction t with
  | nil => exact (ite_self _).symm
  | cons e t ih =>
    obtain ⟨a, v⟩ := e
    by_cases hak : a = k
    · subst hak
      by_cases ha : p a <;> simp [ha, tfind, ih]
    · by_cases ha : p a <;> simp [ha, tfind, ih, hak]

theorem tget_filter_keys {α : Type} (t : Tbl α) (p : Nat → Prop) [DecidablePred p] (k : Nat) (d : α) :
    tget (t.filter fun e => decide (p e.1)) k d = if p k then tget t k d else d := by
  rw [tget, tfind_filter_keys]
  split <;> rfl

theorem getLsbD_toBits {n i : Nat} (l : List Nat) (hi : i < n) : (toBits n l).getLsbD i = decide (i ∈ l) := by
  have hmem := mem_bitsOf_toBits (n := n) (i := i) (l := l)
  rw [mem_bitsOf] at hmem
  rw [Bool.eq_iff_iff, decide_eq_true_eq]
  exact ⟨fun h => (hmem.1 ⟨hi, h⟩).2, fun h => (hmem.2 ⟨hi, h⟩).2⟩

end Sys2Proof.Machine

namespace Sys2Proof.Claims

open Sys2Proof.Machine

theorem grown_zeroPrivate {w : Warp} {n : Nat} (hroom : w.ceil + n ≤ 1024) :
    Grown n w { zeroPrivate w w.ceil (w.ceil + n) with ceil := w.ceil + n } := by
  refine ⟨rfl, fun m hlo hhi => ⟨?_, fun l hl => ?_⟩, fun m hm l hl => ?_⟩
  · have hin : m ∈ (List.range (w.ceil + n - w.ceil)).map (w.ceil + ·) :=
      List.mem_map.2 ⟨m - w.ceil, List.mem_range.2 (by omega), by omega⟩
    have hbit := getLsbD_toBits ((List.range (w.ceil + n - w.ceil)).map (w.ceil + ·)) (Nat.lt_of_lt_of_le hhi hroom)
    rw [decide_eq_true hin] at hbit
    exact (BitVec.getLsbD_or ..).trans (by rw [hbit, Bool.or_true])
  · exact (tget_filter_keys _ (fun a => a < 32 * w.ceil ∨ 32 * (w.ceil + n) ≤ a) _ _).trans (if_neg (by omega))
  · exact (tget_filter_keys _ (fun a => a < 32 * w.ceil ∨ 32 * (w.ceil + n) ≤ a) _ _).trans (if_pos (by omega))

theorem shrunk_dropAbove (w : Warp) (n : Nat) : Shrunk n w (dropAbove w (w.ceil - n)) := by
  refine ⟨rfl, fun m hm => ?_, fun m hm l hl => ?_⟩
  · refine (BitVec.getLsbD_and ..).trans ?_
    by_cases hin : m < 1024
    · rw [getLsbD_toBits _ hin, decide_eq_false (by rw [List.mem_range]; omega), Bool.and_false]
    · rw [BitVec.getLsbD_of_ge _ _ (Nat.le_of_not_lt hin), Bool.false_and]
  · exact (tget_filter_keys _ (fun a => a < 32 * (w.ceil - n)) _ _).trans (if_pos (by omega))

/-- What is said of a warp's ceiling, registers and granules carries over to a warp that agrees on them. -/
theorem Grown.congr {n : Nat} {w u v : Warp} (h : Grown n w u) (hceil : v.ceil = u.ceil) (hpriv : v.priv = u.priv)
    (hregs : v.regs = u.regs) : Grown n w v := by
  unfold Grown
  rw [hceil, hpriv, hregs]
  exact h

theorem Shrunk.congr {n : Nat} {w u v : Warp} (h : Shrunk n w u) (hceil : v.ceil = u.ceil) (hpriv : v.priv = u.priv)
    (hregs : v.regs = u.regs) : Shrunk n w v := by
  unfold Shrunk
  rw [hceil, hpriv, hregs]
  exact h

theorem warps_askGranules (s : State) (k : Nat) (sl : BitVec 8) (kind n : Nat) :
    (askGranules s k sl kind n).2.warps = s.warps := by
  unfold askGranules askCore
  dsimp only
  split <;> rfl

theorem growEff_of_granted {n : Nat} {r : State} {k : Nat} {sl : BitVec 8} (hroom : (warpAt r k).ceil + n ≤ 1024)
    (hgranted : (askGranules r k sl 1 (n / 8)).1 = true) : growEff n r k sl =
      passing (fun r k sl => modWarp (askGranules r k sl 1 (n / 8)).2 k fun w =>
        { zeroPrivate w w.ceil (w.ceil + n) with ceil := w.ceil + n }) r k sl := by
  unfold growEff
  rw [if_neg (Nat.not_lt.2 hroom)]
  split
  · rename_i hrefused
    rw [hrefused] at hgranted
    cases hgranted
  · rename_i hask
    rw [passing, passing, hask]

theorem shrinkEff_of_unmarked {n : Nat} {r : State} {k : Nat} {sl : BitVec 8} (h : shrinkable n (warpAt r k) sl) :
    shrinkEff n r k sl = passing (fun r k _ => modWarp r k fun w => dropAbove w (w.ceil - n)) r k sl := by
  obtain ⟨-, hleast, hwin, hmarks⟩ := h
  have hunmarked : ((warpAt r k).marks.any fun m => decide ((warpAt r k).ceil - n ≤ m.reg)) = false := by
    simpa only [List.any_eq_false, decide_eq_true_eq, not_le] using hmarks
  unfold shrinkEff
  dsimp only
  rw [if_neg (by omega), hunmarked, if_neg (by decide)]

section

variable {i : Instr} {f : Form} {eff : State → Nat → BitVec 8 → Eff} {amount : State → BitVec 8 → Warp → Nat}
  {ok : State → Nat → BitVec 8 → Warp → Prop}

/-- Instructions that raise the ceiling by an amount. -/
theorem grow_completes (hex : ∀ s, exec i s = issue f eff s)
    (hok : ∀ r k sl w, ok r k sl w → growable (amount r sl w) r k sl w)
    (heff : ∀ r k sl, ok r k sl (warpAt r k) → eff r k sl = growEff (amount r sl (warpAt r k)) r k sl) :
    Does i f ok fun r k sl w t => stepsOn k sl w t ∧ Grown (amount r sl w) w (warpAt t k) := by
  refine does_of_passing hex fun r k sl w hw h => ?_
  obtain ⟨hquiet, hroom, hgranted⟩ := hok r k sl w h
  have he := heff r k sl ((warpAt_of_tfind hw.warp).symm ▸ h)
  rw [warpAt_of_tfind hw.warp] at he
  refine ⟨_, he.trans (growEff_of_granted ((warpAt_of_tfind hw.warp).symm ▸ hroom) hgranted), _,
    tfind_modWarp _ ((congrArg (tfind · k) (warps_askGranules ..)).trans hw.warp), hw.slices, fun t ht => ⟨ht.steps, ?_⟩⟩
  have hpart {β : Type} (p : Warp → β) (hp : ∀ w, p w.offSlices = p w) := ht.partOfQuiet hquiet p hp
  exact (grown_zeroPrivate hroom).congr (hpart Warp.ceil fun _ => rfl) (hpart Warp.priv fun _ => rfl)
    (hpart Warp.regs fun _ => rfl)

/-- Instructions that lower the ceiling by an amount. -/
theorem shrink_completes (hex : ∀ s, exec i s = issue f eff s)
    (hok : ∀ r k sl w, ok r k sl w → shrinkable (amount r sl w) w sl)
    (heff : ∀ r k sl, ok r k sl (warpAt r k) → eff r k sl = shrinkEff (amount r sl (warpAt r k)) r k sl) :
    Does i f ok fun r k sl w t => stepsOn k sl w t ∧ Shrunk (amount r sl w) w (warpAt t k) := by
  refine does_of_passing hex fun r k sl w hw h => ?_
  have hshrinks := hok r k sl w h
  have he := heff r k sl ((warpAt_of_tfind hw.warp).symm ▸ h)
  rw [warpAt_of_tfind hw.warp] at he
  refine ⟨_, he.trans (shrinkEff_of_unmarked ((warpAt_of_tfind hw.warp).symm ▸ hshrinks)), _,
    tfind_modWarp _ hw.warp, hw.slices, fun t ht => ⟨ht.steps, ?_⟩⟩
  have hpart {β : Type} (p : Warp → β) (hp : ∀ w, p w.offSlices = p w) := ht.partOfQuiet hshrinks.1 p hp
  exact (shrunk_dropAbove w _).congr (hpart Warp.ceil fun _ => rfl) (hpart Warp.priv fun _ => rfl)
    (hpart Warp.regs fun _ => rfl)

end

theorem amountEff_of_multiple {f : Nat} {eff : Nat → State → Nat → BitVec 8 → Eff} {r : State} {k : Nat} {sl : BitVec 8}
    (hn : (warpOperand r (warpAt r k) sl f).toNat ≠ 0) (hn8 : (warpOperand r (warpAt r k) sl f).toNat % 8 = 0) :
    amountEff f eff r k sl = eff (warpOperand r (warpAt r k) sl f).toNat r k sl :=
  if_neg (not_or.2 ⟨hn, not_not.2 hn8⟩)

/-- Settles O17: the amount stands in the word or comes from the warp operand. -/
theorem ceilingsGrowAndShrink : Obligations.CeilingsGrowAndShrink :=
  ⟨fun n => grow_completes (amount := fun _ _ _ => n.toNat) (fun _ => rfl) (fun _ _ _ _ h => h) fun _ _ _ _ => rfl,
    fun _ a => grow_completes (amount := fun r sl w => (warpOperand r w sl a.toNat).toNat) (fun _ => rfl)
      (fun _ _ _ _ ⟨_, _, h⟩ => h) fun _ _ _ ⟨hn, hn8, _⟩ => amountEff_of_multiple hn hn8,
    fun n => shrink_completes (amount := fun _ _ _ => n.toNat) (fun _ => rfl) (fun _ _ _ _ h => h) fun _ _ _ _ => rfl,
    fun _ a => shrink_completes (amount := fun r sl w => (warpOperand r w sl a.toNat).toNat) (fun _ => rfl)
      (fun _ _ _ _ ⟨_, _, h⟩ => h) fun _ _ _ ⟨hn, hn8, _⟩ => amountEff_of_multiple hn hn8⟩

end Sys2Proof.Claims
end

section
/-!
PROOFS. The special registers (R98, R113, R147 to R149): the window base and its trap, what RDS queues, and the writes of
the flags, the predicates and the generators.
-/

namespace Sys2Proof.Claims

open Sys2Proof.Machine

/-! ## The window base (R147) -/

section

variable {s r : State} {k : Nat} {sl : BitVec 8} {w : Warp}

theorem setWindow_of_ok {v : Int} (h : windowOk (warpAt r k) v) :
    setWindow r k sl v = passing (fun s k _ => modWarp s k fun w => { w with win := v.toNat }) r k sl := by
  obtain ⟨hlow, haligned, hceil⟩ := h
  exact if_neg (by omega)

theorem setWindow_of_not_ok {v : Int} (h : ¬ windowOk (warpAt r k) v) :
    setWindow r k sl v = .trap 1 (BitVec.ofInt 32 v) false := by
  refine if_pos (by_contra fun hn => h ?_)
  obtain ⟨hlow, haligned, hceil⟩ := (not_or.trans (and_congr_right fun _ => not_or)).1 hn
  exact ⟨by omega, by omega, by omega⟩

/-- An instruction that sets the window base to a good value. -/
theorem window_completes {i : Instr} {f : Form} {v : State → BitVec 8 → Warp → Int}
    (hex : ∀ s, exec i s = issue f (fun s k sl => setWindow s k sl (v s sl (warpAt s k))) s) :
    Does i f (fun r _ sl w => windowOk w (v r sl w))
      fun r k sl w t => (warpAt t k).win = (v r sl w).toNat ∧ stepsOn k sl w t := by
  refine does_of_passing hex fun r k sl w hw hok => ⟨_, setWindow_of_ok ?_, _, tfind_modWarp _ hw.warp, hw.slices,
    fun t ht => ⟨?_, ht.steps⟩⟩
  · rwa [warpAt_of_tfind hw.warp]
  · rw [ht.part Warp.win, warpAt_of_tfind hw.warp]

theorem sameFlow_killLatches (w : Warp) (sl : BitVec 8) : SameFlow (killLatches w sl) w :=
  sameFlow_foldl _ (fun w i => sameFlow_modSliceW w i _ fun x => by simp) _ _

/-- A trap of a gang in no handler leaves its warp's window where it was. -/
theorem win_issueTraps {cause : Nat} {vals : List Sys2Proof.Word} {past : Bool} (h : tfind s.warps k = some w)
    (henters : trapsEnter w sl) : (warpAt (issueTraps s k sl cause vals past) k).win = w.win := by
  obtain ⟨hspec, hhandler⟩ := henters
  obtain ⟨u, hu, hflow⟩ := keepsFlow_drainGang s k sl w h
  have hdead : tfind (modWarp (drainGang s k sl) k fun w => killLatches (flushWarpQueue w sl) sl).warps k =
      some (killLatches (flushWarpQueue u sl) sl) := tfind_modWarp _ hu
  have hkept : SameFlow (killLatches (flushWarpQueue u sl) sl) w :=
    ((sameFlow_killLatches _ sl).trans (sameFlow_flushWarpQueue u sl)).trans hflow
  have hany : ((bitsOf 8 sl).any fun i => (sliceAt (killLatches (flushWarpQueue u sl) sl) i).handler) = false :=
    List.any_eq_false.2 fun j hj => by rw [hkept.handler, hhandler j hj]; decide
  have htrap : ∃ v, tfind (trapSlices s k sl cause vals past).warps k = some v ∧ v.win = w.win := by
    simp only [trapSlices, warpAt_of_tfind hdead, hany, warps_dropWaiting, Bool.false_eq_true, if_false]
    refine ⟨_, tfind_modWarp _ (tfind_foldSlices _ _ hdead), ?_⟩
    refine (foldl_keep Warp.win _ (fun w i => ?_) _ _).trans ((eachSlice_keep Warp.win (fun _ _ _ => rfl) _ _ _).trans hkept.win)
    rfl
  obtain ⟨v, hv, hwin⟩ := htrap
  have hissue : issueTraps s k sl cause vals past = stampIssue (trapSlices s k sl cause vals past) k sl := by
    rw [issueTraps, warpAt_of_tfind h, hspec]
    rfl
  rw [hissue, stampIssue, warpAt_of_tfind (tfind_modGang sl _ hv)]
  exact (eachSlice_keep Warp.win (fun _ _ _ => rfl) _ _ _).trans hwin

theorem wini_traps (i : BitVec 15) (h : Issues {} s k sl w) (henters : trapsEnter w sl)
    (hbad : ¬ windowOk w (w.win + i.toInt)) : Traps (.wini i) s k sl w 1 (BitVec.ofInt 32 (w.win + i.toInt)) false ∧
      ∃ t, exec (.wini i) s = .next t ∧ (warpAt t k).win = w.win := by
  have hwin : (readied sl w).win = w.win := eachSlice_keep Warp.win (fun _ _ _ => rfl) _ _ _
  have hceil : (readied sl w).ceil = w.ceil := eachSlice_keep Warp.ceil (fun _ _ _ => rfl) _ _ _
  have he (r : State) (hr : tfind r.warps k = some (readied sl w)) :
      setWindow r k sl ((warpAt r k).win + i.toInt) = .trap 1 (BitVec.ofInt 32 (w.win + i.toInt)) false := by
    rw [setWindow_of_not_ok, warpAt_of_tfind hr, hwin]
    rw [warpAt_of_tfind hr, hwin]
    unfold windowOk
    rwa [hceil]
  have hread := (readAt_readied h henters.1 rfl rfl rfl rfl).1
  refine ⟨traps_of_plain h henters rfl rfl rfl rfl rfl he, _, issue_trap h henters.1 (he _ hread), ?_⟩
  exact (win_issueTraps hread (trapsEnter_readied h.slices henters)).trans hwin

end

/-! ## Reads (R148, R149) -/

theorem mod_two_pow_eq_sum_bits (m n : Nat) :
    m % 2 ^ n = ((List.range n).map fun p => if m.testBit p then 2 ^ p else 0).sum := by
  induction n with
  | zero => exact Nat.mod_one m
  | succ n ih =>
    rw [Nat.mod_pow_succ, ← Nat.toNat_testBit, ih, List.range_succ, List.map_append, List.sum_append, List.map_singleton, List.sum_singleton]
    cases m.testBit n
    · rfl
    · rw [Bool.toNat_true, Nat.mul_one, if_pos rfl]

theorem toNat_eq_sum_bits (b : Byte) : b.toNat = ((List.range 8).map fun p => if b.getLsbD p then 2 ^ p else 0).sum :=
  (Nat.mod_eq_of_lt b.isLt).symm.trans (mod_two_pow_eq_sum_bits b.toNat 8)

theorem ofNat_mod_word (n : Nat) : BitVec.ofNat 32 (n % 2 ^ 32) = BitVec.ofNat 32 n :=
  BitVec.eq_of_toNat_eq (by simp)

theorem ofNat_toNat_word (v : Sys2Proof.Word) : BitVec.ofNat 32 v.toNat = v := by simp

/-- R149: what a selector names is the value that RDS reads. -/
theorem special_of_selector {n : Nat} {v : State → Warp → Nat → Nat} (h : Selector n v) (s : State) (k : Nat) (w : Warp)
    (l : Nat) : special s k w n l = BitVec.ofNat 32 (v s w l) := by
  cases h with
  | widLo | argsLo | tpcLo | tvecLo => exact (ofNat_mod_word _).symm
  | clockHi | tcause | tval | tmode => exact (ofNat_toNat_word _).symm
  | pred => exact congrArg (BitVec.ofNat 32) (toNat_eq_sum_bits (predByte w l))
  | @stride n hn =>
    have hstride : special s k w (0x808 + n) l = tget w.strides n 0 := by
      interval_cases n <;> rfl
    exact hstride.trans (ofNat_toNat_word _).symm
  | widHi | lane | slice | slot | port | core | die | device | prio | win | ceil | active | stack | flags | argsHi | tpcHi
  | tmask | tvecHi | tiles => rfl

section

variable {s r t : State} {k : Nat} {sl : BitVec 8} {w : Warp} {j : Nat}

/-- What `writeLanes` queues in a slice. -/
def laneWrite (w : Warp) (d lat : Nat) (v : Nat → Sys2Proof.Word) (j : Nat) : Result :=
  ⟨.reg (w.win + d), guarded w j, (List.range 4).map fun c => v (4 * j + c), 0, lat⟩

theorem writeLanes_slice (h : tfind s.warps k = some w) (hlen : w.slices.length = 8) (d lat : Nat) (v : Nat → Sys2Proof.Word) :
    ∃ x, tfind (writeLanes s k sl d lat 0 v).warps k = some x ∧ x.slices.length = 8 ∧ ∀ j ∈ bitsOf 8 sl,
      sliceAt x j = { sliceAt w j with queue := (sliceAt w j).queue ++ [laneWrite w d lat v j] } := by
  have hpush := fold_push (bitsOf 8 sl) (fun acc i => pushResult acc i (.reg (w.win + d)) (guarded w i)
    ((List.range 4).map fun j => v (4 * i + j)) 0 lat) (laneWrite w d lat v) w (fun _ _ => rfl) (nodup_bitsOf 8 sl)
    fun i hi => hlen ▸ (mem_bitsOf.1 hi).1
  refine ⟨_, ?_, hpush.1.trans hlen, fun j hj => (hpush.2 j).trans (if_pos hj)⟩
  unfold writeLanes
  rw [warpAt_of_tfind h]
  exact tfind_modWarp _ h

theorem getLast?_afterTick (q : List Result) (w : Warp) (d : Nat) (v : Nat → Sys2Proof.Word) (j : Nat) :
    (afterTick (q ++ [laneWrite w d 2 v j])).getLast? = some (laneWrite w d 1 v j) := by
  simp [afterTick, Result.tick, laneWrite]

/-- A slice at whose queue's end a value of RDS stands when its instruction passes on. -/
theorem queued_of_write {x : Warp} {u : State} {d : BitVec 7} {v : State → Warp → Nat → Nat} {val : Nat → Sys2Proof.Word}
    {q : List Result} (hw : tfind r.warps k = some w) (ht : WentOn k sl x u t) (hj : j ∈ bitsOf 8 sl)
    (hqueue : (sliceAt x j).queue = q ++ [laneWrite w d.toNat 2 val j]) (hval : ∀ l, val l = BitVec.ofNat 32 (v r w l)) :
    Queued (rdsRow d v) r t k sl j := by
  have hslice := (congrArg Slice.queue (ht.slice j hj) :)
  refine ⟨laneWrite w d.toNat 1 val j, ?_, ?_, ?_, rfl, by simp [laneWrite], fun c hc _ => ?_, ?_⟩
  · refine (congrArg List.getLast? hslice).trans ?_
    show (afterTick (sliceAt x j).queue).getLast? = _
    rw [hqueue, getLast?_afterTick]
  · exact (congrArg (fun w => toReg d w) (warpAt_of_tfind hw)).symm
  · exact (congrArg (guarded · j) (warpAt_of_tfind hw)).symm
  · have hwarp : warpAt ((rdsRow d v).pre r k) k = w := warpAt_of_tfind hw
    rw [hwarp]
    simp only [laneWrite, lget, List.getElem?_map, List.getElem?_range hc, Option.map_some, Option.getD_some, hval]
    rfl
  · have hzero : joinFlags ((List.range 4).map fun _ => 0) = 0 := rfl
    exact hzero.symm.trans (congrArg joinFlags (List.map_congr_left fun c _ => (ite_self 0).symm))

theorem laneCompletes_of_does {i : Instr} {row : LaneRow} (h : Does i row.form (fun _ _ _ _ => True) fun r k sl w t =>
    ∀ j ∈ bitsOf 8 sl, Queued row r t k sl j ∧ (sliceOf t k j).pc = (sliceAt w j).pc + 4) : LaneCompletes i row := by
  intro s k sl w hissues
  obtain ⟨v, hv, hflow⟩ := read_warp hissues
  obtain ⟨t, hnext, hpost⟩ := h s k sl w hissues trivial
  refine ⟨t, hnext, fun j hj => ?_⟩
  obtain ⟨hqueued, hpc⟩ := hpost j hj
  rw [warpAt_of_tfind hv, hflow.pc] at hpc
  exact ⟨hqueued, hpc⟩

/-- R148: RDS of a selector. -/
theorem rds_completes (d : BitVec 7) (sel : BitVec 12) {v : State → Warp → Nat → Nat} (h : Selector sel.toNat v) :
    LaneCompletes (.rds d sel) (rdsRow d v) := by
  refine laneCompletes_of_does (does_of_passing (fun _ => rfl) fun r k sl w hw _ => ⟨_, rfl, ?_⟩)
  obtain ⟨x, hx, hlen, hslice⟩ := writeLanes_slice (sl := sl) hw.warp hw.slices d.toNat 2 (special r k (warpAt r k) sel.toNat)
  refine ⟨x, hx, hlen, fun t ht j hj => ⟨queued_of_write hw.warp ht hj (congrArg Slice.queue (hslice j hj) :) fun l => ?_, ?_⟩⟩
  · rw [warpAt_of_tfind hw.warp, special_of_selector h]
  · exact (ht.same hj).pc.trans (by rw [hslice j hj]; rfl)

theorem guarded_congr {v : Warp} (hactive : (sliceAt v j).active = (sliceAt w j).active)
    (hmode : (sliceAt v j).mode = (sliceAt w j).mode) (hpreds : v.preds = w.preds) : guarded v j = guarded w j := by
  have hpred (l p : Nat) : predOf v l p = predOf w l p := by rw [predOf, predOf, predByte, predByte, hpreds]
  simp only [guarded, guardTrue, hactive, hmode, hpred]

/-- R149: the low half of the clock, whose read keeps the high half for each slice. -/
theorem rdsClockLo_completes (d : BitVec 7) : Does (.rdsClockLo d) { writes := [d.toNat], past := true }
    (fun _ _ _ _ => True) fun r k sl w t => ∀ j ∈ bitsOf 8 sl,
      Queued (rdsRow d fun s w _ => clockOf s w.die w.core) r t k sl j ∧
        (sliceOf t k j).clockHi = BitVec.ofNat 32 (clockOf r w.die w.core / 2 ^ 32) := by
  refine does_of_passing (fun _ => rfl) fun r k sl w hw _ => ⟨_, rfl, ?_⟩
  dsimp only
  rw [warpAt_of_tfind hw.warp]
  set hi : Sys2Proof.Word := BitVec.ofNat 32 (clockOf r w.die w.core / 2 ^ 32)
  set y : Warp := eachSlice (bitsOf 8 sl) (fun _ x => { x with clockHi := hi }) w with hy
  have hylen : y.slices.length = 8 := (length_eachSlice ..).trans hw.slices
  have hyslice (j : Nat) (hj : j ∈ bitsOf 8 sl) : sliceAt y j = { sliceAt w j with clockHi := hi } :=
    sliceAt_eachSlice_mem _ _ _ _ hj (nodup_bitsOf 8 sl) (hw.slices ▸ (mem_bitsOf.1 hj).1)
  have hywrite (j : Nat) (hj : j ∈ bitsOf 8 sl) (v : Nat → Sys2Proof.Word) : laneWrite y d.toNat 2 v j = laneWrite w d.toNat 2 v j := by
    have hwin : y.win = w.win := eachSlice_keep Warp.win (fun _ _ _ => rfl) _ _ _
    have hguard : guarded y j = guarded w j :=
      guarded_congr (by rw [hyslice j hj]) (by rw [hyslice j hj]) (eachSlice_keep Warp.preds (fun _ _ _ => rfl) _ _ _)
    rw [laneWrite, laneWrite, hwin, hguard]
  obtain ⟨x, hx, hlen, hslice⟩ := writeLanes_slice (sl := sl) (tfind_modGang sl (fun x => { x with clockHi := hi }) hw.warp)
    hylen d.toNat 2 (special r k w 0x030)
  refine ⟨x, hx, hlen, fun t ht j hj => ⟨queued_of_write (q := (sliceAt y j).queue) hw.warp ht hj ?_ fun l => rfl, ?_⟩⟩
  · rw [← hywrite j hj]
    exact (congrArg Slice.queue (hslice j hj) :)
  · exact (ht.same hj).clockHi.trans (by rw [hslice j hj, hyslice j hj]; rfl)

end

/-! ## Writes (R98, R113, R149) -/

/-- What a table holds after the lanes of a list have been given their values. -/
theorem tget_foldl_tput {α : Type} (f : Nat → α) (l : List Nat) (t : Tbl α) {a : Nat} (ha : a ∈ l) (d : α) :
    tget (l.foldl (fun t l => tput t l (f l)) t) a d = f a := by
  induction l using List.reverseRecOn with
  | nil => cases ha
  | append_singleton l b ih =>
    rw [List.foldl_append, List.foldl_cons, List.foldl_nil]
    by_cases hab : a = b
    · rw [hab, tget_tput_same]
    · rw [tget_tput_ne _ _ _ _ _ hab]
      exact ih ((List.mem_append.1 ha).resolve_right fun h => hab (List.mem_singleton.1 h))

theorem wrsFlags_completes (d : BitVec 7) : Does (.wrsFlags d) { reads := [d.toNat] } (fun _ _ sl w => quiet w sl)
    fun r k sl w t => (warpAt t k).flags = (warpOperand r w sl d.toNat).setWidth 6 ∧ stepsOn k sl w t := by
  refine does_of_passing (fun _ => rfl) fun r k sl w hw hq => ⟨_, rfl, _, tfind_modWarp _ hw.warp, hw.slices,
    fun t ht => ⟨?_, ht.steps⟩⟩
  rw [ht.partOfQuiet hq Warp.flags, warpAt_of_tfind hw.warp]

/-- R113: WRS gives p7 to p1 the bits of a register. -/
theorem getLsbD_predByte (v : Sys2Proof.Word) {p : Nat} (hp : 0 < p) (hp8 : p < 8) :
    ((v.setWidth 8 &&& 0xFE : Byte) ||| 1).getLsbD p = v.getLsbD p := by
  interval_cases p <;> simp

theorem foldl_preds (f : Nat → Byte) (l : List Nat) (w : Warp) :
    l.foldl (fun w l => { w with preds := tput w.preds l (f l) }) w =
      { w with preds := l.foldl (fun t l => tput t l (f l)) w.preds } :=
  List.foldl_hom (fun t => { w with preds := t }) fun _ _ => rfl

theorem foldl_gen (f : Nat → Sys2Proof.Word) (l : List Nat) (w : Warp) :
    l.foldl (fun w l => { w with gen := tput w.gen l (f l) }) w =
      { w with gen := l.foldl (fun t l => tput t l (f l)) w.gen } :=
  List.foldl_hom (fun t => { w with gen := t }) fun _ _ => rfl

theorem wrsPred_completes (d : BitVec 7) : Does (.wrs d 0x014) { reads := [d.toNat] } (fun _ _ sl w => quiet w sl)
    fun r k sl w t => stepsOn k sl w t ∧ ∀ l ∈ gangLanes w sl, ∀ p, 0 < p → p < 8 →
      predOf (warpAt t k) l p = (srcReg r w d.toNat l).getLsbD p := by
  refine does_of_passing (fun _ => rfl) fun r k sl w hw hq => ⟨_, rfl, _,
    (tfind_modWarp _ hw.warp).trans (congrArg some (foldl_preds ..)), hw.slices, fun t ht => ⟨ht.steps, fun l hl p hp hp8 => ?_⟩⟩
  rw [predOf, predByte, ht.partOfQuiet hq Warp.preds, warpAt_of_tfind hw.warp, tget_foldl_tput _ _ _ hl]
  exact getLsbD_predByte _ hp hp8

theorem wrsSrseed_completes (d : BitVec 7) : Does (.wrsSrseed d) { reads := [d.toNat] } (fun _ _ _ _ => True)
    fun r k sl w t => stepsOn k sl w t ∧ ∀ l ∈ gangLanes w sl,
      tget (warpAt t k).gen l 0 = seeded (srcReg r w d.toNat l) l := by
  refine does_of_passing (fun _ => rfl) fun r k sl w hw _ => ⟨_, rfl, _,
    (tfind_modWarp _ hw.warp).trans (congrArg some (foldl_gen ..)), hw.slices, fun t ht => ⟨ht.steps, fun l hl => ?_⟩⟩
  rw [ht.part Warp.gen, warpAt_of_tfind hw.warp, tget_foldl_tput _ _ _ hl]
  rfl

/-- Settles O12: the window base, the reads and the writes, each by its instruction's lemma. -/
theorem specialRegistersAreReadAndWritten : Obligations.SpecialRegistersAreReadAndWritten := by
  refine ⟨⟨fun h a => ?_, fun d => ?_, fun i => ?_, fun i s k sl w => wini_traps i⟩,
    fun d sel v => rds_completes d sel, rdsClockLo_completes, wrsFlags_completes, wrsPred_completes, wrsSrseed_completes⟩
  · exact window_completes (v := fun r sl w => (warpOperand r w sl a.toNat).toNat) fun _ => rfl
  · exact window_completes (v := fun r sl w => (warpOperand r w sl d.toNat).toNat) fun _ => rfl
  · intro s k sl v h r hok
    obtain ⟨t, hnext, hwin, hsteps⟩ := window_completes (i := .wini i) (v := fun _ _ w => w.win + i.toInt) (fun _ => rfl) s k sl v h hok
    exact ⟨t, hnext, by rw [hwin, Int.toNat_of_nonneg hok.1], hsteps⟩

end Sys2Proof.Claims
end

section
/-!
PROOFS. The end of slices and warps, and REGANG (R129, R143, R144): what EXIT makes of each slice, when the warp goes, and
which slices REGANG joins.
-/

namespace Sys2Proof.Machine

/-! ## Translations read no warp (R222, R224, R225) -/

/-- A state with other warps. -/
def State.withWarps (s : State) (ws : Tbl Warp) : State := { s with warps := ws }

/-- A result that leaves a state, with other warps in it. -/
def inWarps {α : Type} (ws : Tbl Warp) (r : State × α) : State × α := (r.1.withWarps ws, r.2)

theorem physBytes_withWarps (s : State) (ws : Tbl Warp) (c die pa n : Nat) :
    physBytes (s.withWarps ws) c die pa n = inWarps ws (physBytes s c die pa n) := by
  have hlost : lostLine (s.withWarps ws) pa n = lostLine s pa n := rfl
  unfold physBytes
  rw [hlost]
  cases lostLine s pa n <;> rfl

theorem walk_withWarps (ws : Tbl Warp) (u : Walker) (acc : Access) (va : Nat) : ∀ (n : Nat) (s : State) (t : Nat) (w x : Bool),
    walk (s.withWarps ws) u acc va n t w x = inWarps ws (walk s u acc va n t w x)
  | 0, _, _, _, _ => rfl
  | n + 1, s, t, w, x => by
    have hok (pa : Nat) : apertureOk (s.withWarps ws) pa .read = apertureOk s pa .read := rfl
    unfold walk
    dsimp only
    rw [hok, physBytes_withWarps]
    cases physBytes s u.ctx u.die (t + 8 * (va / 2 ^ (12 + 9 * n) % 512)) 8 with
    | mk s1 b =>
      cases b with
      | none => 
        dsimp only [inWarps]
        split <;> rfl
      | some b =>
        dsimp only [inWarps]
        rw [walk_withWarps ws u acc va n]
        split_ifs <;> rfl

theorem findTrans_withWarps (s : State) (ws : Tbl Warp) (u : Walker) (va : Nat) (acc : Access) :
    findTrans (s.withWarps ws) u va acc = inWarps ws (findTrans s u va acc) := by
  have hwalked (s : State) : findTrans.walked u va acc (s.withWarps ws) = inWarps ws (findTrans.walked u va acc s) := by
    unfold findTrans.walked
    rw [show (s.withWarps ws).contexts = s.contexts from rfl]
    cases tfind s.contexts u.ctx with
    | none => rfl
    | some cx => exact walk_withWarps ..
  have hfound : findTrans.found (s.withWarps ws) u va acc = inWarps ws (findTrans.found s u va acc) := by
    have hcached : cachedTrans (s.withWarps ws) u va = cachedTrans s u va := rfl
    unfold findTrans.found
    rw [hcached]
    cases cachedTrans s u va with
    | none => exact hwalked s
    | some e =>
      dsimp only
      have hdraw : draw (s.withWarps ws) = ((draw s).1, (draw s).2.withWarps ws) := rfl
      rw [hdraw]
      dsimp only
      split
      · split <;> rfl
      · exact hwalked _
  unfold findTrans
  rw [hfound]
  cases findTrans.found s u va acc with
  | mk s1 res =>
    cases res with
    | error k => rfl
    | ok e =>
      have hok : apertureOk (s1.withWarps ws) e.pa acc = apertureOk s1 e.pa acc := rfl
      dsimp only [inWarps]
      rw [hok]
      split <;> rfl

theorem showsRegang_withWarps (s : State) (ws : Tbl Warp) (w : Warp) (pc : VAddr) :
    showsRegang (s.withWarps ws) w pc = showsRegang s w pc := by
  unfold showsRegang
  rw [findTrans_withWarps]
  rfl

end Sys2Proof.Machine

namespace Sys2Proof.Claims

open Sys2Proof.Machine

/-! ## EXIT (R143) -/

theorem exitLanes_eq (x : Slice) (lanes : BitVec 4) : exitLanes x lanes = afterExit x lanes := by
  unfold exitLanes afterExit
  dsimp only
  by_cases hleft : x.active &&& ~~~lanes = 0
  · rw [if_pos hleft, if_neg (not_not.2 hleft), popActive_eq]
    unfold popsOn
    generalize List.dropWhile _ (List.map _ x.stack) = l
    cases l <;> rfl
  · rw [if_neg hleft, if_pos hleft]

theorem ended_afterExit {x : Slice} (h : x.ended = true) (lanes : BitVec 4) : (afterExit x lanes).ended = true := by
  unfold afterExit
  dsimp only
  split
  · exact h
  · split
    · rfl
    · exact h

section

variable {r : State} {k : Nat} {sl : BitVec 8} {w x : Warp}

/-- The warp when a gang's EXIT has ended its lanes. -/
def exited (sl : BitVec 8) (w : Warp) : Warp :=
  flushWarpQueue (eachSlice (bitsOf 8 sl) (fun i x => exitLanes x (guarded w i)) w) sl

theorem bare_exited (hlen : w.slices.length = 8) (j : Nat) : (sliceAt (exited sl w) j).bare =
    (if j ∈ bitsOf 8 sl then afterExit (sliceAt w j) (guarded w j) else sliceAt w j).bare := by
  rw [exited, sliceAt_of_bare (bare_flushWarpQueue ..)]
  split
  · rename_i hj
    rw [sliceAt_eachSlice_mem _ _ _ _ hj (nodup_bitsOf 8 sl) (hlen ▸ (mem_bitsOf.1 hj).1), exitLanes_eq]
  · rename_i hj
    rw [sliceAt_eachSlice_not_mem _ _ _ _ hj]

/-- What lanes that end, and writes to the state of a warp, leave of it. -/
theorem exited_keeps {β : Type} (p : Warp → β) (hp : ∀ w, p w.offQueues = p w := by exact fun _ => rfl) :
    p (exited sl w) = p w := by
  have hflush (w : Warp) (sl : BitVec 8) : (flushWarpQueue w sl).offQueues = w.offQueues := by
    refine foldl_keep Warp.offQueues _ (fun w i => ?_) _ w
    exact foldl_keep Warp.offQueues _ offQueues_writeWarpResult (sliceAt w i).warpQueue w
  rw [← hp, ← hp w, exited, hflush, eachSlice_keep Warp.offQueues fun _ _ _ => rfl]

theorem sameSlice_of_bare {x y z : Slice} (h : x.bare = y.bare) (hy : SameSlice y z) : SameSlice x z := by
  constructor
  · exact (slice_of_bare Slice.pc h).trans hy.pc
  · exact (slice_of_bare Slice.mode h).trans hy.mode
  · exact (slice_of_bare Slice.active h).trans hy.active
  · exact (slice_of_bare Slice.stack h).trans hy.stack
  · exact (slice_of_bare Slice.ended h).trans hy.ended
  · exact (slice_of_bare Slice.handler h).trans hy.handler
  · exact (slice_of_bare Slice.wait h).trans hy.wait
  · exact (slice_of_bare Slice.tpc h).trans hy.tpc
  · exact (slice_of_bare Slice.tmode h).trans hy.tmode
  · exact (slice_of_bare Slice.tmask h).trans hy.tmask
  · exact (slice_of_bare Slice.tcause h).trans hy.tcause
  · exact (slice_of_bare Slice.tval h).trans hy.tval
  · exact (slice_of_bare Slice.clockHi h).trans hy.clockHi
  · exact (slice_of_bare Slice.asyncTrap h).trans hy.asyncTrap

theorem settleEnds_of_none_arriving (hx : tfind r.warps k = some x) {j : Nat} (hj : j < 8) (hended : (sliceAt x j).ended = false)
    (hbar : x.barSlices = []) (hrend : x.rendSlices = []) : settleEnds r k = r := by
  have hsome : ((List.range 8).all fun i => (sliceAt x i).ended) = false :=
    List.all_eq_false.2 ⟨j, List.mem_range.2 hj, by rw [hended]; decide⟩
  simp only [settleEnds, warpAt_of_tfind hx, hsome, hbar, hrend, Bool.false_eq_true, if_false, List.foldl_nil]

theorem exit_slices : Does .exit { drains := true }
    (fun _ _ sl w => ∃ j, j < 8 ∧ j ∉ bitsOf 8 sl ∧ (sliceAt w j).ended = false)
    fun _ k sl w t => w.barSlices = [] → w.rendSlices = [] → ∀ j ∈ bitsOf 8 sl,
      SameSlice (sliceOf t k j) (afterExit (sliceAt w j) (guarded w j)) := by
  refine does_of_effect (fun _ => rfl) fun r k sl w hw hok => ⟨_, rfl, fun held hbar hrend j hj => ?_⟩
  obtain ⟨i, hi, houtside, hended⟩ := hok
  rw [warpAt_of_tfind hw.warp]
  have hx : tfind (modWarp ((bitsOf 8 sl).foldl (fun s i => modSlice s k i fun x => exitLanes x (guarded w i)) r) k
      fun w => flushWarpQueue w sl).warps k = some (exited sl w) :=
    tfind_modWarp _ (tfind_foldSlices (bitsOf 8 sl) (fun i x => exitLanes x (guarded w i)) hw.warp)
  have hbare (j : Nat) := bare_exited (sl := sl) hw.slices j
  have hleft : (sliceAt (exited sl w) i).ended = false := by
    rw [slice_of_bare Slice.ended (hbare i), if_neg houtside, hended]
  have hlen : (exited sl w).slices.length = 8 := by
    rw [exited, length_of_bare (bare_flushWarpQueue ..), length_eachSlice, hw.slices]
  have hsettled := settleEnds_of_none_arriving hx hi hleft ((exited_keeps Warp.barSlices).trans hbar)
    ((exited_keeps Warp.rendSlices).trans hrend)
  rw [hsettled]
  refine ((tookEffect_finishIssue hx hlen held).same hj).trans (sameSlice_of_bare ((hbare j).trans ?_) .rfl)
  rw [if_pos hj]

theorem warps_trimImages (s : State) (c : Nat) : (trimImages s c).warps = s.warps := by
  obtain ⟨im, gs, co, cx, cs, h⟩ := trimImages_eq s c
  rw [h]

/-- R143: an ended warp with no access outstanding and no value on its way is gone. -/
theorem warps_reap_of_ended (hx : tfind r.warps k = some x) (hended : x.ended = true) (hcounters : countersZero x = true)
    (hposting : posting r k = false) : (reap r k).warps = tdel r.warps k := by
  unfold countersZero at hcounters
  unfold reap
  rw [hx]
  dsimp only at hcounters ⊢
  rw [hended, hposting, hcounters, if_neg (by decide), warps_trimImages]
  simp only [apply_ite State.warps, warps_dropGrants, modGroup_warps, ite_self]

theorem tfind_finishIssue_none {f : Form} {held : List (Nat × List Sys2Proof.Word)} (h : tfind r.warps k = none) :
    tfind (finishIssue f r k sl held).warps k = none := by
  have hlisted : listed (finishIssue f r k sl held) = listed r := by
    unfold finishIssue stampIssue
    rw [modGang_listed, modWarp_listed]
  have hk := congrFun hlisted k
  rw [listed, listed, h] at hk
  exact Option.not_isSome_iff_eq_none.1 (by rw [hk]; decide)

theorem exit_ends : Does .exit { drains := true } (fun r k sl w => countersZero w = true ∧ posting r k = false ∧
      ∀ j, j < 8 → (sliceAt w j).ended = true ∨ (j ∈ bitsOf 8 sl ∧ (afterExit (sliceAt w j) (guarded w j)).ended = true))
    fun _ k _ _ t => tfind t.warps k = none := by
  refine does_of_effect (fun _ => rfl) fun r k sl w hw hok => ⟨_, rfl, fun held => ?_⟩
  obtain ⟨hcounters, hposting, hends⟩ := hok
  rw [warpAt_of_tfind hw.warp]
  have hx : tfind (modWarp ((bitsOf 8 sl).foldl (fun s i => modSlice s k i fun x => exitLanes x (guarded w i)) r) k
      fun w => flushWarpQueue w sl).warps k = some (exited sl w) :=
    tfind_modWarp _ (tfind_foldSlices (bitsOf 8 sl) (fun i x => exitLanes x (guarded w i)) hw.warp)
  have hall : ((List.range 8).all fun i => (sliceAt (exited sl w) i).ended) = true := by
    refine List.all_eq_true.2 fun i hi => ?_
    rw [slice_of_bare Slice.ended (bare_exited hw.slices i)]
    rcases hends i (List.mem_range.1 hi) with hended | ⟨hin, hended⟩
    · split
      · exact ended_afterExit hended _
      · exact hended
    · rw [if_pos hin, hended]
  rw [settleEnds, warpAt_of_tfind hx]
  dsimp only
  rw [if_pos hall]
  refine tfind_finishIssue_none ?_
  rw [warps_reap_of_ended (tfind_modWarp _ hx) rfl, tfind_tdel_same]
  · exact (congrArg (fun c => countersZero { w with counters := c }) (exited_keeps Warp.counters)).trans hcounters
  · obtain ⟨ws, h, -⟩ := foldSlices_eq r k (bitsOf 8 sl) fun i x => exitLanes x (guarded w i)
    rw [h]
    exact hposting

end

/-! ## REGANG (R129, R144) -/

section

variable {w v : Warp} {m sl : BitVec 8} {i j : Nat}

/-- R129: whether two slices stand at one address in one mode. -/
def together (w : Warp) (i j : Nat) : Prop := (sliceAt w i).pc = (sliceAt w j).pc ∧ (sliceAt w i).mode = (sliceAt w j).mode

/-- The slice among some that stands for those together with slice `i`. -/
def leader (w : Warp) (m : BitVec 8) (i : Nat) : Nat :=
  ((bitsOf 8 m).find? fun j => decide ((sliceAt w i).pc = (sliceAt w j).pc ∧ (sliceAt w i).mode = (sliceAt w j).mode)).getD i

theorem gang_regroup (hlen : w.slices.length = 8) (hi : i ∈ bitsOf 8 m) : (sliceAt (regroup w m) i).gang = leader w m i :=
  congrArg Slice.gang (sliceAt_eachSlice_mem (bitsOf 8 m) (fun i x => { x with gang := leader w m i }) w i hi
    (nodup_bitsOf 8 m) (hlen ▸ (mem_bitsOf.1 hi).1))

theorem gang_regroup_outside (hi : i ∉ bitsOf 8 m) : (sliceAt (regroup w m) i).gang = (sliceAt w i).gang :=
  congrArg Slice.gang (sliceAt_eachSlice_not_mem (bitsOf 8 m) (fun i x => { x with gang := leader w m i }) w i hi)

theorem leader_spec (hi : i ∈ bitsOf 8 m) : leader w m i ∈ bitsOf 8 m ∧ together w i (leader w m i) := by
  unfold leader
  cases h : (bitsOf 8 m).find? _ with
  | none => exact absurd (List.find?_eq_none.1 h i hi) (by simp)
  | some a =>
    have hfound := List.find?_some h
    exact ⟨List.mem_of_find?_eq_some h, (of_decide_eq_true hfound :)⟩

theorem leader_eq_iff (hi : i ∈ bitsOf 8 m) (hj : j ∈ bitsOf 8 m) : leader w m i = leader w m j ↔ together w i j := by
  obtain ⟨-, hipc, himode⟩ := leader_spec (w := w) hi
  obtain ⟨-, hjpc, hjmode⟩ := leader_spec (w := w) hj
  refine ⟨fun h => ?_, fun ⟨hpc, hmode⟩ => ?_⟩
  · rw [h] at hipc himode
    exact ⟨hipc.trans hjpc.symm, himode.trans hjmode.symm⟩
  · unfold leader
    rw [hpc, hmode]
    cases h : (bitsOf 8 m).find? _ with
    | none => exact absurd (List.find?_eq_none.1 h j hj) (by simp)
    | some a => rfl

theorem mem_gangMates : j ∈ bitsOf 8 (gangMates v sl) ↔ j < 8 ∧ ∃ a ∈ bitsOf 8 sl, (sliceAt v a).gang = (sliceAt v j).gang := by
  rw [gangMates, mem_bitsOf_toBits, List.mem_filter, List.mem_range, List.any_eq_true]
  simp only [decide_eq_true_eq]
  exact ⟨fun ⟨_, h⟩ => h, fun h => ⟨h.1, h⟩⟩

/-- Grouping the gangs of some slices again leaves which slices are together as it was. -/
theorem gang_regroup_again {live : BitVec 8} (hlen : v.slices.length = 8)
    (hgang : ∀ i ∈ bitsOf 8 live, (sliceAt v i).gang = leader v live i) (hi : i ∈ bitsOf 8 live) (hj : j ∈ bitsOf 8 live) :
    (sliceAt (regroup v (gangMates v sl)) i).gang = (sliceAt (regroup v (gangMates v sl)) j).gang ↔ together v i j := by
  have hmates {i j : Nat} (hi : i ∈ bitsOf 8 live) (hj : j ∈ bitsOf 8 live) (htogether : together v i j)
      (hmate : i ∈ bitsOf 8 (gangMates v sl)) : j ∈ bitsOf 8 (gangMates v sl) := by
    obtain ⟨-, a, ha, hai⟩ := mem_gangMates.1 hmate
    exact mem_gangMates.2 ⟨(mem_bitsOf.1 hj).1, a, ha,
      hai.trans ((hgang i hi).trans (((leader_eq_iff hi hj).2 htogether).trans (hgang j hj).symm))⟩
  -- A slice of the regrouped gangs and one outside them are apart before and after.
  have hapart {i j : Nat} (hi : i ∈ bitsOf 8 live) (hj : j ∈ bitsOf 8 live) (hmate : i ∈ bitsOf 8 (gangMates v sl))
      (hother : j ∉ bitsOf 8 (gangMates v sl)) : ¬ together v i j ∧
        (sliceAt (regroup v (gangMates v sl)) i).gang ≠ (sliceAt (regroup v (gangMates v sl)) j).gang := by
    refine ⟨fun h => hother (hmates hi hj h hmate), fun h => ?_⟩
    rw [gang_regroup hlen hmate, gang_regroup_outside hother, hgang j hj] at h
    obtain ⟨-, hipc, himode⟩ := leader_spec (w := v) hmate
    obtain ⟨-, hjpc, hjmode⟩ := leader_spec (w := v) hj
    rw [h] at hipc himode
    exact hother (hmates hi hj ⟨hipc.trans hjpc.symm, himode.trans hjmode.symm⟩ hmate)
  by_cases hmi : i ∈ bitsOf 8 (gangMates v sl) <;> by_cases hmj : j ∈ bitsOf 8 (gangMates v sl)
  · rw [gang_regroup hlen hmi, gang_regroup hlen hmj, leader_eq_iff hmi hmj]
  · obtain ⟨hne, hgangs⟩ := hapart hi hj hmi hmj
    exact iff_of_false hgangs hne
  · obtain ⟨hne, hgangs⟩ := hapart hj hi hmj hmi
    exact iff_of_false (Ne.symm hgangs) fun ⟨hpc, hmode⟩ => hne ⟨hpc.symm, hmode.symm⟩
  · rw [gang_regroup_outside hmi, gang_regroup_outside hmj, hgang i hi, hgang j hj, leader_eq_iff hi hj]

/-- What the latches do not hold, the end of an instruction's read cycle leaves. -/
theorem slice_holdLatches {β : Type} (p : Slice → β) (hp : ∀ x l, p { x with latches := l } = p x) (n : Nat)
    (held : List (Nat × List Sys2Proof.Word)) (w : Warp) (j : Nat) :
    p (sliceAt (holdLatches n held (ageLatches w sl)) j) = p (sliceAt w j) := by
  have hmod (w : Warp) (i : Nat) (g : Slice → List Latch) :
      p (sliceAt (modSliceW w i fun x => { x with latches := g x }) j) = p (sliceAt w j) := by
    rcases sliceAt_modSliceW_or w i j fun x => { x with latches := g x } with h | ⟨-, h⟩
    · rw [h]
    · rw [h, hp]
  refine (foldl_keep (fun w => p (sliceAt w j)) _ (fun w (q : Nat × List Sys2Proof.Word) => hmod w q.1 _) _ _).trans ?_
  rw [ageLatches_eq]
  exact foldl_keep (fun w => p (sliceAt w j)) _ (fun w i => (hmod _ i _).trans (hmod w i _)) _ _

theorem slice_ticked {β : Type} (p : Slice → β) (hp : ∀ x l, p { x with latches := l } = p x) (htick : ∀ x, p x.tick = p x)
    (n : Nat) (held : List (Nat × List Sys2Proof.Word)) (hlen : w.slices.length = 8) (j : Nat) :
    p (sliceAt (ticked n held sl w) j) = p (sliceAt w j) := by
  rw [ticked, sliceAt_tickGang_once ((length_holdLatches n held w).trans hlen)]
  split
  · rw [htick, slice_holdLatches p hp]
  · exact slice_holdLatches p hp ..

theorem gang_issued (n : Nat) (held : List (Nat × List Sys2Proof.Word)) (now : Nat) (w : Warp) (j : Nat) :
    (sliceAt (issued n held sl now w) j).gang =
      (sliceAt (regroup (ticked n held sl w) (gangMates (ticked n held sl w) sl)) j).gang := by
  refine foldl_keep (fun w => (sliceAt w j).gang) _ (fun w i => ?_) _ _
  rcases sliceAt_modSliceW_or w i j fun x => { x with lastIssue := now } with h | ⟨-, h⟩ <;> rw [h]

theorem leader_congr (h : ∀ j, (sliceAt v j).pc = (sliceAt w j).pc ∧ (sliceAt v j).mode = (sliceAt w j).mode) (m : BitVec 8)
    (i : Nat) : leader v m i = leader w m i := by
  simp only [leader, h]

theorem together_congr (h : ∀ j, (sliceAt v j).pc = (sliceAt w j).pc ∧ (sliceAt v j).mode = (sliceAt w j).mode) (i j : Nat) :
    together v i j ↔ together w i j := by
  simp only [together, h]

/-- R129: the end of an instruction of a warp whose live slices have just been regrouped. -/
theorem gang_issued_of_regrouped {y : Warp} {live : BitVec 8} (n : Nat) (held : List (Nat × List Sys2Proof.Word)) (now : Nat)
    (hlen : y.slices.length = 8) (hi : i ∈ bitsOf 8 live) (hj : j ∈ bitsOf 8 live) :
    (sliceAt (issued n held sl now (regroup y live)) i).gang = (sliceAt (issued n held sl now (regroup y live)) j).gang ↔
      together y i j := by
  have hrlen : (regroup y live).slices.length = 8 := (length_of_bare (bare_regroup ..)).trans hlen
  have hstand (j : Nat) : (sliceAt (ticked n held sl (regroup y live)) j).pc = (sliceAt y j).pc ∧
      (sliceAt (ticked n held sl (regroup y live)) j).mode = (sliceAt y j).mode := by
    rw [slice_ticked Slice.pc (fun _ _ => rfl) (fun _ => rfl) n held hrlen,
      slice_ticked Slice.mode (fun _ _ => rfl) (fun _ => rfl) n held hrlen]
    have hbare := sliceAt_of_bare (bare_regroup y live) j
    exact ⟨slice_of_bare Slice.pc hbare, slice_of_bare Slice.mode hbare⟩
  rw [gang_issued, gang_issued, gang_regroup_again _ (fun i hi => ?_) hi hj, together_congr hstand]
  · exact ((sameFlow_tickGang ..).length.trans (length_holdLatches ..)).trans hrlen
  · rw [slice_ticked Slice.gang (fun _ _ => rfl) (fun _ => rfl) n held hrlen, gang_regroup hlen hi, leader_congr hstand]

/-! ## The instruction REGANG -/

theorem TookEffect.pc {k : Nat} {x : Warp} {u t : State} (h : TookEffect k sl x u t) (j : Nat) :
    (sliceOf t k j).pc = (sliceAt x j).pc := by
  by_cases hj : j ∈ bitsOf 8 sl
  · exact (congrArg Slice.pc (h.slice j hj) :)
  · exact (congrArg Slice.pc (h.outside j hj) :)

/-- The warp when a gang has executed REGANG. -/
def atItsRegang (sl : BitVec 8) (w : Warp) : Warp := eachSlice (bitsOf 8 sl) (fun _ x => { x with regangAt := some x.pc }) w

/-- The slices of a warp that have not ended. -/
def liveSlices (w : Warp) : BitVec 8 := toBits 8 ((List.range 8).filter fun i => !(sliceAt w i).ended)

theorem mem_liveSlices (hi : i < 8) (h : (sliceAt w i).ended = false) : i ∈ bitsOf 8 (liveSlices w) :=
  mem_bitsOf_toBits.2 ⟨hi, List.mem_filter.2 ⟨List.mem_range.2 hi, by rw [h]; rfl⟩⟩

theorem slice_atItsRegang {β : Type} (p : Slice → β) (hp : ∀ x, p { x with regangAt := some x.pc } = p x) (w : Warp) (j : Nat) :
    p (sliceAt (atItsRegang sl w) j) = p (sliceAt w j) := by
  refine foldl_keep (fun w => p (sliceAt w j)) _ (fun w i => ?_) _ w
  rcases sliceAt_modSliceW_or w i j fun x => { x with regangAt := some x.pc } with h | ⟨-, h⟩
  · rw [h]
  · rw [h, hp]

/-- R144: every live slice stands at a REGANG word once the gang has executed its own. -/
theorem all_atRegang {r : State} {ws : Tbl Warp} (hlen : w.slices.length = 8)
    (hat : ∀ i, i < 8 → (sliceAt w i).ended = false → i ∈ bitsOf 8 sl ∨ atRegang r w i = true) :
    ((List.range 8).filter fun i => !(sliceAt (atItsRegang sl w) i).ended).all
      (atRegang (r.withWarps ws) (atItsRegang sl w)) = true := by
  refine List.all_eq_true.2 fun i hi => ?_
  obtain ⟨hi8, hlive⟩ := List.mem_filter.1 hi
  rw [slice_atItsRegang Slice.ended fun _ => rfl] at hlive
  have hwalker : (atItsRegang sl w).walker = w.walker := eachSlice_keep Warp.walker (fun _ _ _ => rfl) _ _ _
  have hshows (pc : VAddr) : showsRegang (r.withWarps ws) (atItsRegang sl w) pc = showsRegang r w pc := by
    rw [showsRegang_withWarps]
    unfold showsRegang
    rw [hwalker]
  unfold atRegang
  dsimp only
  by_cases hin : i ∈ bitsOf 8 sl
  · rw [atItsRegang, sliceAt_eachSlice_mem _ _ _ _ hin (nodup_bitsOf 8 sl) (hlen ▸ (mem_bitsOf.1 hin).1)]
    simp
  · have hother := (hat i (List.mem_range.1 hi8) (by simpa using hlive)).resolve_left hin
    rw [hshows, atItsRegang, sliceAt_eachSlice_not_mem _ _ _ _ hin]
    exact hother

/-- What the end of REGANG leaves, once the live slices have moved on from `w` to `y` and been regrouped. -/
theorem joined_of_regrouped {f : Form} {u : State} {k : Nat} {y : Warp} {live : BitVec 8}
    (hx : tfind u.warps k = some (regroup y live)) (hlen : y.slices.length = 8)
    (hslice : ∀ i ∈ bitsOf 8 live, (sliceAt y i).pc = (sliceAt w i).pc + 4 ∧ (sliceAt y i).mode = (sliceAt w i).mode)
    (held : List (Nat × List Sys2Proof.Word)) :
    (∀ i ∈ bitsOf 8 live, (sliceOf (finishIssue f u k sl held) k i).pc = (sliceAt w i).pc + 4) ∧
      ∀ i ∈ bitsOf 8 live, ∀ j ∈ bitsOf 8 live, ((sliceOf (finishIssue f u k sl held) k i).gang =
        (sliceOf (finishIssue f u k sl held) k j).gang ↔ together w i j) := by
  refine ⟨fun i hi => ?_, fun i hi j hj => ?_⟩
  · have htook := tookEffect_finishIssue (f := f) (sl := sl) hx ((length_of_bare (bare_regroup ..)).trans hlen) held
    rw [htook.pc i, slice_of_bare Slice.pc (sliceAt_of_bare (bare_regroup ..) i)]
    exact (hslice i hi).1
  · obtain ⟨hipc, himode⟩ := hslice i hi
    obtain ⟨hjpc, hjmode⟩ := hslice j hj
    rw [sliceOf, sliceOf, warpAt_of_tfind (tfind_finishIssue hx), gang_issued_of_regrouped _ _ _ hlen hi hj, together, together,
      hipc, hjpc, himode, hjmode, BitVec.add_left_inj]

theorem regang_joins : Does .regang { drains := true, past := true } (fun r _ sl w => sl ≠ 0 ∧
      ∀ i, i < 8 → (sliceAt w i).ended = false → i ∈ bitsOf 8 sl ∨ atRegang r w i = true)
    fun _ k _ w t => (∀ i, i < 8 → (sliceAt w i).ended = false → (sliceOf t k i).pc = (sliceAt w i).pc + 4) ∧
      ∀ i j, i < 8 → j < 8 → (sliceAt w i).ended = false → (sliceAt w j).ended = false →
        ((sliceOf t k i).gang = (sliceOf t k j).gang ↔ together w i j) := by
  refine does_of_effect (fun _ => rfl) fun r k sl w hw ⟨_, hat⟩ => ⟨_, if_pos ?_, fun held => ?_⟩
  all_goals
    obtain ⟨ws, hgang⟩ := modGang_eq r k sl fun x => { x with regangAt := some x.pc }
    have hx : tfind (modGang r k sl fun x => { x with regangAt := some x.pc }).warps k = some (atItsRegang sl w) :=
      tfind_modGang sl _ hw.warp
  · rw [warpAt_of_tfind hx, hgang]
    exact all_atRegang hw.slices hat
  · rw [warpAt_of_tfind hx]
    set live := liveSlices (atItsRegang sl w) with hlive
    set y := eachSlice (bitsOf 8 live) (fun _ x => { x.advance with regangAt := none }) (atItsRegang sl w) with hy
    have hylen : y.slices.length = 8 := ((length_eachSlice ..).trans (length_eachSlice ..)).trans hw.slices
    have hmem (i : Nat) (hi : i < 8) (h : (sliceAt w i).ended = false) : i ∈ bitsOf 8 live :=
      mem_liveSlices hi ((slice_atItsRegang Slice.ended (fun _ => rfl) w i).trans h)
    have hslice (i : Nat) (hi : i ∈ bitsOf 8 live) : (sliceAt y i).pc = (sliceAt w i).pc + 4 ∧
        (sliceAt y i).mode = (sliceAt w i).mode := by
      rw [hy, sliceAt_eachSlice_mem _ _ _ _ hi (nodup_bitsOf 8 live)
        (((length_eachSlice ..).trans hw.slices).symm ▸ (mem_bitsOf.1 hi).1)]
      exact ⟨congrArg (· + 4) (slice_atItsRegang Slice.pc (fun _ => rfl) w i), slice_atItsRegang Slice.mode (fun _ => rfl) w i⟩
    obtain ⟨hpc, hgang⟩ := joined_of_regrouped (sl := sl) (u := reconverge (modWarp (modGang _ k live _) k fun w => regroup w live) k live)
      (f := { drains := true, past := true }) (tfind_modWarp _ (tfind_modGang live _ hx)) hylen hslice held
    exact ⟨fun i hi h => hpc i (hmem i hi h), fun i j hi hj hi' hj' => hgang i (hmem i hi hi') j (hmem j hj hj')⟩

end

/-- Settles O15: by the ends of lanes and warps, and by the slices that REGANG joins. -/
theorem slicesEndAndRejoin : Obligations.SlicesEndAndRejoin :=
  ⟨⟨exit_slices, exit_ends⟩, regang_joins⟩

end Sys2Proof.Claims
end

section
/-!
PROOFS. Donations and the rendezvous (R161): DONATE records a donation, and the last warp of a workgroup that meets no
other goes on at once.
-/

namespace Sys2Proof.Claims

open Sys2Proof.Machine

/-! ## DONATE -/

section

variable {h : BitVec 2} {a : BitVec 7} {n : BitVec 8}

theorem donate_records : Does (.donate h a n) (draining h a) (fun r _ sl w =>
      let f := (warpOperand r w sl a.toNat).toNat
      f ≠ w.ident.f1 ∧ f ∈ (groupAt r w.ident.group).names ∧
        8 * (n.toNat + (w.donations.map Prod.snd).sum) + 8 ≤ w.ceil ∧
        8 * (n.toNat + (w.donations.map Prod.snd).sum) + w.win < w.ceil)
    fun r k sl w t => stepsOn k sl w t ∧ (warpAt t k).ceil = w.ceil ∧
      let f := (warpOperand r w sl a.toNat).toNat
      tget (warpAt t k).donations f 0 = tget w.donations f 0 + n.toNat := by
  refine does_of_passing (fun _ => rfl) fun r k sl w hw hok => ?_
  obtain ⟨hother, hname, hleast, hwin⟩ := hok
  set f := (warpOperand r w sl a.toNat).toNat
  refine ⟨fun s k _ => modWarp s k fun v => { v with donations := tput v.donations f (tget v.donations f 0 + n.toNat) }, ?_, _,
    tfind_modWarp _ hw.warp, hw.slices, fun t ht => ⟨ht.steps, ht.part Warp.ceil, ?_⟩⟩
  · dsimp only
    rw [warpAt_of_tfind hw.warp, if_neg hother, if_neg (not_not.2 hname), if_neg (by omega)]
  · dsimp only
    rw [ht.part Warp.donations]
    exact tget_tput_same ..

theorem donate_to_itself : Does (.donate h a n) (draining h a) (fun r _ sl w => (warpOperand r w sl a.toNat).toNat = w.ident.f1)
    fun _ k sl w t => stepsOn k sl w t ∧ (warpAt t k).ceil = w.ceil ∧ (warpAt t k).donations = w.donations := by
  refine does_of_passing (fun _ => rfl) fun r k sl w hw hok => ⟨fun s _ _ => s, ?_, w, hw.warp, hw.slices,
    fun t ht => ⟨ht.steps, ht.part Warp.ceil, ht.part Warp.donations⟩⟩
  dsimp only
  rw [warpAt_of_tfind hw.warp, if_pos hok]

end

/-! ## REND -/

section

variable {w : Warp} {sl : BitVec 8} {r j : Nat}

theorem sliceAt_ageLatches_outside (w : Warp) (hj : j ∉ bitsOf 8 sl) : sliceAt (ageLatches w sl) j = sliceAt w j := by
  rw [ageLatches_eq]
  refine sliceAt_foldl_of_notMem (fun w i hi => ?_) _ _ hj
  rw [sliceAt_modSliceW_ne _ _ _ _ (Ne.symm hi), sliceAt_modSliceW_ne _ _ _ _ (Ne.symm hi)]

/-- A slice that waits at a rendezvous whose REND its warp executes now. -/
theorem sliceAt_leaveRend (hlen : w.slices.length = 8) (hj : j ∈ bitsOf 8 sl) (hwait : (sliceAt w j).wait = .rend r) :
    sliceAt (leaveRend w r sl) j = { (sliceAt w j).advance with wait := .ready } := by
  obtain ⟨hj8, hbit⟩ := mem_bitsOf.1 hj
  refine sliceAt_foldl_once (fun w => w.slices.length) (fun w i hi => ?_) (fun w i => ?_) (fun v hv hsame => ?_)
    (List.mem_range.2 hj8) List.nodup_range
  · have hnot : j ∉ bitsOf 8 ((1 : BitVec 8) <<< i) := fun hmem => by
      have hset := (mem_bitsOf.1 hmem).2
      rw [BitVec.getLsbD_shiftLeft, show (1 : BitVec 8) = 1#8 from rfl, BitVec.getLsbD_one] at hset
      simp at hset
      omega
    split
    · dsimp only
      split
      · exact sliceAt_modSliceW_ne _ _ _ _ (Ne.symm hi)
      · rw [sliceAt_ageLatches_outside _ hnot, sliceAt_modSliceW_ne _ _ _ _ (Ne.symm hi)]
    · rfl
  · split
    · dsimp only
      split <;> simp
    · rfl
  · have hsame' : sliceAt v j = sliceAt w j := hsame
    rw [if_pos (by rw [hsame', hwait])]
    dsimp only
    have hv8 : v.slices.length = 8 := hv.trans hlen
    rw [if_pos hbit, sliceAt_modSliceW_same _ _ _ (hv8.symm ▸ hj8), hsame']

theorem leaveRend_keeps {β : Type} (p : Warp → β) (hp : ∀ w i f, p (modSliceW w i f) = p w) (w : Warp) (counted : BitVec 8) :
    p (leaveRend w r counted) = p { w with
      rendArrived := w.rendArrived &&& ~~~((1 : BitVec 16) <<< r), rendSlices := tdel w.rendSlices r } := by
  refine foldl_keep p _ (fun w i => ?_) _ _
  have hage (w : Warp) (m : BitVec 8) : p (ageLatches w m) = p w := by
    rw [ageLatches_eq]
    exact foldl_keep p _ (fun w i => (hp _ i _).trans (hp w i _)) _ w
  split
  · dsimp only
    split
    · exact hp ..
    · exact (hage ..).trans (hp ..)
  · rfl

/-- R161: the only warp of a workgroup, with no donation pending, meets no other. -/
theorem tryRend_alone {s : State} {g k : Nat} {x : Warp} (hx : tfind s.warps k = some x) (hgroup : groupWarps s g = [k])
    (hended : x.ended = false) (hdonations : x.donations = []) (harrived : x.rendArrived.getLsbD r = true) :
    tryRend s g r k sl = (true, modWarp s k fun _ => alsoAtFence (fun w => leaveRend w r sl) x) := by
  have hwarps : rendWarps s g = [(k, x)] := by
    simp [rendWarps, hgroup, anyWarp, hx, hended]
  have hnone : applyDonations [(k, x)] = [(k, x)] := by
    simp only [applyDonations, List.flatMap_cons, List.flatMap_nil, hdonations, List.map_nil, List.append_nil, List.foldl_nil,
      List.map_cons]
    rw [← hdonations]
  unfold tryRend
  simp [hwarps, hnone, harrived, updateWarp, hx]

/-- The warp of a gang that executes REND `r`. -/
def waitingRend (r : Nat) (sl : BitVec 8) (w : Warp) : Warp :=
  eachSlice (bitsOf 8 sl) (fun _ x => { x with wait := .rend r })
    { w with rendSlices := tput w.rendSlices r (tget w.rendSlices r 0 ||| sl) }

/-- The warp once that gang is its last to execute it. -/
def arrivedRend (r : Nat) (sl : BitVec 8) (w : Warp) : Warp :=
  { waitingRend r sl w with rendArrived := (waitingRend r sl w).rendArrived ||| (1 : BitVec 16) <<< r }

theorem waitingRend_keeps {β : Type} (p : Warp → β) (hp : ∀ w i f, p (modSliceW w i f) = p w)
    (hrend : ∀ w l, p { w with rendSlices := l } = p w) (w : Warp) : p (waitingRend r sl w) = p w :=
  (eachSlice_keep p hp _ _ _).trans (hrend _ _)

theorem sliceAt_waitingRend (hlen : w.slices.length = 8) (hj : j ∈ bitsOf 8 sl) :
    sliceAt (waitingRend r sl w) j = { sliceAt w j with wait := .rend r } :=
  sliceAt_eachSlice_mem _ _ { w with rendSlices := tput w.rendSlices r (tget w.rendSlices r 0 ||| sl) } _ hj (nodup_bitsOf 8 sl)
    (show j < w.slices.length from hlen ▸ (mem_bitsOf.1 hj).1)

theorem rendReady_waitingRend (hlast : ∀ i, i < 8 → (sliceAt w i).ended = false → i ∈ bitsOf 8 sl) :
    rendReady (waitingRend r sl w) r = true := by
  refine List.all_eq_true.2 fun i hi => ?_
  have hi8 := List.mem_range.1 hi
  have hslices : (waitingRend r sl w).rendSlices = tput w.rendSlices r (tget w.rendSlices r 0 ||| sl) :=
    eachSlice_keep Warp.rendSlices (fun _ _ _ => rfl) _ _ _
  have hended : (sliceAt (waitingRend r sl w) i).ended = (sliceAt w i).ended := by
    refine foldl_keep (fun w => (sliceAt w i).ended) _ (fun w m => ?_) _ _
    rcases sliceAt_modSliceW_or w m i fun x => { x with wait := .rend r } with h | ⟨-, h⟩ <;> rw [h]
  rw [hslices, hended, tget_tput_same, BitVec.getLsbD_or]
  cases hlive : (sliceAt w i).ended with
  | true => rfl
  | false => rw [(mem_bitsOf.1 (hlast i hi8 hlive)).2, Bool.or_true, Bool.or_true]

/-- What the REND of a gang leaves of its warp until the rendezvous completes. -/
theorem arrivedRend_keeps {β : Type} (p : Warp → β) (w : Warp) (hp : ∀ w i f, p (modSliceW w i f) = p w := by exact fun _ _ _ => rfl)
    (hrend : ∀ w l, p { w with rendSlices := l } = p w := by exact fun _ _ => rfl)
    (harrives : ∀ w m, p { w with rendArrived := m } = p w := by exact fun _ _ => rfl) : p (arrivedRend r sl w) = p w :=
  (harrives _ _).trans ((eachSlice_keep p hp _ _ _).trans (hrend _ _))

theorem getLsbD_one_shiftLeft {n i : Nat} (hi : i < n) : ((1 : BitVec n) <<< i).getLsbD i = true := by
  rw [BitVec.getLsbD_shiftLeft, show (1 : BitVec n) = 1#n from rfl, BitVec.getLsbD_one]
  simp
  omega

/-- The warp that REND `r` leaves where it meets no other. -/
def passedRend (r : Nat) (sl : BitVec 8) (w : Warp) : Warp := alsoAtFence (fun w => leaveRend w r sl) (arrivedRend r sl w)

theorem slices_passedRend (r : Nat) (sl : BitVec 8) (w : Warp) :
    (passedRend r sl w).slices = (leaveRend (arrivedRend r sl w) r sl).slices := by
  simp only [passedRend, alsoAtFence]

theorem passedRend_keeps {β : Type} (p : Warp → β) (w : Warp)
    (hp : ∀ w i f, p (modSliceW w i f) = p w := by exact fun _ _ _ => rfl)
    (hrend : ∀ w l, p { w with rendSlices := l } = p w := by exact fun _ _ => rfl)
    (harrives : ∀ w m, p { w with rendArrived := m } = p w := by exact fun _ _ => rfl)
    (hspec : ∀ w sp, p { w with spec := sp } = p w := by exact fun _ _ => rfl) : p (passedRend r sl w) = p w :=
  calc p (passedRend r sl w)
    _ = p (leaveRend (arrivedRend r sl w) r sl) := hspec ..
    _ = p (arrivedRend r sl w) := (leaveRend_keeps p hp _ _).trans ((hrend { arrivedRend r sl w with
          rendArrived := (arrivedRend r sl w).rendArrived &&& ~~~((1 : BitVec 16) <<< r) } _).trans (harrives _ _))
    _ = p w := arrivedRend_keeps p w hp hrend harrives

theorem rendArrived_passedRend (w : Warp) : (passedRend r sl w).rendArrived =
    (arrivedRend r sl w).rendArrived &&& ~~~((1 : BitVec 16) <<< r) := by
  refine Eq.trans ?_ (leaveRend_keeps Warp.rendArrived (fun _ _ _ => rfl) (arrivedRend r sl w) sl)
  simp only [passedRend, alsoAtFence]

theorem sliceAt_passedRend (hlen : w.slices.length = 8) (hj : j ∈ bitsOf 8 sl) :
    sliceAt (passedRend r sl w) j = { (sliceAt w j).advance with wait := .ready } := by
  have hslice : sliceAt (arrivedRend r sl w) j = { sliceAt w j with wait := .rend r } := sliceAt_waitingRend hlen hj
  have hlen' : (arrivedRend r sl w).slices.length = 8 := (arrivedRend_keeps (fun w => w.slices.length) w (by simp)).trans hlen
  have hleaves := sliceAt_leaveRend hlen' hj (congrArg Slice.wait hslice)
  rw [hslice] at hleaves
  rw [sliceAt, slices_passedRend]
  exact hleaves

theorem rend_completes (n : BitVec 4) : Does (.rend n) { drains := true } (fun r k sl w => w.donations = [] ∧ w.ended = false ∧
      groupWarps r w.ident.group = [k] ∧ ∀ i, i < 8 → (sliceAt w i).ended = false → i ∈ bitsOf 8 sl)
    fun _ k sl w t => stepsOn k sl w t ∧ (warpAt t k).ceil = w.ceil ∧ (warpAt t k).rendArrived.getLsbD n.toNat = false := by
  refine does_of_effect (fun _ => rfl) fun r k sl w hw hok => ?_
  obtain ⟨hdonations, hended, hgroup, hlast⟩ := hok
  have hn : n.toNat < 16 := n.isLt
  set s1 := modWarp r k fun w => { w with rendSlices := tput w.rendSlices n.toNat (tget w.rendSlices n.toNat 0 ||| sl) }
  set s2 := modGang s1 k sl fun x => { x with wait := .rend n.toNat }
  have hwaits : tfind s2.warps k = some (waitingRend n.toNat sl w) := tfind_modGang sl _ (tfind_modWarp _ hw.warp)
  set s3 := modWarp s2 k fun w => { w with rendArrived := w.rendArrived ||| (1 : BitVec 16) <<< n.toNat }
  have harrived : tfind s3.warps k = some (arrivedRend n.toNat sl w) := tfind_modWarp _ hwaits
  have hgroup3 : groupWarps s3 (arrivedRend n.toNat sl w).ident.group = [k] := by
    obtain ⟨ws, h⟩ := modGang_eq s1 k sl fun x => { x with wait := .rend n.toNat }
    rw [arrivedRend_keeps fun w => w.ident.group]
    exact (congrArg (fun s => groupWarps s w.ident.group) h).trans hgroup
  have hbit : (arrivedRend n.toNat sl w).rendArrived.getLsbD n.toNat = true := by
    refine (BitVec.getLsbD_or ..).trans ?_
    rw [getLsbD_one_shiftLeft hn, Bool.or_true]
  have htry := tryRend_alone (sl := sl) harrived hgroup3 ((arrivedRend_keeps Warp.ended w).trans hended)
    ((arrivedRend_keeps Warp.donations w).trans hdonations) hbit
  refine ⟨modWarp s3 k fun _ => passedRend n.toNat sl w, ?_, fun held => ?_⟩
  · dsimp only
    rw [warpAt_of_tfind hwaits, if_pos (rendReady_waitingRend hlast), warpAt_of_tfind harrived, htry]
    rfl
  · have hpassed : tfind (modWarp s3 k fun _ => passedRend n.toNat sl w).warps k = some (passedRend n.toNat sl w) :=
      tfind_modWarp _ harrived
    have hlen : (passedRend n.toNat sl w).slices.length = 8 :=
      (passedRend_keeps (fun w => w.slices.length) w (by simp)).trans hw.slices
    have htook := tookEffect_finishIssue (f := { drains := true }) (sl := sl) hpassed hlen held
    refine ⟨fun j hj => ?_, ?_, ?_⟩
    · rw [(htook.same hj).pc, sliceAt_passedRend hw.slices hj]
      rfl
    · rw [htook.part Warp.ceil, passedRend_keeps Warp.ceil]
    · rw [htook.part Warp.rendArrived, rendArrived_passedRend, BitVec.getLsbD_and, BitVec.getLsbD_not, getLsbD_one_shiftLeft hn,
        Bool.not_true, Bool.and_false, Bool.and_false]

end

/-- Settles O18: a donation is recorded, and the rendezvous of a warp that meets no other completes at once. -/
theorem donationsMeetAtTheRendezvous : Obligations.DonationsMeetAtTheRendezvous :=
  ⟨fun _ _ _ => donate_records, fun _ _ _ => donate_to_itself, rend_completes⟩

end Sys2Proof.Claims
end

section
/-!
PROOFS. ERET where a barrier's arrival settles behind it (R164, R166, R167): the return of a gang settles the arrivals of
its warp's barriers, and an arrival with another count than the latched one traps the slices that wait there. One of them
in its handler already makes that a double trap, which takes the warp away.
-/

namespace Sys2Proof.Claims.ReturnBesideLateArrival

open Sys2Proof.Machine Sys2Proof.Tests

/-- A slice that returns from its handler. -/
def returning : Slice := { (default : Slice) with handler := true, active := 1, tmask := 1 }

/-- A slice that waits at barrier 0 in its handler. -/
def waiting : Slice := { (default : Slice) with handler := true, active := 1, wait := .bar false 0 }

def endedSlice : Slice := { (default : Slice) with ended := true }

/-- The warp of the two slices, both of which have executed barrier 0, the second with count 1. -/
def warp : Warp :=
  { (default : Warp) with
    slices := [returning, waiting] ++ List.replicate 6 endedSlice
    barSlices := [(0, [1, 1, 0, 0, 0, 0, 0, 0])]
    barStated := [(0, (1, 2))] }

/-- The first slice issues ERET; the barrier's phase has latched count 2. -/
def start : State :=
  { State.reset with
    issuer := .gang 1 1
    warps := [(1, warp)]
    groups := [(0, { (default : Group) with bars := [(0, ⟨false, some 2, 0⟩)] })] }

theorem issues_start : Issues { drains := true, past := true } start 1 1 warp := issuesOf (by decide +kernel)

/-- What ERET asks of the read cycle's warp, and the mask that its slice is to return to. -/
theorem read_start : (∀ j ∈ bitsOf 8 (1 : BitVec 8),
      (sliceOf (readAt { drains := true, past := true } start 1 1 warp) 1 j).handler = true ∧
        (sliceOf (readAt { drains := true, past := true } start 1 1 warp) 1 j).tmask ≠ 0 ∧
        (sliceOf (readAt { drains := true, past := true } start 1 1 warp) 1 j).ended = false) ∧
    (sliceOf (readAt { drains := true, past := true } start 1 1 warp) 1 0).tmask = 1 := by
  decide +kernel

theorem exec_start : (tfind (after (exec .eret start)).warps 1).isNone = true := by
  decide +kernel

end Sys2Proof.Claims.ReturnBesideLateArrival

namespace Sys2Proof.Claims

open Sys2Proof.Machine ReturnBesideLateArrival

/-- Refutes O13, in its last part: as the gang returns, the late arrival of its warp at a barrier traps a slice that waits
there in its handler, and the double trap takes the warp away before any slice has the mask it was to return to. -/
theorem not_trapsEnterAndReturn : ¬ Obligations.TrapsEnterAndReturn := by
  intro h
  obtain ⟨-, heret⟩ := h
  obtain ⟨hok, hmask⟩ := read_start
  obtain ⟨t, hnext, hreturned⟩ := heret start 1 1 warp issues_start hok
  obtain ⟨-, -, hactive, -, -⟩ := hreturned 0 (by decide)
  have hgone : (tfind t.warps 1).isNone = true := by
    have hexec := exec_start
    rwa [hnext] at hexec
  have hdefault : (sliceOf t 1 0).active = 0 := by
    rw [sliceOf, warpAt, tget, Option.isNone_iff_eq_none.1 hgone]
    rfl
  rw [hdefault] at hactive
  exact absurd (hactive.trans hmask) (by decide)

end Sys2Proof.Claims
end

section
/-!
PROOFS. Barriers (R163, R164): what an arrival leaves of its warp and of the barrier, before the last one of a phase and at
it.
-/

namespace Sys2Proof.Claims

open Sys2Proof.Machine

/-! ## The counts of a warp's slices -/

theorem lget_foldl_lmod {α : Type} (f : α → α) (d : α) (is : List Nat) (l : List α) {j : Nat} (hnodup : is.Nodup) (hj : j < l.length) :
    lget (is.foldl (fun l i => lmod l i f) l) j d = if j ∈ is then f (lget l j d) else lget l j d := by
  induction is generalizing l with
  | nil => rfl
  | cons i is ih =>
    obtain ⟨hi, hnodup⟩ := List.nodup_cons.1 hnodup
    rw [List.foldl_cons, ih _ hnodup (by simpa using hj)]
    by_cases hji : j = i
    · subst hji
      rw [if_neg hi, if_pos List.mem_cons_self, lget_lmod_same _ _ _ _ hj]
    · rw [lget_lmod_ne _ _ _ _ _ hji]
      simp [hji]

section

variable {r : State} {k key n : Nat} {sl : BitVec 8} {w x : Warp} {j : Nat}

/-- A warp once a gang's slices have counted a barrier. -/
def countedBar (key n : Nat) (sl : BitVec 8) (w : Warp) : Warp :=
  { w with
    barSlices := tput w.barSlices key ((bitsOf 8 sl).foldl (fun l i => lmod l i (· + 1)) (barCounts w key))
    barStated := tput w.barStated key (n, sl) }

theorem barCounts_countedBar (w : Warp) : barCounts (countedBar key n sl w) key =
    (bitsOf 8 sl).foldl (fun l i => lmod l i (· + 1)) (barCounts w key) :=
  tget_tput_same ..

theorem barReady_countedBar (hlen : (barCounts w key).length = 8)
    (hothers : ∀ i < 8, i ∉ bitsOf 8 sl → (sliceAt w i).ended = true ∨ 0 < lget (barCounts w key) i 0) :
    barReady (countedBar key n sl w) key = true := by
  refine List.all_eq_true.2 fun i hi => ?_
  have hi8 := List.mem_range.1 hi
  rw [barCounts_countedBar, lget_foldl_lmod _ _ _ _ (nodup_bitsOf 8 sl) (hlen ▸ hi8), Bool.or_eq_true, decide_eq_true_eq]
  by_cases hin : i ∈ bitsOf 8 sl
  · rw [if_pos hin]
    exact .inr (Nat.succ_pos _)
  · rw [if_neg hin]
    exact hothers i hi8 hin

/-- The slices of the gang that completes the arrival have their counts used. -/
theorem barCounts_useArrival (hlen : (barCounts w key).length = 8) (hgang : ∀ i ∈ bitsOf 8 sl, lget (barCounts w key) i 0 = 0)
    (hj : j ∈ bitsOf 8 sl) : lget (barCounts (useArrival (countedBar key n sl w) key) key) j 0 = 0 := by
  have hj8 : j < (barCounts w key).length := hlen ▸ (mem_bitsOf.1 hj).1
  have hcounts : barCounts (useArrival (countedBar key n sl w) key) key = (barCounts (countedBar key n sl w) key).map (· - 1) :=
    tget_tput_same ..
  have hclen : (barCounts (countedBar key n sl w) key).length = (barCounts w key).length := by
    rw [barCounts_countedBar]
    exact foldl_keep List.length _ (fun l i => length_lmod ..) _ _
  rw [hcounts, lget_map _ _ _ _ 0 (hclen.symm ▸ hj8), barCounts_countedBar, lget_foldl_lmod _ _ _ _ (nodup_bitsOf 8 sl) hj8,
    if_pos hj, hgang j hj]

/-! ## The barrier of a key -/

theorem getBarrier_congr {s t : State} {v : Warp} (hgroups : t.groups = s.groups) (hcohorts : t.cohorts = s.cohorts)
    (hident : v.ident = w.ident) (key : Nat) : getBarrier t v key = getBarrier s w key := by
  unfold getBarrier cohortOf groupAt
  rw [hgroups, hcohorts, hident]

theorem getBarrier_setBarrier {s : State} (h : barrierExists s w key) (b : Barrier) :
    getBarrier (setBarrier s w key b) w key = b := by
  obtain ⟨g, hg, hc⟩ := h
  unfold getBarrier setBarrier
  by_cases hkey : key < 16
  · rw [if_pos hkey, if_pos hkey, groupAt, modGroup_groups, tget_tmod_of_tfind _ hg, tget_tput_same]
  · obtain ⟨c, hc⟩ := hc (Nat.le_of_not_lt hkey)
    have hcohort : cohortOf s w = g.cohort := by rw [cohortOf, groupAt, tget, hg, Option.getD_some]
    rw [if_neg hkey, if_neg hkey]
    show tget (tget (tmod s.cohorts (cohortOf s w) _) (cohortOf s w) default).bars (key - 16) default = b
    rw [hcohort, tget_tmod_of_tfind _ hc, tget_tput_same]

theorem barrierWarps_congr {s t : State} {v : Warp} (hgroups : t.groups = s.groups) (hident : v.ident = w.ident) (key : Nat) :
    barrierWarps t v key = barrierWarps s w key := by
  unfold barrierWarps groupWarps cohortWarps cohortOf groupAt
  rw [hgroups, hident]

theorem barrierExists_congr {s t : State} {v : Warp} (hgroups : t.groups = s.groups) (hcohorts : t.cohorts = s.cohorts)
    (hident : v.ident = w.ident) (h : barrierExists s w key) : barrierExists t v key := by
  unfold barrierExists
  rw [hgroups, hcohorts, hident]
  exact h

/-! ## Departures (R164) -/

/-- Seen from `w`, the gang's slices have gone past the barrier. -/
def Departed (sl : BitVec 8) (w x : Warp) : Prop :=
  x.slices.length = 8 ∧ ∀ j ∈ bitsOf 8 sl, (sliceAt x j).wait = .ready ∧ (sliceAt x j).pc = (sliceAt w j).pc + 4

/-- Seen from `w`, each of the gang's slices has gone past the barrier, or waits there with its count used. -/
def Departing (key : Nat) (sl : BitVec 8) (w x : Warp) : Prop :=
  x.slices.length = 8 ∧ ∀ j ∈ bitsOf 8 sl, ((sliceAt x j).wait = .ready ∧ (sliceAt x j).pc = (sliceAt w j).pc + 4) ∨
    ((sliceAt x j).wait = .bar (decide (16 ≤ key)) (key % 16) ∧ lget (barCounts x key) j 0 = 0 ∧
      (sliceAt x j).pc = (sliceAt w j).pc)

theorem Departed.departing (h : Departed sl w x) : Departing key sl w x :=
  ⟨h.1, fun j hj => .inl (h.2 j hj)⟩

theorem sliceAt_departWarp (hlen : x.slices.length = 8) (hj : j < 8) : sliceAt (departWarp x key) j =
    if (sliceAt x j).wait = .bar (decide (16 ≤ key)) (key % 16) ∧ lget (barCounts x key) j 0 = 0 then
      { (sliceAt x j).advance with wait := .ready }
    else sliceAt x j := by
  refine sliceAt_foldl_once (fun w => (w.slices.length, barCounts w key)) (fun w i hi => ?_) (fun w i => ?_)
    (fun v hv hsame => ?_) (List.mem_range.2 hj) List.nodup_range
  · split
    · exact sliceAt_modSliceW_ne _ _ _ _ (Ne.symm hi)
    · rfl
  · split
    · exact Prod.ext (by simp) rfl
    · rfl
  · obtain ⟨hvlen, hcounts⟩ := Prod.mk.inj hv
    have hsame' : sliceAt v j = sliceAt x j := hsame
    have hcounts' : barCounts v key = barCounts x key := hcounts
    have hv8 : v.slices.length = 8 := hvlen.trans hlen
    rw [hsame', hcounts']
    split
    · rw [sliceAt_modSliceW_same _ _ _ (hv8.symm ▸ hj), hsame']
    · exact hsame'

theorem departWarp_departs (h : Departing key sl w x) : Departed sl w (departWarp x key) := by
  obtain ⟨hlen, hslices⟩ := h
  refine ⟨?_, fun j hj => ?_⟩
  · refine (foldl_keep (fun w : Warp => w.slices.length) _ (fun w i => ?_) _ _).trans hlen
    split <;> simp
  · rw [sliceAt_departWarp hlen (mem_bitsOf.1 hj).1]
    rcases hslices j hj with ⟨hwait, hpc⟩ | ⟨hwait, hcount, hpc⟩
    · rw [if_neg (by rw [hwait]; simp)]
      exact ⟨hwait, hpc⟩
    · rw [if_pos ⟨hwait, hcount⟩]
      exact ⟨rfl, congrArg (· + 4) hpc⟩

/-- What is said of a warp's slices and counts is so of another with the same. -/
theorem Departing.congr {y : Warp} (h : Departing key sl w x) (hslices : y.slices = x.slices) (hcounts : y.barSlices = x.barSlices) :
    Departing key sl w y := by
  unfold Departing sliceAt barCounts at h ⊢
  rw [hslices, hcounts]
  exact h

theorem Departed.congr {y : Warp} (h : Departed sl w x) (hslices : y.slices = x.slices) : Departed sl w y := by
  unfold Departed sliceAt at h ⊢
  rw [hslices]
  exact h

/-! ## Updates of other warps -/

/-- A change of a warp or of what is saved of one keeps the workgroups, the cohorts, and any other warp's slices. -/
structure SideUpdate (s t : State) (k : Nat) : Prop where
  groups : t.groups = s.groups
  cohorts : t.cohorts = s.cohorts
  warp : ∀ x, tfind s.warps k = some x → ∃ sp, tfind t.warps k = some { x with spec := sp }

theorem SideUpdate.trans {s t u : State} (h : SideUpdate s t k) (g : SideUpdate t u k) : SideUpdate s u k := by
  refine ⟨g.groups.trans h.groups, g.cohorts.trans h.cohorts, fun x hx => ?_⟩
  obtain ⟨sp, ht⟩ := h.warp x hx
  obtain ⟨sp', hu⟩ := g.warp _ ht
  exact ⟨sp', hu⟩

theorem SideUpdate.of_accessed {s t : State} (h : Accessed s t) : SideUpdate s t k :=
  ⟨by rw [h.rest], by rw [h.rest], fun x hx => (h.warps k).2 x hx⟩

theorem SideUpdate.of_same {s t : State} (hgroups : t.groups = s.groups) (hcohorts : t.cohorts = s.cohorts)
    (hwarps : tfind t.warps k = tfind s.warps k) : SideUpdate s t k :=
  ⟨hgroups, hcohorts, fun x hx => ⟨x.spec, hwarps.trans hx⟩⟩

theorem readSave_accessed (s : State) (sv : Saved) : Accessed s (readSave s sv).1 := by
  have hread := vread_accessed s sv.rest.ident.ctx sv.rest.die sv.addr 0x24000
  have himage : Accessed s (saveImage s sv.rest.ident.ctx sv.rest.die sv.addr).1 := by
    unfold saveImage
    split <;> rename_i e <;> rwa [e] at hread
  unfold readSave
  split
  · exact .rfl
  · split <;> rename_i e <;> rwa [e] at himage

theorem writeSave_accessed (s : State) (w : Warp) (a now : Nat) : Accessed s (writeSave s w a now) :=
  (vwrite_accessed ..).trans (Accessed.foldl (fun s g => vwrite_accessed s w.ident.ctx w.die (a + 0x4000 + 0x400 * g) _) _ _)

theorem updateWarp_other {s : State} (f : Warp → Warp) (hjk : j ≠ k) : SideUpdate s (updateWarp s j f) k := by
  unfold updateWarp
  split
  · exact .of_same rfl rfl (tfind_tmod_ne _ _ _ _ (Ne.symm hjk))
  · split
    · exact .of_same rfl rfl rfl
    · rename_i sv _
      have hread := readSave_accessed s sv
      dsimp only
      split
      · exact (SideUpdate.of_accessed hread).trans (.of_same rfl rfl rfl)
      · exact ((SideUpdate.of_accessed hread).trans (.of_accessed (writeSave_accessed ..))).trans (.of_same rfl rfl rfl)

/-! ## The end of a phase (R164) -/

/-- What the end of a phase does for one of the barrier's warps. -/
def departStep (key : Nat) (s : State) (j : Nat) : State :=
  let s' := updateWarp s j (alsoAtFence fun x => departWarp x key)
  if 16 ≤ key ∧ (tfind s'.warps j).isSome then acquireWarp s' j 2 else s'

theorem endPhase_eq (s : State) (w : Warp) (key : Nat) (b : Barrier) : endPhase s w key b =
    (barrierWarps s w key).foldl (departStep key) (setBarrier s w key ⟨!b.phase, none, 0⟩) :=
  rfl

theorem departStep_warps (key : Nat) (s : State) (j : Nat) :
    SideUpdate (updateWarp s j (alsoAtFence fun x => departWarp x key)) (departStep key s j) k := by
  unfold departStep
  dsimp only
  split
  · obtain ⟨rm, cs, cp, h⟩ := acquire_eq (updateWarp s j (alsoAtFence fun x => departWarp x key))
      (warpAt (updateWarp s j (alsoAtFence fun x => departWarp x key)) j).die
      (warpAt (updateWarp s j (alsoAtFence fun x => departWarp x key)) j).core 2
    rw [acquireWarp, h]
    exact .of_same rfl rfl rfl
  · exact .of_same rfl rfl rfl

/-- One warp's turn leaves the gang departing; its own turn, departed. -/
theorem departStep_departs {s : State} (hx : tfind s.warps k = some x) (h : Departing key sl w x) (j : Nat) :
    (departStep key s j).groups = s.groups ∧ (departStep key s j).cohorts = s.cohorts ∧
      ∃ y, tfind (departStep key s j).warps k = some y ∧ Departing key sl w y ∧ ((j = k ∨ Departed sl w x) → Departed sl w y) := by
  have hstep := departStep_warps (k := k) key s j
  by_cases hjk : j = k
  · subst hjk
    have hupdate : updateWarp s j (alsoAtFence fun x => departWarp x key) = modWarp s j (alsoAtFence fun x => departWarp x key) := by
      unfold updateWarp
      rw [hx]
    rw [hupdate] at hstep
    obtain ⟨sp, hy⟩ := hstep.warp _ (tfind_modWarp _ hx)
    have hdeparted := (departWarp_departs h).congr (y := { alsoAtFence (fun x => departWarp x key) x with spec := sp })
      (by simp only [alsoAtFence])
    exact ⟨hstep.groups, hstep.cohorts, _, hy, hdeparted.departing, fun _ => hdeparted⟩
  · have hside := (updateWarp_other _ hjk).trans hstep
    obtain ⟨sp, hy⟩ := hside.warp x hx
    exact ⟨hside.groups, hside.cohorts, _, hy, h.congr rfl rfl, fun hd => (hd.resolve_left hjk).congr rfl⟩

theorem foldl_departStep (l : List Nat) : ∀ {s : State} {x : Warp}, tfind s.warps k = some x → Departing key sl w x →
    (l.foldl (departStep key) s).groups = s.groups ∧ (l.foldl (departStep key) s).cohorts = s.cohorts ∧
      ∃ y, tfind (l.foldl (departStep key) s).warps k = some y ∧ Departing key sl w y ∧
        ((k ∈ l ∨ Departed sl w x) → Departed sl w y) := by
  induction l with
  | nil => exact fun hx h => ⟨rfl, rfl, _, hx, h, fun hd => hd.resolve_left List.not_mem_nil⟩
  | cons j l ih =>
    intro s x hx h
    obtain ⟨hgroups, hcohorts, y, hy, hdeparting, hdeparts⟩ := departStep_departs hx h j
    obtain ⟨hgroups', hcohorts', z, hz, hdeparting', hdeparts'⟩ := ih hy hdeparting
    refine ⟨hgroups'.trans hgroups, hcohorts'.trans hcohorts, z, hz, hdeparting', fun hd => hdeparts' ?_⟩
    rcases hd with hmem | hd
    · rcases List.mem_cons.1 hmem with hjk | hmem
      · exact .inr (hdeparts (.inl hjk.symm))
      · exact .inl hmem
    · exact .inr (hdeparts (.inr hd))

/-! ## An arrival (R163) -/

/-- What an arrival does to its gang's slices: they wait at the barrier, or pass on. -/
def barMove (waits : Bool) (key : Nat) (x : Slice) : Slice :=
  if waits then { x with wait := .bar (decide (16 ≤ key)) (key % 16) } else x.advance

/-- The warp of a gang that completes its arrival, once its slices wait or pass on. -/
def movedBar (waits : Bool) (key n : Nat) (sl : BitVec 8) (w : Warp) : Warp :=
  eachSlice (bitsOf 8 sl) (fun _ => barMove waits key) (useArrival (countedBar key n sl w) key)

/-- The state in which the arrival counts, with the warp's slices and counts settled. -/
theorem barrierEff_arrives (waits : Bool) (hw : InRead r k sl w) (h : arrives key n r k sl w) :
    ∃ s, barrierEff waits key n r k sl = .done (arriveAt s k key n) ∧ tfind s.warps k = some (movedBar waits key n sl w) ∧
      s.groups = r.groups ∧ s.cohorts = r.cohorts := by
  obtain ⟨⟨hpos, hlimit⟩, hreleased, -, -, hlatched, hlen, -, hothers⟩ := h
  have hcounted : tfind (modWarp r k (countedBar key n sl)).warps k = some (countedBar key n sl w) := tfind_modWarp _ hw.warp
  set s2 := modWarp (modWarp r k (countedBar key n sl)) k fun w => useArrival w key
  have hused : tfind s2.warps k = some (useArrival (countedBar key n sl w) key) := tfind_modWarp _ hcounted
  obtain ⟨ws, hmoved⟩ := modGang_eq s2 k sl (barMove waits key)
  refine ⟨modGang s2 k sl (barMove waits key), ?_, tfind_modGang sl _ hused, by rw [hmoved]; rfl, by rw [hmoved]; rfl⟩
  have hbarrier : getBarrier s2 (useArrival (countedBar key n sl w) key) key = getBarrier r w key := getBarrier_congr rfl rfl rfl key
  have hready := barReady_countedBar (n := n) hlen hothers
  unfold barrierEff
  dsimp only
  rw [if_neg (by omega), warpAt_of_tfind hw.warp, hreleased, if_neg (by decide)]
  change (if barReady (warpAt (modWarp r k (countedBar key n sl)) k) key = true then _ else _) = _
  rw [warpAt_of_tfind hcounted, if_pos hready]
  split
  · rfl
  · rename_i m hm
    have hm' : (getBarrier r w key).latched = some m := by
      rw [← hbarrier, ← warpAt_of_tfind hused]
      exact hm
    have hmn : m = n := by
      rcases hlatched with hnone | hsome
      · cases hnone.symm.trans hm'
      · exact (Option.some.inj (hsome.symm.trans hm')).symm
    exact if_pos hmn

/-- Once the gang's slices have moved, its warp agrees with what it was on where the barrier is. -/
theorem ident_movedBar (waits : Bool) (key n : Nat) (sl : BitVec 8) (w : Warp) : (movedBar waits key n sl w).ident = w.ident :=
  eachSlice_keep Warp.ident (fun _ _ _ => rfl) _ _ _

theorem length_movedBar (waits : Bool) (hlen : w.slices.length = 8) : (movedBar waits key n sl w).slices.length = 8 :=
  (length_eachSlice ..).trans hlen

theorem sliceAt_movedBar (waits : Bool) (hlen : w.slices.length = 8) (hj : j ∈ bitsOf 8 sl) :
    sliceAt (movedBar waits key n sl w) j = barMove waits key (sliceAt w j) :=
  sliceAt_eachSlice_mem _ _ (useArrival (countedBar key n sl w) key) _ hj (nodup_bitsOf 8 sl)
    (show j < w.slices.length from hlen ▸ (mem_bitsOf.1 hj).1)

theorem departing_movedBar (waits : Bool) (hw : InRead r k sl w) (h : arrives key n r k sl w) :
    Departing key sl w (movedBar waits key n sl w) := by
  obtain ⟨-, -, -, -, -, hlen, hgang, -⟩ := h
  refine ⟨length_movedBar waits hw.slices, fun j hj => ?_⟩
  rw [sliceAt_movedBar waits hw.slices hj]
  cases waits with
  | false => exact .inl ⟨hw.ready j hj, rfl⟩
  | true =>
    have hcounts : (movedBar true key n sl w).barSlices = (useArrival (countedBar key n sl w) key).barSlices :=
      eachSlice_keep Warp.barSlices (fun _ _ _ => rfl) _ _ _
    refine .inr ⟨rfl, ?_, rfl⟩
    rw [barCounts, hcounts]
    exact barCounts_useArrival hlen hgang hj

/-- A warp that has arrived at a barrier and not yet departed. -/
def markArrived (key : Nat) (w : Warp) : Warp := { w with barArrived := w.barArrived ||| (1 : BitVec 32) <<< key }

/-- An arrival before the last: the barrier counts it. -/
theorem arriveAt_early {s : State} (hx : tfind s.warps k = some x) (hlatched : (getBarrier s x key).latched.getD n = n)
    (hearly : (getBarrier s x key).arrived + 1 < n) : arriveAt s k key n =
      setBarrier (modWarp s k (markArrived key)) x key
        ⟨(getBarrier s x key).phase, some n, (getBarrier s x key).arrived + 1⟩ := by
  unfold arriveAt
  dsimp only
  rw [warpAt_of_tfind hx, hlatched, if_neg (Nat.not_le.2 hearly)]
  rfl

/-- The last arrival ends the phase. -/
theorem arriveAt_last {s : State} (hx : tfind s.warps k = some x) (hlatched : (getBarrier s x key).latched.getD n = n)
    (hlast : (getBarrier s x key).arrived + 1 = n) : arriveAt s k key n =
      endPhase (modWarp s k (markArrived key)) x key
        ⟨(getBarrier s x key).phase, some n, (getBarrier s x key).arrived + 1⟩ := by
  unfold arriveAt
  dsimp only
  rw [warpAt_of_tfind hx, hlatched, if_pos (Nat.le_of_eq hlast.symm)]
  rfl

theorem tfind_setBarrier {s : State} (hx : tfind s.warps k = some x) (v : Warp) (b : Barrier) :
    tfind (setBarrier (modWarp s k (markArrived key)) v key b).warps k = some (markArrived key x) := by
  have hwarps : (setBarrier (modWarp s k (markArrived key)) v key b).warps = (modWarp s k (markArrived key)).warps := by
    unfold setBarrier
    split <;> rfl
  rw [hwarps]
  exact tfind_modWarp _ hx

end

section

variable {i : Instr} {f : Form} {key : Nat} {n : State → Warp → BitVec 8 → Nat} {eff : State → Nat → BitVec 8 → Eff}

theorem latched_getD {r : State} {k m : Nat} {sl : BitVec 8} {w : Warp} (h : arrives key m r k sl w) :
    (getBarrier r w key).latched.getD m = m := by
  obtain ⟨-, -, -, -, hlatched, -⟩ := h
  rcases hlatched with h | h <;> rw [h] <;> rfl

theorem arrivesEarly_of_barrierEff (waits : Bool) (hex : ∀ s, exec i s = issue f eff s)
    (heff : ∀ r k sl, eff r k sl = barrierEff waits key (n r (warpAt r k) sl) r k sl) : ArrivesEarly waits i f key n := by
  refine does_of_effect hex fun r k sl w hw ⟨harrives, hearly⟩ => ?_
  obtain ⟨s, he, hx, hgroups, hcohorts⟩ := barrierEff_arrives waits hw harrives
  have hident := ident_movedBar waits key (n r w sl) sl w
  have hbarrier := getBarrier_congr hgroups hcohorts hident key
  obtain ⟨-, -, hexists, -⟩ := id harrives
  refine ⟨_, (heff r k sl).trans (by rw [warpAt_of_tfind hw.warp, he]), fun held => ?_⟩
  rw [arriveAt_early hx (by rw [hbarrier, latched_getD harrives]) (by rw [hbarrier]; exact hearly), hbarrier]
  have htook := tookEffect_finishIssue (f := f) (sl := sl) (tfind_setBarrier (key := key) hx (movedBar waits key (n r w sl) sl w)
    ⟨(getBarrier r w key).phase, some (n r w sl), (getBarrier r w key).arrived + 1⟩) (length_movedBar waits hw.slices) held
  refine ⟨?_, fun j hj => ?_⟩
  · refine (getBarrier_congr (by rw [htook.rest]) (by rw [htook.rest]) hident.symm key).trans (getBarrier_setBarrier ?_ _)
    exact barrierExists_congr hgroups hcohorts hident hexists
  · have hslice : sliceAt (markArrived key (movedBar waits key (n r w sl) sl w)) j = barMove waits key (sliceAt w j) :=
      sliceAt_movedBar waits hw.slices hj
    have hsame := htook.same hj
    rw [hslice] at hsame
    rw [hsame.pc, hsame.wait]
    cases waits <;> simp [barMove, Slice.advance]

theorem arrivesLast_of_barrierEff (waits : Bool) (hex : ∀ s, exec i s = issue f eff s)
    (heff : ∀ r k sl, eff r k sl = barrierEff waits key (n r (warpAt r k) sl) r k sl) : ArrivesLast i f key n := by
  refine does_of_effect hex fun r k sl w hw ⟨harrives, hlast⟩ => ?_
  obtain ⟨s, he, hx, hgroups, hcohorts⟩ := barrierEff_arrives waits hw harrives
  have hident := ident_movedBar waits key (n r w sl) sl w
  have hbarrier := getBarrier_congr hgroups hcohorts hident key
  obtain ⟨-, -, hexists, hmember, -⟩ := id harrives
  refine ⟨_, (heff r k sl).trans (by rw [warpAt_of_tfind hw.warp, he]), fun held => ?_⟩
  rw [arriveAt_last hx (by rw [hbarrier, latched_getD harrives]) (by rw [hbarrier]; exact hlast), hbarrier, endPhase_eq]
  set fresh : Barrier := ⟨!(getBarrier r w key).phase, none, 0⟩
  set s5 := setBarrier (modWarp s k (markArrived key)) (movedBar waits key (n r w sl) sl w) key fresh
  have hmarked : tfind s5.warps k = some (markArrived key (movedBar waits key (n r w sl) sl w)) := tfind_setBarrier hx _ _
  have hmember' : k ∈ barrierWarps (modWarp s k (markArrived key)) (movedBar waits key (n r w sl) sl w) key := by
    have hsame : barrierWarps (modWarp s k (markArrived key)) (movedBar waits key (n r w sl) sl w) key = barrierWarps r w key :=
      barrierWarps_congr hgroups hident key
    rwa [hsame]
  obtain ⟨hgroups', hcohorts', y, hy, -, hdeparts⟩ :=
    foldl_departStep (barrierWarps (modWarp s k (markArrived key)) (movedBar waits key (n r w sl) sl w) key) hmarked
      ((departing_movedBar waits hw harrives).congr rfl rfl)
  obtain ⟨hylen, hyslices⟩ := hdeparts (.inl hmember')
  have htook := tookEffect_finishIssue (f := f) (sl := sl) hy hylen held
  refine ⟨?_, fun j hj => ?_⟩
  · refine (getBarrier_congr (s := s5) (by rw [htook.rest]; exact hgroups') (by rw [htook.rest]; exact hcohorts') hident.symm
      key).trans (getBarrier_setBarrier ?_ _)
    exact barrierExists_congr hgroups hcohorts hident hexists
  · rw [(htook.same hj).pc, (hyslices j hj).2]

end

/-- Settles O19: all four forms arrive by one effect. -/
theorem barriersGatherTheirArrivals : Obligations.BarriersGatherTheirArrivals := by
  refine ⟨fun c n m => ⟨?_, ?_, ?_, ?_⟩, fun h a c n => ⟨?_, ?_, ?_, ?_⟩⟩
  · exact arrivesEarly_of_barrierEff true (fun _ => rfl) fun _ _ _ => rfl
  · exact arrivesLast_of_barrierEff true (fun _ => rfl) fun _ _ _ => rfl
  · exact arrivesEarly_of_barrierEff false (fun _ => rfl) fun _ _ _ => rfl
  · exact arrivesLast_of_barrierEff false (fun _ => rfl) fun _ _ _ => rfl
  · exact arrivesEarly_of_barrierEff true (fun _ => rfl) fun _ _ _ => rfl
  · exact arrivesLast_of_barrierEff true (fun _ => rfl) fun _ _ _ => rfl
  · exact arrivesEarly_of_barrierEff false (fun _ => rfl) fun _ _ _ => rfl
  · exact arrivesLast_of_barrierEff false (fun _ => rfl) fun _ _ _ => rfl

end Sys2Proof.Claims
end

section
/-!
PROOFS. Templates (R152 to R154, R158): the numbers that a write to memory takes, the end of a root template warp, and the
freezer of a nested template.
-/

namespace Sys2Proof.Machine

/-! ## Writes to memory take only new numbers -/

theorem fresh_foldl {α : Type} {f : State → α → State} (h : ∀ s a, s.fresh ≤ (f s a).fresh) (l : List α) (s : State) :
    s.fresh ≤ (l.foldl f s).fresh := by
  induction l generalizing s with
  | nil => exact Nat.le_refl _
  | cons a l ih => exact (h s a).trans (ih _)

theorem fresh_homeWrite (s : State) (pa : Nat) (b : List Byte) (e by' : Option Nat) : (homeWrite s pa b e by').fresh = s.fresh := by
  obtain ⟨hl, iv, ws, ms, h, -⟩ := homeWrite_eq s pa b e by'
  rw [h]

theorem fresh_physWrite (s : State) (c die pa : Nat) (b : List Byte) : s.fresh ≤ (physWrite s c die pa b).fresh := by
  unfold physWrite
  extract_lets ls far
  split
  · exact fresh_foldl (fun s l => Nat.le_succ _) _ _
  split
  · exact (fresh_homeWrite ..).symm.le.trans (fresh_foldl (f := fun s l => dropCopies s die l) (fun s l => Nat.le_refl _) _ _)
  split
  · refine fresh_foldl (fun s l => ?_) _ _
    split
    · exact Nat.le_refl _
    · exact (fresh_homeWrite s (max l pa) (partOn pa b l) none none).symm.le
  · exact Nat.le_refl _

theorem fresh_physBytes (s : State) (c die pa n : Nat) : s.fresh ≤ (physBytes s c die pa n).1.fresh := by
  unfold physBytes
  split <;> exact Nat.le_refl _

theorem fresh_walk (s : State) (u : Walker) (acc : Access) (va n t : Nat) (w x : Bool) :
    s.fresh ≤ (walk s u acc va n t w x).1.fresh := by
  induction n generalizing s t w x with
  | zero => exact Nat.le_refl _
  | succ n ih =>
    unfold walk
    extract_lets size leaf
    split
    · exact Nat.le_refl _
    have hbytes := fresh_physBytes s u.ctx u.die leaf 8
    generalize physBytes s u.ctx u.die leaf 8 = r at hbytes
    obtain ⟨s1, _ | b⟩ := r
    · exact hbytes
    · dsimp only
      split
      · exact hbytes
      split
      · exact hbytes
      split
      · exact hbytes
      split
      · exact hbytes
      · exact hbytes.trans (ih ..)

theorem fresh_touchLeaf (s : State) (u : Walker) (leaf : Nat) (acc : Access) : s.fresh ≤ (touchLeaf s u leaf acc).fresh := by
  unfold touchLeaf
  extract_lets or
  split
  · split
    · exact Nat.le_refl _
    · exact Nat.le_succ _
  · split
    · exact Nat.le_refl _
    · exact fresh_physWrite ..

theorem fresh_findTrans (s : State) (u : Walker) (va : Nat) (acc : Access) : s.fresh ≤ (findTrans s u va acc).1.fresh := by
  have hwalked (s : State) : s.fresh ≤ (findTrans.walked u va acc s).1.fresh := by
    unfold findTrans.walked
    split
    · exact Nat.le_refl _
    · exact fresh_walk ..
  have hfound : s.fresh ≤ (findTrans.found s u va acc).1.fresh := by
    unfold findTrans.found
    split
    · extract_lets d
      split
      · split <;> exact Nat.le_refl _
      · exact hwalked (draw s).2
    · exact hwalked s
  unfold findTrans
  split
  · rename_i s1 t e
    rw [e] at hfound
    split <;> exact hfound
  · exact hfound

theorem fresh_translate (s : State) (u : Walker) (va : Nat) (acc : Access) : s.fresh ≤ (translate s u va acc).1.fresh := by
  have hfound := fresh_findTrans s u va acc
  unfold translate
  split
  · rename_i s1 t e
    rw [e] at hfound
    refine hfound.trans (le_of_eq_of_le ?_ (fresh_touchLeaf ..))
    split <;> rfl
  · exact hfound

/-- What a unit writes at a virtual address takes no number that the state has given out. -/
theorem fresh_vwrite (s : State) (c die va : Nat) (b : List Byte) : s.fresh ≤ (vwrite s c die va b).1.fresh := by
  induction b generalizing s va with
  | nil => exact Nat.le_refl _
  | cons b r ih =>
    have htranslated := fresh_translate s (dieWalker c die) va .write
    unfold vwrite
    split
    · rename_i s1 k e
      rwa [e] at htranslated
    · rename_i s1 t e
      rw [e] at htranslated
      split
      · exact htranslated.trans (fresh_physWrite ..)
      · exact (htranslated.trans (fresh_physWrite ..)).trans (ih ..)

end Sys2Proof.Machine

namespace Sys2Proof.Claims

open Sys2Proof.Machine

/-! ## What the end of a warp leaves of the images (R143, R158) -/

section

variable {s : State} {k id : Nat} {w x : Warp} {im : Image}

/-- The release of nested images that nothing reads spares an image without a parent. -/
theorem tfind_releaseNested (h : ∀ p ∈ s.images, p.1 = id → p.2.parent = none) :
    tfind (releaseNested s).images id = tfind s.images id := by
  have hfold (l : List (Nat × Image)) : ∀ s : State, (∀ p ∈ l, p.1 ≠ id) → tfind (l.foldl (fun s p =>
      poolFree { s with
        images := tdel s.images p.1
        groups := s.groups.map fun g => (g.1, { g.2 with nested := if g.2.nested = some p.1 then none else g.2.nested })
        cohorts := s.cohorts.map fun c =>
          (c.1, { c.2 with nested := if c.2.nested = some p.1 then none else c.2.nested }) } p.2.ctx p.2.addr) s).images id =
        tfind s.images id := by
    induction l with
    | nil => exact fun _ _ => rfl
    | cons p l ih =>
      intro s hl
      refine (ih _ fun q hq => hl q (List.mem_cons_of_mem _ hq)).trans ?_
      exact tfind_tdel_ne _ _ _ (Ne.symm (hl p List.mem_cons_self))
  refine hfold _ s fun p hp hid => ?_
  obtain ⟨hmem, hdead⟩ := List.mem_filter.1 hp
  rw [h p hmem hid] at hdead
  cases hdead

theorem tfind_trimImages (c : Nat) (h : ∀ p ∈ s.images, p.1 = id → p.2.parent = none) :
    tfind (trimImages s c).images id = tfind s.images id := by
  have hkept : (trimImages s c).images = (releaseNested s).images := by
    unfold trimImages
    dsimp only
    split <;> rfl
  rw [hkept, tfind_releaseNested h]

theorem images_dropGrants (s : State) (c k : Nat) : (dropGrants s c k).images = s.images := by
  obtain ⟨cs, h⟩ := dropGrants_eq s c k
  rw [h]

theorem tfind_images_reap (hx : tfind s.warps k = some x) (hended : x.ended = true) (hcounters : countersZero x = true)
    (hposting : posting s k = false) (h : ∀ p ∈ s.images, p.1 = id → p.2.parent = none) :
    tfind (reap s k).images id = tfind s.images id := by
  unfold countersZero at hcounters
  unfold reap
  rw [hx]
  dsimp only at hcounters ⊢
  rw [hended, hposting, hcounters, if_neg (by decide)]
  refine (tfind_trimImages _ ?_).trans ?_
  all_goals simp only [apply_ite State.images, images_dropGrants, modGroup_images, ite_self]
  exact h

/-- Writes to warp queues that hold none change nothing. -/
theorem flushWarpQueue_of_quiet {sl : BitVec 8} (h : quiet w sl) : flushWarpQueue w sl = w := by
  have hfix : ∀ l : List Nat, (∀ i ∈ l, i ∈ bitsOf 8 sl) → l.foldl (fun w i =>
      modSliceW ((sliceAt w i).warpQueue.foldl writeWarpResult w) i fun s => { s with warpQueue := [] }) w = w := fun l => by
    induction l with
    | nil => exact fun _ => rfl
    | cons i l ih =>
      intro hl
      obtain ⟨-, hqueue⟩ := h i (hl i List.mem_cons_self)
      rw [List.foldl_cons, hqueue, List.foldl_nil, modSliceW_of_fixed]
      · exact ih fun j hj => hl j (List.mem_cons_of_mem _ hj)
      · exact congrArg (fun q => { sliceAt w i with warpQueue := q }) hqueue.symm
  exact hfix _ fun _ hi => hi

/-! ## A root freeze (R153) -/

theorem any_tmod {α : Type} {t : Tbl α} {k : Nat} {f : α → α} {q : α → Bool} (hf : ∀ v, q v = false → q (f v) = false)
    (h : (t.any fun p => q p.2) = false) : ((tmod t k f).any fun p => q p.2) = false := by
  rw [List.any_eq_false] at h ⊢
  intro p hp
  rw [Bool.not_eq_true]
  unfold tmod at hp
  split at hp
  · rename_i v hv
    rcases mem_tput hp with rfl | hp
    · exact hf v (Bool.not_eq_true _ ▸ h (k, v) (mem_of_tfind hv))
    · exact Bool.not_eq_true _ ▸ h p hp
  · exact Bool.not_eq_true _ ▸ h p hp

/-- The state that holds the image that a root template warp has made. -/
def rootFrozen (s : State) (im : Image) (u : Nat) : State :=
  { s with
    fresh := s.fresh + 1
    images := tput s.images s.fresh im
    graphs := tmod s.graphs im.graph fun g => { g with nodes := tmod g.nodes im.node fun n =>
      { n with units := tput n.units u (.frozen s.fresh) } } }

theorem posting_rootFrozen (h : posting s k = false) (im : Image) (u : Nat) : posting (rootFrozen s im u) k = false := by
  refine any_tmod (q := fun g : Graph => g.nodes.any fun x => x.2.posts.any fun v => decide (v.warp = k)) (fun g hg => ?_) h
  exact any_tmod (q := fun n : Node => n.posts.any fun v => decide (v.warp = k)) (fun _ hn => hn) hg

/-- The root template warp when its image has been made. -/
def rootEnded (w : Warp) : Warp :=
  { w with self := false, slices := w.slices.map fun x => { x with active := 0, ended := true } }

theorem finishRoot_ends (hx : tfind s.warps k = some x) (hlen : x.slices.length = 8) (hcounters : countersZero x = true)
    (hposting : posting s k = false) (hnew : ∀ p ∈ s.images, p.1 ≠ s.fresh) (hparent : im.parent = none) (u : Nat) :
    tfind (finishRoot s k im u).warps k = none ∧ tfind (finishRoot s k im u).images s.fresh = some im := by
  have hended : tfind (modWarp (rootFrozen s im u) k rootEnded).warps k = some (rootEnded x) := tfind_modWarp _ hx
  have hall : ((List.range 8).all fun i => (sliceAt (rootEnded x) i).ended) = true := by
    refine List.all_eq_true.2 fun i hi => ?_
    have hi8 : i < x.slices.length := hlen ▸ List.mem_range.1 hi
    exact congrArg Slice.ended (lget_map x.slices (fun x => { x with active := 0, ended := true }) i default default hi8)
  have hfinish : finishRoot s k im u = reap (modWarp (modWarp (rootFrozen s im u) k rootEnded) k fun w =>
      { w with ended := true, donations := [] }) k := by
    show settleEnds (modWarp (rootFrozen s im u) k rootEnded) k = _
    rw [settleEnds, warpAt_of_tfind hended]
    exact if_pos hall
  have hlast := tfind_modWarp (fun w => { w with ended := true, donations := [] }) hended
  have hposting' : posting (modWarp (modWarp (rootFrozen s im u) k rootEnded) k fun w => { w with ended := true, donations := [] }) k =
      false := posting_rootFrozen hposting im u
  rw [hfinish]
  constructor
  · rw [warps_reap_of_ended hlast rfl hcounters hposting', tfind_tdel_same]
  · refine (tfind_images_reap hlast rfl hcounters hposting' fun p hp hid => ?_).trans (tfind_tput_same ..)
    rcases mem_tput (t := s.images) hp with rfl | hp
    · exact hparent
    · exact absurd hid (hnew p hp)

theorem ne_zero_of_freezeState {sl : BitVec 8} (h : freezeState w sl = true) : sl ≠ 0 := by
  rintro rfl
  cases h

theorem rootFreeze_of_written {r : State} {sl : BitVec 8} (hw : tfind r.warps k = some w) (hceil : w.ceil ≤ w.ident.ceil0)
    (hops : ∀ p ∈ r.ops, p.2.warp ≠ some k) :
    let u := w.ident.wid.toNat / 2 ^ w.ident.unitShift
    let addr := w.ident.save + u * (2048 + 128 * w.ident.ceil0)
    let im := imageFrom r w (gangPc w sl) w.ident.tlevel addr none
    (vwrite r w.ident.ctx w.die addr (imageBytes im 0)).2 = none →
      rootFreeze r k sl = .done (finishRoot (vwrite r w.ident.ctx w.die addr (imageBytes im 0)).1 k im u) := by
  intro u addr im hwritten
  have hnone : opsOf r k = [] := List.filter_eq_nil_iff.2 fun p hp => by simpa using hops p hp
  have hwrite : rootFreeze.write k sl w im u addr 0 r =
      .done (finishRoot (vwrite r w.ident.ctx w.die addr (imageBytes im 0)).1 k im u) := by
    unfold rootFreeze.write
    rw [Nat.add_zero, List.drop_zero]
    generalize vwrite r w.ident.ctx w.die addr (imageBytes im 0) = res at hwritten ⊢
    obtain ⟨s1, fault⟩ := res
    cases hwritten
    rfl
  unfold rootFreeze
  dsimp only
  rw [warpAt_of_tfind hw, if_neg (Nat.not_lt.2 hceil), hnone, List.find?_nil]
  exact hwrite

/-- R152, R153: a root freeze whose image is written at once. -/
theorem freeze_root (l : BitVec 3) : Does (.freeze l) { drains := true } (fun r k sl w => quiet w sl ∧ freezeState w sl = true ∧
      countersZero w = true ∧ w.self = true ∧ l.toNat = w.ident.tlevel ∧ w.ceil ≤ w.ident.ceil0 ∧
      (∀ p ∈ r.ops, p.2.warp ≠ some k) ∧ posting r k = false ∧ (∀ i, r.fresh ≤ i → tfind r.images i = none) ∧
      (∀ i, (groupAt r w.ident.group).nested = some i → i < r.fresh) ∧
      (∀ x i, tfind r.cohorts (cohortOf r w) = some x → x.nested = some i → i < r.fresh) ∧
      let u := w.ident.wid.toNat / 2 ^ w.ident.unitShift
      let addr := w.ident.save + u * (2048 + 128 * w.ident.ceil0)
      (vwrite r w.ident.ctx w.die addr (imageBytes (imageFrom r w (gangPc w sl) w.ident.tlevel addr none) 0)).2 = none)
    fun _ k sl w t => tfind t.warps k = none ∧ ∃ id im, tfind t.images id = some im ∧ im.pc = gangPc w sl + 4 ∧
      im.level = w.ident.tlevel ∧ im.regs = w.regs ∧ im.preds = w.preds ∧ im.recs = w.recs ∧ im.strides = w.strides ∧
      im.tiles = w.tiles ∧ im.win = w.win ∧ im.ceil = w.ceil ∧ im.modes = w.slices.map Slice.mode := by
  refine does_of_effect (fun _ => rfl) fun r k sl w hw hok => ?_
  obtain ⟨hquiet, hstate, hcounters, hself, hlevel, hceil, hops, hposting, hnew, -, -, hwritten⟩ := hok
  have hsettled : modWarp r k (fun w => flushWarpQueue w sl) = r :=
    hw.settled (ne_zero_of_freezeState hstate) _ (flushWarpQueue_of_quiet hquiet)
  set u := w.ident.wid.toNat / 2 ^ w.ident.unitShift
  set addr := w.ident.save + u * (2048 + 128 * w.ident.ceil0)
  set im := imageFrom r w (gangPc w sl) w.ident.tlevel addr none
  have haccessed := vwrite_accessed r w.ident.ctx w.die addr (imageBytes im 0)
  have hfresh := fresh_vwrite r w.ident.ctx w.die addr (imageBytes im 0)
  refine ⟨finishRoot (vwrite r w.ident.ctx w.die addr (imageBytes im 0)).1 k im u, ?_, fun held => ?_⟩
  · dsimp only
    rw [hsettled, warpAt_of_tfind hw.warp, hstate, hcounters, hself, if_neg (by decide), if_neg (by decide), if_pos rfl, if_pos hlevel]
    exact rootFreeze_of_written hw.warp hceil hops hwritten
  · set s1 := (vwrite r w.ident.ctx w.die addr (imageBytes im 0)).1
    obtain ⟨sp, hx⟩ := (haccessed.warps k).2 w hw.warp
    have hposting1 : posting s1 k = false := by
      rw [haccessed.rest]
      exact hposting
    have himages : s1.images = r.images := by rw [haccessed.rest]
    have hnew1 : ∀ p ∈ s1.images, p.1 ≠ s1.fresh := fun p hp hid => by
      have hfound := tfind_isSome_of_mem (himages ▸ hp)
      rw [hid, hnew _ hfresh] at hfound
      cases hfound
    obtain ⟨hgone, him⟩ := finishRoot_ends hx hw.slices hcounters hposting1 hnew1 (im := im) rfl u
    obtain ⟨ws, hfinish⟩ := finishIssue_eq { drains := true } (finishRoot s1 k im u) k sl held
    refine ⟨tfind_finishIssue_none hgone, s1.fresh, im, ?_, rfl, rfl, rfl, rfl, rfl, rfl, rfl, rfl, rfl, rfl⟩
    rw [hfinish]
    exact him

/-! ## A nested freeze by the freezer of its unit (R158) -/

/-- The state in which a nested template of a level has just been made: the cores that share it hold a slot for it. -/
def nestedMade (r : State) (w : Warp) (l : Nat) (im : Image) : State :=
  let made := (nestedCores r w l).foldl (fun s c => modCore s c fun x => { x with images := x.images ++ [r.fresh] })
    { r with fresh := r.fresh + 1, images := tput r.images r.fresh im }
  if l = 2 then modGroup made w.ident.group fun g => { g with nested := some r.fresh }
  else modCohort made (cohortOf r w) fun c => { c with nested := some r.fresh }

/-- A part of the state that neither cores nor units of templates hold. -/
theorem nestedMade_keeps {β : Type} (p : State → β) (hcore : ∀ s c f, p (modCore s c f) = p s)
    (hgroup : ∀ s g f, p (modGroup s g f) = p s) (hcohort : ∀ s c f, p (modCohort s c f) = p s) (r : State) (w : Warp)
    (l : Nat) (im : Image) :
    p (nestedMade r w l im) = p { r with fresh := r.fresh + 1, images := tput r.images r.fresh im } := by
  unfold nestedMade
  dsimp only
  split
  · exact (hgroup ..).trans (foldl_keep p _ (fun s c => hcore s c _) _ _)
  · exact (hcohort ..).trans (foldl_keep p _ (fun s c => hcore s c _) _ _)

theorem nestedFreeze_of_new {r : State} {sl : BitVec 8} {l : Nat} (hw : tfind r.warps k = some w) (hnone : nestedOf r w l = none)
    (hfreezer : isFreezer w l = true) (hroom : ∀ c ∈ nestedCores r w l, (tget r.cores c default).images.length < 8) :
    nestedFreeze r k sl l = passing (fun _ k _ =>
      modWarp (nestedMade r w l (imageFrom r w (gangPc w sl) l 0 w.image)) k fun w =>
        { w with image := some r.fresh, priv := 0, regs := [] }) r k sl := by
  have hfree : ((nestedCores r w l).any fun c => decide (8 ≤ (tget r.cores c default).images.length)) = false := by
    simpa only [List.any_eq_false, decide_eq_true_eq, not_le] using hroom
  unfold nestedFreeze
  dsimp only
  rw [warpAt_of_tfind hw, hnone]
  dsimp only
  rw [if_pos hfreezer, hfree, if_neg (by decide), passing, passing]
  rfl

/-- R158: the freezer of a unit without a nested template of the level makes it and reads on from it. -/
theorem freeze_nested (l : BitVec 3) : Does (.freeze l) { drains := true } (fun r _ sl w => quiet w sl ∧ freezeState w sl = true ∧
      countersZero w = true ∧ w.self = false ∧ l.toNat ≤ 3 ∧ (∃ im, imageOf r w = some im ∧ l.toNat < im.level) ∧
      nestedOf r w l.toNat = none ∧ isFreezer w l.toNat = true ∧
      ∀ c ∈ nestedCores r w l.toNat, (tget r.cores c default).images.length < 8)
    fun _ k sl w t => stepsOn k sl w t ∧ (warpAt t k).priv = 0 ∧ ∃ id im, (warpAt t k).image = some id ∧
      tfind t.images id = some im ∧ im.parent = w.image ∧ im.map = w.priv ∧ im.regs = w.regs ∧ im.level = l.toNat := by
  refine does_of_passing (fun _ => rfl) fun r k sl w hw hok => ?_
  obtain ⟨hquiet, hstate, hcounters, hself, hlevel, ⟨inner, himage, hinner⟩, hnone, hfreezer, hroom⟩ := hok
  have hsettled : modWarp r k (fun w => flushWarpQueue w sl) = r :=
    hw.settled (ne_zero_of_freezeState hstate) _ (flushWarpQueue_of_quiet hquiet)
  obtain ⟨parent, hparent, -⟩ := Option.bind_eq_some_iff.1 himage
  set im := imageFrom r w (gangPc w sl) l.toNat 0 w.image
  have hwarps : (nestedMade r w l.toNat im).warps = r.warps :=
    nestedMade_keeps State.warps (fun _ _ _ => rfl) (fun _ _ _ => rfl) (fun _ _ _ => rfl) ..
  have himages : (nestedMade r w l.toNat im).images = tput r.images r.fresh im :=
    nestedMade_keeps State.images (fun _ _ _ => rfl) (fun _ _ _ => rfl) (fun _ _ _ => rfl) ..
  refine ⟨_, Eq.trans ?_ (nestedFreeze_of_new hw.warp hnone hfreezer hroom), _, tfind_modWarp _ (hwarps ▸ hw.warp), hw.slices,
    fun t ht => ⟨ht.steps, ht.part Warp.priv, r.fresh, im, ht.part Warp.image, ?_, rfl, ?_, rfl, rfl⟩⟩
  · dsimp only
    rw [hsettled, warpAt_of_tfind hw.warp, hstate, hcounters, hself, himage, if_neg (by decide), if_neg (by decide),
      if_neg (by decide)]
    exact if_pos ⟨hlevel, hinner⟩
  · rw [ht.rest]
    exact (congrArg (tfind · r.fresh) himages).trans (tfind_tput_same ..)
  · show (if w.image.isNone then BitVec.allOnes 1024 else w.priv) = w.priv
    rw [hparent]
    rfl

end

/-- Settles O16: the end of a root template warp leaves its image, which has no parent and a new number; a nested freeze
reaches images, cores and units alone before it passes on. -/
theorem templatesFreeze : Obligations.TemplatesFreeze := ⟨freeze_root, freeze_nested⟩

end Sys2Proof.Claims
end
